-- ==== Sys2Proof/Word.lean ====
section
/-!
DEFINITION. The word types and their plainest readings: U and S of spec 10 (R235), sign extension, bytes.
-/
namespace Sys2Proof

/-- A scalar register, an address, a dword. -/
abbrev Dword := BitVec 64

/-- One byte of memory. -/
abbrev Byte := BitVec 8

/-- Two's complement reading of the low n bits of a number. -/
def signed (n x : Nat) : Int := if x % 2 ^ n < 2 ^ (n - 1) then (x % 2 ^ n : Nat) else (x % 2 ^ n : Nat) - (2 ^ n : Nat)

/-- An integer reduced modulo 2^n. -/
def wrapInt (n : Nat) (x : Int) : Nat := (x % (2 ^ n : Nat)).toNat

/-- A dword holding an integer modulo 2^64. -/
def dwordOfInt (x : Int) : Dword := BitVec.ofNat 64 (wrapInt 64 x)

/-- A dword holding a number modulo 2^64. -/
def dw (x : Nat) : Dword := BitVec.ofNat 64 x

end Sys2Proof
end

