-- ==== Sys2Proof/Machine/Sha256.lean ====
section
/-!
DEFINITION. SHA-256 (FIPS 180-4), which the task key of spec 06 R180 names, over whole numbers: the hash state is one
number of 256 bits and the schedule's window one of 512 bits, the first word the most significant. Bytes are numbers
below 256.
-/
namespace Sys2Proof.Machine

/-- Word i of a packed number, counted from the least significant. -/
def shaW (x i : Nat) : Nat := x / 2 ^ (32 * i) % 2 ^ 32

/-- The constants of the rounds, eight words a row: row r, word 7 - c is constant 8r + c. -/
def shaRows : List Nat := [
  0x428a2f9871374491b5c0fbcfe9b5dba53956c25b59f111f1923f82a4ab1c5ed5,
  0xd807aa9812835b01243185be550c7dc372be5d7480deb1fe9bdc06a7c19bf174,
  0xe49b69c1efbe47860fc19dc6240ca1cc2de92c6f4a7484aa5cb0a9dc76f988da,
  0x983e5152a831c66db00327c8bf597fc7c6e00bf3d5a7914706ca635114292967,
  0x27b70a852e1b21384d2c6dfc53380d13650a7354766a0abb81c2c92e92722c85,
  0xa2bfe8a1a81a664bc24b8b70c76c51a3d192e819d6990624f40e3585106aa070,
  0x19a4c1161e376c082748774c34b0bcb5391c0cb34ed8aa4a5b9cca4f682e6ff3,
  0x748f82ee78a5636f84c878148cc7020890befffaa4506cebbef9a3f7c67178f2]

/-- The initial hash state. -/
def shaIv : Nat := 0x6a09e667bb67ae853c6ef372a54ff53a510e527f9b05688c1f83d9ab5be0cd19

/-- Exclusive or of the rotations of a word by the amounts listed: the word doubled and cut. -/
def shaSpin (x : Nat) (ns : List Nat) : Nat := ns.foldl (fun v n => v ^^^ shaW (x * (2 ^ 32 + 1) / 2 ^ n) 0) 0

/-- The window moved on by one word of the schedule. -/
def shaSlide (w : Nat) : Nat :=
  let u := shaW w 14
  let v := shaW w 1
  let new := shaW w 15 + (shaSpin u [7, 18] ^^^ u / 2 ^ 3) + shaW w 6 + (shaSpin v [17, 19] ^^^ v / 2 ^ 10)
  (w * 2 ^ 32 + new % 2 ^ 32) % 2 ^ 512

/-- One round on the state x, with the round's constant k and the window's oldest word w: every word moves down one
place, and two are made anew. -/
def shaStep (x k w : Nat) : Nat :=
  let e := shaW x 3
  let a := shaW x 7
  let pick := shaW x 1 ^^^ e &&& (shaW x 2 ^^^ shaW x 1)
  let two := a &&& (shaW x 6 ||| shaW x 5) ||| shaW x 6 &&& shaW x 5
  let t := shaW x 0 + shaSpin e [6, 11, 25] + pick + k + w
  let down := x / 2 ^ 32
  (t + shaSpin a [2, 13, 22] + two) % 2 ^ 32 * 2 ^ 224 + down % 2 ^ 224 / 2 ^ 128 * 2 ^ 128
    + (shaW x 4 + t) % 2 ^ 32 * 2 ^ 96 + down % 2 ^ 96

/-- The eight rounds of one row of constants. -/
def shaRow (p : Nat × Nat) (row : Nat) : Nat × Nat :=
  (List.range 8).foldl (fun (x, w) i => (shaStep x (shaW row (7 - i)) (shaW w 15), shaSlide w)) p

/-- One block of 512 bits: all rounds, then the words of the two states added. -/
def shaBlock (x blk : Nat) : Nat :=
  let y := (shaRows.foldl shaRow (x, blk)).1
  (List.range 8).foldl (fun v i => v + (shaW x i + shaW y i) % 2 ^ 32 * 2 ^ (32 * i)) 0

/-- Bytes as one number, the first the most significant. -/
def bigEnd (l : List Nat) : Nat := l.foldl (fun v b => v * 256 + b) 0

/-- The blocks of a padded message m of n blocks, in order. -/
def shaRun (m : Nat) : Nat → Nat → Nat
  | 0, x => x
  | n + 1, x => shaRun m n (shaBlock x (m / 2 ^ (512 * n) % 2 ^ 512))

/-- The hash as one number. The padding is one bit, zeros to a whole block, the length in bits in 64 bits. -/
def sha256 (bytes : List Nat) : Nat :=
  let n := bytes.length
  let blocks := (n + 72) / 64
  shaRun (bigEnd bytes * 2 ^ (512 * blocks - 8 * n) + 2 ^ (512 * blocks - 8 * n - 1) + 8 * n) blocks shaIv

/-- n bytes of a number, lowest first. -/
def bytesOf : Nat → Nat → List Nat
  | 0, _ => []
  | n + 1, x => x % 256 :: bytesOf n (x / 256)

end Sys2Proof.Machine
end

