-- ==== Sys2Proof/Syntax.lean ====
section
/-!
DEFINITION. The instructions of Zynsal 3.0, one constructor per row of the opcode table.

A control-subset constructor holds the fields of its word (spec 09, R212 to R221); an engine command holds its
command word's fields and its tail. A register field is kept as the number it is: the machine never sees the word.
The rows of the table that have no word (the machine's own events: a command starts, a packet arrives, a page walk
ends, the host writes a register) are constructors too; their arguments say where the event happens.
-/
namespace Sys2Proof

/-- format R (R215): D, A with selector, B with selector. -/
structure FR where
  p : BitVec 3
  d : BitVec 5
  a : BitVec 5
  fa : BitVec 1
  b : BitVec 5
  fb : BitVec 1
  deriving DecidableEq, Repr

/-- format I (R215). -/
structure FI where
  p : BitVec 3
  d : BitVec 5
  a : BitVec 5
  fa : BitVec 1
  imm : BitVec 11
  deriving DecidableEq, Repr

/-- format I as the immediate shift of R240 reads it. -/
structure FSh where
  p : BitVec 3
  d : BitVec 5
  a : BitVec 5
  fa : BitVec 1
  amt : BitVec 6
  deriving DecidableEq, Repr

/-- walker read of a coordinate (R241). -/
structure FK where
  p : BitVec 3
  d : BitVec 5
  k : BitVec 5
  deriving DecidableEq, Repr

/-- walker reads with no operand (R241). -/
structure FD where
  p : BitVec 3
  d : BitVec 5
  deriving DecidableEq, Repr

/-- format C (R215). -/
structure FC where
  p : BitVec 3
  pd : BitVec 3
  cc : BitVec 3
  a : BitVec 5
  fa : BitVec 1
  b : BitVec 5
  fb : BitVec 1
  deriving DecidableEq, Repr

/-- format CI (R215). -/
structure FCI where
  p : BitVec 3
  pd : BitVec 3
  cc : BitVec 3
  a : BitVec 5
  fa : BitVec 1
  imm : BitVec 10
  deriving DecidableEq, Repr

/-- format P (R215). -/
structure FP where
  p : BitVec 3
  pd : BitVec 3
  pa : BitVec 4
  fa : BitVec 1
  pb : BitVec 4
  fb : BitVec 1
  deriving DecidableEq, Repr

/-- format P with one source (R243). -/
structure FP1 where
  p : BitVec 3
  pd : BitVec 3
  pa : BitVec 4
  fa : BitVec 1
  deriving DecidableEq, Repr

/-- format R with D and A only. -/
structure FU where
  p : BitVec 3
  d : BitVec 5
  a : BitVec 5
  fa : BitVec 1
  deriving DecidableEq, Repr

/-- format R with A only. -/
structure FJ where
  p : BitVec 3
  a : BitVec 5
  fa : BitVec 1
  deriving DecidableEq, Repr

/-- predicate only. -/
structure FN0 where
  p : BitVec 3
  deriving DecidableEq, Repr

/-- format B (R215). -/
structure FB where
  p : BitVec 3
  off : BitVec 22
  deriving DecidableEq, Repr

/-- the `loop` word (R249). -/
structure FLoop where
  p : BitVec 3
  a : BitVec 5
  fa : BitVec 1
  len : BitVec 14
  deriving DecidableEq, Repr

/-- the `rep` word (R226). -/
structure FRep where
  cnt : BitVec 6
  st1 : BitVec 2
  st2 : BitVec 2
  st3 : BitVec 2
  st4 : BitVec 2
  deriving DecidableEq, Repr

/-- the `xim` word (R217). -/
structure FXim where
  x : BitVec 25
  deriving DecidableEq, Repr

/-- the `spt` word (R342). -/
structure FSpt where
  ord : BitVec 16
  map : BitVec 6
  deriving DecidableEq, Repr

/-- gate operand (R269). -/
structure FG where
  p : BitVec 3
  g : BitVec 5
  deriving DecidableEq, Repr

/-- gate operand and destination (R269). -/
structure FGD where
  p : BitVec 3
  d : BitVec 5
  g : BitVec 5
  deriving DecidableEq, Repr

/-- `barm` with an immediate (R270). -/
structure FBarmI where
  p : BitVec 3
  ctr : BitVec 6
  imm : BitVec 14
  deriving DecidableEq, Repr

/-- `barm` with a register (R270). -/
structure FBarm where
  p : BitVec 3
  ctr : BitVec 6
  a : BitVec 5
  fa : BitVec 1
  deriving DecidableEq, Repr

/-- `bwait` (R270). -/
structure FBw where
  p : BitVec 3
  ctr : BitVec 6
  deriving DecidableEq, Repr

/-- `bread` (R270). -/
structure FBr where
  p : BitVec 3
  ctr : BitVec 6
  d : BitVec 5
  deriving DecidableEq, Repr

/-- format R with A and B only. -/
structure FAB where
  p : BitVec 3
  a : BitVec 5
  fa : BitVec 1
  b : BitVec 5
  fb : BitVec 1
  deriving DecidableEq, Repr

/-- `push` (R274). -/
structure FPush where
  p : BitVec 3
  rb : BitVec 5
  fr : BitVec 1
  q : BitVec 4
  deriving DecidableEq, Repr

/-- `pop` (R274). -/
structure FPop where
  p : BitVec 3
  rb : BitVec 5
  q : BitVec 4
  deriving DecidableEq, Repr

/-- `push.try` (R274). -/
structure FPushT where
  p : BitVec 3
  rb : BitVec 5
  fr : BitVec 1
  q : BitVec 4
  pd : BitVec 3
  deriving DecidableEq, Repr

/-- `pop.try` (R274). -/
structure FPopT where
  p : BitVec 3
  rb : BitVec 5
  q : BitVec 4
  pd : BitVec 3
  deriving DecidableEq, Repr

/-- `chain` with a final load (R277). -/
structure FChL where
  p : BitVec 3
  d : BitVec 5
  a : BitVec 5
  fa : BitVec 1
  fin : BitVec 2
  ns : BitVec 2
  os : BitVec 4
  deriving DecidableEq, Repr

/-- `chain` with a final atomic (R277). -/
structure FChA where
  p : BitVec 3
  d : BitVec 5
  a : BitVec 5
  fa : BitVec 1
  ns : BitVec 2
  os : BitVec 4
  deriving DecidableEq, Repr

/-- window wait (R319). -/
structure FWw where
  p : BitVec 3
  a : BitVec 5
  fa : BitVec 1
  win : BitVec 6
  deriving DecidableEq, Repr

/-- window read (R319). -/
structure FWr where
  p : BitVec 3
  d : BitVec 5
  win : BitVec 6
  deriving DecidableEq, Repr

/-- format M (R215). -/
structure FM where
  p : BitVec 3
  t : BitVec 5
  a : BitVec 5
  fa : BitVec 1
  ft : BitVec 1
  sz : BitVec 2
  disp : BitVec 8
  deriving DecidableEq, Repr

/-- format MO (R215). -/
structure FMO where
  p : BitVec 3
  t : BitVec 5
  a : BitVec 5
  fa : BitVec 1
  ft : BitVec 1
  sz : BitVec 2
  spc : BitVec 2
  os : BitVec 4
  deriving DecidableEq, Repr

/-- `fence` (R260). -/
structure FFence where
  p : BitVec 3
  early : BitVec 5
  late : BitVec 5
  scope : BitVec 3
  deriving DecidableEq, Repr

/-- format A (R215). -/
structure FA where
  p : BitVec 3
  d : BitVec 5
  a : BitVec 5
  fa : BitVec 1
  b : BitVec 5
  fb : BitVec 1
  os : BitVec 4
  sz : BitVec 1
  deriving DecidableEq, Repr

/-- format A with D = 0, a reduction (R216). -/
structure FRed where
  p : BitVec 3
  a : BitVec 5
  fa : BitVec 1
  b : BitVec 5
  fb : BitVec 1
  os : BitVec 4
  sz : BitVec 1
  deriving DecidableEq, Repr

/-- `xsum.add` (R264). -/
structure FXa where
  p : BitVec 3
  ty : BitVec 2
  a : BitVec 5
  fa : BitVec 1
  b : BitVec 5
  fb : BitVec 1
  os : BitVec 4
  deriving DecidableEq, Repr

/-- `xsum.merge` (R265). -/
structure FXm where
  p : BitVec 3
  a : BitVec 5
  fa : BitVec 1
  b : BitVec 5
  fb : BitVec 1
  os : BitVec 4
  deriving DecidableEq, Repr

/-- `xsum.read` (R266). -/
structure FXr where
  p : BitVec 3
  d : BitVec 5
  a : BitVec 5
  fa : BitVec 1
  ty : BitVec 2
  rnd : BitVec 3
  os : BitVec 4
  deriving DecidableEq, Repr

/-- `mfsr` (R329). -/
structure FMf where
  p : BitVec 3
  reg : BitVec 5
  xc : BitVec 1
  cx : BitVec 2
  srn : BitVec 8
  deriving DecidableEq, Repr

/-- `mtsr` (R329). -/
structure FMt where
  p : BitVec 3
  reg : BitVec 5
  fr : BitVec 1
  xc : BitVec 1
  cx : BitVec 2
  srn : BitVec 8
  deriving DecidableEq, Repr

/-- `trap` (R337). -/
structure FTrap where
  p : BitVec 3
  code : BitVec 12
  deriving DecidableEq, Repr

/-- `stop` (R338). -/
structure FStop where
  p : BitVec 3
  pd : BitVec 3
  a : BitVec 5
  fa : BitVec 1
  deriving DecidableEq, Repr

/-- format R with B only. -/
structure FB1 where
  p : BitVec 3
  b : BitVec 5
  fb : BitVec 1
  deriving DecidableEq, Repr

/-- `cresume` (R336). -/
structure FCr where
  p : BitVec 3
  cn : BitVec 2
  deriving DecidableEq, Repr

/-- engine format EV (R221) without FN. -/
structure FEV where
  p : BitVec 3
  dx : BitVec 5
  ax : BitVec 5
  bx : BitVec 5
  deriving DecidableEq, Repr

/-- engine format ES (R221) without FN. -/
structure FES where
  p : BitVec 3
  sa : BitVec 5
  fa : BitVec 1
  sb : BitVec 5
  fb : BitVec 1
  sc : BitVec 5
  fc : BitVec 1
  deriving DecidableEq, Repr

/-- engine format ET (R221) without FN. -/
structure FET where
  p : BitVec 3
  v : BitVec 5
  sx : BitVec 5
  fx : BitVec 1
  tr : BitVec 3
  rc : BitVec 1
  ix : BitVec 5
  deriving DecidableEq, Repr

/-- command tail word (R222). -/
structure Tail where
  ae : BitVec 1
  ag : BitVec 5
  re : BitVec 1
  rg : BitVec 5
  stage : BitVec 3
  ce : BitVec 1
  ctr : BitVec 6
  esp : BitVec 10
  deriving DecidableEq, Repr

/-- Every instruction and every event of the opcode table. -/
inductive Instr where
  /-- ADD (R237) -/
  | add (f : FR)
  /-- SUB (R237) -/
  | sub (f : FR)
  /-- MUL (R237) -/
  | mul (f : FR)
  /-- MULH (R237) -/
  | mulh (f : FR)
  /-- MULHU (R237) -/
  | mulhu (f : FR)
  /-- DIV (R238) -/
  | div (f : FR)
  /-- DIVU (R238) -/
  | divu (f : FR)
  /-- REM (R238) -/
  | rem (f : FR)
  /-- REMU (R238) -/
  | remu (f : FR)
  /-- AND (R237) -/
  | and (f : FR)
  /-- OR (R237) -/
  | or (f : FR)
  /-- XOR (R237) -/
  | xor (f : FR)
  /-- ANDN (R237) -/
  | andn (f : FR)
  /-- SHL (R237) -/
  | shl (f : FR)
  /-- SHR (R237) -/
  | shr (f : FR)
  /-- SRA (R237) -/
  | sra (f : FR)
  /-- ROTR (R237) -/
  | rotr (f : FR)
  /-- MIN (R237) -/
  | min (f : FR)
  /-- MAX (R237) -/
  | max (f : FR)
  /-- MINU (R237) -/
  | minu (f : FR)
  /-- MAXU (R237) -/
  | maxu (f : FR)
  /-- ADDS (R237) -/
  | adds (f : FR)
  /-- SUBS (R237) -/
  | subs (f : FR)
  /-- ADDSU (R237) -/
  | addsu (f : FR)
  /-- SUBSU (R237) -/
  | subsu (f : FR)
  /-- ADD_IMM (R239) -/
  | addImm (f : FI)
  /-- MUL_IMM (R239) -/
  | mulImm (f : FI)
  /-- AND_IMM (R239) -/
  | andImm (f : FI)
  /-- OR_IMM (R239) -/
  | orImm (f : FI)
  /-- XOR_IMM (R239) -/
  | xorImm (f : FI)
  /-- SHL_IMM (R240) -/
  | shlImm (f : FSh)
  /-- SHR_IMM (R240) -/
  | shrImm (f : FSh)
  /-- SRA_IMM (R240) -/
  | sraImm (f : FSh)
  /-- ROTR_IMM (R240) -/
  | rotrImm (f : FSh)
  /-- MOV_K (R241) -/
  | movK (f : FK)
  /-- WPOS (R241) -/
  | wpos (f : FD)
  /-- WNUM (R241) -/
  | wnum (f : FD)
  /-- CMP (R242) -/
  | cmp (f : FC)
  /-- CMP_IMM (R242) -/
  | cmpImm (f : FCI)
  /-- PAND (R243) -/
  | pand (f : FP)
  /-- POR (R243) -/
  | por (f : FP)
  /-- PXOR (R243) -/
  | pxor (f : FP)
  /-- PANDN (R243) -/
  | pandn (f : FP)
  /-- PNOR (R243) -/
  | pnor (f : FP)
  /-- PNAND (R243) -/
  | pnand (f : FP)
  /-- PMOV (R243) -/
  | pmov (f : FP1)
  /-- PNOT (R243) -/
  | pnot (f : FP1)
  /-- EXTRACT (R245) -/
  | extract (f : FI)
  /-- INSERT (R245) -/
  | insert (f : FI)
  /-- POPC (R246) -/
  | popc (f : FU)
  /-- CLZ (R246) -/
  | clz (f : FU)
  /-- CTZ (R246) -/
  | ctz (f : FU)
  /-- BREV (R246) -/
  | brev (f : FU)
  /-- BSWAP (R246) -/
  | bswap (f : FU)
  /-- BR (R247) -/
  | br (f : FB)
  /-- CALL (R247) -/
  | call (f : FB)
  /-- JMP (R248) -/
  | jmp (f : FJ)
  /-- CALLR (R248) -/
  | callr (f : FJ)
  /-- LOOP (R251) -/
  | loop (f : FLoop)
  /-- LEND (R253) -/
  | lend (f : FN0)
  /-- ITER (R254) -/
  | iter (f : FB)
  /-- REP (R227) -/
  | rep (f : FRep)
  /-- XIM (R217) -/
  | xim (f : FXim)
  /-- SPT (R342) -/
  | spt (f : FSpt)
  /-- GWAIT (R98) -/
  | gwait (f : FG)
  /-- GRAISE (R99) -/
  | graise (f : FG)
  /-- GREAD (R269) -/
  | gread (f : FGD)
  /-- BARM_IMM (R270) -/
  | barmImm (f : FBarmI)
  /-- BARM (R270) -/
  | barm (f : FBarm)
  /-- BWAIT (R270) -/
  | bwait (f : FBw)
  /-- BREAD (R270) -/
  | bread (f : FBr)
  /-- JOIN (R178) -/
  | join (f : FJ)
  /-- LEAVE (R178) -/
  | leave (f : FJ)
  /-- ARRIVE (R177) -/
  | arrive (f : FU)
  /-- WAIT (R177) -/
  | wait (f : FAB)
  /-- PUSH (R275) -/
  | push (f : FPush)
  /-- POP (R275) -/
  | pop (f : FPop)
  /-- PUSH_TRY (R275) -/
  | pushTry (f : FPushT)
  /-- POP_TRY (R275) -/
  | popTry (f : FPopT)
  /-- LAUNCH (R279) -/
  | launch (f : FU)
  /-- CHAIN_LD (R278) -/
  | chainLd (f : FChL)
  /-- CHAIN_ADD (R278) -/
  | chainAdd (f : FChA)
  /-- CHAIN_SWAP (R278) -/
  | chainSwap (f : FChA)
  /-- WWAIT_SEEN (R319) -/
  | wwaitSeen (f : FWw)
  /-- WWAIT_LAND (R319) -/
  | wwaitLand (f : FWw)
  /-- WREAD_SENT (R319) -/
  | wreadSent (f : FWr)
  /-- WREAD_SEEN (R319) -/
  | wreadSeen (f : FWr)
  /-- WREAD_LAND (R319) -/
  | wreadLand (f : FWr)
  /-- LD_GLB (R258) -/
  | ldGlb (f : FM)
  /-- LD_SP (R258) -/
  | ldSp (f : FM)
  /-- LD_SH (R258) -/
  | ldSh (f : FM)
  /-- LD_CHIP (R258) -/
  | ldChip (f : FM)
  /-- ST_GLB (R258) -/
  | stGlb (f : FM)
  /-- ST_SP (R258) -/
  | stSp (f : FM)
  /-- ST_SH (R258) -/
  | stSh (f : FM)
  /-- ST_CHIP (R258) -/
  | stChip (f : FM)
  /-- LD_ACQ (R259) -/
  | ldAcq (f : FMO)
  /-- ST_REL (R259) -/
  | stRel (f : FMO)
  /-- FENCE (R89) -/
  | fence (f : FFence)
  /-- MARK (R88) -/
  | mark (f : FN0)
  /-- AMO_ADD (R261) -/
  | amoAdd (f : FA)
  /-- AMO_AND (R261) -/
  | amoAnd (f : FA)
  /-- AMO_OR (R261) -/
  | amoOr (f : FA)
  /-- AMO_XOR (R261) -/
  | amoXor (f : FA)
  /-- AMO_MIN (R261) -/
  | amoMin (f : FA)
  /-- AMO_MAX (R261) -/
  | amoMax (f : FA)
  /-- AMO_MINU (R261) -/
  | amoMinu (f : FA)
  /-- AMO_MAXU (R261) -/
  | amoMaxu (f : FA)
  /-- AMO_SWAP (R261) -/
  | amoSwap (f : FA)
  /-- AMO_CAS (R262) -/
  | amoCas (f : FA)
  /-- RED_ADD (R263) -/
  | redAdd (f : FRed)
  /-- RED_AND (R263) -/
  | redAnd (f : FRed)
  /-- RED_OR (R263) -/
  | redOr (f : FRed)
  /-- RED_XOR (R263) -/
  | redXor (f : FRed)
  /-- RED_MIN (R263) -/
  | redMin (f : FRed)
  /-- RED_MAX (R263) -/
  | redMax (f : FRed)
  /-- RED_MINU (R263) -/
  | redMinu (f : FRed)
  /-- RED_MAXU (R263) -/
  | redMaxu (f : FRed)
  /-- FLD (R267) -/
  | fld (f : FU)
  /-- FLD_TAKE (R267) -/
  | fldTake (f : FU)
  /-- FFILL (R268) -/
  | ffill (f : FAB)
  /-- XSUM_ADD (R264) -/
  | xsumAdd (f : FXa)
  /-- XSUM_MERGE (R265) -/
  | xsumMerge (f : FXm)
  /-- XSUM_READ (R266) -/
  | xsumRead (f : FXr)
  /-- XSUM_READ_CLR (R266) -/
  | xsumReadClr (f : FXr)
  /-- MFSR (R330) -/
  | mfsr (f : FMf)
  /-- MTSR (R330) -/
  | mtsr (f : FMt)
  /-- SETOVF (R337) -/
  | setovf (f : FJ)
  /-- TRAP (R337) -/
  | trap (f : FTrap)
  /-- TRET (R335) -/
  | tret (f : FN0)
  /-- STOP (R338) -/
  | stop (f : FStop)
  /-- TINVAL_PG (R339) -/
  | tinvalPg (f : FAB)
  /-- TINVAL_SP (R339) -/
  | tinvalSp (f : FB1)
  /-- TINVAL_ALL (R339) -/
  | tinvalAll (f : FN0)
  /-- RFINV (R340) -/
  | rfinv (f : FAB)
  /-- RFCLR (R340) -/
  | rfclr (f : FN0)
  /-- CPRE (R345) -/
  | cpre (f : FU)
  /-- CRES (R349) -/
  | cres (f : FJ)
  /-- CRESUME (R336) -/
  | cresume (f : FCr)
  /-- VLD (R285) -/
  | vld (f : FES) (t : Tail)
  /-- VST (R285) -/
  | vst (f : FES) (t : Tail)
  /-- VLD_STR (R285) -/
  | vldStr (f : FES) (t : Tail)
  /-- VST_STR (R285) -/
  | vstStr (f : FES) (t : Tail)
  /-- VLDL (R286) -/
  | vldl (f : FES) (t : Tail)
  /-- VSTL (R286) -/
  | vstl (f : FES) (t : Tail)
  /-- VLDL_X (R286) -/
  | vldlX (f : FES) (t : Tail)
  /-- VSTL_X (R286) -/
  | vstlX (f : FES) (t : Tail)
  /-- VGATHER (R287) -/
  | vgather (f : FES) (t : Tail)
  /-- VSCATTER (R287) -/
  | vscatter (f : FES) (t : Tail)
  /-- VAMO_ADD (R288) -/
  | vamoAdd (ret : BitVec 1) (f : FES) (t : Tail)
  /-- VAMO_MIN (R288) -/
  | vamoMin (ret : BitVec 1) (f : FES) (t : Tail)
  /-- VAMO_MAX (R288) -/
  | vamoMax (ret : BitVec 1) (f : FES) (t : Tail)
  /-- VAMO_AND (R288) -/
  | vamoAnd (ret : BitVec 1) (f : FES) (t : Tail)
  /-- VAMO_OR (R288) -/
  | vamoOr (ret : BitVec 1) (f : FES) (t : Tail)
  /-- VAMO_XOR (R288) -/
  | vamoXor (ret : BitVec 1) (f : FES) (t : Tail)
  /-- VAMO_SWAP (R288) -/
  | vamoSwap (ret : BitVec 1) (f : FES) (t : Tail)
  /-- VAMO_XSUM (R288) -/
  | vamoXsum (ret : BitVec 1) (f : FES) (t : Tail)
  /-- VADD (R289) -/
  | vadd (f : FEV) (t : Tail)
  /-- VSUB (R289) -/
  | vsub (f : FEV) (t : Tail)
  /-- VADDS (R289) -/
  | vadds (f : FEV) (t : Tail)
  /-- VSUBS (R289) -/
  | vsubs (f : FEV) (t : Tail)
  /-- VMUL (R289) -/
  | vmul (f : FEV) (t : Tail)
  /-- VMULH (R289) -/
  | vmulh (f : FEV) (t : Tail)
  /-- VMIN (R289) -/
  | vmin (f : FEV) (t : Tail)
  /-- VMAX (R289) -/
  | vmax (f : FEV) (t : Tail)
  /-- VAND (R289) -/
  | vand (f : FEV) (t : Tail)
  /-- VOR (R289) -/
  | vor (f : FEV) (t : Tail)
  /-- VXOR (R289) -/
  | vxor (f : FEV) (t : Tail)
  /-- VANDN (R289) -/
  | vandn (f : FEV) (t : Tail)
  /-- VABS (R289) -/
  | vabs (f : FEV) (t : Tail)
  /-- VNEG (R289) -/
  | vneg (f : FEV) (t : Tail)
  /-- VAVG (R289) -/
  | vavg (f : FEV) (t : Tail)
  /-- VABSD (R289) -/
  | vabsd (f : FEV) (t : Tail)
  /-- VADD_S (R289) -/
  | vaddS (f : FES) (t : Tail)
  /-- VSUB_S (R289) -/
  | vsubS (f : FES) (t : Tail)
  /-- VADDS_S (R289) -/
  | vaddsS (f : FES) (t : Tail)
  /-- VSUBS_S (R289) -/
  | vsubsS (f : FES) (t : Tail)
  /-- VMUL_S (R289) -/
  | vmulS (f : FES) (t : Tail)
  /-- VMULH_S (R289) -/
  | vmulhS (f : FES) (t : Tail)
  /-- VMIN_S (R289) -/
  | vminS (f : FES) (t : Tail)
  /-- VMAX_S (R289) -/
  | vmaxS (f : FES) (t : Tail)
  /-- VAND_S (R289) -/
  | vandS (f : FES) (t : Tail)
  /-- VOR_S (R289) -/
  | vorS (f : FES) (t : Tail)
  /-- VXOR_S (R289) -/
  | vxorS (f : FES) (t : Tail)
  /-- VANDN_S (R289) -/
  | vandnS (f : FES) (t : Tail)
  /-- VAVG_S (R289) -/
  | vavgS (f : FES) (t : Tail)
  /-- VABSD_S (R289) -/
  | vabsdS (f : FES) (t : Tail)
  /-- VFADD (R290) -/
  | vfadd (f : FEV) (t : Tail)
  /-- VFSUB (R290) -/
  | vfsub (f : FEV) (t : Tail)
  /-- VFMUL (R290) -/
  | vfmul (f : FEV) (t : Tail)
  /-- VFDIV (R290) -/
  | vfdiv (f : FEV) (t : Tail)
  /-- VFMIN (R290) -/
  | vfmin (f : FEV) (t : Tail)
  /-- VFMAX (R290) -/
  | vfmax (f : FEV) (t : Tail)
  /-- VFABS (R290) -/
  | vfabs (f : FEV) (t : Tail)
  /-- VFNEG (R290) -/
  | vfneg (f : FEV) (t : Tail)
  /-- VFADD_S (R290) -/
  | vfaddS (f : FES) (t : Tail)
  /-- VFSUB_S (R290) -/
  | vfsubS (f : FES) (t : Tail)
  /-- VFMUL_S (R290) -/
  | vfmulS (f : FES) (t : Tail)
  /-- VFDIV_S (R290) -/
  | vfdivS (f : FES) (t : Tail)
  /-- VFMIN_S (R290) -/
  | vfminS (f : FES) (t : Tail)
  /-- VFMAX_S (R290) -/
  | vfmaxS (f : FES) (t : Tail)
  /-- VFMA (R291) -/
  | vfma (f : FEV) (t : Tail)
  /-- VFMS (R291) -/
  | vfms (f : FEV) (t : Tail)
  /-- VFNMA (R291) -/
  | vfnma (f : FEV) (t : Tail)
  /-- VFNMS (R291) -/
  | vfnms (f : FEV) (t : Tail)
  /-- VMAC (R291) -/
  | vmac (f : FEV) (t : Tail)
  /-- VMACS (R291) -/
  | vmacs (f : FEV) (t : Tail)
  /-- VCMP_EQ (R292) -/
  | vcmpEq (f : FEV) (t : Tail)
  /-- VCMP_NE (R292) -/
  | vcmpNe (f : FEV) (t : Tail)
  /-- VCMP_LT (R292) -/
  | vcmpLt (f : FEV) (t : Tail)
  /-- VCMP_LE (R292) -/
  | vcmpLe (f : FEV) (t : Tail)
  /-- VCMP_GT (R292) -/
  | vcmpGt (f : FEV) (t : Tail)
  /-- VCMP_GE (R292) -/
  | vcmpGe (f : FEV) (t : Tail)
  /-- VCMP_UN (R292) -/
  | vcmpUn (f : FEV) (t : Tail)
  /-- VSEL (R292) -/
  | vsel (f : FEV) (t : Tail)
  /-- VSHL (R293) -/
  | vshl (f : FEV) (t : Tail)
  /-- VSHR (R293) -/
  | vshr (f : FEV) (t : Tail)
  /-- VSRA (R293) -/
  | vsra (f : FEV) (t : Tail)
  /-- VROTR (R293) -/
  | vrotr (f : FEV) (t : Tail)
  /-- VSHL_IMM (R293) -/
  | vshlImm (f : FEV) (t : Tail)
  /-- VSHR_IMM (R293) -/
  | vshrImm (f : FEV) (t : Tail)
  /-- VSRA_IMM (R293) -/
  | vsraImm (f : FEV) (t : Tail)
  /-- VROTR_IMM (R293) -/
  | vrotrImm (f : FEV) (t : Tail)
  /-- VCVT (R295) -/
  | vcvt (f : FEV) (t : Tail)
  /-- VCVT_WRAP (R295) -/
  | vcvtWrap (f : FEV) (t : Tail)
  /-- VWIDEN (R296) -/
  | vwiden (f : FEV) (t : Tail)
  /-- VNARROW (R296) -/
  | vnarrow (f : FEV) (t : Tail)
  /-- VNARROW_WRAP (R296) -/
  | vnarrowWrap (f : FEV) (t : Tail)
  /-- VRSUM (R297) -/
  | vrsum (f : FEV) (t : Tail)
  /-- VRMIN (R297) -/
  | vrmin (f : FEV) (t : Tail)
  /-- VRMAX (R297) -/
  | vrmax (f : FEV) (t : Tail)
  /-- VRAND (R297) -/
  | vrand (f : FEV) (t : Tail)
  /-- VROR (R297) -/
  | vror (f : FEV) (t : Tail)
  /-- VRXOR (R297) -/
  | vrxor (f : FEV) (t : Tail)
  /-- VSCAN_SUM (R298) -/
  | vscanSum (f : FEV) (t : Tail)
  /-- VSCAN_MIN (R298) -/
  | vscanMin (f : FEV) (t : Tail)
  /-- VSCAN_MAX (R298) -/
  | vscanMax (f : FEV) (t : Tail)
  /-- VPERM (R299) -/
  | vperm (f : FEV) (t : Tail)
  /-- VZIP_LO (R299) -/
  | vzipLo (f : FEV) (t : Tail)
  /-- VZIP_HI (R299) -/
  | vzipHi (f : FEV) (t : Tail)
  /-- VUNZIP_EV (R299) -/
  | vunzipEv (f : FEV) (t : Tail)
  /-- VUNZIP_OD (R299) -/
  | vunzipOd (f : FEV) (t : Tail)
  /-- VREV (R299) -/
  | vrev (f : FEV) (t : Tail)
  /-- VBCAST (R299) -/
  | vbcast (f : FEV) (t : Tail)
  /-- VTRD (R300) -/
  | vtrd (f : FET) (t : Tail)
  /-- VTWR (R300) -/
  | vtwr (f : FET) (t : Tail)
  /-- VTACC (R300) -/
  | vtacc (f : FET) (t : Tail)
  /-- VEXP2 (R301) -/
  | vexp2 (f : FEV) (t : Tail)
  /-- VLOG2 (R301) -/
  | vlog2 (f : FEV) (t : Tail)
  /-- VRCP (R301) -/
  | vrcp (f : FEV) (t : Tail)
  /-- VRSQRT (R301) -/
  | vrsqrt (f : FEV) (t : Tail)
  /-- VSQRT (R301) -/
  | vsqrt (f : FEV) (t : Tail)
  /-- VSINPI (R301) -/
  | vsinpi (f : FEV) (t : Tail)
  /-- VCOSPI (R301) -/
  | vcospi (f : FEV) (t : Tail)
  /-- VTANH (R301) -/
  | vtanh (f : FEV) (t : Tail)
  /-- VSIGM (R301) -/
  | vsigm (f : FEV) (t : Tail)
  /-- VEXP (R301) -/
  | vexp (f : FEV) (t : Tail)
  /-- VLOG (R301) -/
  | vlog (f : FEV) (t : Tail)
  /-- MMA (R307) -/
  | mma (fmtb : BitVec 4) (f : FES) (t : Tail)
  /-- MMAS (R307) -/
  | mmas (fmtb : BitVec 4) (f : FES) (t : Tail)
  /-- TLD (R310) -/
  | tld (f : FES) (t : Tail)
  /-- TST (R310) -/
  | tst (f : FES) (t : Tail)
  /-- TZERO (R310) -/
  | tzero (f : FES) (t : Tail)
  /-- SPUB (R311) -/
  | spub (f : FES) (t : Tail)
  /-- SSUB (R311) -/
  | ssub (f : FES) (t : Tail)
  /-- SUNSUB (R311) -/
  | sunsub (f : FES) (t : Tail)
  /-- COPY (R314) -/
  | copy (f : FES) (t : Tail)
  /-- COPY_ST (R314) -/
  | copySt (f : FES) (t : Tail)
  /-- MCAST (R315) -/
  | mcast (f : FES) (t : Tail)
  /-- FILL (R316) -/
  | fill (f : FES) (t : Tail)
  /-- CVCOPY (R317) -/
  | cvcopy (f : FES) (t : Tail)
  /-- WTGT (R318) -/
  | wtgt (f : FES) (t : Tail)
  /-- WINI (R318) -/
  | wini (f : FES) (t : Tail)
  /-- WCLOSE (R318) -/
  | wclose (f : FES) (t : Tail)
  /-- PUT (R320) -/
  | put (f : FES) (t : Tail)
  /-- GET (R320) -/
  | get (f : FES) (t : Tail)
  /-- RAMO_ADD (R321) -/
  | ramoAdd (f : FES) (t : Tail)
  /-- RAMO_AND (R321) -/
  | ramoAnd (f : FES) (t : Tail)
  /-- RAMO_OR (R321) -/
  | ramoOr (f : FES) (t : Tail)
  /-- RAMO_XOR (R321) -/
  | ramoXor (f : FES) (t : Tail)
  /-- RAMO_MIN (R321) -/
  | ramoMin (f : FES) (t : Tail)
  /-- RAMO_MAX (R321) -/
  | ramoMax (f : FES) (t : Tail)
  /-- RAMO_MINU (R321) -/
  | ramoMinu (f : FES) (t : Tail)
  /-- RAMO_MAXU (R321) -/
  | ramoMaxu (f : FES) (t : Tail)
  /-- RAMO_SWAP (R321) -/
  | ramoSwap (f : FES) (t : Tail)
  /-- FCHAIN (R323) -/
  | fchain (f : FES) (t : Tail)
  /-- COLL_SUM (R325) -/
  | collSum (ty : BitVec 2) (f : FES) (t : Tail)
  /-- COLL_MIN (R325) -/
  | collMin (ty : BitVec 2) (f : FES) (t : Tail)
  /-- COLL_MAX (R325) -/
  | collMax (ty : BitVec 2) (f : FES) (t : Tail)
  /-- QUEUE_REFILL (R73), an event -/
  | queueRefill (shed q : Nat)
  /-- QUEUE_WITHDRAWAL (R276), an event -/
  | queueWithdrawal (core ctx : Nat)
  /-- CHAIN_STEP (R131), an event -/
  | chainStep (id : Nat)
  /-- ENGINE_COMMAND_START (R98), an event -/
  | engineCommandStart (core eng : Nat)
  /-- ENGINE_COMMAND_COMPLETE (R99), an event -/
  | engineCommandComplete (core eng : Nat)
  /-- MULTICAST_DEST_COMPLETE (R136), an event -/
  | multicastDestComplete (core dest : Nat)
  /-- RESULT_ARRIVAL (R91), an event -/
  | resultArrival (core ctx seq : Nat)
  /-- PAGE_WALK (R22), an event -/
  | pageWalk (core ctx va kind : Nat)
  /-- HEAT_NOTIFICATION_APPEND (R39), an event -/
  | heatNotificationAppend (die pen : Nat)
  /-- WRITER_RETRY (R42), an event -/
  | writerRetry (core agent : Nat)
  /-- WRITE_BLOCK_TIMEOUT (R43), an event -/
  | writeBlockTimeout (core agent : Nat)
  /-- HOME_SLICE_OPERATION (R59), an event -/
  | homeSliceOperation (core ctx seq : Nat)
  /-- FUTURE_REISSUE (R68), an event -/
  | futureReissue (core ctx seq : Nat)
  /-- FUTURE_WITHDRAWAL (R70), an event -/
  | futureWithdrawal (core ctx seq : Nat)
  /-- PATROL_SCRUB (R80), an event -/
  | patrolScrub (line : Nat)
  /-- STEP_RETIRE (R171), an event -/
  | stepRetire (core : Nat)
  /-- STOP_ARRIVAL (R152), an event -/
  | stopArrival (core : Nat)
  /-- CUT_DECISION (R152), an event -/
  | cutDecision (pen : Nat)
  /-- CUT_HALT (R153), an event -/
  | cutHalt (core : Nat)
  /-- CUTREQ_WRITE (R398), an event -/
  | cutreqWrite (pen value : Nat)
  /-- TRAP_ENTRY (R333), an event -/
  | trapEntry (core ctx : Nat)
  /-- GENPROF_WRITE (R330), an event -/
  | genprofWrite (core ctx value : Nat)
  /-- REWIND_WRITE (R148), an event -/
  | rewindWrite (core value : Nat)
  /-- RING_REGISTER_WRITE (R163), an event -/
  | ringRegisterWrite (core eng value : Nat)
  /-- HQCTL_WRITE (R72), an event -/
  | hqctlWrite (shed q value : Nat)
  /-- HEATCLR_WRITE (R39), an event -/
  | heatclrWrite (die pen value : Nat)
  /-- LAUNCH_ACCEPT (R355), an event -/
  | launchAccept (pen : Nat)
  /-- STEP_SELECT (R358), an event -/
  | stepSelect (pen : Nat)
  /-- CORE_BIND (R359), an event -/
  | coreBind (core : Nat)
  /-- INSTANCE_COMPLETE (R357), an event -/
  | instanceComplete (pen opinst : Nat)
  /-- PRIORITY_AGEING (R362), an event -/
  | priorityAgeing (pen opinst : Nat)
  /-- PRIOSET_WRITE (R361), an event -/
  | priosetWrite (pen value : Nat)
  /-- PRIORITY_PREEMPT (R365), an event -/
  | priorityPreempt (core : Nat)
  /-- PREEMPT_LANDING (R344), an event -/
  | preemptLanding (core ctx : Nat)
  /-- DISTRIBUTOR_RESTORE (R365), an event -/
  | distributorRestore (core area : Nat)
  /-- PENCTL_ENABLE (R369), an event -/
  | penctlEnable (pen value : Nat)
  /-- PENCTL_RESUME (R363), an event -/
  | penctlResume (pen value : Nat)
  /-- PENCTL_ABANDON (R363), an event -/
  | penctlAbandon (pen value : Nat)
  /-- LQCTL_WRITE (R353), an event -/
  | lqctlWrite (pen q value : Nat)
  /-- C3START_WRITE (R366), an event -/
  | c3startWrite (core value : Nat)
  /-- BCNCTL_WRITE (R383), an event -/
  | bcnctlWrite (value : Nat)
  /-- BEACON (R384), an event -/
  | beacon
  /-- TRACE_DRAIN (R390), an event -/
  | traceDrain (die : Nat)
  /-- SHED_POWER_GATE (R391), an event -/
  | shedPowerGate (shed : Nat)
  /-- TRACE_DRAIN_TIMEOUT (R391), an event -/
  | traceDrainTimeout (shed : Nat)
  /-- LOST_RECORD_WRITE (R391), an event -/
  | lostRecordWrite (die : Nat)
  /-- BRKCTL_GO (R393), an event -/
  | brkctlGo (pen value : Nat)
  /-- BRKCTL_ENABLE (R393), an event -/
  | brkctlEnable (pen value : Nat)
  /-- REG_WRITE_LOW_HALF (R396), an event -/
  | regWriteLowHalf (master addr value : Nat)
  /-- REG_WRITE_HIGH_HALF (R396), an event -/
  | regWriteHighHalf (master addr value : Nat)
  /-- REGISTER_WRITE (R396), an event -/
  | registerWrite (master addr value : Nat)
  /-- HOST_WRITE (R399), an event -/
  | hostWrite (addr len value : Nat)
  /-- HOST_READ (R399), an event -/
  | hostRead (addr len : Nat)
  /-- HOST_PROCESSOR_WRITE (R400), an event -/
  | hostProcessorWrite (addr len value : Nat)
  /-- PUT_ARRIVAL (R122), an event -/
  | putArrival (pkt : Nat)
  /-- PUT_ACK_ARRIVAL (R122), an event -/
  | putAckArrival (pkt : Nat)
  /-- GET_REQUEST_ARRIVAL (R123), an event -/
  | getRequestArrival (pkt : Nat)
  /-- GET_REPLY_ARRIVAL (R124), an event -/
  | getReplyArrival (pkt : Nat)
  /-- REMOTE_ATOMIC_ARRIVAL (R321), an event -/
  | remoteAtomicArrival (pkt : Nat)
  /-- FABRIC_REFUSAL (R322), an event -/
  | fabricRefusal (pkt : Nat)
  /-- SPANNING_GROUP_MESSAGE (R367), an event -/
  | spanningGroupMessage (pkt : Nat)
  /-- FLIT_CRC_RETRY (R402), an event -/
  | flitCrcRetry (link : Nat)
  /-- LINK_OUT_OF_SERVICE (R404), an event -/
  | linkOutOfService (link : Nat)
  /-- LINK_RETRAIN (R404), an event -/
  | linkRetrain (link : Nat)
  /-- PEN_CONFIGURE (R351), an event -/
  | penConfigure (pen : Nat)
  /-- ACCESS_TABLE_WRITE (R36), an event -/
  | accessTableWrite (target master slot value : Nat)
  /-- FABID_WRITE (R403), an event -/
  | fabidWrite (value : Nat)
  /-- FIRMWARE_VERIFY (R406), an event -/
  | firmwareVerify
  /-- POWER_UP (R407), an event -/
  | powerUp
  /-- OVER_TEMPERATURE (R407), an event -/
  | overTemperature (temp : Nat)
  /-- IMAGE_ADMISSION (R173), an event -/
  | imageAdmission (pen : Nat)
  /-- HOST_LINK_RESET (R333), an event -/
  | hostLinkReset (core : Nat)
  /-- SHED_POWER_RESTORE (R391), an event -/
  | shedPowerRestore (shed : Nat)
  /-- SPANNING_GROUP_COMPLETION (R367), an event -/
  | spanningGroupCompletion (pkt : Nat)
  deriving DecidableEq, Repr

end Sys2Proof
end

