-- ==== Sys2Proof/Machine/State.lean ====
section
/-!
DEFINITION. The state of the machine: every piece the spec gives the package, as plain data. Registers and units that
are numbered are kept in a map from the number, sorted, with a stated value for a number that is not listed (zero, or
the structure's defaults below, which are the reset values). Fields marked "model" are the model's own.
-/
namespace Sys2Proof.Machine

/-- A map from numbers to values: pairs sorted by rising key, no key twice. -/
abbrev SMap (α : Type) := List (Nat × α)

/-- Bytes by address, in the canonical form of Memory.wf: addresses rising, no byte equal to what an unlisted one reads. -/
abbrev Mem := List Host.Cell

/-- Why the machine stops with a fault. -/
inductive Fault where
  /-- Raised by an event of the board controller, the host or the fabric while the package has no power (R407 step 1):
  safe, since nothing in the package acts then. -/
  | noPower
  deriving DecidableEq, Repr

/-- Why a step has no meaning. -/
inductive Refusal where
  /-- Raised only by an arm of exec that has no meaning yet: safe. -/
  | notModelled (mnemonic : String)
  /-- Raised by a host access to the board controller's mailbox, whose exchanges the spec does not give (R396): safe. -/
  | boardMailbox
  deriving DecidableEq, Repr

/-- Coordinates of a step, k0 outermost (R144). -/
structure Coord where
  k0 : BitVec 16 := 0
  k1 : BitVec 16 := 0
  k2 : BitVec 16 := 0
  k3 : BitVec 16 := 0
  k4 : BitVec 16 := 0
  k5 : BitVec 16 := 0
  deriving DecidableEq, Repr

/-- The state of a context (R162). -/
inductive CtxSt where
  | idle | running | blocked | held | stopped
  deriving DecidableEq, Repr

/-- What stopped a context (R162, R333, R336, R153). -/
inductive StopWhy where
  | none | delegated | double | cut
  deriving DecidableEq, Repr

/-- A hardware loop slot (R250). -/
structure HLoop where
  count : Dword := 0
  last : Dword := 0
  start : Dword := 0
  active : Bool := false
  deriving DecidableEq, Repr

/-- Prefixes a context has passed and the repeat it stands at (R217, R226 to R228) (DESIGN CHOICE, assumption 5). -/
structure Pfx where
  /-- model: a prefix or a begun repeat precedes the pc -/
  active : Bool := false
  start : Dword := 0
  xims : List (BitVec 25) := []
  rep : Option FRep := none
  k : Nat := 0
  deriving DecidableEq, Repr

/-- What a pending access of a context does when it is performed. -/
inductive AccOp where
  | load (sgn : Bool)
  | store
  | rmw (op : Nat) (ret : Bool)
  | xadd (ty : Nat)
  | xmerge
  | xread (ty rnd : Nat) (clr : Bool)
  | fld (take : Bool)
  | ffill
  | chain (fin ns : Nat)
  | graise (g : Nat)
  /-- a `leave` of a group that waits for the accesses before it (R178, R179) -/
  | leave (n : Nat)
  | mark
  | fence (early late scope : Nat)
  deriving DecidableEq, Repr

/-- A pending access of a context, in program order (R85 to R93). Segments are physical (address, length) pairs, or
offsets in a local space; phase 0 is issued, 1 sent to its home, 2 deferred there, 3 answered. -/
structure Acc where
  seq : Nat
  op : AccOp
  spc : Nat := 0
  va : Nat := 0
  segs : List (Nat × Nat) := []
  /-- exact-sum merge: the source cell's segments -/
  segs2 : List (Nat × Nat) := []
  len : Nat := 0
  data : Nat := 0
  data2 : Nat := 0
  dst : Option Nat := none
  cls : Nat := 0
  acq : Option Nat := none
  rel : Option Nat := none
  leaf : Nat := 0
  pc : Dword := 0
  inst : Nat := 0
  key : Coord := {}
  /-- the address space it was issued in (R34, R45) -/
  spaceid : BitVec 16 := 0
  phase : Nat := 0
  val : Nat := 0
  /-- atoms that have been performed, by number (R84, R121), and those refused: atom, virtual address of the first refused byte, class -/
  ans : List Nat := []
  bad : List (Nat × Nat × Nat) := []
  /-- future loads: the tick of the next reissue, or the stamp of the deferral; and the wait last given (R68), or, deferred, 1 where a
  fill has passed it over in a stop (R152) -/
  wait : Nat := 0
  retry : Nat := 0
  /-- it was issued in system state (R392) -/
  sys : Bool := false
  deriving DecidableEq, Repr

/-- A trap that arose after issue and waits for its context's next boundary (R332): its class and its record. -/
structure PTrap where
  cls : Nat
  image : Nat
  deriving DecidableEq, Repr

/-- A writer that waits on a WBLK page (R42, R43): the tick it began, the address, what it would do, whether it is parked in
the die's list, what a record of its timeout says: bytes done, bytes to do, the highest address left (R45, R47); the tick of its last
translation, and whether an invalidation has woken it since. -/
structure Park where
  since : Nat
  va : Nat
  kind : Nat
  n : Nat
  parked : Bool
  done : Nat := 0
  hi : Nat := 0
  tried : Nat := 0
  woken : Bool := false
  deriving DecidableEq, Repr

/-- Where a pre-emption landed in a context (R344, R371). -/
structure Landing where
  pc : Dword := 0
  st : CtxSt := .idle
  ord : Nat := 0xFFFF
  map : Nat := 0
  repv : Bool := false
  repk : Nat := 0
  deriving DecidableEq, Repr

/-- One of a core's four contexts. -/
structure Ctx where
  s : SMap Dword := []
  sE : SMap Bool := []
  p : SMap Bool := []
  pE : SMap Bool := []
  q : SMap Bool := []
  k : Coord := {}
  iter : Nat := 0
  /-- N as the walker holds it for the current iteration (R241) -/
  n : Option Nat := none
  pc : Dword := 0
  st : CtxSt := .idle
  why : StopWhy := .none
  preSt : CtxSt := .idle
  sys : Bool := false
  conf : Bool := false
  genprof : Nat := 3
  ovftab : Dword := 0x00015800
  aflags : Dword := 0
  hl0 : HLoop := {}
  hl1 : HLoop := {}
  wb0 : Dword := 0
  wb1 : Dword := 0
  spaceid : BitVec 16 := 0
  tvec : Dword := 0
  tpc : Dword := 0
  tstat : Dword := 0
  tctl : Dword := 0
  tscr : SMap Dword := []
  trec : SMap Dword := []
  v : SMap (BitVec 4096) := []
  pend : List Acc := []
  /-- model: number of the next access -/
  seq : Nat := 0
  traps : List PTrap := []
  pfx : Pfx := {}
  /-- home stage of the bound body (R166) -/
  home : Nat := 0
  /-- the body has run its last iteration (R254, R371) -/
  finished : Bool := false
  /-- it has ended its iteration and waits at its `iter` for the next step (R254) -/
  atIter : Bool := false
  /-- a request made for the instruction it waits at and its answer, and that instruction, which has been fetched (R70, R273 to R279) -/
  req : Option (Nat × Nat) := none
  asked : Option Instr := none
  /-- model: its last trap was raised by its own issue (R332), and the address of the instruction it stood at then (R252) -/
  own : Bool := false
  trapAt : Dword := 0
  wblk : Option Park := none
  landed : Option Landing := none
  deriving DecidableEq, Repr

/-- Where an element of a vector command's access lies once translated: its address, its segments, its leaf's bits (R32). -/
structure Place where
  va : Nat
  segs : List (Nat × Nat)
  leaf : Nat := 0
  deriving DecidableEq, Repr

/-- A command the engine has read: its ring entry as eight dwords, and what has become of it (R47, R165, R308). -/
structure Cmd where
  idx : Nat
  entry : List Nat
  started : Bool := false
  shape : List Nat := []
  done : Nat := 0
  fault : Bool := false
  mg : Nat := 0
  mr : Nat := 0
  /-- fabric: bytes or packets still to be answered; collective: contributed; the generation it joined -/
  out : Nat := 0
  sent : Bool := false
  ok : Bool := false
  gen : Nat := 0
  val : Nat := 0
  /-- multicast: destination cores still to complete -/
  dests : List Nat := []
  flags : Nat := 0
  /-- vector: where its elements lie; units it has performed, and what it read there; a shape record's dwords read (R84, R139) -/
  places : List Place := []
  /-- the address space its places were translated in (R34) -/
  spaceid : BitVec 16 := 0
  units : List Nat := []
  got : List (Nat × Nat) := []
  /-- matrix: the elements of the tile as the command last left them (R106) -/
  acc : List Nat := []
  /-- model: how much of the command its next turn runs; none is all that is left (DESIGN CHOICE, assumption 12) -/
  budget : Option Nat := none
  wblk : Option Park := none
  /-- ended out of ring order: refused, malformed, or a fabric command answered -/
  ended : Bool := false
  deriving DecidableEq, Repr

/-- An append whose command has not started: its index, context, the context's access number then, and the entry, as
appended or, once read, as read (R165). -/
structure App where
  idx : Nat
  ctx : Nat
  seq : Nat
  entry : List Nat
  read : Bool := false
  deriving DecidableEq, Repr

/-- An engine: its ring register (R163) and its commands. -/
structure Eng where
  base : Nat := 0
  logsize : Nat := 0
  head : Nat := 0
  tail : Nat := 0
  apps : List App := []
  cmds : List Cmd := []
  /-- model: tick and context of the last append (R95) -/
  last : Nat × Nat := (0, 0)
  /-- fabric: puts, or parts of them, on their way and not yet counted by WSEEN, each with what it will count (R122, R318) -/
  sent : List Cmd := []
  deriving DecidableEq, Repr

/-- A step a core holds of its bound instance (R147, R150, R168, R171), with the priority it was selected under (R361). -/
structure Step where
  key : Coord
  prio : Nat := 0
  begun : Bool := false
  retired : Bool := false
  committed : Bool := false
  freed : Bool := false
  deriving DecidableEq, Repr

/-- A core's binding of an instance (R359, R409). `base` retired steps precede a_0 after a resume (R374). -/
structure Bind where
  inst : Nat
  steps : List Step := []
  base : Nat := 0
  depth : Nat := 1
  n : Option Nat := none
  noNew : Bool := false
  deriving DecidableEq, Repr

/-- A shadow-store entry (R76): the first dword, the step, the pre-image of the line. -/
structure Shadow where
  where_ : Nat
  inst : Nat
  key : Coord
  pre : Nat
  deriving DecidableEq, Repr

/-- Target window (R318, R122): range, address space, landed bytes; the count stands when the window is closed. -/
structure TWin where
  base : Nat
  len : Nat
  spaceid : BitVec 16
  wb0 : Dword
  wb1 : Dword
  ctx : Nat
  land : Dword := 0
  opened : Bool := true
  deriving DecidableEq, Repr

/-- Initiator window (R318, R122). -/
structure IWin where
  pkg : Nat
  core : Nat
  win : Nat
  sent : Dword := 0
  seen : Dword := 0
  opened : Bool := true
  deriving DecidableEq, Repr

/-- A core's part in a stop (R152 to R155). phase 1: the request has arrived; 2: L is decided; 3: halted. -/
structure CutPart where
  phase : Nat := 0
  c : Option Coord := none
  floor : Option Coord := none
  l : Option Coord := none
  named : Bool := false
  deriving DecidableEq, Repr

/-- A pre-emption in progress on a core (R345, R365): where its area goes, whether a `cpre` made it, whether it lands at
safe points, the steps that went back to the distributor, each with the priority it had been selected under, what the binding held
before them: N, whether it took steps, and its unbegun steps (R345, R347, R350); and the wait of its area's write on WBLK (R42). -/
structure Pre where
  area : Nat
  byC3 : Bool
  safe : Bool
  back : List (Coord × Nat) := []
  n0 : Option Nat := none
  noNew0 : Bool := false
  gone : List Step := []
  wblk : Option Park := none
  deriving DecidableEq, Repr

/-- A logical core. -/
structure Core where
  ctxs : SMap Ctx := []
  engs : SMap Eng := []
  gates : SMap Nat := []
  /-- waiters on gates: gate, agent 0 to 7 in the order c0 to c3, M, V, X, F, and the tick each began -/
  gwait : List (Nat × Nat × Nat) := []
  ctrs : SMap Int := []
  tiles : SMap (BitVec 32) := []
  sp : Mem := []
  lanes : Mem := []
  rewind : Nat := 0
  mrowp : Dword := 0
  psave : Dword := 0
  fringBase : Nat := 0
  fringLog : Nat := 0
  frtail : Nat := 0
  frhead : Nat := 0
  recSeq : Nat := 0
  twin : SMap TWin := []
  iwin : SMap IWin := []
  shadow : List Shadow := []
  bind : Option Bind := none
  /-- assigned and not begun: instance, step, and the priority it was selected under (R359, R361) -/
  stepq : List (Nat × Coord × Nat) := []
  frInst : Nat := 0
  frKey : Coord := {}
  cut : CutPart := {}
  pre : Option Pre := none
  c3start : Dword := 0
  c3space : BitVec 16 := 0
  deriving DecidableEq, Repr

/-- A hardware queue (R71 to R75): records on chip and in the ring, oldest first; the spill index; contexts waiting. -/
structure HQ where
  hiwm : Nat := 0
  lowm : Nat := 0
  logsize : Nat := 0
  enable : Bool := false
  base : Dword := 0
  cons : Dword := 0
  chip : List Nat := []
  ring : Nat := 0
  spill : Nat := 0
  held : List (Nat × Nat) := []
  /-- who pushed each record that it holds, oldest first: core, context, instance (R79) -/
  by_ : List (Nat × Nat × Nat) := []
  deriving DecidableEq, Repr

/-- A chunk of an operand stream (R137): its number, bytes and step. -/
structure Chunk where
  id : Nat
  bytes : List (BitVec 8)
  inst : Nat
  key : Coord
  deriving DecidableEq, Repr

/-- A subscription (R138): the core, its window count, chunks it has still to consume, chunks delivered to it. -/
structure Sub where
  core : Nat
  w : Nat
  todo : List Nat := []
  given : List Nat := []
  deriving DecidableEq, Repr

structure Stream where
  next : Nat := 0
  chunks : List Chunk := []
  subs : List Sub := []
  deriving DecidableEq, Repr

/-- A shed. -/
structure Shed where
  mem : Mem := []
  queues : SMap HQ := []
  streams : SMap Stream := []
  trace : List Nat := []
  traceSeq : Nat := 0
  traceDrop : Nat := 0
  off : Bool := false
  draining : Option Nat := none
  /-- model: purity records written, bank conflicts (R388), counted over the interval -/
  cnt : SMap Nat := []
  fov : SMap Nat := []
  gainedPower : Bool := false
  deriving DecidableEq, Repr

/-- A heat-table entry (R38, R39): page, count, and whether its notification waits with its tick. -/
structure Heat where
  pen : Nat
  spaceid : BitVec 16
  page : Nat
  size : Nat
  count : Nat
  told : Bool := false
  tick : Nat := 0
  deriving DecidableEq, Repr

/-- Per-die, per-pen heat registers (R40). -/
structure HeatRegs where
  enable : Bool := false
  logsize : Nat := 0
  core : Nat := 0
  gate : Nat := 0
  base : Dword := 0
  tail : Nat := 0
  head : Nat := 0
  clr : Dword := 0
  deriving DecidableEq, Repr

/-- A link (UCIe) or fabric port (R397). -/
structure Link where
  up : Bool := true
  out : Bool := false
  retries : Nat := 0
  deriving DecidableEq, Repr

/-- The address space an access uses (R17, R18, R360). -/
structure Space where
  spaceid : BitVec 16
  wb0 : Dword
  wb1 : Dword
  sys : Bool := false
  conf : Bool := false
  deriving DecidableEq, Repr

/-- A page walk that takes more than one turn (R22, R33): its pen and die, the agent and its letter of EMASK, the address and kind of
access, whether that is one of the home slice, the level and table of its next read, the leaf it has read (entry, level, address), and
whether it has had a slot or waits for one. -/
structure Walk where
  pen : Nat
  die : Nat
  core : Nat
  ctx : Nat
  eng : Nat
  letter : Nat := 56
  home : Bool := false
  va : Nat
  kind : Nat
  sp : Space
  level : Nat
  table : Nat
  leaf : Option (Nat × Nat × Nat) := none
  active : Bool := true
  /-- it has its result, and holds no slot any more -/
  done : Bool := false
  deriving DecidableEq, Repr

/-- A compute die. -/
structure Die where
  csp : Mem := []
  heat : SMap Heat := []
  heatSeq : Nat := 0
  heatRegs : SMap HeatRegs := []
  wbtime : Dword := 0x400000
  /-- kind-14 records waiting, by shed (R391): pen, sequence, count, tick of the loss -/
  lost : SMap (Nat × Nat × Nat × Nat) := []
  /-- counters of the die record (R389), by word -/
  cnt : SMap Nat := []
  deriving DecidableEq, Repr

/-- A host launch queue (R353, R355). -/
structure LQ where
  base : Dword := 0
  enable : Bool := false
  logsize : Nat := 0
  count : Nat := 0
  deriving DecidableEq, Repr

/-- A ring of beacon records (R385). -/
structure BRing where
  ctl : Dword := 0
  head : Nat := 0
  tail : Nat := 0
  drops : Nat := 0
  deriving DecidableEq, Repr

/-- A reflection-table entry (R182, R341), with the address space of its ranges. -/
structure Refl where
  key : Nat
  outs : List (List (BitVec 8))
  ins : List (Nat × Nat)
  watch : List (Nat × Nat)
  used : Nat
  space : Space
  deriving DecidableEq, Repr

/-- A launch waiting in a pen's device-launch queue (R279): who waits and what it asked for. -/
structure DevLaunch where
  core : Nat
  ctx : Nat
  oprec : Nat
  spaceid : BitVec 16
  wb0 : Dword
  wb1 : Dword
  deriving DecidableEq, Repr

/-- An accepted instance (R355 to R362). -/
structure Inst where
  num : Nat
  pen : Nat
  record : Nat
  prio : Nat
  levels : Nat := 0
  since : Nat := 0
  spaceid : BitVec 16
  wb0 : Dword
  wb1 : Dword
  doneaddr : Nat := 0
  intr : Bool := false
  seed : Nat := 0
  /-- the next unplaced linear index, and steps that came back unbegun -/
  cursor : Nat := 0
  back : List Coord := []
  total : Nat := 0
  retired : Nat := 0
  resk : Option Coord := none
  floor : Option Coord := none
  brkHeld : Bool := false
  /-- a selection that waits for a full step queue (R359): the core, the step, the priority it was selected under -/
  pending : Option (Nat × Coord × Nat) := none
  pure : Bool := false
  began : Bool := false
  /-- its first step has been assigned (R340, R341) -/
  assigned : Bool := false
  impure : Bool := false
  spoiled : Bool := false
  key : Nat := 0
  /-- the input bytes that went into the key (R378) -/
  inBytes : List (List Nat) := []
  /-- pure: its key is still to be formed (R378) -/
  entering : Bool := false
  /-- a matched launch's output bytes not yet written, while a write waits (R42, R183, R379) -/
  serving : Option (List ((Nat × Nat) × List (BitVec 8))) := none
  /-- a core gave its steps beyond L up in a stop, to restore a saved area: it counts as halted there (R159, R363) -/
  halted : Bool := false
  /-- its end has come with a status whose completion record is still to be written (R357) -/
  ending : Option Nat := none
  /-- the distributor's write for it waits on a write-blocked page (R42) -/
  wblk : Option Park := none
  ins : List (Nat × Nat) := []
  outs : List (Nat × Nat) := []
  watch : List (Nat × Nat) := []
  watched : Bool := false
  deriving DecidableEq, Repr

/-- A save area the distributor wrote and has not restored (R159, R365), and the steps it holds. -/
structure Area where
  at_ : Nat
  inst : Nat
  core : Nat
  steps : List Coord := []
  deriving DecidableEq, Repr

/-- A pen. -/
structure Pen where
  sheds : List Nat := []
  conf : Bool := false
  spaceid : BitVec 16 := 0
  wb0 : Dword := 0
  wb1 : Dword := 0
  /-- the tenant key, by a number (R351) -/
  tenant : Nat := 0
  grpLo : Nat := 0
  grpHi : Nat := 0
  /-- spanning groups (R367): first, last, home package -/
  spans : List (Nat × Nat × Nat) := []
  cspwin : SMap Dword := []
  walkSlots : SMap Nat := []
  heatShare : SMap (Nat × Nat) := []
  ways : SMap Nat := []
  chanShare : SMap Nat := []
  /-- virtual channels of the pen, by link (R351, R368) -/
  vchan : SMap Nat := []
  rfcap : Nat := 0
  refl : List Refl := []
  lmapbase : Dword := 0
  cutreq : BitVec 128 := 0
  cutBusy : Bool := false
  cutDone : Bool := false
  cutLate : Bool := false
  cutNoinst : Bool := false
  cutL : Coord := {}
  cutRestored : Bool := false
  cutackCount : Nat := 0
  cutackBad : Bool := false
  cutackAccept : Bool := false
  cutDecided : Bool := false
  /-- requests for a stop that have reached the controller on this tick: 0 and the value for one of the host, else the requesting
  context's number and one, and the value (R338, R398) -/
  cutAsks : List (Nat × Nat) := []
  lqs : SMap LQ := []
  lastQ : Nat := 7
  age : Nat := 0
  premode : Bool := false
  enable : Bool := false
  devq : List DevLaunch := []
  trcctl : Dword := 0
  trcbase : Dword := 0
  trctail : Nat := 0
  trchead : Nat := 0
  brkaddr : Dword := 0
  brkEnable : Bool := false
  brkHits : Nat := 0
  pbcn : BRing := {}
  admitted : List (Nat × Nat) := []
  rejected : List (Nat × Nat) := []
  /-- the completion record of a refused host launch waits on a write-blocked page: its DONEADDR and INTR (R42, R356, R357) -/
  refusing : Option (Nat × Bool × Park) := none
  areas : List Area := []
  deriving DecidableEq, Repr

/-- A collective being gathered in a generation (R325): operation, type, length, what each element has gathered so far,
and the members that have contributed. -/
structure Coll where
  op : Nat
  ty : Nat
  len : Nat
  parts : List Nat := []
  froms : List Nat := []
  deriving DecidableEq, Repr

/-- A group (R176 to R178), members by package context number. -/
structure Grp where
  members : List Nat := []
  arrived : List Nat := []
  gen : Nat := 0
  joins : List Nat := []
  leaves : List Nat := []
  /-- the generation holds a plain arrive -/
  plain : Bool := false
  coll : Option Coll := none
  deriving DecidableEq, Repr

/-- A cached translation (R34). -/
structure Tlb where
  pen : Nat
  spaceid : BitVec 16
  glob : Bool
  vbase : Nat
  size : Nat
  leaf : Nat
  deriving DecidableEq, Repr

/-- A range entry of an access table (R35): target, master, slot, base, limit, write right. -/
structure Range where
  target : Nat
  master : Nat
  slot : Nat
  base : Nat
  limit : Nat
  rw : Bool
  deriving DecidableEq, Repr

/-- A packet in flight between packages, or to a window of the same package (R123, R403). A core number of 65,536 or more
is an initiator of another package: what answers it leaves this package. -/
inductive Pkt where
  /-- `cnt` is what its landing counts: the put's length with the last of its parts, else nothing (R122) -/
  | put (id core cmd pkg tcore win off : Nat) (bytes : List (BitVec 8)) (cnt : Nat)
  | putAck (core win n cmd : Nat)
  | getReq (id core cmd pkg tcore win off len : Nat)
  | getReply (core cmd : Nat) (bytes : List (BitVec 8))
  | ramo (core cmd pkg tcore win off op sz opnd : Nat)
  | ramoReply (core win cmd old n : Nat)
  | refusal (core cmd cls off : Nat)
  /-- a member's join 0, leave 1 or arrive 2, or a context's question for the generation 6, on its way to the group's home (R367) -/
  | groupMsg (grp ctxnum what : Nat)
  /-- the answer to it, with the generation; to a member, a completed generation, with the next one: 1 where it has left, else 3 -/
  | groupDone (grp gen ctxnum what : Nat)
  /-- a member's contribution to a collective, and what the home answers: nothing for a mismatch -/
  | collMsg (grp ctxnum op ty len data : Nat)
  | collDone (grp ctxnum : Nat) (parts : Option (List Nat))
  deriving DecidableEq, Repr

/-- A put, get or remote atomic at its target (R123): the packet, the 8-byte units that have been performed, what a get has read in
them, and a wait on a write-blocked page (R42). -/
structure Arrival where
  pkt : Pkt
  units : List Nat := []
  got : List (Nat × Nat) := []
  wblk : Option Park := none
  deriving DecidableEq, Repr

/-- A chained load in flight (R129, R323): who asked, the step it stands at and that step's address, the die it stands on (R130),
and its wait on a write-blocked page. -/
structure FChain where
  id : Nat
  core : Nat
  /-- a context's chain: its context and access number; otherwise a fabric command's index -/
  isCtx : Bool
  ctx : Nat
  seq : Nat
  step : Nat
  addr : Nat
  die : Nat := 0
  /-- its final load, once translated: where it lies, the units that have been performed, and what it has read in them (R84) -/
  pa : Option Nat := none
  units : List Nat := []
  got : List (Nat × Nat) := []
  wblk : Option Park := none
  deriving DecidableEq, Repr

/-- model: whose turn comes next (DESIGN CHOICE, assumption 3). -/
inductive Turn where
  /-- a context issues its next word -/
  | issue (core ctx : Nat)
  /-- a pending access that is no event of the table is performed: a store, a `graise`, a `leave` -/
  | perform (core ctx seq : Nat)
  /-- an engine runs part of its command: so many units or rows more, or the unit of a number -/
  | part (core eng n : Nat)
  /-- the arrival of the packet of that place performs one of its units -/
  | unit (pkt n : Nat)
  /-- the distributor writes one dword of a launch that it serves from the reflection table -/
  | serve (num : Nat)
  /-- an event of the opcode table -/
  | event (i : Instr)
  /-- the next page walk takes more than one turn; a walk in flight reads its next entry (R22, R33) -/
  | slowWalk
  | walkStep (n : Nat)
  /-- the tick counter advances -/
  | tick
  /-- a packet of another package enters the gateway -/
  | inject (p : Pkt)
  /-- a line goes bad (R79), or is corrected (R78) -/
  | softError (line : Nat) (correctable : Bool)
  /-- a context meets an uncorrectable error in a register or a local memory (R78, R79) -/
  | machineCheck (core ctx : Nat)
  /-- an error of an on-chip array is corrected: the counter's die and word (R78) -/
  | corrected (die word : Nat)
  /-- an entry of a shadow store, a deferral table or a queue is bad (R79): 0 the shadow entry n of core a; 1 at die a, of slice n % 32
  the deferral of place n / 32, oldest first; 2 at shed a, of queue n % 16 the record of place n / 16, oldest first -/
  | badEntry (what a n : Nat)
  deriving DecidableEq, Repr, Inhabited

/-- What the board controller hands a pen with its configuration (R351). -/
structure PenCfg where
  pen : Nat
  sheds : List Nat
  conf : Bool
  spaceid : BitVec 16
  wb0 : Dword
  wb1 : Dword
  grpLo : Nat
  grpHi : Nat
  tenant : Nat := 0
  spans : List (Nat × Nat × Nat) := []
  cspwin : SMap Dword
  walkSlots : SMap Nat
  heatShare : SMap (Nat × Nat)
  ways : SMap Nat
  chanShare : SMap Nat
  vchan : SMap Nat := []
  rfcap : Nat
  deriving DecidableEq, Repr

/-- An image offered to admission (R173): its pen, its code ranges and entry points, as the service reads them. -/
structure ImageReq where
  pen : Nat
  ranges : List (Nat × Nat)
  words : List (Nat × Nat)
  entries : List Nat
  deriving DecidableEq, Repr

/-- The package. -/
structure State where
  cores : SMap Core := []
  sheds : SMap Shed := []
  dies : SMap Die := []
  pens : SMap Pen := []
  insts : List Inst := []
  nextInst : Nat := 1
  groups : SMap Grp := []
  mem : Mem := []
  /-- lines with an uncorrectable error, by physical line number (R79, R80) -/
  bad : List Nat := []
  tlb : List Tlb := []
  /-- page walks in flight or queued, oldest first (R33) -/
  walks : List Walk := []
  /-- model: walks to come that take more than one turn (DESIGN CHOICE, assumption 9) -/
  slow : Nat := 0
  /-- bytes of device memory stored encrypted, by address, with the tenant key (R350, R399) -/
  enc : SMap Nat := []
  ranges : List Range := []
  net : List Pkt := []
  nextPkt : Nat := 0
  /-- arrivals that have begun and not ended (R123) -/
  arrs : List Arrival := []
  fchains : List FChain := []
  links : SMap Link := []
  tick : Nat := 0
  fabid : Nat := 0
  powered : Bool := false
  hostLink : Bool := false
  firmware : Option Bool := none
  /-- bring-up: the board controller has set FABID; a context has been started through C3START (R407 steps 7 and 8) -/
  fabSet : Bool := false
  started : Bool := false
  overTemp : Bool := false
  bcnEnable : Bool := false
  bcnK : Nat := 0
  bcnPartial : Bool := false
  /-- tick of the last beacon, or at which beacons were enabled (R384) -/
  bcnLast : Nat := 0
  bcnr : BRing := {}
  /-- staged halves of register writes (R396): master, address, half -/
  staged : List (Nat × Nat × Nat) := []
  /-- low dwords of CUTREQ held for a master (R398): pen, master, dword -/
  cutLow : List (Nat × Nat × Nat) := []
  /-- messages sent to the host (R401): code, pen, argument; and the values host reads returned, newest first -/
  msgs : List (Nat × Nat × Nat) := []
  hostReads : List (Nat × Nat) := []
  /-- fault and machine-check records sent to the host end (R80, R333), newest first -/
  hostRecs : List Nat := []
  /-- what the board controller and the admission service are handed next -/
  penCfgs : List PenCfg := []
  images : List ImageReq := []
  verdicts : List (Nat × Option Nat) := []
  /-- what a group gathered for members that stand saved in an area: member, group, elements (R345, R349) -/
  collKept : List (Nat × Nat × List Nat) := []
  /-- the flags that a saved matrix command's groups raised: core context, instance, step, ring word, flags (R204, R345) -/
  flagKept : List (Nat × Nat × Coord × Nat × Nat) := []
  /-- queues on which a saved context was held: its context number, shed, queue (R75) -/
  heldKept : List (Nat × Nat × Nat) := []
  /-- a firmware image: its header's version, hash and signature, and its bytes; with it the public key it is checked under, and what is
  fused: the hash of that key and the rollback counter (R406) -/
  fwVersion : Nat := 0
  fwHash : Nat := 0
  fwSig : List Nat := []
  fwImage : List Nat := []
  fwKey : List Nat := []
  fwKeyHash : Nat := 0
  fwRollback : Nat := 0
  /-- model: turns to come, the context whose turn it is, counters of free values -/
  agenda : List Turn := []
  curCore : Nat := 0
  curCtx : Nat := 3
  free : Nat := 0
  turns : Nat := 0
  stamp : Nat := 0
  deriving DecidableEq, Repr

/-- The package right after reset: no power has come up yet, every register at its reset value, no memory listed (DESIGN CHOICE, assumption 1). -/
def State.reset : State := {}

end Sys2Proof.Machine
end

