-- ==== Sys2Proof/Config.lean ====
section
/-!
DEFINITION. The free values: what the spec leaves open, as constants without a body, so that no proof can see one
(the assumption log names each). A value that must be fresh at each use is applied to a counter of the state.
-/
namespace Sys2Proof.Config

/-- A fresh open number (DESIGN CHOICE, assumption 3): which choice a racing access, a cached translation or a clock takes. -/
opaque free : Nat → Nat

/-- Whose turn comes next where nothing says it: the order in which the agents of the package act (DESIGN CHOICE, assumption 3). -/
opaque freeTurn : Nat → Machine.Turn

/-- A special function's value where the bounded precisions do not decide it (DESIGN CHOICE, assumption 14). -/
opaque specialFree : (fn code mode x : Nat) → Nat

/-- The ciphertext in which a byte of a line is stored under a pen's tenant key: of the key, the byte's address and what its line
holds (DESIGN CHOICE, assumption 31). -/
opaque cipher : (tenant addr line : Nat) → Nat

/-- The temperatures at which the host is told and at which the power goes (R407), which each part decides. -/
opaque warnLimit : Nat
opaque shutdownLimit : Nat

end Sys2Proof.Config
end

