-- ==== Sys2Proof/Machine/Maps.lean ====
section
/-!
DEFINITION. Reading and writing numbered registers and bytes, and the geometry of the package (spec 00 R1, R4; spec 01
R19, R20, R35). Memory keeps its canonical form: a write of the byte that an unlisted address reads as (zero,
DESIGN CHOICE, assumption 2) removes the entry.
-/
namespace Sys2Proof.Machine

/-- Value at a key, d where the key is not listed. -/
def mget {α : Type} (d : α) : SMap α → Nat → α
  | [], _ => d
  | (k, v) :: m, i => if k = i then v else mget d m i

/-- The map with a value at a key. -/
def mset {α : Type} : SMap α → Nat → α → SMap α
  | [], i, x => [(i, x)]
  | (k, v) :: m, i, x => if i < k then (i, x) :: (k, v) :: m else if k = i then (i, x) :: m else (k, v) :: mset m i x

/-- The map without a key. -/
def merase {α : Type} (m : SMap α) (i : Nat) : SMap α := m.filter (fun p => p.1 != i)

/-- A list in order, elements that compare alike keeping theirs. -/
def insertBy {α : Type} (le : α → α → Bool) (x : α) : List α → List α
  | [] => [x]
  | y :: l => if le x y then x :: y :: l else y :: insertBy le x l
def sortBy {α : Type} (le : α → α → Bool) (l : List α) : List α := l.foldr (insertBy le) []

/-- Byte at an address; an address not listed reads zero (DESIGN CHOICE, assumption 2). -/
def byteAt : Mem → Nat → BitVec 8
  | [], _ => 0
  | (k, b) :: m, a => if k = a then b else byteAt m a

/-- Memory with a byte set, in canonical form. -/
def setByte : Mem → Nat → BitVec 8 → Mem
  | [], a, b => if b = 0 then [] else [(a, b)]
  | (k, c) :: m, a, b =>
    if a < k then (if b = 0 then (k, c) :: m else (a, b) :: (k, c) :: m)
    else if k = a then (if b = 0 then m else (a, b) :: m)
    else (k, c) :: setByte m a b

/-- The canonical form: addresses strictly rising, no byte equal to what an unlisted address reads as. -/
def Memory.wf : Mem → Bool
  | [] => true
  | [(_, b)] => b != 0
  | (k, b) :: (j, c) :: m => b != 0 && decide (k < j) && Memory.wf ((j, c) :: m)

/-- n bytes at an address, little-endian (R8). -/
def readLE (m : Mem) (a : Nat) : Nat → Nat
  | 0 => 0
  | n + 1 => (byteAt m a).toNat + 256 * readLE m (a + 1) n

/-- Write n bytes of a number at an address, little-endian. -/
def writeLE (m : Mem) (a : Nat) : Nat → Nat → Mem
  | 0, _ => m
  | n + 1, x => writeLE (setByte m a (BitVec.ofNat 8 x)) (a + 1) n (x / 256)

/-! ### The package's parts -/

def State.core (s : State) (i : Nat) : Core := mget {} s.cores i
def State.setCore (s : State) (i : Nat) (c : Core) : State := { s with cores := mset s.cores i c }
def Core.ctx (c : Core) (x : Nat) : Ctx := mget {} c.ctxs x
def Core.setCtx (c : Core) (x : Nat) (t : Ctx) : Core := { c with ctxs := mset c.ctxs x t }
def State.ctx (s : State) (i x : Nat) : Ctx := (s.core i).ctx x
def State.setCtx (s : State) (i x : Nat) (t : Ctx) : State := s.setCore i ((s.core i).setCtx x t)
def State.modCtx (s : State) (i x : Nat) (f : Ctx → Ctx) : State := s.setCtx i x (f (s.ctx i x))
def State.modCore (s : State) (i : Nat) (f : Core → Core) : State := s.setCore i (f (s.core i))
def Core.eng (c : Core) (e : Nat) : Eng := mget {} c.engs e
def Core.setEng (c : Core) (e : Nat) (g : Eng) : Core := { c with engs := mset c.engs e g }
def State.eng (s : State) (i e : Nat) : Eng := (s.core i).eng e
def State.setEng (s : State) (i e : Nat) (g : Eng) : State := s.setCore i ((s.core i).setEng e g)
def State.shed (s : State) (i : Nat) : Shed := mget {} s.sheds i
def State.setShed (s : State) (i : Nat) (h : Shed) : State := { s with sheds := mset s.sheds i h }
def State.die (s : State) (i : Nat) : Die := mget {} s.dies i
def State.setDie (s : State) (i : Nat) (d : Die) : State := { s with dies := mset s.dies i d }
def State.pen (s : State) (i : Nat) : Pen := mget {} s.pens i
def State.setPen (s : State) (i : Nat) (p : Pen) : State := { s with pens := mset s.pens i p }
def State.grp (s : State) (g : Nat) : Grp := mget {} s.groups g
def State.setGrp (s : State) (g : Nat) (x : Grp) : State := { s with groups := mset s.groups g x }
def Shed.queue (h : Shed) (q : Nat) : HQ := mget {} h.queues q
def Shed.stream (h : Shed) (n : Nat) : Stream := mget {} h.streams n

/-- A master's staged half is discarded when it writes another register (R396). -/
def State.unstage (s : State) (master : Nat) : State := { s with staged := s.staged.filter (fun x => x.1 != master) }

/-- The master number of the host (R35). -/
def hostMaster : Nat := 81

/-- The context whose turn it is. -/
def State.cur (s : State) : Ctx := s.ctx s.curCore s.curCtx
def State.setCur (s : State) (t : Ctx) : State := s.setCtx s.curCore s.curCtx t

/-- A fresh free value (DESIGN CHOICE, assumption 3) and the state that has used it. -/
def State.draw (s : State) : Nat × State := (Config.free s.free, { s with free := s.free + 1 })

/-- Number of logical cores; sheds of a package and die of a core (R1, R4). -/
def nCores : Nat := 864
def shedOf (core : Nat) : Nat := core / 12
def dieOf (core : Nat) : Nat := core / 96
def dieOfShed (shed : Nat) : Nat := shed / 8

/-- The pen that holds a shed, if any (R351). -/
def State.penOfShed (s : State) (shed : Nat) : Option Nat :=
  (s.pens.find? (fun p => p.2.sheds.contains shed)).map Prod.fst

def State.penOf (s : State) (core : Nat) : Option Nat := s.penOfShed (shedOf core)

/-- Logical cores of a pen in increasing number (R364). -/
def Pen.cores (p : Pen) : List Nat :=
  (List.range 72).flatMap (fun sh => if p.sheds.contains sh then (List.range 12).map (fun c => 12 * sh + c) else [])

/-- Dies on which a pen holds sheds. -/
def Pen.dies (p : Pen) : List Nat := (List.range 9).filter (fun d => p.sheds.any (fun sh => dieOfShed sh == d))

/-! ### Physical addresses (R19, R20) -/

/-- What a physical address names. -/
inductive Tier where
  | near (die : Nat)
  | far (die : Nat)
  | regs
  | host
  | hole
  deriving DecidableEq, Repr

/-- Die that owns far device i: four devices each, none on die 4. -/
def farDie (dev : Nat) : Nat := if dev / 4 < 4 then dev / 4 else dev / 4 + 1

def tierOf (pa : Nat) : Tier :=
  if pa < 9 * 2 ^ 33 ∧ pa % 2 ^ 33 < 6 * 2 ^ 30 then .near (pa / 2 ^ 33)
  else if 2 ^ 44 ≤ pa ∧ pa < 2 ^ 44 + 0x18000000000 then .far (farDie ((pa - 2 ^ 44) / 2 ^ 12 % 32))
  else if 0xF00000000000 ≤ pa ∧ pa < 0xF00100000000 then .regs
  else if 2 ^ 51 ≤ pa ∧ pa < 2 ^ 52 then .host
  else .hole

/-- The register block an address lies in (R396): 0 package, 1 + d die d, 10 + p pen p, 26 the mailbox. -/
def regBlock (pa : Nat) : Option (Nat × Nat) :=
  let o := pa - 0xF00000000000
  if o < 0x100000 then some (0, o)
  else if 0x10000000 ≤ o ∧ o < 0x10000000 + 9 * 0x1000000 then some (1 + (o - 0x10000000) / 0x1000000, (o - 0x10000000) % 0x1000000)
  else if 0x20000000 ≤ o ∧ o < 0x20000000 + 16 * 0x100000 then some (10 + (o - 0x20000000) / 0x100000, (o - 0x20000000) % 0x100000)
  else if 0x30000000 ≤ o ∧ o < 0x30010000 then some (26, o - 0x30000000)
  else none

/-- The address of an offset in a block other than the mailbox's. -/
def regAddr (b off : Nat) : Nat :=
  0xF00000000000 + off + if b = 0 then 0 else if b ≤ 9 then 0x10000000 + (b - 1) * 0x1000000 else 0x20000000 + (b - 10) * 0x100000

/-- A register occupies the dword at an offset of a block (R396, R397): UCIe and port status, WBTIME, heat and queue registers and
the starting registers of a die; the launch queues and the other registers of a pen. -/
def regListed (b off : Nat) : Bool :=
  if b = 0 then [0x00, 0x08, 0x10, 0x18, 0x20, 0x28, 0x40].contains off
  else if b ≤ 9 then
    (decide (off < 0x48) && off / 8 != b - 1) || (decide (0x100 ≤ off) && decide (off < 0x120)) || off == 0x200
      || (decide (0x10000 ≤ off) && decide (off < 0x10400) && decide (off % 0x40 < 0x20))
      || (decide (0x20000 ≤ off) && decide (off < 0x21000)) || (decide (0x30000 ≤ off) && decide (off < 0x30600))
  else if b ≤ 25 then decide (off < 0xF0) || off == 0x100 || off == 0x108 || off == 0x110
  else false

/-- A register lies at a physical address. -/
def regAt (pa : Nat) : Bool := match regBlock pa with
  | some (b, off) => regListed b (off / 8 * 8)
  | none => false

/-- Home controller of an address, which is also the number of its access table (R35): near d is d, far d is 9 + d, the
bridge is 18, register block b is 19 + b. -/
def targetOf (pa : Nat) : Nat :=
  match tierOf pa with
  | .near d => d
  | .far d => 9 + d
  | .host => 18
  | .regs => 19 + ((regBlock pa).map Prod.fst).getD 27
  | .hole => 64

/-- Home die of an address (R19, R54). -/
def homeDie (pa : Nat) : Nat :=
  match tierOf pa with
  | .near d => d
  | .far d => d
  | .regs => match regBlock pa with
    | some (b, _) => if 1 ≤ b ∧ b ≤ 9 then b - 1 else 4
    | none => 4
  | _ => 4

/-- Home slice index of an address within its die (R54). -/
def sliceOf (pa : Nat) : Nat := (pa / 2 ^ 6 % 32) ^^^ (pa / 2 ^ 11 % 32) ^^^ (pa / 2 ^ 16 % 32)

/-- A range entry grants a master an access of a kind to physical bytes at the entry's target (R35). -/
def Range.covers (r : Range) (master pa len : Nat) (write : Bool) : Bool :=
  r.target == targetOf pa && r.master == master && decide (r.base ≤ pa ∧ pa + len ≤ r.limit) && (r.rw || !write)

/-- A master may make an access of a kind at a target (R35): one entry covers all its bytes and grants it. -/
def State.granted (s : State) (master pa len : Nat) (write : Bool) : Bool := s.ranges.any (·.covers master pa len write)

/-- The same for an access of several segments at one home controller. -/
def State.grantedAll (s : State) (master : Nat) (segs : List (Nat × Nat)) (write : Bool) : Bool :=
  s.ranges.any (fun r => segs.all (fun g => r.covers master g.1 g.2 write))

/-- An access's segments as its parts (R121): it is split where the home controller differs. -/
def partsOf : List (Nat × Nat) → List (List (Nat × Nat))
  | [] => []
  | g :: l => match partsOf l with
    | (h :: p) :: ps => if targetOf g.1 = targetOf h.1 then (g :: h :: p) :: ps else [g] :: (h :: p) :: ps
    | ps => [g] :: ps

/-- Every part of an access is granted. -/
def State.allows (s : State) (master : Nat) (segs : List (Nat × Nat)) (write : Bool) : Bool :=
  (partsOf segs).all (fun p => s.grantedAll master p write)

/-- Bytes of segments. -/
def segBytes (segs : List (Nat × Nat)) : Nat := segs.foldl (fun n g => n + g.2) 0

end Sys2Proof.Machine
end

