-- ==== Sys2Proof/Machine/Records.lean ====
section
/-!
DEFINITION. Fault records (spec 01 R45, R46, R48; spec 14 R333, R334): the 64-byte layout, the core's fault-record ring,
the copy sealed for the host administrator.
-/
namespace Sys2Proof.Machine

/-- The fields of a fault record (R45). -/
structure FRec where
  cls : Nat
  stage : Nat := 0
  seq : Nat := 0
  tick : Nat := 0
  nclass : Nat := 0
  cmdaddr : Nat := 0
  rem : Nat := 0
  done : Nat := 0
  remhi : Nat := 0
  inst : Nat := 0
  key : Coord := {}
  addr : Nat := 0
  eng : Nat := 0
  ctx : Nat := 0
  access : Nat := 0
  level : Nat := 7
  chainstep : Nat := 0
  core : Nat := 0
  ridx : Nat := 0
  spaceid : Nat := 0
  deriving DecidableEq, Repr

/-- Coordinates packed as a record packs them, K0 lowest. -/
def Coord.pack (k : Coord) : Nat :=
  k.k0.toNat + k.k1.toNat * 2 ^ 16 + k.k2.toNat * 2 ^ 32 + k.k3.toNat * 2 ^ 48 + k.k4.toNat * 2 ^ 64 + k.k5.toNat * 2 ^ 80

/-- Coordinates unpacked from 96 bits. -/
def Coord.ofNat (x : Nat) : Coord :=
  ⟨BitVec.ofNat 16 x, BitVec.ofNat 16 (x / 2 ^ 16), BitVec.ofNat 16 (x / 2 ^ 32), BitVec.ofNat 16 (x / 2 ^ 48),
    BitVec.ofNat 16 (x / 2 ^ 64), BitVec.ofNat 16 (x / 2 ^ 80)⟩

/-- Lexicographic order of coordinates, k0 first (R144), as one number. -/
def Coord.rank (k : Coord) : Nat :=
  ((((k.k0.toNat * 2 ^ 16 + k.k1.toNat) * 2 ^ 16 + k.k2.toNat) * 2 ^ 16 + k.k3.toNat) * 2 ^ 16 + k.k4.toNat) * 2 ^ 16
    + k.k5.toNat

/-- The record as 512 bits (R45). -/
def FRec.image (r : FRec) : Nat :=
  r.spaceid % 2 ^ 16 + r.ridx % 2 ^ 16 * 2 ^ 16 + r.core % 2 ^ 10 * 2 ^ 32 + r.chainstep % 4 * 2 ^ 42 + r.level % 8 * 2 ^ 45
    + r.access % 4 * 2 ^ 48 + r.ctx % 4 * 2 ^ 50 + r.eng % 16 * 2 ^ 52 + r.cls % 256 * 2 ^ 56 + r.addr % 2 ^ 57 * 2 ^ 64
    + r.key.pack * 2 ^ 128 + r.inst % 2 ^ 32 * 2 ^ 224 + r.remhi % 2 ^ 57 * 2 ^ 256 + r.done % 2 ^ 32 * 2 ^ 320
    + r.rem % 2 ^ 32 * 2 ^ 352 + r.cmdaddr % 2 ^ 57 * 2 ^ 384 + r.nclass % 128 * 2 ^ 441 + r.tick % 2 ^ 48 * 2 ^ 448
    + r.seq % 256 * 2 ^ 496 + r.stage % 8 * 2 ^ 509

/-- A record's image with CLASS 0x35 and the class it would have carried (R333). -/
def doubled (image cls : Nat) : Nat :=
  image - image / 2 ^ 56 % 256 * 2 ^ 56 + 0x35 * 2 ^ 56 + cls % 128 * 2 ^ 441

/-- The copy the host administrator receives of a confidential context's record (R48). -/
def sealed (image : Nat) : Nat :=
  image % 2 ^ 16 + image / 2 ^ 32 % 2 ^ 10 * 2 ^ 32 + 2 ^ 44 + image / 2 ^ 50 % 2 ^ 6 * 2 ^ 50 + image / 2 ^ 56 % 256 * 2 ^ 56
    + image / 2 ^ 448 % 2 ^ 56 * 2 ^ 448

/-- Advance a counter of a map. -/
def bump (m : SMap Nat) (i : Nat) (n : Nat := 1) : SMap Nat := mset m i (mget 0 m i + n)

/-- The core's fault ring has LOGSIZE 4 to 10 and room (R334). -/
def Core.ringRoom (c : Core) : Bool :=
  decide (4 ≤ c.fringLog ∧ c.fringLog ≤ 10) && decide ((c.frtail + 2 ^ 32 - c.frhead) % 2 ^ 32 < 2 ^ c.fringLog)

/-- Append a record to the core's fault ring, or count an overflow when the ring has no room (R333, R334). -/
def Core.appendRec (c : Core) (image : Nat) : Core × Bool :=
  if c.ringRoom then
    ({ c with sp := writeLE c.sp ((c.fringBase + 64 * (c.frtail % 2 ^ c.fringLog)) % 0x200000) 64 image,
              frtail := (c.frtail + 1) % 2 ^ 32 }, true)
  else (c, false)

/-- Write a record of a core: number it, append it, count an overflow in the shed (R388). Answers the image. -/
def State.writeRec (s : State) (core : Nat) (r : FRec) : Nat × State :=
  let c := s.core core
  let image := { r with seq := c.recSeq, tick := s.tick, core := core }.image
  let (c', ok) := c.appendRec image
  let s1 := s.setCore core { c' with recSeq := (c.recSeq + 1) % 256 }
  let h := s1.shed (shedOf core)
  (image, if ok then s1 else s1.setShed (shedOf core) { h with fov := bump h.fov (core % 12) })

/-- A trap that arose after issue: its record is written now, the trap taken at the context's next boundary (R332). -/
def State.pendTrap (s : State) (core ctx : Nat) (r : FRec) : State :=
  let (image, s1) := s.writeRec core { r with ctx := ctx }
  s1.modCtx core ctx (fun t => { t with traps := t.traps ++ [⟨r.cls, image⟩] })

/-- A record that takes no trap: purity violations (R181, R331). -/
def State.recordOnly (s : State) (core ctx : Nat) (r : FRec) : State := (s.writeRec core { r with ctx := ctx }).2

end Sys2Proof.Machine
end

