-- ==== Sys2Proof/Machine/Trace.lean ====
section
/-!
DEFINITION. Trace records (spec 20 R390): which events a pen traces, a record's layout, the shed's buffer of 512.
-/
namespace Sys2Proof.Machine

/-- A trace record's image (R390). -/
def traceImage (tick seq inst : Nat) (key : Coord) (ord arg kind ctx core : Nat) : Nat :=
  core % 2 ^ 10 + ctx % 4 * 2 ^ 10 + kind % 16 * 2 ^ 12 + arg % 2 ^ 32 * 2 ^ 16 + ord % 2 ^ 16 * 2 ^ 48 + key.pack * 2 ^ 64
    + inst % 2 ^ 32 * 2 ^ 160 + seq % 2 ^ 16 * 2 ^ 192 + tick % 2 ^ 48 * 2 ^ 208

/-- TRCCTL enables a kind of record. -/
def Pen.traces (p : Pen) (kind : Nat) : Bool :=
  p.trcctl.getLsbD 31 && p.trcctl.getLsbD kind &&
    decide (4 ≤ p.trcctl.toNat / 2 ^ 24 % 16) && decide (p.trcctl.toNat / 2 ^ 24 % 16 ≤ 15)

/-- A record enters a shed's trace buffer with its SEQ; a full buffer drops it and counts it. -/
def Shed.pushTrace (h : Shed) (image : Nat → Nat) : Shed :=
  if 512 ≤ h.trace.length then { h with traceDrop := h.traceDrop + 1 }
  else { h with trace := h.trace ++ [image h.traceSeq], traceSeq := (h.traceSeq + 1) % 2 ^ 16 }

/-- The oldest record of a buffer leaves it. Space has returned: a kind-15 record of what was dropped goes ahead of any other
record of the shed, unless it emits none any more (R391). -/
def Shed.popTrace (h : Shed) (sh tick : Nat) : Shed :=
  let h1 := { h with trace := h.trace.drop 1 }
  if h.traceDrop = 0 ∨ h.draining.isSome then h1
  else { h1 with traceDrop := 0 }.pushTrace (fun seq => traceImage tick seq 0 {} 0xFFFF h.traceDrop 15 0 (12 * sh))

/-- Emit a record of a core into its shed's trace buffer. -/
def State.traceShed (s : State) (core inst : Nat) (key : Coord) (ord arg kind ctx : Nat) : State :=
  match s.penOf core with
  | none => s
  | some pn =>
    let h := s.shed (shedOf core)
    if !(s.pen pn).traces kind || h.off || h.draining.isSome then s
    else s.setShed (shedOf core) (h.pushTrace (fun seq => traceImage s.tick seq inst key ord arg kind ctx core))

/-- The pen of a core traces a context (CTXMASK). -/
def State.tracedCtx (s : State) (core ctx : Nat) : Bool :=
  match s.penOf core with
  | none => false
  | some pn => (s.pen pn).trcctl.getLsbD (20 + ctx)

/-- A context's event: kinds 0, 4 and 5 need its CTXMASK bit. -/
def State.traceCtx (s : State) (core ctx inst : Nat) (key : Coord) (ord arg kind : Nat) : State :=
  if s.tracedCtx core ctx then s.traceShed core inst key ord arg kind ctx else s

end Sys2Proof.Machine
end

