-- ==== Sys2Proof/Machine/Walk.lean ====
section
/-!
DEFINITION. Translation (spec 01): canonical addresses, the walk, leaf checks in the order of R31, ACCESSED and DIRTY,
cached translations, heat counting. A translation yields physical segments or one fault.
-/
namespace Sys2Proof.Machine

/-- Who makes an access: the core, the context that owns it, the agent (ENGINE code of R45), the EMASK letter's bit
(56 C, 57 V, 58 M, 59 X, 60 F, 61 H), the step it serves, and what a record says of the command. -/
structure Who where
  core : Nat
  ctx : Nat
  eng : Nat := 0
  letter : Nat := 56
  inst : Nat := 0
  key : Coord := {}
  stage : Nat := 0
  cmdaddr : Nat := 0
  ridx : Nat := 0
  /-- the die that translates, where it is not the core's own: a step of a chain (R130) -/
  die : Option Nat := none
  /-- its translation may make no page-table read now: only a cached one serves (R260) -/
  cached : Bool := false
  deriving DecidableEq, Repr

def Who.onDie (w : Who) : Nat := w.die.getD (dieOf w.core)

def Ctx.space (c : Ctx) : Space := ⟨c.spaceid, c.wb0, c.wb1, c.sys, c.conf⟩

/-- Kinds of access (the ACCESS codes of R45). -/
def kRead : Nat := 0
def kWrite : Nat := 1
def kRmw : Nat := 2
def kFetch : Nat := 3

/-- A fault of an access: its class, the first faulting byte, the walk level. -/
structure Flt where
  cls : Nat
  addr : Nat := 0
  level : Nat := 7
  deriving DecidableEq, Repr

/-- A virtual address is canonical (R16). -/
def canonical (va : Nat) : Bool := decide (va < 2 ^ 56) || decide (2 ^ 64 - 2 ^ 56 ≤ va ∧ va < 2 ^ 64)

/-- The system half (R17). -/
def systemHalf (va : Nat) : Bool := decide (2 ^ 63 ≤ va)

/-- Bits of a word, from lo, n of them. -/
def field (x lo n : Nat) : Nat := x / 2 ^ lo % 2 ^ n

/-- Page-table pages lie in the near or far tier (R21). -/
def tableOk (pa : Nat) : Bool := match tierOf pa with
  | .near _ => true
  | .far _ => true
  | _ => false

def pageBytes (size : Nat) : Nat := match size with
  | 0 => 2 ^ 12
  | 1 => 2 ^ 16
  | 2 => 2 ^ 21
  | _ => 2 ^ 30

/-- A leaf is well formed at a level (R22, R24). -/
def leafOk (e level : Nat) : Bool :=
  decide (level ≤ 2) && !(field e 2 1 == 1 && field e 1 1 == 0) && field e 8 2 != 3 && field e 52 4 == 0 &&
    (match level with
     | 0 => decide (field e 10 2 ≤ 1)
     | 1 => field e 10 2 == 2
     | _ => field e 10 2 == 3) &&
    decide (field e 12 40 * 2 ^ 12 % pageBytes (field e 10 2) = 0)

/-- Result of a walk: a leaf with its level and its entry's address, or a fault at a level. -/
inductive WRes where
  | leaf (e level entryAt : Nat)
  | bad (cls level : Nat)
  deriving DecidableEq, Repr

/-- Lines with an uncorrectable error that n bytes at an address touch (R79). -/
def State.badAt (s : State) (pa n : Nat) : Bool := s.bad.any (fun l => decide (pa / 64 ≤ l ∧ l ≤ (pa + n - 1) / 64))

/-- The walk from a table of a level down (R22): fuel is the level plus one (DEDUCED, assumption 10). A malformed root is
recorded at level 4 (DESIGN CHOICE, assumption 79). -/
def walkAt (s : State) : Nat → Nat → Nat → WRes
  | 0, _, _ => .bad 0x05 0
  | l + 1, table, va =>
    if !tableOk table then .bad 0x05 (if l = 4 then 4 else l + 1)
    else
      let at_ := table + 8 * (va / 2 ^ (12 + 9 * l) % 512)
      if s.badAt at_ 8 then .bad 0x32 l
      else
        let e := readLE s.mem at_ 8
        if e % 2 = 0 then .bad 0x01 l
        else if field e 1 3 = 0 then
          (if l = 0 ∨ field e 52 12 ≠ 0 ∨ field e 1 11 ≠ 0 ∨ !tableOk (field e 12 40 * 2 ^ 12) then .bad 0x05 l
           else walkAt s l (field e 12 40 * 2 ^ 12) va)
        else if leafOk e l then .leaf e l at_ else .bad 0x05 l

/-- A link between two dies is in service: port 64 + 16a + b for a < b (R397, R404). -/
def State.linked (s : State) (a b : Nat) : Bool := (mget {} s.links (64 + 16 * min a b + max a b)).up

/-- Packets of a die reach another: directly, or through a third die (R404) (DEDUCED, assumption 71). -/
def State.routed (s : State) (a b : Nat) : Bool :=
  a == b || s.linked a b || (List.range 9).any (fun c => c != a && c != b && s.linked a c && s.linked c b)

/-- The level of the first entry a walk reads that no link reaches from its die; fuel is the level plus one (R404). -/
def State.strayEntry (s : State) (die : Nat) : Nat → Nat → Nat → Option Nat
  | 0, _, _ => none
  | l + 1, table, va =>
    let at_ := table + 8 * (va / 2 ^ (12 + 9 * l) % 512)
    if !tableOk table then none
    else if !s.routed die (homeDie at_) then some l
    else
      let e := readLE s.mem at_ 8
      if s.badAt at_ 8 || e % 2 = 0 || field e 1 3 ≠ 0 then none else s.strayEntry die l (field e 12 40 * 2 ^ 12) va

/-- A walk of a die's walker: a read that has no route fails it with class 0x24 (R404) (DEDUCED, assumption 71). -/
def State.walkFrom (s : State) (die fuel table va : Nat) : WRes := match s.strayEntry die fuel table va with
  | some l => .bad 0x24 l
  | none => walkAt s fuel table va

/-- The root register's table (R18). -/
def Space.root (sp : Space) (va : Nat) : Nat := field (if systemHalf va then sp.wb1 else sp.wb0).toNat 12 40 * 2 ^ 12

def State.walk (s : State) (sp : Space) (va : Nat) : WRes := walkAt s 5 (sp.root va) va

/-- The same as a die's walker finds it. -/
def State.walkOn (s : State) (die : Nat) (sp : Space) (va : Nat) : WRes := s.walkFrom die 5 (sp.root va) va

/-- Physical address through a leaf. -/
def leafPa (e va : Nat) : Nat := field e 12 40 * 2 ^ 12 + va % pageBytes (field e 10 2)

/-- The class of the first check of R31 from the physical hole on that a leaf fails: hole, or no register at the address
(R396), or, for a chain step, the escape of R134; permission; engine mask; encryption. An operation of the home slice does not
go through a leaf with ATTR = 2 (R257); otherwise such a leaf and a register frame go together (DEDUCED, assumption 11). -/
def leafCheck (sp : Space) (w : Who) (kind : Nat) (home : Bool) (e pa : Nat) : Option Nat :=
  let t := tierOf pa
  let isRegs := t == .regs
  let reg := field e 8 2 == 2
  if w.eng == 5 && (t == .host || reg) then some 0x21
  else if t == .hole || (isRegs && !regAt pa) then some 0x08
  else if home && reg then some 0x02
  else if isRegs != reg then some 0x08
  else if kind == 0 && field e 1 1 == 0 then some 0x02
  else if kind == 1 && field e 2 1 == 0 then some 0x02
  else if kind == 2 && (field e 1 1 == 0 || field e 2 1 == 0) then some 0x02
  else if kind == 3 && (field e 3 1 == 0 || w.letter != 56) then some 0x02
  else if field e w.letter 1 == 0 then some 0x03
  else if sp.conf && field e 7 1 == 0 then some 0x0A
  else none

/-- The leaf's level, by its size. -/
def sizeLevel (size : Nat) : Nat := if size ≤ 1 then 0 else size - 1

/-- A cached translation of a pen covers an address of a space (R18, R34). -/
def Tlb.covers (t : Tlb) (pen : Nat) (spaceid : BitVec 16) (va : Nat) : Bool :=
  t.pen == pen && (t.glob || t.spaceid == spaceid) && decide (t.vbase ≤ va ∧ va < t.vbase + t.size)

/-- Remember a translation. -/
def State.cache (s : State) (pen : Nat) (sp : Space) (va e : Nat) : State :=
  let n := pageBytes (field e 10 2)
  let t : Tlb := ⟨pen, sp.spaceid, field e 4 1 == 1, va - va % n, n, e⟩
  if s.tlb.contains t then s else { s with tlb := s.tlb ++ [t] }

/-- Set ACCESSED, and DIRTY on a write, in the entry (R27). Nothing else of the entry changes. -/
def State.markEntry (s : State) (at_ e : Nat) (write : Bool) : State :=
  let e' := if write then e ||| 0x60 else e ||| 0x20
  if e' = e then s else { s with mem := writeLE s.mem at_ 8 e' }

/-! ### Heat (R37, R38) -/

/-- First index and number of a pen's heat entries on a die. -/
def State.heatShare (s : State) (pen die : Nat) : Nat × Nat := mget (0, 0) (s.pen pen).heatShare die

/-- Count lines touched through a watched host-tier leaf, for one access of a page. -/
def State.heatCount (s : State) (die pen : Nat) (sp : Space) (va e lines : Nat) : State :=
  let n := pageBytes (field e 10 2)
  let page := va - va % n
  let d := s.die die
  let (lo, cnt) := s.heatShare pen die
  let idx := (List.range cnt).map (lo + ·)
  let put := fun (i : Nat) (h : Heat) =>
    s.setDie die { d with heat := mset d.heat i (if h.count ≥ 256 then { h with count := 256, tick := s.tick } else h) }
  match d.heat.find? (fun p => idx.contains p.1 && p.2.spaceid == sp.spaceid && p.2.page == page && p.2.size == field e 10 2) with
  | some (i, h) => if h.count ≥ 256 then s else put i { h with count := h.count + lines }
  | none =>
    let fresh : Heat := { pen := pen, spaceid := sp.spaceid, page := page, size := field e 10 2, count := lines }
    match idx.find? (fun i => !d.heat.any (fun p => p.1 == i)) with
    | some i => put i fresh
    | none =>
      let low := d.heat.filter (fun p => idx.contains p.1 && decide (p.2.count < 256))
      match low.foldl (fun (best : Option (Nat × Heat)) p => match best with
          | none => some p
          | some b => if p.2.count < b.2.count then some p else some b) none with
      | some (i, _) => put i fresh
      | none => s.setDie die { d with cnt := bump d.cnt (176 + pen) }

/-- 64-byte lines that n bytes touch. -/
def linesOf (pa n : Nat) : Nat := if n = 0 then 0 else (pa + n - 1) / 64 - pa / 64 + 1

/-! ### Walks that take more than one turn (R22, R33) -/

/-- Walk slots of a pen on a die: its share, at least one; a core outside every pen has the die's 192 (DESIGN CHOICE,
assumption 9). -/
def State.walkShare (s : State) (pen die : Nat) : Nat := if pen < 16 then max 1 (mget 0 (s.pen pen).walkSlots die) else 192

/-- A walk is one of a pen on a die. -/
def Walk.at (k : Walk) (pen die : Nat) : Bool := k.pen == pen && k.die == die

/-- A walk holds a slot: from its first read to its result (R33). -/
def Walk.holds (k : Walk) : Bool := k.active && !k.done

/-- The pen that pays for an agent's walks: 16 where there is none. -/
def State.walkPen (s : State) (w : Who) : Nat := (s.penOf w.core).getD 16

/-- A slot is free for a new walk, which goes behind the walks that wait (R33). -/
def State.walkFree (s : State) (pen die : Nat) : Bool :=
  decide ((s.walks.filter (fun k => k.at pen die && k.holds)).length < s.walkShare pen die) && !s.walks.any (fun k => k.at pen die && !k.active)

/-- The walk an agent has in flight or waiting for a page. -/
def Walk.mine (k : Walk) (w : Who) (sp : Space) (va : Nat) : Bool :=
  k.core == w.core && k.ctx == w.ctx && k.eng == w.eng && k.die == w.onDie && k.sp == sp && k.va / 4096 == va / 4096

/-- The oldest waiting walk of a pen and die takes a slot. -/
def promote (pen die : Nat) : List Walk → List Walk
  | [] => []
  | k :: l => if k.at pen die && !k.active then { k with active := true } :: l else k :: promote pen die l

/-- A walk's result is taken: the walk is forgotten, and its slot is free where it still held one. -/
def State.endWalk (s : State) (k : Walk) : State :=
  let l := s.walks.erase k
  { s with walks := if k.holds then promote k.pen k.die l else l }

/-- A walk begins, with a slot or behind those that wait for one. -/
def State.addWalk (s : State) (w : Who) (sp : Space) (kind : Nat) (home : Bool) (va : Nat) (active : Bool) : State :=
  { s with slow := s.slow - 1,
           walks := s.walks ++ [{ pen := s.walkPen w, die := w.onDie, core := w.core, ctx := w.ctx, eng := w.eng, letter := w.letter, home := home,
                                  va := va, kind := kind, sp := sp, level := 4, table := sp.root va, active := active }] }

/-- The agent of a walk, as the checks of its leaf need it. -/
def Walk.who (k : Walk) : Who := { core := k.core, ctx := k.ctx, eng := k.eng, letter := k.letter, die := some k.die }

/-- The rest of a walk that holds its slot: from the leaf it has read, which must still stand as it was read, or from the table it is at
(R27). -/
def State.resumeWalk (s : State) (k : Walk) (va : Nat) : WRes := match k.leaf with
  | some (e, l, a) =>
    if !s.routed k.die (homeDie a) then .bad 0x24 l
    else if s.badAt a 8 then .bad 0x32 l else if readLE s.mem a 8 = e then .leaf e l a else s.walkOn k.die k.sp va
  | none => s.walkFrom k.die (k.level + 1) k.table va

/-- A walk under way starts again: its compare has failed, or translations are discarded (R27, R34). -/
def Walk.restart (k : Walk) : Walk := { k with level := 4, table := k.sp.root k.va, leaf := none }

/-- One read of a walk: an entry of its table. A fault is its result. -/
def State.stepWalk (s : State) (k : Walk) : Walk :=
  let a := k.table + 8 * (k.va / 2 ^ (12 + 9 * k.level) % 512)
  let e := readLE s.mem a 8
  if !tableOk k.table || !s.routed k.die (homeDie a) || s.badAt a 8 || e % 2 = 0 then { k with done := true }
  else if field e 1 3 ≠ 0 then (if leafOk e k.level then { k with leaf := some (e, k.level, a) } else { k with done := true })
  else if k.level = 0 ∨ field e 52 12 ≠ 0 ∨ field e 1 11 ≠ 0 ∨ !tableOk (field e 12 40 * 2 ^ 12) then { k with done := true }
  else { k with level := k.level - 1, table := field e 12 40 * 2 ^ 12 }

/-- A leaf passes the checks that come before its bits are set, and is not write-blocked (R27, R31). -/
def leafGoes (sp : Space) (w : Who) (kind : Nat) (home : Bool) (va e : Nat) : Bool :=
  (leafCheck sp w kind home e (leafPa e va)).isNone && !((kind == 1 || kind == 2) && field e 62 1 == 1)

/-- The compare-and-set of a walk that has read its leaf (R27): the entry no longer stands, and it starts again in its slot; or the leaf,
with the bits it gets, is its result. -/
def State.compareLeaf (s : State) (k : Walk) (e l a : Nat) : Walk × State :=
  if !s.routed k.die (homeDie a) || s.badAt a 8 then ({ k with leaf := none, done := true }, s)
  else if readLE s.mem a 8 ≠ e then (k.restart, s)
  else if leafGoes k.sp k.who k.kind k.home k.va e then
    let s1 := s.markEntry a e (k.kind == 1 || k.kind == 2)
    let e1 := readLE s1.mem a 8
    ({ k with leaf := some (e1, l, a), done := true }, s1.cache k.pen k.sp k.va e1)
  else ({ k with done := true }, s)

/-- Walk n reads on; its result frees its slot, and stays for its agent (R33). -/
def State.walkRead (s : State) (n : Nat) : State := match s.walks[n]? with
  | some k =>
    if !k.holds then s
    else
      let (k1, s1) := match k.leaf with
        | some (e, l, a) => s.compareLeaf k e l a
        | none => (s.stepWalk k, s)
      let ws := s1.walks.set n k1
      { s1 with walks := if k1.done then promote k.pen k.die ws else ws }
  | none => s

/-- Walks of a pen after an invalidation: results are discarded, walks under way start again (R34). -/
def dropWalks (pen : Nat) (l : List Walk) : List Walk :=
  (l.filter (fun k => !(k.pen == pen && k.done))).map (fun k => if k.pen = pen then k.restart else k)

/-! ### One piece within a 4 KiB page -/

/-- What a translation of one piece gives: `wait` for a write-blocked page, `busy` while its walk is under way. -/
inductive Piece where
  | ok (pa leaf : Nat)
  | wait
  | busy
  | bad (f : Flt)
  deriving DecidableEq, Repr

/-- After the leaf is found: its checks, WBLK, the bits of R27, the cached translation. `at_` is the entry's address when the
walk read it, none for a cached leaf. A write that meets WBLK sets nothing until it goes on (DESIGN CHOICE, assumption 80). -/
def State.useLeaf (s : State) (sp : Space) (w : Who) (kind : Nat) (home : Bool) (va e level : Nat) (at_ : Option Nat) : Piece × State :=
  let pa := leafPa e va
  match leafCheck sp w kind home e pa with
  | some c => (.bad ⟨c, va, level⟩, s)
  | none =>
    let write := kind == 1 || kind == 2
    if write && field e 62 1 == 1 then (.wait, s)
    else (.ok pa e, match at_ with
      | some a =>
        let s' := s.markEntry a e write
        s'.cache (s.walkPen w) sp va (readLE s'.mem a 8)
      | none => s)

/-- What a walk's end gives an access. -/
def State.useWalk (s : State) (sp : Space) (w : Who) (kind : Nat) (home : Bool) (va : Nat) : WRes → Piece × State
  | .bad c l => (.bad ⟨c, va, l⟩, s)
  | .leaf e l a => s.useLeaf sp w kind home va e l (some a)

/-- A new walk takes a free slot, or waits for one (R33). -/
def State.newWalk (s : State) (sp : Space) (w : Who) (kind : Nat) (home : Bool) (va : Nat) : Piece × State :=
  if !s.walkFree (s.walkPen w) w.onDie then (.busy, s.addWalk w sp kind home va false)
  else if s.slow ≠ 0 then (.busy, s.addWalk w sp kind home va true)
  else s.useWalk sp w kind home va (s.walkOn w.onDie sp va)

/-- A result that an earlier walk of the agent left for the page: a leaf serves where its bits are set, or are not to be set; a fault
serves while it still stands. Anything else takes a new walk (R27, R33). -/
def State.useResult (s : State) (sp : Space) (w : Who) (kind : Nat) (home : Bool) (va : Nat) (k : Walk) : Piece × State :=
  match k.leaf with
  | some (e, l, _) =>
    if !leafGoes sp w kind home va e || (field e 5 1 == 1 && (kind == 0 || kind == 3 || field e 6 1 == 1)) then s.useLeaf sp w kind home va e l none
    else s.newWalk sp w kind home va
  | none =>
    match s.walkFrom k.die (k.level + 1) k.table va with
    | .bad c l => if (s.stepWalk { k with done := false }).done then (.bad ⟨c, va, l⟩, s) else s.newWalk sp w kind home va
    | .leaf _ _ _ => s.newWalk sp w kind home va

/-- A miss (R33): the agent's own walk goes on to its end in its slot, its result is taken, or a new walk begins. -/
def State.walkMiss (s : State) (sp : Space) (w : Who) (kind : Nat) (home : Bool) (va : Nat) : Piece × State :=
  match s.walks.find? (fun k => k.mine w sp va) with
  | none => s.newWalk sp w kind home va
  | some k =>
    if !k.active then (.busy, s)
    else if k.done then (s.endWalk k).useResult sp w kind home va k
    else (s.endWalk k).useWalk sp w kind home va (s.resumeWalk k va)

/-- Translate a piece: the checks before the walk, then a cached leaf or a fresh walk, whichever the part takes
(DESIGN CHOICE, assumption 9). A cached leaf serves a write only when its DIRTY bit is set (R27). An agent that may make no page-table read
takes a cached leaf, or waits. -/
def State.xlatePiece (s : State) (sp : Space) (w : Who) (kind : Nat) (home : Bool) (va : Nat) : Piece × State :=
  if !canonical va then (.bad ⟨0x04, va, 7⟩, s)
  else if systemHalf va && !sp.sys then (.bad ⟨0x02, va, 4⟩, s)
  else
    let write := kind == 1 || kind == 2
    match s.tlb.filter (fun t => t.covers (s.walkPen w) sp.spaceid va && (!write || field t.leaf 6 1 == 1)) with
    | [] => if w.cached then (.busy, s) else s.walkMiss sp w kind home va
    | ts =>
      let (x, s1) := s.draw
      match ts[x % (if w.cached then ts.length else ts.length + 1)]? with
      | some t => s1.useLeaf sp w kind home va t.leaf (sizeLevel (field t.leaf 10 2)) none
      | none => s1.walkMiss sp w kind home va

/-! ### Whole accesses -/

/-- Pieces of an access within 4 KiB pages: (address, length). -/
def pieces : Nat → Nat → Nat → List (Nat × Nat)
  | 0, _, _ => []
  | fuel + 1, va, n =>
    if n = 0 then [] else
      let k := min n (4096 - va % 4096)
      (va % 2 ^ 64, k) :: pieces fuel (va + k) (n - k)

/-- What a translation gives: physical segments with their leaves, and the union of the leaves' bits; a walk under way; a wait
on WBLK at an address; or the first fault. -/
structure Xl where
  segs : List (Nat × Nat) := []
  leaves : List Nat := []
  leaf : Nat := 0
  busy : Bool := false
  wait : Option Nat := none
  flt : Option Flt := none
  deriving DecidableEq, Repr

/-- WATCH, ATTR and ENC of a leaf. -/
def leafTag (e : Nat) : Nat := field e 63 1 * 2 ^ 63 + field e 8 2 * 2 ^ 8 + field e 7 1 * 2 ^ 7

/-- Translate every piece of an access; every piece is tried, and the first failure is reported (R27, R32), once no walk is under
way. -/
def State.xlateAll (s : State) (sp : Space) (w : Who) (kind : Nat) (home : Bool) : List (Nat × Nat) → Xl × State
  | [] => ({}, s)
  | (va, n) :: rest =>
    let (p, s1) := s.xlatePiece sp w kind home va
    let (x, s2) := s1.xlateAll sp w kind home rest
    match p with
    | .ok pa e => ({ x with segs := (pa, n) :: x.segs, leaves := e :: x.leaves, leaf := x.leaf ||| leafTag e }, s2)
    | .wait => ({ x with wait := some va }, s2)
    | .busy => ({ x with busy := true }, s2)
    | .bad f => ({ x with flt := some f }, s2)

/-- Translate n bytes at a virtual address. A home that no link reaches fails the access with class 0x24 (R404). -/
def State.xlate (s : State) (sp : Space) (w : Who) (kind : Nat) (home : Bool) (va n : Nat) : Xl × State :=
  let (x, s1) := s.xlateAll sp w kind home (pieces (n / 4096 + 2) va n)
  if x.busy then ({ busy := true }, s1)
  else if x.flt.isNone && x.segs.any (fun g => !s.routed w.onDie (homeDie g.1)) then ({ x with flt := some ⟨0x24, va, 7⟩ }, s1)
  else (x, s1)

/-- The pieces of a translated access: virtual address, bytes, physical address, leaf. -/
def Xl.pieces (x : Xl) (va : Nat) : List (Nat × Nat × Nat × Nat) :=
  ((x.segs.zip x.leaves).foldl (fun (r : Nat × List (Nat × Nat × Nat × Nat)) g => (r.1 + g.1.2, r.2 ++ [(r.1 % 2 ^ 64, g.1.2, g.1.1, g.2)])) (va, [])).2

/-- Lines of a host-tier page counted for an access: an address of the page, its leaf, the lines. -/
structure Warm where
  va : Nat
  leaf : Nat
  lines : Nat
  deriving DecidableEq, Repr

/-- Two of them are of one page. -/
def Warm.same (a b : Warm) : Bool := a.leaf == b.leaf && a.va / pageBytes (field a.leaf 10 2) == b.va / pageBytes (field b.leaf 10 2)

/-- One page's lines are joined to those of the pages before it. -/
def joinWarm (l : List Warm) (x : Warm) : List Warm :=
  if l.any (·.same x) then l.map (fun y => if y.same x then { y with lines := y.lines + x.lines } else y) else l ++ [x]

/-- An access counts its heat once for each page that it touches lines of (R37, R38). -/
def State.heatWarm (s : State) (w : Who) (sp : Space) (l : List Warm) : State :=
  ((l.foldl joinWarm []).filter (fun x => x.lines != 0)).foldl (fun s x => s.heatCount w.onDie (s.walkPen w) sp x.va x.leaf x.lines) s

/-- A piece goes through a watched leaf of the host tier. -/
def warmPiece (p : Nat × Nat × Nat × Nat) : Bool := field p.2.2.2 63 1 == 1 && tierOf p.2.2.1 == .host

/-- An access that goes on counts its heat, once (R37): lines through watched leaves of the host tier. -/
def State.heatAll (s : State) (w : Who) (sp : Space) (va : Nat) (x : Xl) : State :=
  s.heatWarm w sp (((x.pieces va).filter warmPiece).map (fun p => ⟨p.1, p.2.2.2, linesOf p.2.2.1 p.2.1⟩))

/-- The record of a fault of an access (R45): remaining bytes are the whole access. -/
def Who.frec (w : Who) (sp : Space) (kind n : Nat) (f : Flt) (done : Nat := 0) : FRec :=
  { cls := f.cls, stage := w.stage, cmdaddr := w.cmdaddr, rem := n - done, done := done, inst := w.inst, key := w.key,
    addr := f.addr, eng := w.eng, ctx := w.ctx, access := kind, level := f.level, core := w.core, ridx := w.ridx,
    spaceid := sp.spaceid.toNat }

/-- The agent that a context's own instruction is. -/
def State.whoCtx (s : State) (core ctx : Nat) (cmdaddr : Nat) : Who :=
  let t := s.ctx core ctx
  { core := core, ctx := ctx, inst := if ctx = 3 then 0 else ((s.core core).bind.map Bind.inst).getD 0,
    key := if ctx = 3 then {} else t.k, cmdaddr := cmdaddr }

end Sys2Proof.Machine
end

