-- ==== Sys2Proof/Machine/Ops.lean ====
section
/-!
DEFINITION. The named operations of a context: scalar and predicate registers with their full/empty bits (R91 to R93,
R235), falling through with repeats and hardware loops (R227, R252), gates (R98 to R100), arrival counters (R102),
taking a trap and returning from one (R333 to R336), and the one guard through which every instruction issues (R92, R213,
R230, R332).
-/
namespace Sys2Proof.Machine

/-! ### Registers -/

/-- Scalar register: s0 reads zero (R188, R214). -/
def Ctx.rd (c : Ctx) (n : Nat) : Dword := if n = 0 then 0 else mget 0 c.s n

/-- Write a scalar register; a write to s0 is discarded (R235). -/
def Ctx.wr (c : Ctx) (n : Nat) (x : Dword) : Ctx := if n = 0 then c else { c with s := mset c.s n x }

/-- A scalar register is full (R91); s0 is never empty. -/
def Ctx.full (c : Ctx) (n : Nat) : Bool := n == 0 || !mget false c.sE n

/-- Mark a scalar register empty or full; s0 is never marked (R93). -/
def Ctx.mark (c : Ctx) (n : Nat) (empty : Bool) : Ctx := if n = 0 then c else { c with sE := mset c.sE n empty }

/-- Predicate register: p0 is true (R213). -/
def Ctx.rdP (c : Ctx) (n : Nat) : Bool := n == 0 || mget false c.p n

def Ctx.wrP (c : Ctx) (n : Nat) (x : Bool) : Ctx := if n = 0 then c else { c with p := mset c.p n x }

def Ctx.fullP (c : Ctx) (n : Nat) : Bool := n == 0 || !mget false c.pE n

/-- Predicate source of format P: p0 to p7, then the stage predicates q0 to q7 (R215). -/
def Ctx.rdPQ (c : Ctx) (n : Nat) : Bool := if n < 8 then c.rdP n else mget false c.q (n - 8)

/-! ### Gates and counters -/

def gateMax : Nat := 65535

/-- Raise a gate: one more unit, at most 65,535. True when it overflowed (R100). -/
def Core.raiseGate (c : Core) (g : Nat) : Bool × Core :=
  let n := mget 0 c.gates g
  if n ≥ gateMax then (true, c) else (false, { c with gates := mset c.gates g (n + 1) })

/-- An agent begins to wait on a gate: by tick, then in the order c0 to c3, M, V, X, F (R100). -/
def insertWait (w : Nat × Nat × Nat) : List (Nat × Nat × Nat) → List (Nat × Nat × Nat)
  | [] => [w]
  | x :: l => if w.2.2 < x.2.2 ∨ (w.2.2 = x.2.2 ∧ w.2.1 < x.2.1) then w :: x :: l else x :: insertWait w l

/-- Agents waiting on a gate, longest first. -/
def Core.waiters (c : Core) (g : Nat) : List Nat := (c.gwait.filter (fun w => w.1 == g)).map (fun w => w.2.1)

/-- An agent waits on nothing any more. -/
def Core.dropWait (c : Core) (agent : Nat) : Core := { c with gwait := c.gwait.filter (fun w => w.2.1 != agent) }

/-- Await: the unit goes to the longest waiter (R98, R100). True when the agent took a unit; otherwise it waits. -/
def Core.awaitGate (c : Core) (g agent tick : Nat) : Bool × Core :=
  let ws := c.waiters g
  let ahead := match ws.findIdx? (· == agent) with
    | some i => i
    | none => ws.length
  if mget 0 c.gates g > ahead then
    (true, { c.dropWait agent with gates := mset c.gates g (mget 0 c.gates g - 1) })
  else if ws.contains agent then (false, c)
  else (false, { c with gwait := insertWait (g, agent, tick) c.gwait })

/-- A gate an agent may take a unit from now. -/
def Core.gateReady (c : Core) (g agent : Nat) : Bool :=
  let ws := c.waiters g
  decide (mget 0 c.gates g > (ws.findIdx? (· == agent)).getD ws.length)

/-- Arm a counter (R102, R104): none when the sum leaves the signed 32-bit range. -/
def Core.arm (c : Core) (b : Nat) (n : Int) : Option Core :=
  let x := mget 0 c.ctrs b + n
  if n < -2 ^ 31 ∨ 2 ^ 31 ≤ n ∨ x < -2 ^ 31 ∨ 2 ^ 31 ≤ x then none else some { c with ctrs := mset c.ctrs b x }

/-- Deliver into a counter (R102, R104): saturates at −2^31; true when it would have fallen below. -/
def Core.deliver (c : Core) (b n : Nat) : Bool × Core :=
  let x := mget 0 c.ctrs b - (n : Int)
  if x < -2 ^ 31 then (true, { c with ctrs := mset c.ctrs b (-2 ^ 31) }) else (false, { c with ctrs := mset c.ctrs b x })

/-! ### Hardware loops and falling through -/

/-- The turn-back examined where execution falls through from the word at e (R252). -/
def Ctx.loopEnd (c : Ctx) (e : Dword) : Ctx :=
  let inner : Option Ctx :=
    if c.hl1.active && c.hl1.last == e && decide (1 < c.hl1.count.toNat) then
      some { c with hl1 := { c.hl1 with count := c.hl1.count - 1 }, pc := c.hl1.start }
    else none
  match inner with
  | some c' => c'
  | none =>
    let c := if c.hl1.active && c.hl1.last == e then { c with hl1 := { c.hl1 with count := 0, active := false } } else c
    if c.hl0.active && c.hl0.last == e then
      if 1 < c.hl0.count.toNat then
        { c with hl0 := { c.hl0 with count := c.hl0.count - 1 }, pc := c.hl0.start }
      else if c.hl1.active then { c with hl0 := c.hl1, hl1 := {} }
      else { c with hl0 := { c.hl0 with count := 0, active := false } }
    else c

/-- An instruction of so many words completes without transferring control: the next repeat, or the next word, with the
loop turn-back of R252. R252 speaks of words and not of prefixes or of a command's first word: the turn-back is examined at the instruction's
last word only, and an END that names a prefix or a first word turns back nowhere (DESIGN CHOICE, assumption 112). -/
def Ctx.fall (c : Ctx) (words : Nat) : Ctx :=
  let c := { c with st := .running, req := none, wblk := none }
  let next := fun (c : Ctx) =>
    ({ c with pfx := {}, pc := c.pc + dw (4 * words) } : Ctx).loopEnd (c.pc + dw (4 * (words - 1)))
  match c.pfx.rep with
  | some r => if c.pfx.k < r.cnt.toNat then { c with pfx := { c.pfx with k := c.pfx.k + 1 } } else next c
  | none => next c

/-- Transfer control. A repeat that transfers ends its repetition: R227 does not say what becomes of the repeats left
(DESIGN CHOICE, assumption 113). -/
def Ctx.jump (c : Ctx) (pc : Dword) : Ctx := { c with st := .running, req := none, wblk := none, pfx := {}, pc := pc }

/-- The current context falls through. -/
def fall (words : Nat) (s : State) : State := s.setCur (s.cur.fall words)

/-- The current context is blocked at its instruction. -/
def blockCur (s : State) : State := s.setCur { s.cur with st := .blocked }

def holdCur (s : State) : State := s.setCur { s.cur with st := .held }

/-- Change the current context. -/
def State.onCur (s : State) (f : Ctx → Ctx) : State := s.setCur (f s.cur)

/-- Address of the first word of the instruction the context stands at (R230). -/
def Ctx.group (c : Ctx) : Dword := if c.pfx.active then c.pfx.start else c.pc

/-! ### Traps -/

def ctxCode (st : CtxSt) : Nat := match st with
  | .idle => 0
  | .running => 1
  | .blocked => 2
  | .held => 3
  | .stopped => 4

def ctxOfCode (n : Nat) : CtxSt := match n with
  | 0 => .idle
  | 2 => .blocked
  | 3 => .held
  | 4 => .stopped
  | _ => .running

/-- Iterations that a role context has ended (R254): it counts one before it waits for its next step. -/
def Ctx.ended (c : Ctx) : Nat := c.iter + if c.atIter then 1 else 0

def Ctx.intrap (c : Ctx) : Bool := c.tstat.getLsbD 46

/-- A future load that its home slice has deferred or refused. -/
def Acc.awaitsFuture (a : Acc) : Bool := (match a.op with
  | .fld _ => true
  | _ => false) && (a.phase == 2 || (a.phase == 0 && a.wait != 0))

/-- The context is blocked by a future load that is deferred or refused (R118, R162, R267). Its trap handler, which is Running
(R333), goes on (DEDUCED, assumption 29). -/
def Ctx.futureWaits (c : Ctx) : Bool := !c.intrap && c.pend.any Acc.awaitsFuture

/-- STATE as it reads (R162, R327): a context that has landed is Stopped. -/
def Ctx.state (c : Ctx) : CtxSt :=
  if c.landed.isSome then .stopped else if c.st = .running ∧ c.futureWaits then .blocked else c.st

/-! ### A waiting instruction's request (R70, R273, R276, R279) -/

/-- A context's number among all packages: its package context number (R160) above the package's (R403). -/
def State.member (s : State) (core ctx : Nat) : Nat := s.fabid * 4096 + 4 * core + ctx

/-- The first element that a test picks is removed. -/
def dropFirst {α : Type} (p : α → Bool) : List α → Option (List α)
  | [] => none
  | x :: l => if p x then some l else (dropFirst p l).map (x :: ·)

/-- A message of a member that has not reached the group's home yet: a join 0, an arrival 2, a question for the generation 6. -/
def isAsk (m what : Nat) : Pkt → Bool
  | .groupMsg _ x w => x == m && w == what
  | _ => false

/-- The answer to a member's question for the generation, on its way. -/
def isGen (m : Nat) : Pkt → Bool
  | .groupDone _ _ x w => x == m && w == 6
  | _ => false

/-- What a context asks for while it waits: a join or an arrival, here or at another package (0 or 2, with the answer plus
one), a launch (3, then 4 with the answer), a record of a queue (5, with the first of the registers that are empty for it), the
generation of a group of another package (6, with the answer plus one), a stop (7, with the answer plus one). -/
def askLaunch : Nat := 3
def gotLaunch : Nat := 4
def askPop : Nat := 5
def askGen : Nat := 6
def askStop : Nat := 7

/-- The context asks, for an instruction that it waits at: it has been fetched, and is not fetched again. -/
def Ctx.ask (c : Ctx) (i : Instr) (what n : Nat) : Ctx := { c with req := some (what, n), asked := some i }

/-- Mark the four registers of a record empty or full (R275). -/
def Ctx.markRecord (c : Ctx) (rb : Nat) (empty : Bool) : Ctx :=
  (((c.mark rb empty).mark (rb + 1) empty).mark (rb + 2) empty).mark (rb + 3) empty

/-- Withdraw what a blocked instruction has asked for: a launch not yet taken, a join not yet applied, a message not yet at
its home. None when it has been served or is on its way: the instruction then completes first. -/
def State.withdrawReq (s : State) (core ctx : Nat) : Option State :=
  let c := s.ctx core ctx
  let m := s.member core ctx
  let clear := fun (s : State) => s.modCtx core ctx (fun c => { c with req := none })
  match c.req with
  | none => some s
  | some (3, _) =>
    let pn := (s.penOf core).getD 16
    (dropFirst (fun (d : DevLaunch) => d.core == core && d.ctx == ctx) (s.pen pn).devq).map (fun q => clear (s.setPen pn { s.pen pn with devq := q }))
  | some (0, 0) =>
    (match s.groups.find? (fun g => g.2.joins.contains m), dropFirst (isAsk m 0) s.net with
     | some (n, g), _ => some (clear (s.setGrp n { g with joins := g.joins.filter (· != m) }))
     | none, some net => some (clear { s with net := net })
     | none, none => none)
  | some (2, 0) => (dropFirst (isAsk m 2) s.net).map (fun net => clear { s with net := net })
  | some (6, _) => some (clear { s with net := s.net.filter (fun p => !isAsk m 6 p && !isGen m p) })
  | some (5, rb) => some (clear (s.modCtx core ctx (·.markRecord rb false)))
  | some (7, 0) =>
    let pn := (s.penOf core).getD 16
    some (clear (s.setPen pn { s.pen pn with cutAsks := (s.pen pn).cutAsks.filter (fun r => r.1 != 4 * core + ctx + 1) }))
  | some _ => none

/-- The word at a virtual address as memory holds it, if it translates: used to see whether a context stands at a `rep`. -/
def State.peek (s : State) (c : Ctx) (va : Nat) : Option Nat :=
  match s.walk c.space va with
  | .leaf e _ _ => some (readLE s.mem (leafPa e va) 4)
  | .bad _ _ => none

/-- The context stands at a `rep` (R334 REPV). -/
def State.atRep (s : State) (c : Ctx) : Bool :=
  c.pfx.rep.isSome || decide (c.pfx.k ≠ 0) ||
    (!c.pfx.active && (s.peek c c.pc.toNat).any (fun w => decide (w / 2 ^ 25 = 0x15)))

/-- Copy a record's image into TREC0 to TREC7. -/
def Ctx.setTrec (c : Ctx) (image : Nat) : Ctx :=
  { c with trec := (List.range 8).map (fun j => (j, dw (image / 2 ^ (64 * j)))) }

/-- TSTAT as entry writes it (R333, R334). -/
def tstatOf (cls seq : Nat) (psys : Bool) (pstate : Nat) (repv : Bool) (repk : Nat) : Dword :=
  dw (cls % 256 * 2 ^ 56 + seq % 256 * 2 ^ 48 + (if psys then 2 ^ 47 else 0) + 2 ^ 46 + pstate % 8 * 2 ^ 43
    + (if repv then 2 ^ 42 else 0) + repk % 64 * 2 ^ 36)

/-- Entry into the context's own handler (R333, third arm). -/
def Ctx.enter (c : Ctx) (cls seq : Nat) (tpc : Dword) (repv : Bool) (pst : CtxSt) : Ctx :=
  { c with tpc := tpc, tstat := tstatOf cls seq c.sys (ctxCode pst) repv (if repv then c.pfx.k else 0),
           sys := true, st := .running, pc := dw (c.tvec.toNat / 4 * 4), pfx := {}, req := none, wblk := none }

/-- Send a record to the board controller and the host end, with message 3 (R333, R401); sealed for a confidential pen (DESIGN CHOICE, assumption 68). -/
def State.toHost (s : State) (core image : Nat) (conf : Bool) : State :=
  { s with hostRecs := (if conf then sealed image else image) :: s.hostRecs,
           msgs := (3, (s.penOf core).getD 0, image / 2 ^ 496 % 256) :: s.msgs }

/-- Take a trap (R333): the record, already written, is copied into TREC; then the trap is delegated, stops the context as
a double trap, or enters the handler. `tpc` and `pst` say where the context stands. -/
def State.takeTrap (s : State) (core ctx cls image : Nat) (double : Bool) (tpc : Dword) (pst : CtxSt) : State :=
  let c := (s.ctx core ctx).setTrec image
  let seq := image / 2 ^ 496 % 256
  let s := s.traceCtx core ctx (image / 2 ^ 224 % 2 ^ 32) (Coord.ofNat (image / 2 ^ 128)) 0xFFFF cls 4
  let c := { c with trapAt := tpc }
  let s := s.modCore core (fun k => k.dropWait ctx)
  if ctx ≠ 3 ∧ c.tctl.getLsbD 8 then
    let s := s.setCtx core ctx { c with st := .stopped, why := .delegated, preSt := pst, wblk := none }
    s.modCore core (fun k => (k.raiseGate (c.tctl.toNat % 32)).2)
  else if double then
    let s := s.setCtx core ctx { c with st := .stopped, why := .double, preSt := pst, wblk := none }
    if ctx ≠ 3 then s.modCore core (fun k => (k.raiseGate (c.tctl.toNat % 32)).2) else s.toHost core image c.conf
  else s.setCtx core ctx (c.enter cls seq tpc (s.atRep (s.ctx core ctx)) pst)

/-- A trap met at the issue of the context's own instruction: the record is written, then the trap taken (R333). `pst` is its
STATE. -/
def State.ownTrap (s : State) (core ctx : Nat) (r : FRec) (tpc : Dword) (pst : CtxSt := .running) : State :=
  let c := s.ctx core ctx
  let double := !(decide (ctx ≠ 3) && c.tctl.getLsbD 8) && c.intrap
  let r := { r with ctx := ctx, core := core, spaceid := c.spaceid.toNat }
  let (image, s1) := s.writeRec core (if double then { r with cls := 0x35, nclass := r.cls } else r)
  (s1.modCtx core ctx (fun c => { c with own := true })).takeTrap core ctx (if double then 0x35 else r.cls) image double tpc pst

/-- Record of a trap of the current context without a memory access (R333) (DEDUCED, assumption 42). -/
def State.plainRec (s : State) (cls : Nat) (addr : Nat := 0) : FRec :=
  { cls := cls, addr := addr, cmdaddr := s.cur.group.toNat, inst := (s.whoCtx s.curCore s.curCtx 0).inst }

/-- The current context takes a trap of a class that makes no access. -/
def trapCur (cls : Nat) (s : State) : State := s.ownTrap s.curCore s.curCtx (s.plainRec cls) s.cur.group

/-- The current context takes the trap of a fault of its access of n bytes at an address (R45: REMHI is the access's last byte). -/
def trapAccess (kind va n : Nat) (f : Flt) (s : State) : State :=
  s.ownTrap s.curCore s.curCtx
    { (s.whoCtx s.curCore s.curCtx s.cur.group.toNat).frec s.cur.space kind n f with remhi := va + n - 1 } s.cur.group

/-- The next pending trap of a context is taken at its boundary, unless it is in a handler or stopped (R332). What a waiting
instruction asked for is withdrawn, since it issues again; one whose answer is there or on its way completes first. -/
def State.takePending (s : State) (core ctx : Nat) : Option State :=
  let c := s.ctx core ctx
  match c.traps with
  | [] => none
  | t :: rest =>
    if c.intrap || c.st == .stopped then none
    else (s.withdrawReq core ctx).map (fun s =>
      (s.modCtx core ctx (fun c => { c with traps := rest, own := false })).takeTrap core ctx t.cls t.image false c.group
        (if c.st = .running ∧ c.futureWaits then .blocked else c.st))

/-- A word of a major from 0x40 to 0x77 has a second one (R221). -/
def twoWords (w : Nat) : Bool := decide (0x40 ≤ field w 25 7 ∧ field w 25 7 ≤ 0x77)

/-- Words of the instruction at an address, its prefixes with it, as memory holds them. -/
def State.span (s : State) (c : Ctx) : Nat → Nat → Nat
  | 0, _ => 1
  | fuel + 1, va => match s.peek c va with
    | some w => if field w 25 7 = 0x15 ∨ field w 25 7 = 0x16 then 1 + s.span c fuel (va + 4) else if twoWords w then 2 else 1
    | none => 1

/-- A context that resumes past the instruction it stood at when it trapped examines the turn-back at that instruction's last word (R252)
(DEDUCED, assumption 81). -/
def State.pastTrap (s : State) (c : Ctx) : Ctx :=
  if c.pfx.k == 0 && c.pc == c.trapAt + dw (4 * s.span c 4 c.trapAt.toNat) then c.loopEnd (c.pc - 4) else c

/-- Return from a trap (R335): SYS, STATE and PC as saved, resuming at the saved repeat; INTRAP cleared. -/
def Ctx.ret (c : Ctx) : Ctx :=
  { c with sys := c.tstat.getLsbD 47, st := ctxOfCode (field c.tstat.toNat 43 3), pc := c.tpc,
           pfx := { k := if c.tstat.getLsbD 42 then field c.tstat.toNat 36 6 else 0 },
           tstat := c.tstat &&& ~~~ (dw (2 ^ 46)), req := none, wblk := none }

/-! ### The guard of issue -/

/-- What an instruction asks at its issue. -/
structure Need where
  p : Nat
  words : Nat := 1
  /-- the encoding, or a prefix before it, is undefined (R230) -/
  undef : Bool := false
  /-- xim prefixes it takes (R218) -/
  xim : Nat := 0
  /-- the fields a rep may step, when a rep may precede it (R226, R227) -/
  rep : Option (Bool × Bool × Bool × Bool) := none
  sys : Bool := false
  src : List (Nat × Bool) := []
  psrc : List (Nat × Bool) := []
  dst : List Nat := []
  pdst : List Nat := []
  deriving DecidableEq, Repr

/-- The prefixes before the instruction are ones it takes (R218, R227). The system instructions, whose cell of R229 has no format letter
while R329 speaks of format R, take none (DEDUCED, assumption 114). -/
def Pfx.legal (x : Pfx) (n : Need) : Bool :=
  decide (x.xims.length ≤ n.xim) &&
    match x.rep with
    | none => true
    | some r => match n.rep with
      | none => false
      | some (a, b, c, d) => (a || r.st1 == 0) && (b || r.st2 == 0) && (c || r.st3 == 0) && (d || r.st4 == 0)

/-- What the guard finds. -/
inductive Verdict where
  | go | skip | wait
  | trap (cls : Nat)
  deriving DecidableEq, Repr

/-- The order of R332 as far as the guard sees it: undefined whatever the predicate (R230), the predicate (R92, R213), the
privilege, empty registers (a source that traps before one that waits, DEDUCED, assumption 6; an empty destination waits, R93). -/
def Ctx.verdict (c : Ctx) (n : Need) : Verdict :=
  if n.undef || !c.pfx.legal n then .trap 0x20
  else if !c.fullP n.p then .wait
  else if !c.rdP n.p then .skip
  else if n.sys && !c.sys then .trap 0x31
  else if n.src.any (fun r => r.2 && !c.full r.1) || n.psrc.any (fun r => r.2 && decide (r.1 < 8) && !c.fullP r.1) then .trap 0x28
  else if n.src.any (fun r => !c.full r.1) || n.psrc.any (fun r => decide (r.1 < 8) && !c.fullP r.1)
      || n.dst.any (fun r => !c.full r) || n.pdst.any (fun r => !c.fullP r) then .wait
  else .go

/-- Issue an instruction: what it needs, then what it does. -/
def guard (n : Need) (s : State) (k : State → State) : Host.Outcome State Fault Refusal :=
  match s.cur.verdict n with
  | .go => .next (k s)
  | .skip => .next (fall n.words s)
  | .wait => .next (blockCur s)
  | .trap c => .next (trapCur c s)

/-- A selector bit. -/
def sel (b : BitVec 1) : Bool := b == 1

end Sys2Proof.Machine
end

