-- ==== Sys2Proof/Machine/Access.lean ====
section
/-!
DEFINITION. What surrounds an access: the local spaces (R12 to R15, R51), the step it serves, held effects (R146, R147,
R152, R153), the shadow store (R76, R77, R149), purity (R181) and watched ranges (R182).
-/
namespace Sys2Proof.Machine

/-! ### Spaces -/

/-- First byte of a pen's chip-scratchpad window on a die, and its size in bytes (R14). -/
def State.chipWin (s : State) (pen die : Nat) : Nat × Nat :=
  let w := (mget 0 (s.pen pen).cspwin die).toNat
  (field w 0 7 * 2 ^ 20, field w 16 7 * 2 ^ 20)

def State.chipOf (s : State) (core : Nat) : Nat × Nat :=
  match s.penOf core with
  | some p => s.chipWin p (dieOf core)
  | none => (0, 0)

/-- Size of a local space (R12). -/
def State.spaceSize (s : State) (core spc : Nat) : Nat := match spc with
  | 1 => 0x200000
  | 2 => 0xC00000
  | 3 => (s.chipOf core).2
  | _ => 0

/-- Read n bytes of a space: 0 physical, 1 core scratchpad, 2 shed-shared, 3 chip scratchpad. -/
def State.rdSpc (s : State) (core spc a n : Nat) : Nat := match spc with
  | 1 => readLE (s.core core).sp a n
  | 2 => readLE (s.shed (shedOf core)).mem a n
  | 3 => readLE (s.die (dieOf core)).csp ((s.chipOf core).1 + a) n
  | _ => readLE s.mem a n

/-- Write n bytes of a space. -/
def State.wrSpc (s : State) (core spc a n x : Nat) : State := match spc with
  | 1 => s.modCore core (fun c => { c with sp := writeLE c.sp a n x })
  | 2 => let h := s.shed (shedOf core); s.setShed (shedOf core) { h with mem := writeLE h.mem a n x }
  | 3 => let d := s.die (dieOf core)
    s.setDie (dieOf core) { d with csp := writeLE d.csp ((s.chipOf core).1 + a) n x }
  | _ => { s with mem := writeLE s.mem a n x }

/-- Read the segments of an access, lowest first, as one number. -/
def State.rdSegs (s : State) (core spc : Nat) : List (Nat × Nat) → Nat
  | [] => 0
  | (a, n) :: l => s.rdSpc core spc a n + 2 ^ (8 * n) * s.rdSegs core spc l

/-- Write a number over the segments of an access. -/
def State.wrSegs (s : State) (core spc : Nat) : List (Nat × Nat) → Nat → State
  | [], _ => s
  | (a, n) :: l, x => (s.wrSpc core spc a n (x % 2 ^ (8 * n))).wrSegs core spc l (x / 2 ^ (8 * n))

/-! ### Bad lines (R79, R80) -/

/-- A write covers a whole line, which makes it good again. -/
def coversLine (segs : List (Nat × Nat)) (line : Nat) : Bool := segs.any (fun g => decide (g.1 ≤ 64 * line ∧ 64 * line + 64 ≤ g.1 + g.2))

/-- Two ranges of bytes have a common one. -/
def overlaps (a n b m : Nat) : Bool := decide (a < b + m ∧ b < a + n)

/-- A write of part of a bad line, which stops its writer. -/
def State.badWrite (s : State) (segs : List (Nat × Nat)) : Bool :=
  s.bad.any (fun l => segs.any (fun g => overlaps g.1 g.2 (64 * l) 64) && !coversLine segs l)

def State.clearBad (s : State) (segs : List (Nat × Nat)) : State := { s with bad := s.bad.filter (fun l => !coversLine segs l) }

/-! ### What stands stored (R350, R392, R399) -/

/-- The bytes of segments, by address. -/
def segAddrs (segs : List (Nat × Nat)) : List Nat := segs.flatMap (fun g => (List.range g.2).map (g.1 + ·))

/-- Bytes just written stand encrypted under a tenant key, or not encrypted. -/
def State.sealWith (s : State) (key : Option Nat) (segs : List (Nat × Nat)) : State :=
  { s with enc := match key with
    | some t => (segAddrs segs).foldl (fun m a => mset m a t) s.enc
    | none => s.enc.filter (fun p => !segs.any (fun g => decide (g.1 ≤ p.1 ∧ p.1 < g.1 + g.2))) }

/-- A byte as it stands stored: its ciphertext where it was written encrypted. -/
def State.storedByte (s : State) (a : Nat) : Nat :=
  match (s.enc.find? (fun p => p.1 == a)).map Prod.snd with
  | some t => Config.cipher t a (readLE s.mem (a / 64 * 64) 64) % 256
  | none => (byteAt s.mem a).toNat

/-- n bytes as they stand stored. -/
def State.stored (s : State) (a : Nat) : Nat → Nat
  | 0 => 0
  | n + 1 => s.storedByte a + 256 * s.stored (a + 1) n

/-- A write of n bytes by no agent of a core, at a physical address, under a tenant key or none: one that covers only part of a
bad line is not made. -/
def State.physWrite (s : State) (key : Option Nat) (pa n x : Nat) : State :=
  if s.badWrite [(pa, n)] then s else (({ s with mem := writeLE s.mem pa n x } : State).clearBad [(pa, n)]).sealWith key [(pa, n)]

/-- The tenant key under which the package itself writes for a pen: a confidential pen's (R392). -/
def Pen.seals (p : Pen) : Option Nat := if p.conf then some p.tenant else none

/-! ### Instances and steps -/

def State.inst? (s : State) (n : Nat) : Option Inst := s.insts.find? (fun i => i.num == n)

def State.modInst (s : State) (n : Nat) (f : Inst → Inst) : State :=
  { s with insts := s.insts.map (fun i => if i.num = n then f i else i) }

/-- Oldest unretired step of a binding. -/
def Bind.oldest (b : Bind) : Option Step := b.steps.find? (fun t => !t.retired)

def Bind.step? (b : Bind) (k : Coord) : Option Step := b.steps.find? (fun t => t.key == k)

/-- The higher of two coordinates, and the highest of a list. -/
def Coord.max (a b : Coord) : Coord := if a.rank < b.rank then b else a

def highest (ks : List Coord) : Option Coord := ks.foldl (fun m k => some (match m with
  | none => k
  | some x => x.max k)) none

/-- The retired frontier (R145): the highest retired step with no unretired one below it. -/
def Bind.frontier (b : Bind) : Option Coord :=
  highest (((b.steps.filter Step.retired).map Step.key).filter (fun k => b.steps.all (fun t => t.retired || decide (k.rank < t.key.rank))))

/-- A step lies beyond a coordinate; none is no step at all (R155). -/
def beyond (c : Option Coord) (k : Coord) : Bool := match c with
  | none => true
  | some l => decide (l.rank < k.rank)

/-- The coordinate that bounds a core's effects during a stop: c in phase 1, L from then on (R152, R153). -/
def CutPart.bound (p : CutPart) : Option Coord := if p.phase = 1 then p.c else p.l

/-- What becomes of a held effect (R146, R147, R152, R153). -/
inductive Held where
  | ok | stall | drop
  deriving DecidableEq, Repr

/-- A blocking instruction of a role context serves a step beyond the decided L: it has no effect (R153). -/
def State.cutDrops (s : State) (core ctx : Nat) (k : Coord) : Bool :=
  decide (ctx ≠ 3) && decide (2 ≤ (s.core core).cut.phase) && (s.core core).bind.isSome && beyond (s.core core).cut.l k

/-- A step of a role context lies beyond the bound that a stop sets to effects (R152, R153). -/
def State.barred (s : State) (core ctx : Nat) (k : Coord) : Bool :=
  decide (ctx ≠ 3) && decide (1 ≤ (s.core core).cut.phase) && (s.core core).bind.isSome && beyond (s.core core).cut.bound k

/-- A held effect for a step: c3's are never held (R160); otherwise only for the oldest unretired step (R147). -/
def State.held (s : State) (core ctx : Nat) (k : Coord) : Held :=
  if ctx = 3 then .ok
  else match (s.core core).bind with
    | none => .ok
    | some b =>
      if s.cutDrops core ctx k then .drop
      else if s.barred core ctx k then .stall
      else match b.oldest with
        | none => .ok
        | some o => if o.key = k then .ok else .stall

/-- Mark a step committed (R147). -/
def State.commit (s : State) (core ctx : Nat) (k : Coord) : State :=
  if ctx = 3 then s
  else s.modCore core (fun c => { c with bind := c.bind.map (fun b =>
    { b with steps := b.steps.map (fun t => if t.key = k then { t with committed := true } else t) }) })

/-! ### Shadow store -/

/-- The first dword of a shadow entry (R76). -/
def shadowLine (core spc a : Nat) : Nat := match spc with
  | 2 => 2 * 2 ^ 62 + dieOf core * 2 ^ 58 + shedOf core % 8 * 2 ^ 55 + a / 64
  | 3 => 3 * 2 ^ 62 + dieOf core * 2 ^ 58 + a / 64
  | _ => a / 64

/-- Lines that a list of segments touches, by their lowest address. -/
def segLines (segs : List (Nat × Nat)) : List Nat :=
  (segs.flatMap (fun g => (List.range (linesOf g.1 g.2)).map (fun i => (g.1 / 64 + i) * 64))).eraseDups

/-- Restore a shadow entry's pre-image to the line its first dword names, in its pen's window (R76, R153). -/
def State.restoreLine (s : State) (pen : Nat) (e : Shadow) : State :=
  let line := e.where_ % 2 ^ 46 * 64
  let die := field e.where_ 58 4
  match field e.where_ 62 2 with
  | 2 => let i := 8 * die + field e.where_ 55 3
    let h := s.shed i; s.setShed i { h with mem := writeLE h.mem line 64 e.pre }
  | 3 => let d := s.die die
    s.setDie die { d with csp := writeLE d.csp ((s.chipWin pen die).1 + line) 64 e.pre }
  | _ => ({ s with mem := writeLE s.mem line 64 e.pre } : State).clearBad [(line, 64)]

/-- The first byte of an access from a virtual address on, of bytes that its segments give, that does not pass. -/
def firstByte (bad : Nat → Bool) : Nat → List (Nat × Nat) → Option Nat
  | _, [] => none
  | va, (pa, n) :: l => match (List.range n).find? (fun j => bad (pa + j)) with
    | some j => some (va + j)
    | none => firstByte bad (va + n) l

/-- Result of asking for the entries a write needs (R149): granted, a stall, or no entry for a line. -/
inductive Grant where
  | ok (s : State)
  | stall
  | full (line : Nat)
  deriving Repr

/-- A step holds a shadow entry. -/
def Core.holds (c : Core) (inst : Nat) (k : Coord) : Bool := c.shadow.any (fun e => e.inst == inst && e.key == k)

/-- Oldest retired step still holding entries (R149). -/
def Core.oldestRetiredHolding (c : Core) (b : Bind) : Option Step :=
  b.steps.find? (fun t => t.retired && c.holds b.inst t.key)

/-- Take one entry for a line, for a step of the bound instance. -/
def State.logLine (s : State) (core spc : Nat) (inst : Nat) (k : Coord) (a : Nat) : Grant :=
  let c := s.core core
  let w := shadowLine core spc a
  match c.bind with
  | none => .ok s
  | some b =>
    match b.step? k with
    | none => .ok s
    | some t =>
      if b.inst ≠ inst ∨ t.retired ∨ c.shadow.any (fun e => e.where_ == w && e.inst == inst && e.key == k) then .ok s
      else
        let entry : Shadow := ⟨w, inst, k, s.rdSpc core spc a 64⟩
        let take := fun (c : Core) => Grant.ok (s.setCore core { c with shadow := c.shadow ++ [entry] })
        let oldest := b.oldest.any (fun o => o.key == k)
        if !oldest then
          let others := c.shadow.filter (fun e => b.steps.any (fun t => t.key == e.key && !t.retired && !(b.oldest.any (fun o => o.key == t.key))))
          if c.shadow.length ≥ 2048 ∨ others.length ≥ 1024 then .stall else take c
        else if c.shadow.length < 2048 then take c
        else if c.cut.phase = 1 ∨ (c.cut.phase ≥ 2 ∧ beyond c.cut.l k) then .stall
        else match c.oldestRetiredHolding b with
          | none => .full a
          | some r => take { c with
              shadow := c.shadow.filter (fun e => !(e.inst == inst && e.key == r.key)),
              bind := some { b with steps := b.steps.map (fun t => if t.key = r.key then { t with freed := true } else t) } }

/-- Log every line of a write made for a step, before the write is visible (R77). -/
def State.logAll (s : State) (core spc inst : Nat) (k : Coord) : List Nat → Grant
  | [] => .ok s
  | a :: l => match s.logLine core spc inst k a with
    | .ok s1 => s1.logAll core spc inst k l
    | g => g

/-- The fault of an access whose line finds no entry: at its first byte there (R45, R149). -/
def fullAt (va : Nat) (segs : List (Nat × Nat)) (line : Nat) : Nat := (firstByte (fun pa => pa / 64 * 64 == line) va segs).getD va

/-- Log a write of an agent: contexts c3 and scratchpad are never logged (R146, R160). -/
def State.logWrite (s : State) (core ctx spc inst : Nat) (k : Coord) (segs : List (Nat × Nat)) : Grant :=
  if ctx = 3 ∨ spc = 1 then .ok s else s.logAll core spc inst k (segLines segs)

/-! ### Watched ranges and purity -/

/-- The space of an instance (R360). -/
def Inst.space (i : Inst) (conf : Bool) : Space := ⟨i.spaceid, i.wb0, i.wb1, false, conf⟩

/-- A virtual range of a space maps to a byte of some physical segments. -/
def State.aliases (s : State) (sp : Space) (segs : List (Nat × Nat)) (r : Nat × Nat) : Bool :=
  (pieces (r.2 / 4096 + 2) r.1 r.2).any (fun p => match s.walk sp p.1 with
    | .leaf e _ _ => segs.any (fun g => overlaps (leafPa e p.1) p.2 g.1 g.2)
    | .bad _ _ => false)

/-- A write through a watched leaf covers a byte of a watched range: of the writer's own space, or through what the range's space
maps to the same bytes (R182) (DEDUCED, assumption 22). -/
def State.touches (s : State) (same : Bool) (sp : Space) (va n : Nat) (segs : List (Nat × Nat)) (rs : List (Nat × Nat)) : Bool :=
  rs.any (fun r => (same && overlaps va n r.1 r.2) || s.aliases sp segs r)

/-- A write of n bytes through a watched leaf invalidates the entries that cover it, in every pen, and spoils the running
pure instances that have loaded from such a range (R182). -/
def State.watchWrite (s : State) (pen : Nat) (sp : Space) (va n : Nat) (segs : List (Nat × Nat)) : State :=
  { s with
    pens := s.pens.map (fun p => (p.1, { p.2 with refl := p.2.refl.filter (fun e =>
      !s.touches (p.1 == pen && e.space.spaceid == sp.spaceid) e.space va n segs e.watch) }))
    insts := s.insts.map (fun i =>
      if i.pure && i.watched && s.touches (i.pen == pen && i.spaceid == sp.spaceid) (i.space false) va n segs i.watch
      then { i with spoiled := true } else i) }

/-- Invalidate every entry of every pen: a stop restored a line (R182). -/
def State.watchRestore (s : State) : State :=
  { s with
    pens := s.pens.map (fun p => (p.1, { p.2 with refl := [] }))
    insts := s.insts.map (fun i => if i.pure && i.watched then { i with spoiled := true } else i) }

/-- What is written through a leaf with ENC = 1 is held encrypted under the pen's tenant key, through another it is not (R30, R350,
R399) (DEDUCED, assumption 89). -/
def State.sealAs (s : State) (pen leaf : Nat) (segs : List (Nat × Nat)) : State :=
  s.sealWith (if field leaf 7 1 = 1 then some (s.pen pen).tenant else none) segs

/-- What follows a write of device translation: bad lines that it covers are good, watched ranges are told, lines stand encrypted
or not. -/
def State.wrote (s : State) (core : Nat) (sp : Space) (leaf va n : Nat) (segs : List (Nat × Nat)) : State :=
  let pen := (s.penOf core).getD 16
  let s1 := (s.clearBad segs).sealAs pen leaf segs
  if field leaf 63 1 = 1 then s1.watchWrite pen sp va n segs else s1

def within (va n : Nat) (r : Nat × Nat) : Bool := decide (r.1 ≤ va ∧ va + n ≤ r.1 + r.2)

/-- Every one of n bytes lies in some range; each step of the fuel passes one range (DEDUCED, assumption 82). -/
def coveredBy (rs : List (Nat × Nat)) : Nat → Nat → Nat → Bool
  | 0, _, n => n == 0
  | fuel + 1, va, n =>
    n == 0 || (match rs.find? (fun r => decide (r.1 ≤ va ∧ va < r.1 + r.2)) with
      | some r => coveredBy rs fuel (r.1 + r.2) (n - (r.1 + r.2 - va))
      | none => false)

/-- How an access stands to the purity descriptor (R181): a load, a store, or an operation no pure instance may make. -/
inductive Pure where
  | load | store | never
  deriving DecidableEq, Repr

/-- The access violates the descriptor of an instance; `ps` are its pieces, each with its leaf: address, bytes, leaf. -/
def Inst.violates (i : Inst) (how : Pure) (va n : Nat) (ps : List (Nat × Nat × Nat)) : Bool := match how with
  | .never => true
  | .store => !coveredBy i.outs (i.outs.length + 1) va n
  | .load => !coveredBy (i.ins ++ i.watch) (i.ins.length + i.watch.length + 1) va n
      || ps.any (fun p => i.watch.any (fun r => overlaps p.1 p.2.1 r.1 r.2) && field p.2.2 63 1 == 0)

/-- A violation writes a record of class 0x30 and marks the instance impure; the access proceeds (R181). Word 45 counts the
records written (R388). -/
def State.purity (s : State) (w : Who) (sp : Space) (how : Pure) (kind va n : Nat) (ps : List (Nat × Nat × Nat)) : State :=
  match if w.ctx = 3 then none else s.inst? w.inst with
  | none => s
  | some i =>
    if !i.pure then s
    else
      let s := if how == .load && i.watch.any (fun r => overlaps va n r.1 r.2) then s.modInst w.inst (fun i => { i with watched := true }) else s
      if i.violates how va n ps then
        let h := s.shed (shedOf w.core)
        let s := if (s.core w.core).ringRoom then s.setShed (shedOf w.core) { h with cnt := bump h.cnt 45 } else s
        (s.modInst w.inst (fun i => { i with impure := true })).recordOnly w.core w.ctx
          { w.frec sp kind n ⟨0x30, va, 7⟩ with remhi := va + n - 1 }
      else s

/-! ### Arrivals into windows, and writers that wait on WBLK (R42, R43, R318) -/

/-- The window of a number that a core holds open. -/
def Core.twin? (c : Core) (n : Nat) : Option TWin :=
  match c.twin.find? (fun p => p.1 == n) with
  | some p => if p.2.opened then some p.2 else none
  | none => none

/-- The address space of an arrival into a window. It acts in program state, so that a window over the system half is refused: the spec does not
say in which (DESIGN CHOICE, assumption 119). -/
def State.winSpace (s : State) (w : TWin) (core : Nat) : Space :=
  ⟨w.spaceid, w.wb0, w.wb1, false, (s.pen ((s.penOf core).getD 16)).conf⟩

/-- The core and window that a request arrives at. -/
def Pkt.target : Pkt → Nat × Nat
  | .put _ _ _ _ tcore win _ _ _ => (tcore, win)
  | .getReq _ _ _ _ tcore win _ _ => (tcore, win)
  | .ramo _ _ _ tcore win _ _ _ _ => (tcore, win)
  | _ => (0, 64)

/-- The space in which a packet's arrival writes. -/
def State.arrSpace (s : State) (p : Pkt) : Space :=
  s.winSpace (((s.core p.target.1).twin? p.target.2).getD ⟨0, 0, 0, 0, 0, 0, 0, true⟩) p.target.1

/-- The space in which a core's save area is written: of c3 for `cpre`, else of the bound instance (R345, R365). -/
def State.preSpace (s : State) (core : Nat) (p : Pre) : Space :=
  let conf := (s.pen ((s.penOf core).getD 16)).conf
  if p.byC3 then (s.ctx core 3).space
  else (((s.core core).bind.bind (fun b => s.inst? b.inst)).map (fun i => i.space conf)).getD (s.ctx core 0).space

/-- The space of a host launch (R360). -/
def Pen.hostSpace (p : Pen) : Space := ⟨p.spaceid, p.wb0, p.wb1, false, p.conf⟩

/-- The agent of the distributor's accesses for a pen: attributed to C, with the master number of the lowest shed (R360). -/
def distWho (p : Pen) : Who := { core := 12 * (p.sheds.foldl min 71), ctx := 3 }

/-- The die whose list a writer for an instance, or for a pen, parks in. -/
def Pen.die (p : Pen) : Nat := dieOf (distWho p).core

/-- Writers parked on a die: contexts and engine commands of its cores, final atomics of chains, arrivals into windows, writes of save
areas, and the distributor's (DEDUCED, assumption 21); the list has 64 places. -/
def State.parkedOn (s : State) (die : Nat) : Nat :=
  let on := fun (w : Option Park) => if w.any Park.parked then 1 else 0
  let total := fun (l : List Nat) => l.foldl (· + ·) 0
  total ((s.cores.filter (fun c => dieOf c.1 == die)).map (fun c =>
      total (c.2.ctxs.map (fun t => on t.2.wblk)) + total (c.2.engs.map (fun e => total (e.2.cmds.map (fun m => on m.wblk)))) +
        on (c.2.pre.bind Pre.wblk)))
    + total ((s.fchains.filter (fun c => c.die == die)).map (fun c => on c.wblk))
    + total ((s.arrs.filter (fun a => dieOf a.pkt.target.1 == die)).map (fun a => on a.wblk))
    + total ((s.insts.filter (fun i => (s.pen i.pen).die == die)).map (fun i => on i.wblk))
    + total ((s.pens.filter (fun p => p.2.die == die)).map (fun p => on (p.2.refusing.map (fun r => r.2.2))))

/-- A writer with n bytes still to write begins to wait at an address; `done` bytes are done, and `hi` is the last address left. -/
def State.newPark (s : State) (die va kind n done hi : Nat) : Park :=
  { since := s.tick, va := va, kind := kind, n := n, parked := decide (s.parkedOn die < 64), done := done, hi := hi, tried := s.tick }

/-- It may translate again: an invalidation has woken it, or it is in no list and 64 ticks have passed (R42). -/
def Park.mayTry (p : Park) (tick : Nat) : Bool := !p.parked && (p.woken || decide (p.tried + 64 ≤ tick))

/-- It has found the page still write-blocked: it parks once more where the list has a place. -/
def State.parkAgain (s : State) (die : Nat) (p : Park) : Park :=
  { p with parked := decide (s.parkedOn die < 64), tried := s.tick, woken := false }

/-- The pieces of a translated access as `purity` takes them. -/
def Xl.leafs (x : Xl) (va : Nat) : List (Nat × Nat × Nat) := (x.pieces va).map (fun p => (p.1, p.2.1, p.2.2.2))

end Sys2Proof.Machine
end

