-- ==== Sys2Proof/Machine/RegRead.lean ====
section
/-!
DEFINITION. What a read of a register block gives (spec 21 R396 to R398), and the values of the registers that are also system
registers.
-/
namespace Sys2Proof.Machine

/-! ### Register values -/

/-- CUTDONE (R154). -/
def Pen.cutdone (p : Pen) : Nat :=
  p.cutL.pack + (if p.cutNoinst then 2 ^ 124 else 0) + (if p.cutLate then 2 ^ 125 else 0) + (if p.cutDone then 2 ^ 126 else 0)
    + (if p.cutBusy then 2 ^ 127 else 0)

/-- RFCTL (R341). -/
def Pen.rfctl (p : Pen) : Nat := p.rfcap % 2 ^ 12 + p.refl.length % 2 ^ 12 * 2 ^ 16

/-- On-chip records and spilled records together (R71). -/
def HQ.depth (q : HQ) : Nat := q.chip.length + q.ring

def State.hq (s : State) (shed n : Nat) : HQ := (s.shed shed).queue n

def HQ.ctl (q : HQ) : Nat :=
  q.hiwm % 2 ^ 16 * 2 ^ 32 + q.lowm % 2 ^ 16 * 2 ^ 16 + q.logsize % 16 * 2 ^ 8 + (if q.enable then 1 else 0)

/-- Dword f of a queue's registers (R71). -/
def HQ.reg (q : HQ) (f : Nat) : Nat := match f with
  | 0 => q.ctl
  | 1 => field q.base.toNat 5 27 * 32
  | 2 => q.cons.toNat % 2 ^ 48
  | _ => q.depth

/-- Heat registers (R40). -/
def HeatRegs.ctl (h : HeatRegs) : Nat :=
  (if h.enable then 2 ^ 31 else 0) + h.logsize % 16 * 2 ^ 16 + h.core % 2 ^ 11 * 2 ^ 5 + h.gate % 32

def HeatRegs.reg (h : HeatRegs) (f : Nat) : Nat := match f with
  | 0 => h.ctl
  | 1 => h.base.toNat
  | 2 => h.tail
  | _ => h.head

def State.heatReg (s : State) (die pen : Nat) : HeatRegs := mget {} (s.die die).heatRegs pen

/-! ### Register blocks -/

/-- Accepted and not yet complete instances of a pen, at most 256 (R355). -/
def State.penInsts (s : State) (pen : Nat) : List Inst := s.insts.filter (fun i => i.pen == pen)

/-- Value of a register of a block at a dword offset: none where no register lies. -/
def State.blockReg (s : State) (b off : Nat) : Option Nat :=
  let link := fun (l : Link) => (if l.up then 1 else 0) + (if l.out then 2 else 0)
  if b = 0 then (match off with
    | 0x00 => some s.fabid
    | 0x08 => some ((if s.bcnEnable then 2 ^ 31 else 0) + s.bcnK * 2 ^ 16)
    | 0x10 => some s.bcnr.ctl.toNat
    | 0x18 => some s.bcnr.head
    | 0x20 => some s.bcnr.tail
    | 0x28 => some (s.tick % 2 ^ 64)
    | 0x40 => some (if s.hostLink then 1 else 0)
    | _ => none)
  else if b ≤ 9 then
    let d := b - 1
    if off < 0x48 then
      (let j := off / 8
       if j = d then none else some (link (mget {} s.links (64 + 16 * min d j + max d j))))
    else if 0x100 ≤ off ∧ off < 0x120 then some (link (mget {} s.links (4 * d + (off - 0x100) / 8)))
    else if off = 0x200 then some (s.die d).wbtime.toNat
    else if 0x10000 ≤ off ∧ off < 0x10400 ∧ off % 0x40 < 0x20 then some ((s.heatReg d ((off - 0x10000) / 0x40)).reg (off % 0x40 / 8))
    else if 0x20000 ≤ off ∧ off < 0x21000 then some ((s.hq (8 * d + (off - 0x20000) / 0x200) (off % 0x200 / 0x20)).reg (off % 0x20 / 8))
    else if 0x30000 ≤ off ∧ off < 0x30600 then
      (let c := s.core (96 * d + (off - 0x30000) / 0x10)
       some (if off % 0x10 = 0 then c.c3start.toNat else c.c3space.toNat))
    else none
  else if b ≤ 25 then
    let p := s.pen (b - 10)
    if off < 0x80 then
      (let q : LQ := mget {} p.lqs (off / 0x10)
       some (if off % 0x10 = 0 then q.base.toNat else q.count % 2 ^ 32 * 2 ^ 32 + (if q.enable then 2 ^ 31 else 0) + q.logsize % 16))
    else match off with
      | 0x80 => some 0
      | 0x88 => some ((if p.enable then 1 else 0) + (if p.premode then 2 ^ 8 else 0) + p.age % 16 * 2 ^ 12)
      | 0x90 => some (p.cutreq.toNat % 2 ^ 64)
      | 0x98 => some (p.cutreq.toNat / 2 ^ 64)
      | 0xA0 => some (p.cutdone % 2 ^ 64)
      | 0xA8 => some (p.cutdone / 2 ^ 64)
      | 0xB0 => some (p.cutackCount * 2 ^ 32 + (if p.cutackBad then 2 else 0) + (if p.cutackAccept then 1 else 0))
      | 0xB8 => some p.rfctl
      | 0xC0 => some p.trcctl.toNat
      | 0xC8 => some p.trcbase.toNat
      | 0xD0 => some p.trctail
      | 0xD8 => some p.trchead
      | 0xE0 => some p.brkaddr.toNat
      | 0xE8 => some (p.brkHits * 2 ^ 32 + (if p.brkEnable then 2 ^ 31 else 0) + (if (s.penInsts (b - 10)).any Inst.brkHeld then 2 ^ 30 else 0))
      | 0x100 => some p.pbcn.ctl.toNat
      | 0x108 => some p.pbcn.head
      | 0x110 => some p.pbcn.tail
      | _ => none
  else none

/-- Trace, breakpoint and pen-ring registers of a pen. A confidential pen's are reached only by its own system state (R392, R397). -/
def hiddenReg (off : Nat) : Bool := decide (0xC0 ≤ off ∧ off ≤ 0xE8) || decide (0x100 ≤ off ∧ off ≤ 0x110)

def State.hidden (s : State) (master b off : Nat) (sys : Bool) : Bool :=
  decide (10 ≤ b ∧ b ≤ 25) && (s.pen (b - 10)).conf && hiddenReg off && !(sys && (s.pen (b - 10)).sheds.contains master)

/-- Size and alignment of an access to a register block (R396). -/
def regShape (pa n : Nat) : Bool := (n == 4 && pa % 4 == 0) || (n == 8 && pa % 8 == 0)

/-- A register-block access has the size and alignment that R396 asks for. -/
def Xl.regFault (x : Xl) (va : Nat) : Option Flt :=
  if x.segs.any (fun g => tierOf g.1 == .regs) && (decide (x.segs.length ≠ 1) || x.segs.any (fun g => !regShape g.1 g.2)) then some ⟨0x29, va, 7⟩
  else none

/-- A translation is not used: it has set no bit of a leaf and is not remembered. R27 asks for the bits of an access that passes the
checks of R31, and does not say whether one that then has no legal shape for a register block has passed them: here it has not
(DESIGN CHOICE, assumption 92). -/
def State.untouched (s t : State) : State := { s with walks := t.walks, slow := t.slow, free := t.free }

/-- Read 4 or 8 bytes of a register (R396); `sys` says whether the reader is in system state. -/
def State.regRead (s : State) (master pa n : Nat) (sys : Bool) : Nat := match regBlock pa with
  | some (b, off) =>
    let v := if s.hidden master b (off / 8 * 8) sys then 0 else (s.blockReg b (off / 8 * 8)).getD 0
    if n = 8 then v else if off % 8 = 0 then v % 2 ^ 32 else v / 2 ^ 32
  | none => 0

/-- Read the segments of a space, or a register. -/
def State.rdAny (s : State) (core master spc : Nat) (segs : List (Nat × Nat)) (sys : Bool) : Nat := match segs with
  | [(pa, n)] => if spc = 0 ∧ tierOf pa = .regs then s.regRead master pa n sys else s.rdSpc core spc pa n
  | _ => s.rdSegs core spc segs

end Sys2Proof.Machine
end

