-- ==== Sys2Proof/Machine/Fetch.lean ====
section
/-!
DEFINITION. Fetching instruction words (R173, R212): the admitted ranges, translation as an instruction fetch by C, the
access table, an uncorrectable error.
-/
namespace Sys2Proof.Machine

/-- What fetching one word gives: the word, a fault, or nothing yet while a walk is under way. -/
inductive Fetched where
  | word (w : Nat)
  | busy
  | bad (f : Flt)
  deriving DecidableEq, Repr

/-- A range covers a word. -/
def inRange (va : Nat) (r : Nat × Nat) : Bool := decide (r.1 ≤ va ∧ va + 4 ≤ r.1 + r.2)

/-- The unadmitted-code check (R173): role contexts fetch only admitted code, and no context fetches rejected code. -/
def State.admits (s : State) (core ctx va : Nat) : Bool :=
  match s.penOf core with
  | none => decide (ctx = 3)
  | some p => !(s.pen p).rejected.any (inRange va) && (decide (ctx = 3) || (s.pen p).admitted.any (inRange va))

/-- Check a range of physical bytes at its target: the access table (R35, R36), then an uncorrectable error (R79). -/
def State.targetCheck (s : State) (core pa n : Nat) (write : Bool) : Option Nat :=
  if !s.granted (shedOf core) pa n write then some 0x07 else if !write && s.badAt pa n then some 0x32 else none

/-- The first piece of an access that its target answers with a class. -/
def State.targetChecks (s : State) (core : Nat) (write : Bool) (segs : List (Nat × Nat)) : Option Nat :=
  segs.findSome? (fun g => s.targetCheck core g.1 g.2 write)

/-- Fetch one word for a context: the four bytes at an address, aligned or not, since the spec gives a PC that is no multiple of 4 no other
effect (DESIGN CHOICE, assumption 111). A frame that is a register block gives its half of the dword (R396). What a context has fetched
before, and fetches `again` as it waits, counts no heat (R37). -/
def State.fetchWord (s : State) (core ctx va : Nat) (again : Bool := false) : Fetched × State :=
  let c := s.ctx core ctx
  if !s.admits core ctx va then (.bad ⟨0x2D, va, 7⟩, s)
  else
    match s.xlate c.space (s.whoCtx core ctx c.group.toNat) kFetch false va 4 with
    | (x, s1) =>
      if x.busy then (.busy, s1)
      else match x.flt, x.regFault va with
        | some f, _ => (.bad f, s1)
        | none, some f => (.bad f, s.untouched s1)
        | none, none =>
          let s2 := if again then s1 else s1.heatAll (s1.whoCtx core ctx 0) c.space va x
          match s2.targetChecks core false x.segs with
          | some cls => (.bad ⟨cls, va, 7⟩, s2)
          | none => (.word (s2.rdAny core (shedOf core) 0 x.segs c.sys), s2)

/-- The trap of a fetch fault: the record names the first faulting byte (R212, R332). -/
def trapFetch (f : Flt) (s : State) : State := trapAccess kFetch f.addr 4 f s

end Sys2Proof.Machine
end

