-- ==== Sys2Proof/Machine/Flags.lean ====
section
/-!
DEFINITION. Number formats, rounding, overflow and the sticky flags (spec 08, R193 to R209), and the exact-sum cell
(spec 02, R61 to R65). Values are exact: a finite float is a sign, a natural number and a power of two, and a quotient
keeps its numerator and denominator until the one rounding its instruction names.
-/
namespace Sys2Proof.Machine

/-- The sticky flags of AFLAGS (R204), one bit each. -/
abbrev FNV : Nat := 1
abbrev FOF : Nat := 2
abbrev FUF : Nat := 4
abbrev FNX : Nat := 8
abbrev FSAT : Nat := 16

/-- A result and the flags it raises. -/
abbrev Res := Nat × Nat

/-- A floating format of R193. Bits sh and up of the container hold the value; cw is the container's width in bits. -/
structure Fmt where
  code : Nat
  eb : Nat
  mb : Nat
  bias : Nat
  hasInf : Bool
  hasNan : Bool
  cw : Nat
  sh : Nat
  deriving DecidableEq, Repr

abbrev fFP32 : Fmt := ⟨0, 8, 23, 127, true, true, 32, 0⟩
abbrev fFP19 : Fmt := ⟨1, 8, 10, 127, true, true, 32, 13⟩
abbrev fBF16 : Fmt := ⟨2, 8, 7, 127, true, true, 16, 0⟩
abbrev fFP16 : Fmt := ⟨3, 5, 10, 15, true, true, 16, 0⟩
abbrev fE5M2 : Fmt := ⟨4, 5, 2, 15, true, true, 8, 0⟩
abbrev fE4M3 : Fmt := ⟨5, 4, 3, 7, false, true, 8, 0⟩
abbrev fE3M2 : Fmt := ⟨6, 3, 2, 3, false, false, 8, 0⟩
abbrev fE2M3 : Fmt := ⟨7, 2, 3, 1, false, false, 8, 0⟩
abbrev fE2M1 : Fmt := ⟨8, 2, 1, 1, false, false, 4, 0⟩

/-- An element type: an integer of a width, signed or not, or a float. -/
inductive Ty where
  | int (w : Nat) (sgn : Bool)
  | flt (f : Fmt)
  deriving DecidableEq, Repr

/-- The type of a format code of R193. -/
def Ty.ofFmt (c : Nat) : Ty :=
  match c with
  | 0 => .flt fFP32 | 1 => .flt fFP19 | 2 => .flt fBF16 | 3 => .flt fFP16 | 4 => .flt fE5M2 | 5 => .flt fE4M3
  | 6 => .flt fE3M2 | 7 => .flt fE2M3 | 8 => .flt fE2M1 | 9 => .int 16 true | 10 => .int 8 true | 11 => .int 8 false
  | 12 => .int 4 true | 13 => .int 4 false | 14 => .int 2 true | _ => .int 2 false

/-- The type of a vector element code of R223. -/
def Ty.ofVec (c : Nat) : Ty :=
  match c with
  | 0 => .int 4 true | 1 => .int 8 true | 2 => .int 16 true | 3 => .int 32 true
  | 4 => .int 4 false | 5 => .int 8 false | 6 => .int 16 false | 7 => .int 32 false
  | 8 => .flt fE2M1 | 9 => .flt fE3M2 | 10 => .flt fE2M3 | 11 => .flt fE4M3
  | 12 => .flt fE5M2 | 13 => .flt fBF16 | 14 => .flt fFP16 | _ => .flt fFP32

/-- Width of an element's container in bits; the 6-bit types take 8 (R281). -/
def Ty.width : Ty → Nat
  | .int w _ => w
  | .flt f => f.cw

def Ty.isFloat : Ty → Bool
  | .int _ _ => false
  | .flt _ => true

/-- A floating value: a NaN, an infinity, or a signed m·2^e. -/
inductive Fp where
  | nan
  | inf (neg : Bool)
  | fin (neg : Bool) (m : Nat) (e : Int)
  deriving DecidableEq, Repr

/-- Value of an encoding (R194). -/
def decodeF (f : Fmt) (x : Nat) : Fp :=
  let b := x / 2 ^ f.sh % 2 ^ (1 + f.eb + f.mb)
  let fr := b % 2 ^ f.mb
  let ex := b / 2 ^ f.mb % 2 ^ f.eb
  let neg := decide (b / 2 ^ (f.mb + f.eb) = 1)
  if f.hasInf ∧ ex = 2 ^ f.eb - 1 then (if fr = 0 then .inf neg else .nan)
  else if ¬ f.hasInf ∧ f.hasNan ∧ ex = 2 ^ f.eb - 1 ∧ fr = 2 ^ f.mb - 1 then .nan
  else if ex = 0 then .fin neg fr (1 - (f.bias : Int) - f.mb)
  else .fin neg (2 ^ f.mb + fr) ((ex : Int) - f.bias - f.mb)

/-- An encoding from its sign, biased exponent and fraction. -/
def encF (f : Fmt) (neg : Bool) (ex fr : Nat) : Nat :=
  ((if neg then 2 ^ (f.eb + f.mb) else 0) + ex * 2 ^ f.mb + fr) * 2 ^ f.sh

/-- The positive canonical NaN (R194). -/
def canonNan (f : Fmt) : Nat :=
  if f.hasInf then encF f false (2 ^ f.eb - 1) (2 ^ (f.mb - 1)) else encF f false (2 ^ f.eb - 1) (2 ^ f.mb - 1)

def encInf (f : Fmt) (neg : Bool) : Nat := encF f neg (2 ^ f.eb - 1) 0

def encZero (f : Fmt) (neg : Bool) : Nat := encF f neg 0 0

/-- Biased exponent and fraction of the largest finite value. -/
def maxFields (f : Fmt) : Nat × Nat :=
  if f.hasInf then (2 ^ f.eb - 2, 2 ^ f.mb - 1)
  else if f.hasNan then (2 ^ f.eb - 1, 2 ^ f.mb - 2)
  else (2 ^ f.eb - 1, 2 ^ f.mb - 1)

def encMax (f : Fmt) (neg : Bool) : Nat := encF f neg (maxFields f).1 (maxFields f).2

/-- Overflow of R201, under entry `ent` of OVFTAB for the format; `mode` is the code of R198. -/
def overflow (f : Fmt) (ent mode : Nat) (neg : Bool) : Res :=
  let ent := if ent = 0 ∧ ¬ f.hasInf then (if f.hasNan then 2 else 1) else ent
  let ent := if ent = 2 ∧ ¬ f.hasNan then 1 else ent
  let r :=
    if ent = 2 then canonNan f
    else if ent = 1 then encMax f neg
    else if mode = 0 ∨ mode = 4 then encInf f neg
    else if mode = 1 ∨ mode = 5 then encMax f neg
    else if mode = 2 then (if neg then encMax f true else encInf f false)
    else (if neg then encInf f true else encMax f false)
  (r, FOF ||| FNX)

/-- A quotient y = n/d rounded to an integer in a mode of R198; `neg` is the sign of the value it belongs to. -/
def roundQuot (mode : Nat) (neg : Bool) (n d : Nat) : Nat :=
  let q := n / d
  let r := n % d
  if r = 0 then q else
  match mode with
  | 0 => if 2 * r < d then q else if d < 2 * r then q + 1 else if q % 2 = 0 then q else q + 1
  | 1 => q
  | 2 => if neg then q else q + 1
  | 3 => if neg then q + 1 else q
  | 4 => if 2 * r < d then q else q + 1
  | _ => if q % 2 = 0 then q + 1 else q

/-- Floor of the binary logarithm of n/d, both positive. -/
def log2Quot (n d : Nat) : Int :=
  let g : Int := (Nat.log2 n : Int) - Nat.log2 d
  let ge := if 0 ≤ g then decide (d * 2 ^ g.toNat ≤ n) else decide (d ≤ n * 2 ^ (-g).toNat)
  if ge then g else g - 1

/-- n·2^k as a quotient of natural numbers over d. -/
def scaleQuot (n d : Nat) (k : Int) : Nat × Nat :=
  if 0 ≤ k then (n * 2 ^ k.toNat, d) else (n, d * 2 ^ (-k).toNat)

/-- Round of R199 of the nonzero value ±(n/d)·2^k. A result that rounds to zero keeps the value's sign (DEDUCED, assumption 19). -/
def roundTo (f : Fmt) (ent mode : Nat) (neg : Bool) (n d : Nat) (k : Int) : Res :=
  let e := log2Quot n d + k
  let emin : Int := 1 - (f.bias : Int)
  let ue : Int := max e emin - f.mb
  let y := scaleQuot n d (k - ue)
  let m := roundQuot mode neg y.1 y.2
  let inexact := decide (y.1 % y.2 ≠ 0)
  let fl := (if inexact then FNX else 0) ||| (if inexact ∧ e < emin then FUF else 0)
  let m' := if m = 2 ^ (f.mb + 1) then 2 ^ f.mb else m
  let ue' := if m = 2 ^ (f.mb + 1) then ue + 1 else ue
  let ex : Int := ue' + f.mb + f.bias
  let mx := maxFields f
  if 2 ^ f.mb ≤ m' ∧ ((mx.1 : Int) < ex ∨ (ex = mx.1 ∧ mx.2 < m' - 2 ^ f.mb)) then
    let o := overflow f ent mode neg
    (o.1, o.2 ||| fl)
  else if m' < 2 ^ f.mb then (encF f neg 0 m', fl)
  else (encF f neg ex.toNat (m' - 2 ^ f.mb), fl)

/-- Round of an exact signed integer times a power of two; `zneg` is the sign a zero takes (R200). -/
def roundInt2 (f : Fmt) (ent mode : Nat) (zneg : Bool) (x : Int) (k : Int) : Res :=
  if x = 0 then (encZero f zneg, 0) else roundTo f ent mode (decide (x < 0)) x.natAbs 1 k

/-- m·2^e as a signed integer at the power e0 ≤ e. -/
def alignTo (neg : Bool) (m : Nat) (e e0 : Int) : Int :=
  let v : Int := (m * 2 ^ (e - e0).toNat : Nat)
  if neg then -v else v

/-- Sum of two finite values, each a sign, number and power; the zero rule of R200. -/
def addFin (f : Fmt) (ent mode : Nat) (n1 : Bool) (m1 : Nat) (e1 : Int) (n2 : Bool) (m2 : Nat) (e2 : Int) : Res :=
  let e0 := min e1 e2
  let z := if m1 = 0 ∧ m2 = 0 ∧ n1 = n2 then n1 else decide (mode = 3)
  roundInt2 f ent mode z (alignTo n1 m1 e1 e0 + alignTo n2 m2 e2 e0) e0

/-- The result that any NaN operand gives (R203). -/
def nanRes (f : Fmt) : Res := (canonNan f, 0)

/-- The NaN an invalid operation gives (R203). -/
def invalid (f : Fmt) : Res := (canonNan f, FNV)

/-- Addition of R290. -/
def addF (f : Fmt) (ent mode : Nat) (a b : Fp) : Res :=
  match a, b with
  | .nan, _ => nanRes f
  | _, .nan => nanRes f
  | .inf x, .inf y => if x = y then (encInf f x, 0) else invalid f
  | .inf x, _ => (encInf f x, 0)
  | _, .inf y => (encInf f y, 0)
  | .fin n1 m1 e1, .fin n2 m2 e2 => addFin f ent mode n1 m1 e1 n2 m2 e2

def Fp.neg : Fp → Fp
  | .nan => .nan
  | .inf s => .inf (!s)
  | .fin s m e => .fin (!s) m e

/-- Multiplication of R290. -/
def mulF (f : Fmt) (ent mode : Nat) (a b : Fp) : Res :=
  match a, b with
  | .nan, _ => nanRes f
  | _, .nan => nanRes f
  | .inf x, .inf y => (encInf f (x != y), 0)
  | .inf x, .fin y m _ => if m = 0 then invalid f else (encInf f (x != y), 0)
  | .fin y m _, .inf x => if m = 0 then invalid f else (encInf f (x != y), 0)
  | .fin n1 m1 e1, .fin n2 m2 e2 =>
    if m1 * m2 = 0 then (encZero f (n1 != n2), 0) else roundTo f ent mode (n1 != n2) (m1 * m2) 1 (e1 + e2)

/-- Division of R290. -/
def divF (f : Fmt) (ent mode : Nat) (a b : Fp) : Res :=
  match a, b with
  | .nan, _ => nanRes f
  | _, .nan => nanRes f
  | .inf _, .inf _ => invalid f
  | .inf x, .fin y _ _ => (encInf f (x != y), 0)
  | .fin y _ _, .inf x => (encZero f (x != y), 0)
  | .fin n1 m1 e1, .fin n2 m2 e2 =>
    if m2 = 0 then (if m1 = 0 then invalid f else (encInf f (n1 != n2), 0))
    else if m1 = 0 then (encZero f (n1 != n2), 0)
    else roundTo f ent mode (n1 != n2) m1 m2 (e1 - e2)

/-- Fused a·b + d of R291; a product 0·∞ is invalid even when d is NaN. -/
def fmaF (f : Fmt) (ent mode : Nat) (a b d : Fp) : Res :=
  match a, b with
  | .nan, _ => nanRes f
  | _, .nan => nanRes f
  | .inf x, .inf y => infPlus (x != y)
  | .inf x, .fin y m _ => if m = 0 then invalid f else infPlus (x != y)
  | .fin y m _, .inf x => if m = 0 then invalid f else infPlus (x != y)
  | .fin n1 m1 e1, .fin n2 m2 e2 =>
    match d with
    | .nan => nanRes f
    | .inf z => (encInf f z, 0)
    | .fin n3 m3 e3 => addFin f ent mode (n1 != n2) (m1 * m2) (e1 + e2) n3 m3 e3
where
  infPlus (s : Bool) : Res :=
    match d with
    | .nan => nanRes f
    | .inf z => if z = s then (encInf f s, 0) else invalid f
    | .fin _ _ _ => (encInf f s, 0)

/-- Exact order of two values that are not NaN: -1, 0 or 1, the zeros of both signs equal. -/
def cmpF (a b : Fp) : Int :=
  match a, b with
  | .nan, _ => 0
  | _, .nan => 0
  | .inf x, .inf y => if x = y then 0 else if x then -1 else 1
  | .inf x, _ => if x then -1 else 1
  | _, .inf y => if y then 1 else -1
  | .fin n1 m1 e1, .fin n2 m2 e2 =>
    let e0 := min e1 e2
    let d := alignTo n1 m1 e1 e0 - alignTo n2 m2 e2 e0
    if d < 0 then -1 else if d = 0 then 0 else 1

def Fp.isNan : Fp → Bool
  | .nan => true
  | _ => false

def Fp.isNeg : Fp → Bool
  | .nan => false
  | .inf s => s
  | .fin s _ _ => s

/-- The lesser of two encodings, -0 below +0 (R290, vfmin); x and y are the operands' encodings. -/
def minF (f : Fmt) (x y : Nat) : Res :=
  let a := decodeF f x
  let b := decodeF f y
  if a.isNan ∨ b.isNan then nanRes f
  else if cmpF a b < 0 then (x, 0) else if 0 < cmpF a b then (y, 0) else if a.isNeg then (x, 0) else (y, 0)

/-- The greater of two encodings, +0 above -0 (R290, vfmax). -/
def maxF (f : Fmt) (x y : Nat) : Res :=
  let a := decodeF f x
  let b := decodeF f y
  if a.isNan ∨ b.isNan then nanRes f
  else if 0 < cmpF a b then (x, 0) else if cmpF a b < 0 then (y, 0) else if a.isNeg then (y, 0) else (x, 0)

/-- Least and greatest value of an integer type. -/
def minInt (w : Nat) (sgn : Bool) : Int := if sgn then -(2 ^ (w - 1) : Nat) else 0
def maxInt (w : Nat) (sgn : Bool) : Int := if sgn then (2 ^ (w - 1) : Nat) - 1 else (2 ^ w : Nat) - 1

/-- Sat of R199: the encoding of the value clamped into the type, SAT set when it changes. -/
def satInt (w : Nat) (sgn : Bool) (x : Int) : Res :=
  let y := max (minInt w sgn) (min x (maxInt w sgn))
  (wrapInt w y, if y = x then 0 else FSAT)

/-- Value of an integer element's encoding. -/
def intVal (w : Nat) (sgn : Bool) (x : Nat) : Int := if sgn then signed w x else (x % 2 ^ w : Nat)

/-- RoundInt of R294 applied to a finite value. -/
def roundIntF (mode : Nat) (neg : Bool) (m : Nat) (e : Int) : Int × Nat :=
  let y := scaleQuot m 1 e
  let q : Int := roundQuot mode neg y.1 y.2
  (if neg then -q else q, if y.1 % y.2 = 0 then 0 else FNX)

/-- Cvt into a float, from an exact value (R294). -/
def cvtToF (f : Fmt) (ent mode : Nat) (x : Fp) : Res :=
  match x with
  | .nan => if f.hasNan then (canonNan f, 0) else (encZero f false, FNV)
  | .inf s => if f.hasInf then (encInf f s, 0) else overflow f ent mode s
  | .fin s m e => if m = 0 then (encZero f s, 0) else roundTo f ent mode s m 1 e

/-- Exact value of an element. -/
def fpOf (t : Ty) (x : Nat) : Fp :=
  match t with
  | .flt f => decodeF f x
  | .int w sgn => .fin (decide (intVal w sgn x < 0)) (intVal w sgn x).natAbs 0

/-- Entry of OVFTAB for a format (R201). -/
def ovfEnt (ovftab : Dword) (f : Fmt) : Nat := ovftab.toNat / 2 ^ (2 * f.code) % 4

/-- Cvt of R294 of an exact value x of a float type (a scaled element, R317, included). -/
def cvtFp (dt : Ty) (ovftab : Dword) (mode : Nat) (x : Fp) : Res :=
  match dt with
  | .flt f => cvtToF f (ovfEnt ovftab f) mode x
  | .int w sgn =>
    match x with
    | .nan => (0, FNV)
    | .inf s => (wrapInt w (if s then minInt w sgn else maxInt w sgn), FSAT)
    | .fin s m e =>
      let r := roundIntF mode s m e
      let t := satInt w sgn r.1
      (t.1, r.2 ||| t.2)

/-- Cvt of R294. -/
def cvt (st dt : Ty) (ovftab : Dword) (mode : Nat) (wrap : Bool) (x : Nat) : Res :=
  match st, dt with
  | .int w1 s1, .int w2 s2 => if wrap then (wrapInt w2 (intVal w1 s1 x), 0) else satInt w2 s2 (intVal w1 s1 x)
  | _, _ => cvtFp dt ovftab mode (fpOf st x)

/-- The contents OVFTAB takes under a generation profile (R202). -/
def profileOvf (p : Nat) : Dword := if p = 1 then 0x00015544 else if p = 2 then 0x00015900 else 0x00015800

/-! ### Exact-sum cells (R61 to R65): the cell is a number below 2^512 -/

/-- VALUE of a cell as a signed number. -/
def cellValue (c : Nat) : Int := signed 480 c

def mkCell (v : Int) (ninf pinf : Nat) (ovf nan : Bool) : Nat :=
  wrapInt 480 v + ninf * 2 ^ 480 + pinf * 2 ^ 495 + (if ovf then 2 ^ 510 else 0) + (if nan then 2 ^ 511 else 0)

def cellNinf (c : Nat) : Nat := c / 2 ^ 480 % 2 ^ 15
def cellPinf (c : Nat) : Nat := c / 2 ^ 495 % 2 ^ 15
def cellOvf (c : Nat) : Bool := decide (c / 2 ^ 510 % 2 = 1)
def cellNan (c : Nat) : Bool := decide (c / 2 ^ 511 % 2 = 1)

/-- A signed sum lies in the range of VALUE. -/
def cellFits (t : Int) : Bool := decide (-(2 ^ 479 : Nat) ≤ t ∧ t < (2 ^ 479 : Nat))

/-- The exact-sum add of R62. -/
def cellAdd (c : Nat) (x : Fp) : Nat :=
  match x with
  | .nan => mkCell (cellValue c) (cellNinf c) (cellPinf c) (cellOvf c) true
  | .inf false => mkCell (cellValue c) (cellNinf c) (min (cellPinf c + 1) 32767) (cellOvf c) (cellNan c)
  | .inf true => mkCell (cellValue c) (min (cellNinf c + 1) 32767) (cellPinf c) (cellOvf c) (cellNan c)
  | .fin s m e =>
    let t := cellValue c + alignTo s m (e + 149) 0
    mkCell t (cellNinf c) (cellPinf c) (cellOvf c || !cellFits t) (cellNan c)

/-- The exact-sum merge of R63 of source cell b into cell a. -/
def cellMerge (a b : Nat) : Nat :=
  let t := cellValue a + cellValue b
  mkCell t (min (cellNinf a + cellNinf b) 32767) (min (cellPinf a + cellPinf b) 32767)
    (cellOvf a || cellOvf b || !cellFits t) (cellNan a || cellNan b)

/-- The exact-sum read of R65. -/
def cellRead (f : Fmt) (ent mode : Nat) (c : Nat) : Res :=
  if cellNan c then (canonNan f, 0)
  else if cellOvf c then (canonNan f, FNV)
  else if 0 < cellPinf c ∧ 0 < cellNinf c then (canonNan f, FNV)
  else if 0 < cellPinf c then (encInf f false, 0)
  else if 0 < cellNinf c then (encInf f true, 0)
  else roundInt2 f ent mode false (cellValue c) (-149)

/-- The float type of an exact-sum instruction's TY field (R264, R266, R324). -/
def xsumFmt (ty : Nat) : Fmt := if ty = 0 then fFP32 else if ty = 1 then fBF16 else fFP16

end Sys2Proof.Machine
end

