-- ==== Sys2Proof/Machine/Operands.lean ====
section
/-!
DEFINITION. Operand forms: immediates widened by xim (R217), unsigned immediates (R244), the fields a rep steps (R226,
R227), ordering and scope codes (R110, R219), what each format needs at its issue.
-/
namespace Sys2Proof.Machine

/-- X : … : IMM, the first xim highest (R217), without sign extension. -/
def immCat (n imm : Nat) (xims : List (BitVec 25)) : Nat := xims.foldl (fun a x => a * 2 ^ 25 + x.toNat) 0 * 2 ^ n + imm

/-- The immediate of an n-bit field, sign-extended from its widened width. -/
def immS (n imm : Nat) (xims : List (BitVec 25)) : Int := signed (25 * xims.length + n) (immCat n imm xims)

/-- The displacement an engine command's xim gives: SignExtend(X), 0 without a prefix (R217). -/
def engDisp (xims : List (BitVec 25)) : Int := if xims.isEmpty then 0 else immS 0 0 xims

/-- Step codes 0, 1, 2 and 3 mean 0, 1, 2 and 4 (R226). -/
def stepOf (c : BitVec 2) : Nat := if c = 3 then 4 else c.toNat

/-- A field of a word advanced by k steps, modulo its width. -/
def advance (w lo n k step : Nat) : Nat := w - field w lo n * 2 ^ lo + (field w lo n + k * step) % 2 ^ n * 2 ^ lo

/-- The engine majors of formats ES and EV (R229). -/
def esMajors : List Nat :=
  [0x40, 0x41, 0x42, 0x43, 0x45, 0x47, 0x60, 0x61, 0x62, 0x63, 0x64, 0x65, 0x68, 0x69, 0x6A, 0x6B, 0x70, 0x71, 0x72, 0x73, 0x74]
def evMajors : List Nat := [0x44, 0x46, 0x48, 0x49, 0x4A, 0x4B, 0x4C, 0x4D, 0x4E, 0x50]

/-- Stepping fields 1 to 4 of a word's format as (lowest bit, width); width 0 where the table marks none (R226). -/
def stepFields (op : Nat) : List (Nat × Nat) :=
  if op = 0 ∨ op = 7 ∨ op = 0x0D ∨ op = 0x12 ∨ (0x30 ≤ op ∧ op ≤ 0x39) then [(17, 5), (12, 5), (6, 5), (0, 0)]
  else if (1 ≤ op ∧ op ≤ 6) ∨ op = 0x0B ∨ op = 0x0C ∨ (0x20 ≤ op ∧ op ≤ 0x27) then [(17, 5), (12, 5), (0, 0), (0, 0)]
  else if op = 8 then [(19, 3), (11, 5), (5, 5), (0, 0)]
  else if op = 9 then [(19, 3), (11, 5), (0, 0), (0, 0)]
  else if op = 0x0A then [(19, 3), (0, 0), (0, 0), (0, 0)]
  else if op = 0x4F then [(17, 5), (12, 5), (0, 0), (2, 5)]
  else if evMajors.contains op then [(17, 5), (12, 5), (7, 5), (0, 0)]
  else if esMajors.contains op then [(17, 5), (11, 5), (5, 5), (0, 0)]
  else [(0, 0), (0, 0), (0, 0), (0, 0)]

/-- The instruction word that repeat k issues (R227). -/
def stepWord (w : Nat) (r : FRep) (k : Nat) : Nat :=
  (List.zip (stepFields (field w 25 7)) [r.st1, r.st2, r.st3, r.st4]).foldl
    (fun w x => if x.1.2 = 0 then w else advance w x.1.1 x.1.2 k (stepOf x.2)) w

/-- Scope of an acquire, and of a release, of an OS code (R219). -/
def osAcq (os : Nat) : Option Nat := if 1 ≤ os ∧ os ≤ 5 then some (os - 1) else if 11 ≤ os then some (os - 11) else none
def osRel (os : Nat) : Option Nat := if 6 ≤ os ∧ os ≤ 10 then some (os - 6) else if 11 ≤ os then some (os - 11) else none

/-! ### Needs by format -/

def repR : Option (Bool × Bool × Bool × Bool) := some (true, true, true, false)
def repI : Option (Bool × Bool × Bool × Bool) := some (true, true, false, false)

end Sys2Proof.Machine

namespace Sys2Proof
open Sys2Proof.Machine

def FR.need (f : FR) : Need :=
  { p := f.p.toNat, rep := repR, src := [(f.a.toNat, sel f.fa), (f.b.toNat, sel f.fb)], dst := [f.d.toNat] }
def FI.need (f : FI) : Need :=
  { p := f.p.toNat, xim := 2, rep := repI, src := [(f.a.toNat, sel f.fa)], dst := [f.d.toNat] }
def FSh.need (f : FSh) (undef : Bool) : Need :=
  { p := f.p.toNat, undef := undef, xim := 2, rep := repI, src := [(f.a.toNat, sel f.fa)], dst := [f.d.toNat] }
def FU.need (f : FU) : Need := { p := f.p.toNat, rep := repR, src := [(f.a.toNat, sel f.fa)], dst := [f.d.toNat] }
def FC.need (f : FC) : Need :=
  { p := f.p.toNat, rep := repR, src := [(f.a.toNat, sel f.fa), (f.b.toNat, sel f.fb)], pdst := [f.pd.toNat] }
def FCI.need (f : FCI) : Need :=
  { p := f.p.toNat, xim := 2, rep := repI, src := [(f.a.toNat, sel f.fa)], pdst := [f.pd.toNat] }
def FP.need (f : FP) : Need :=
  { p := f.p.toNat, rep := some (true, false, false, false), psrc := [(f.pa.toNat, sel f.fa), (f.pb.toNat, sel f.fb)], pdst := [f.pd.toNat] }
def FP1.need (f : FP1) : Need :=
  { p := f.p.toNat, rep := some (true, false, false, false), psrc := [(f.pa.toNat, sel f.fa)], pdst := [f.pd.toNat] }

end Sys2Proof

namespace Sys2Proof.Machine

/-- A control-subset result written to a scalar, then the fall-through (R235). -/
def setS (d : Nat) (v : Ctx → Dword) (s : State) : State := fall 1 (s.onCur (fun c => c.wr d (v c)))

/-- A truth written to a predicate. -/
def setP (d : Nat) (v : Ctx → Bool) (s : State) : State := fall 1 (s.onCur (fun c => c.wrP d (v c)))

/-- A saturating result: SAT is set when it saturated (R199, R235). -/
def setSat (d : Nat) (v : Ctx → Res) (s : State) : State :=
  fall 1 (s.onCur (fun c => { c.wr d (dw (Prod.fst (v c))) with aflags := c.aflags ||| dw (Prod.snd (v c)) }))

end Sys2Proof.Machine
end

