-- ==== Sys2Proof/Machine/Control.lean ====
section
/-!
DEFINITION. Branches, calls, hardware loops, the iteration boundary, the prefixes and the safe point (spec 09 R217, R226;
spec 10 R247 to R254; spec 14 R342).
-/
namespace Sys2Proof.Machine

/-- Target of a direct transfer: the branch word's address plus four times the offset (R247). -/
def branchTarget (c : Ctx) (off : BitVec 22) : Dword := c.pc + dwordOfInt (4 * immS 22 off.toNat c.pfx.xims)

/-- `br` (R247). -/
def execBr (f : FB) (s : State) : Host.Outcome State Fault Refusal :=
  guard { p := f.p.toNat, xim := 1 } s (fun s => s.onCur (fun c => c.jump (branchTarget c f.off)))

/-- `call` (R247): s23 is the link register. -/
def execCall (f : FB) (s : State) : Host.Outcome State Fault Refusal :=
  guard { p := f.p.toNat, xim := 1, dst := [23] } s
    (fun s => s.onCur (fun c => (c.wr 23 (c.pc + 4)).jump (branchTarget c f.off)))

/-- An indirect transfer: the target word is read first; it must be an `spt` at an aligned address (R174, R248). -/
def indirect (link : Bool) (t : Dword) (s : State) : State :=
  if t.toNat % 4 ≠ 0 then trapCur 0x2C s
  else match s.fetchWord s.curCore s.curCtx t.toNat with
    | (.bad f, s1) => trapFetch f s1
    | (.busy, s1) => blockCur s1
    | (.word w, s1) =>
      if field w 25 7 ≠ 0x17 then trapCur 0x2C s1
      else s1.onCur (fun c => (if link then c.wr 23 (c.pc + 4) else c).jump t)

/-- `jmp` (R248). -/
def execJmp (f : FJ) (s : State) : Host.Outcome State Fault Refusal :=
  guard { p := f.p.toNat, rep := repR, src := [(f.a.toNat, sel f.fa)] } s
    (fun s => indirect false (s.cur.rd f.a.toNat) s)

/-- `callr` (R248). -/
def execCallr (f : FJ) (s : State) : Host.Outcome State Fault Refusal :=
  guard { p := f.p.toNat, rep := repR, src := [(f.a.toNat, sel f.fa)], dst := [23] } s
    (fun s => indirect true (s.cur.rd f.a.toNat) s)

/-- `loop` (R251). -/
def execLoop (f : FLoop) (s : State) : Host.Outcome State Fault Refusal :=
  guard { p := f.p.toNat, undef := f.len == 0, src := [(f.a.toNat, sel f.fa)] } s (fun s =>
    let c := s.cur
    let n := c.rd f.a.toNat
    let l : HLoop := { count := n, start := c.pc + 4, last := c.pc + dw (4 * f.len.toNat), active := true }
    if n = 0 then s.setCur (c.jump (c.pc + 4 + dw (4 * f.len.toNat)))
    else if c.hl1.active then trapCur 0x27 s
    else if c.hl0.active then fall 1 (s.setCur { c with hl1 := l })
    else fall 1 (s.setCur { c with hl0 := l }))

/-- `lend` (R253): ends the inner active loop. -/
def execLend (f : FN0) (s : State) : Host.Outcome State Fault Refusal :=
  guard { p := f.p.toNat } s (fun s => fall 1 (s.onCur (fun c =>
    if c.hl1.active then { c with hl1 := { c.hl1 with count := 0, active := false } }
    else if c.hl0.active then { c with hl0 := { c.hl0 with count := 0, active := false } }
    else c)))

/-! ### The walker (R168, R169) -/

/-- Step a_j of a binding, if assigned; the steps retired before a resume do not count (R363, R374). -/
def Bind.a (b : Bind) (j : Nat) : Option Step := b.steps[b.base + j]?

/-- Stage predicates of iteration i (R169). -/
def Bind.stage (b : Bind) (i st : Nat) : Bool :=
  decide (st < b.depth ∧ st ≤ i) && match b.n with
    | some n => decide (i - st < n)
    | none => true

/-- Index of the step that a stage's accesses serve in iteration i, clamped (R169, R170). -/
def Bind.clamp (b : Bind) (i h : Nat) : Nat := match b.n with
  | some n => min (i - h) (n - 1)
  | none => i - h

/-- A context at the start of iteration i: q0 to q7 and k0 to k5 (R169). -/
def Ctx.startIter (c : Ctx) (b : Bind) (i : Nat) : Ctx :=
  { c with iter := i, atIter := false, n := b.n, q := (List.range 8).map (fun st => (st, b.stage i st)),
           k := ((b.a (b.clamp i c.home)).map Step.key).getD {} }

/-- The walker begins step a_i when a role context enters iteration i (R345): the step is marked, and traced. -/
def State.beginStep (s : State) (core i : Nat) : State :=
  match (s.core core).bind with
  | none => s
  | some b => match b.a i with
    | none => s
    | some t =>
      if t.begun then s
      else
        let s := s.modCore core (fun c => { c with bind := some { b with
          steps := b.steps.map (fun x => if x.key = t.key then { x with begun := true } else x) } })
        s.traceShed core b.inst t.key 0xFFFF i 1 0

/-- s24 to s31 rotate by one (R254). -/
def Ctx.rotate (c : Ctx) : Ctx :=
  (List.range 8).foldl (fun x j => x.wr (24 + (j + 1) % 8) (c.rd (24 + j))) c

/-- A role context's body has run its last iteration (R254). -/
def Ctx.finish (c : Ctx) : Ctx := { c with hl0 := {}, hl1 := {}, st := .idle, finished := true, atIter := false, pfx := {} }

/-- `iter` of a role context with a true predicate (R254). The iteration it ends counts while it waits for the next step. -/
def iterate (off : BitVec 22) (s : State) : State :=
  let c := s.cur
  if s.curCtx = 3 then trapCur 0x27 s
  else if (List.range 8).any (fun j => !c.full (24 + j)) then blockCur s
  else match (s.core s.curCore).bind with
    | none => s.setCur c.finish
    | some b =>
      let i := c.iter + 1
      if b.n.isNone && (b.a i).isNone then blockCur (s.setCur { c with atIter := true })
      else if b.n.any (fun n => decide (i > n + b.depth - 1)) then s.setCur c.finish
      else
        (s.setCur ((c.rotate.startIter b i).jump (branchTarget c off))).beginStep s.curCore i

/-- `iter` (R254). -/
def execIter (f : FB) (s : State) : Host.Outcome State Fault Refusal :=
  guard { p := f.p.toNat, xim := 1 } s (iterate f.off)

/-! ### Prefixes and the safe point -/

/-- `rep` (R226, R227): the next instruction repeats. A rep after a prefix is undefined: the trap reports the first word of the group, the
`xim` before it (DEDUCED, assumption 115). Its first repeat is the one a return resumes at (R228). -/
def execRep (f : FRep) (s : State) : Host.Outcome State Fault Refusal :=
  let c := s.cur
  if c.pfx.active then .next (trapCur 0x20 s)
  else .next (s.setCur { c with st := .running, pc := c.pc + 4, pfx := { active := true, start := c.pc, rep := some f, k := c.pfx.k } })

/-- `xim` (R217): it widens the immediate of the next instruction. A third is undefined (R218). -/
def execXim (f : FXim) (s : State) : Host.Outcome State Fault Refusal :=
  let c := s.cur
  if c.pfx.xims.length ≥ 2 then .next (trapCur 0x20 s)
  else .next (s.setCur { c with st := .running, pc := c.pc + 4,
                                pfx := { c.pfx with active := true, start := c.group, xims := c.pfx.xims ++ [f.x] } })

/-- `spt` (R342): no effect on state; a traced safe point is recorded when it completes (R390). -/
def execSpt (f : FSpt) (s : State) : Host.Outcome State Fault Refusal :=
  guard { p := 0, undef := f.ord == 0xFFFF } s (fun s =>
    let w := s.whoCtx s.curCore s.curCtx 0
    let traced := match s.penOf s.curCore with
      | none => false
      | some p => decide (field (s.pen p).trcctl.toNat 32 16 ≤ f.ord.toNat ∧ f.ord.toNat ≤ field (s.pen p).trcctl.toNat 48 16)
    let s1 := fall 1 s
    if traced then s1.traceCtx s.curCore s.curCtx w.inst w.key f.ord.toNat s.cur.iter 0 else s1)

end Sys2Proof.Machine
end

