-- ==== Sys2Proof/Machine/Order.lean ====
section
/-!
DEFINITION. The pending accesses of a context and what orders them (spec 03 R85 to R89; spec 04 R110 to R118, R127). The
list stands in program order; an access is performed only when no older entry holds it back. Accesses to one byte are
performed in program order, and a load is served from memory (DEDUCED, assumption 7).
-/
namespace Sys2Proof.Machine

/-- The access stands in the load queue (R85, R131): until its source is read, an exact-sum merge does too (R265). Instructions
and page-table entries are read as their context issues, at a place of their own (DEDUCED, assumption 83). -/
def Acc.isLoad (a : Acc) : Bool := match a.op with
  | .load _ => true
  | .xmerge => a.phase == 0
  | .xread _ _ clr => !clr
  | .fld take => !take
  | .chain fin _ => decide (fin < 4)
  | _ => false

/-- The access stands in the store queue: stores and read-modify-writes (R85, R116, R131). -/
def Acc.isStore (a : Acc) : Bool := match a.op with
  | .store => true
  | .rmw _ _ => true
  | .xadd _ => true
  | .xmerge => true
  | .xread _ _ clr => clr
  | .fld take => take
  | .ffill => true
  | .chain fin _ => decide (4 ≤ fin)
  | _ => false

/-- It goes through a leaf with ATTR = 2, to a register block. -/
def Acc.toRegs (a : Acc) : Bool := a.spc == 0 && field a.leaf 8 2 == 2

/-- It has been performed and waits only for its reply to be delivered. -/
def Acc.performed (a : Acc) : Bool := decide (3 ≤ a.phase)

/-- Two accesses touch a common byte of one space. -/
def Acc.overlap (a b : Acc) : Bool :=
  a.spc == b.spc && (a.segs ++ a.segs2).any (fun x => (b.segs ++ b.segs2).any (fun y => overlaps x.1 x.2 y.1 y.2))

/-- Class masks have a common class (bits sr 0, sw 1, mr 2, mw 3, rm 4: R219). -/
def meets (a b : Nat) : Bool := (a &&& b) != 0

/-- An older entry b holds back a younger entry a. Accesses of register blocks keep their order (R58, R120). -/
def Acc.blocks (b a : Acc) : Bool :=
  !b.performed &&
    ((b.isLoad && a.isLoad) || (b.isStore && a.isStore) || b.overlap a || (b.toRegs && a.toRegs) || b.acq.isSome
      || (a.rel.isSome && meets b.cls 15)
      || (match b.op with
          | .mark => meets a.cls 15
          | .fence _ late _ => meets a.cls late
          | _ => false)
      || (match a.op with
          | .mark => meets b.cls 15
          | .fence early _ _ => meets b.cls early
          | _ => false))

/-- A mark or a fence. -/
def Acc.isOrder (a : Acc) : Bool := match a.op with
  | .mark => true
  | .fence _ _ _ => true
  | _ => false

/-- A fence whose earlier set holds `rm` waits for the sending of the fabric commands appended before it (R127). -/
def Acc.sentOk (a : Acc) (unsent : Nat → Bool) : Bool := match a.op with
  | .fence early _ _ => early / 16 % 2 == 0 || !unsent a.data
  | _ => true

/-- Drop the marks and fences that no older access is before any more. -/
def settle (unsent : Nat → Bool) : List Acc → List Acc → List Acc
  | kept, [] => kept
  | kept, a :: l =>
    if a.isOrder && !kept.any (·.blocks a) && a.sentOk unsent then settle unsent kept l else settle unsent (kept ++ [a]) l

/-- The majors of puts, gets and remote atomics, the accesses of class `rm` (R82). -/
def isRemote (entry : List Nat) : Bool := field (entry.getD 0 0) 25 7 == 0x70 || field (entry.getD 0 0) 25 7 == 0x71

/-- A remote access of a context appended before an index has not been sent (R127). -/
def Core.unsent (c : Core) (ctx idx : Nat) : Bool :=
  (c.eng 4).apps.any (fun a => isRemote a.entry && a.ctx == ctx && decide (a.idx < idx)) ||
    (c.eng 4).cmds.any (fun m => isRemote m.entry && !m.sent && !m.ended && decide (m.idx < idx) && field (m.entry.getD 6 0) 0 2 == ctx)

def State.settleCtx (s : State) (core ctx : Nat) : State :=
  let c := s.core core
  s.modCtx core ctx (fun t => { t with pend := settle (c.unsent ctx) [] t.pend })

/-- Older entries of the list before an entry, and the entry. -/
def findAcc (seq : Nat) : List Acc → Option (List Acc × Acc)
  | [] => none
  | a :: l => if a.seq = seq then some ([], a) else (findAcc seq l).map (fun r => (a :: r.1, r.2))

/-- The entry may be performed now, as far as the list alone says; the bytes of a chain are State.mayPerform's. -/
def Ctx.mayPerform (c : Ctx) (seq : Nat) : Option Acc :=
  match findAcc seq c.pend with
  | some (older, a) => if older.any (·.blocks a) then none else some a
  | none => none

/-- Every access of the context has been performed. -/
def Ctx.drained (c : Ctx) : Bool := c.pend.all Acc.performed

/-- Accesses older than a number in given classes have been performed (R96). -/
def Ctx.drainedBefore (c : Ctx) (seq : Nat) : Bool := c.pend.all (fun a => a.performed || decide (seq ≤ a.seq) || a.isOrder)

/-- An acquire before it has not been performed: the context's next access waits (R111, R118), and nothing else does. -/
def Ctx.acqHeld (c : Ctx) : Bool := c.pend.any (fun a => !a.performed && a.acq.isSome)

/-- A page walk of the context waits, since its reads are of class `mr`: behind a pending `mark`, or a fence with `mr` in its later set
(R82, R88, R89, R260) (DEDUCED, assumption 83). -/
def Ctx.walkHeld (c : Ctx) : Bool := c.pend.any (fun a => match a.op with
  | .mark => true
  | .fence _ late _ => late / 4 % 2 == 1
  | _ => false)

/-- The agent of the current context's access to the global space: while a walk of it waits, a cached translation alone serves. -/
def State.whoAcc (s : State) : Who := { s.whoCtx s.curCore s.curCtx s.cur.group.toNat with cached := s.cur.walkHeld }

/-- Replace an entry. -/
def Ctx.putAcc (c : Ctx) (a : Acc) : Ctx :=
  { c with pend := c.pend.map (fun b => if b.seq = a.seq then a else b) }

/-- Remove an entry. -/
def Ctx.dropAcc (c : Ctx) (seq : Nat) : Ctx := { c with pend := c.pend.filter (fun b => b.seq != seq) }

def State.dropAcc (s : State) (core ctx seq : Nat) : State := (s.modCtx core ctx (·.dropAcc seq)).settleCtx core ctx

/-- Add an access at the end of the list, with the context's next number, its SPACEID and its level; its destination is marked empty (R91). -/
def Ctx.issueAcc (c : Ctx) (a : Acc) : Ctx :=
  let c := match a.dst with
    | some d => c.mark d true
    | none => c
  { c with pend := c.pend ++ [{ a with seq := c.seq, spaceid := c.spaceid, sys := c.sys }], seq := c.seq + 1 }

/-- `mark` (R88, R90): orders nothing when no access is outstanding. -/
def execMark (f : FN0) (s : State) : Host.Outcome State Fault Refusal :=
  guard { p := f.p.toNat } s (fun s =>
    fall 1 ((s.onCur (·.issueAcc { seq := 0, op := .mark })).settleCtx s.curCore s.curCtx))

/-- `fence` (R89, R127, R260). -/
def execFence (f : FFence) (s : State) : Host.Outcome State Fault Refusal :=
  guard { p := f.p.toNat, undef := decide (5 ≤ f.scope.toNat) } s (fun s =>
    let a : Acc := { seq := 0, data := ((s.core s.curCore).eng 4).tail,
                     op := .fence f.early.toNat f.late.toNat f.scope.toNat }
    fall 1 ((s.onCur (·.issueAcc a)).settleCtx s.curCore s.curCtx))

end Sys2Proof.Machine
end

