-- ==== Sys2Proof/Machine/Sync.lean ====
section
/-!
DEFINITION. Gates, arrival counters and groups (spec 03 R98 to R104; spec 06 R175 to R179; spec 11 R269 to R273; spec 15
R367).
-/
namespace Sys2Proof.Machine

/-! ### Gates -/

/-- `gwait` (R98, R100): takes a unit, or waits; beyond a decided L it has no effect (R153). -/
def execGwait (f : FG) (s : State) : Host.Outcome State Fault Refusal :=
  guard { p := f.p.toNat } s (fun s =>
    if s.cutDrops s.curCore s.curCtx s.cur.k then fall 1 (s.modCore s.curCore (·.dropWait s.curCtx))
    else match (s.core s.curCore).awaitGate f.g.toNat s.curCtx s.tick with
      | (true, c) => fall 1 (s.setCore s.curCore c)
      | (false, c) => blockCur (s.setCore s.curCore c))

/-- Raise a gate for a context's `graise`; an overflow pends class 0x2A (R100, R333). -/
def State.graiseNow (s : State) (core ctx g : Nat) (w : Who) : State :=
  match (s.core core).raiseGate g with
  | (true, c) => (s.setCore core c).pendTrap core ctx { cls := 0x2A, cmdaddr := w.cmdaddr, inst := w.inst, key := w.key }
  | (false, c) => s.setCore core c

/-- `graise` (R99): a release at core scope, so the gate is raised behind the context's earlier accesses; its context goes on (DEDUCED,
assumption 39). -/
def execGraise (f : FG) (s : State) : Host.Outcome State Fault Refusal :=
  guard { p := f.p.toNat } s (fun s =>
    let w := s.whoCtx s.curCore s.curCtx s.cur.group.toNat
    if s.cur.drained then fall 1 (s.graiseNow s.curCore s.curCtx f.g.toNat w)
    else fall 1 (s.onCur (·.issueAcc { seq := 0, op := .graise f.g.toNat, rel := some 0, pc := s.cur.group, inst := w.inst, key := w.key })))

/-- `gread` (R269). -/
def execGread (f : FGD) (s : State) : Host.Outcome State Fault Refusal :=
  guard { p := f.p.toNat, dst := [f.d.toNat] } s
    (setS f.d.toNat (fun _ => dw (mget 0 (s.core s.curCore).gates f.g.toNat)))

/-! ### Arrival counters -/

/-- Arm a counter, or take the illegal-operand trap and change nothing (R104, R270). -/
def armCur (b : Nat) (n : Int) (s : State) : State :=
  match (s.core s.curCore).arm b n with
  | some c => fall 1 (s.setCore s.curCore c)
  | none => trapCur 0x27 s

/-- `barm b, imm` (R270): one xim at most. -/
def execBarmImm (f : FBarmI) (s : State) : Host.Outcome State Fault Refusal :=
  guard { p := f.p.toNat, xim := 1 } s (fun s => armCur f.ctr.toNat (immS 14 f.imm.toNat s.cur.pfx.xims) s)

/-- `barm b, sa` (R270). -/
def execBarm (f : FBarm) (s : State) : Host.Outcome State Fault Refusal :=
  guard { p := f.p.toNat, src := [(f.a.toNat, sel f.fa)] } s (fun s => armCur f.ctr.toNat (s.cur.rd f.a.toNat).toInt s)

/-- `bwait` (R102, R104): passes whenever the count is 0. -/
def execBwait (f : FBw) (s : State) : Host.Outcome State Fault Refusal :=
  guard { p := f.p.toNat } s (fun s =>
    if mget 0 (s.core s.curCore).ctrs f.ctr.toNat = 0 ∨ s.cutDrops s.curCore s.curCtx s.cur.k then fall 1 s else blockCur s)

/-- `bread` (R270). -/
def execBread (f : FBr) (s : State) : Host.Outcome State Fault Refusal :=
  guard { p := f.p.toNat, dst := [f.d.toNat] } s
    (setS f.d.toNat (fun _ => dwordOfInt (mget 0 (s.core s.curCore).ctrs f.ctr.toNat)))

/-! ### Groups -/

def Grp.removeMember (g : Grp) (m : Nat) : Grp := { g with members := g.members.filter (· != m) }

/-- A group that lost its last member is dissolved: every field returns to 0 (R176). -/
def Grp.norm (g : Grp) : Grp := if g.members.isEmpty && g.joins.isEmpty then {} else g

/-- The generation completes when every member has arrived: GEN advances, then the joins and leaves are applied together
(R177, R178). A collective being gathered ends with its generation. -/
def Grp.complete (g : Grp) : Grp :=
  if !g.members.isEmpty && g.members.all g.arrived.contains then
    let members := g.members.filter (fun m => !g.leaves.contains m) ++ g.joins
    if members.isEmpty then {}
    else { g with gen := (g.gen + 1) % 2 ^ 16, members := members, arrived := [], joins := [], leaves := [], plain := false, coll := none }
  else g

def Grp.isMember (g : Grp) (m : Nat) : Bool := g.members.contains m

/-- Join (R178): at once when nobody has arrived; otherwise when the generation completes. -/
def Grp.join (g : Grp) (m : Nat) : Grp :=
  if g.arrived.isEmpty then { g with members := g.members ++ [m], joins := g.joins.filter (· != m) }
  else if g.joins.contains m then g else { g with joins := g.joins ++ [m] }

/-- Leave (R178): counts as the member's arrival. -/
def Grp.leave (g : Grp) (m : Nat) : Grp :=
  ({ g with leaves := if g.leaves.contains m then g.leaves else g.leaves ++ [m],
            arrived := if g.arrived.contains m then g.arrived else g.arrived ++ [m] } : Grp).complete.norm

/-- Arrive (R177), beside a collective too (DESIGN CHOICE, assumption 47). -/
def Grp.arrive (g : Grp) (m : Nat) : Grp := ({ g with arrived := g.arrived ++ [m], plain := true } : Grp).complete

/-- Numbers of members on other packages. -/
def State.foreign (s : State) (m : Nat) : Bool := m / 4096 != s.fabid

/-- A collective command of a context that has contributed to a group and waits (R325). -/
def Cmd.gathers (x : Cmd) (n ctx : Nat) : Bool :=
  x.sent && !x.ended && !x.ok && field (x.entry.getD 0 0) 25 7 == 0x74 && field (x.entry.getD 3 0) 52 12 == n && field (x.entry.getD 6 0) 0 2 == ctx

/-- What a group gathered reaches a member of this package: its command goes on, or, when the member stands saved in an area,
it is kept (R349). -/
def State.giveColl (s : State) (n m : Nat) (parts : List Nat) : State :=
  let core := m % 4096 / 4
  let g := s.eng core 4
  if g.cmds.any (fun x => x.gathers n (m % 4)) then
    s.setEng core 4 { g with cmds := g.cmds.map (fun x => if x.gathers n (m % 4) then { x with ok := true, shape := parts } else x) }
  else { s with collKept := s.collKept ++ [(m, n, parts)] }

/-- The group's generation has ended, from g to g': contributors of a collective that every member contributed to get what
it gathered (R143, R325), and the rest of one that a plain arrival or a leave closed wait on (DESIGN CHOICE, assumption 47);
joins that took effect are made for their steps (R147); members on other packages are told (R367). -/
def State.groupEnded (s : State) (n : Nat) (g g' : Grp) : State :=
  let whole := match g.coll with
    | some c => if g.members.all c.froms.contains then some c else none
    | none => none
  let give := fun (s : State) (m : Nat) => match whole with
    | none => s
    | some c =>
      if s.foreign m then { s with net := s.net ++ [Pkt.collDone n m (some c.parts)] }
      else s.giveColl n m c.parts
  let s1 := (g.joins.filter (fun m => !s.foreign m)).foldl (fun s m => s.commit (m % 4096 / 4) (m % 4) (s.ctx (m % 4096 / 4) (m % 4)).k)
    (g.members.foldl give s)
  { s1 with net := s1.net ++ (g.members.filter s1.foreign).map (fun m => Pkt.groupDone n g'.gen m (if g.leaves.contains m then 1 else 3))
      ++ (g.joins.filter s1.foreign).map (fun m => Pkt.groupDone n g'.gen m 0) }

/-- A join waits for a step that a stop holds back (R152, R153). -/
def State.joinBarred (s : State) (m : Nat) : Bool :=
  !s.foreign m && s.barred (m % 4096 / 4) (m % 4) (s.ctx (m % 4096 / 4) (m % 4)).k

/-- A generation has ended while some of its joins are held back: they wait on. -/
def Grp.without (g : Grp) (ms : List Nat) : Grp :=
  let members := g.members.filter (fun m => !ms.contains m)
  if ms.isEmpty then g else if members.isEmpty then { joins := ms } else { g with members := members, joins := ms }

/-- Put a group's new state, with what its completed generation brings. -/
def State.putGrp (s : State) (n : Nat) (g' : Grp) : State :=
  let g := s.grp n
  if g.gen ≠ g'.gen ∨ (!g.members.isEmpty ∧ g'.members.isEmpty) then
    let kept := g.joins.filter s.joinBarred
    (s.setGrp n (g'.without kept)).groupEnded n { g with joins := g.joins.filter (fun m => !kept.contains m) } g'
  else s.setGrp n g'

/-- Groups a context is a member of, or joins. -/
def State.memberships (s : State) (m : Nat) : Nat :=
  (s.groups.filter (fun g => g.2.members.contains m || g.2.joins.contains m)).length

/-- A group number is legal for a core's pen (R175, R272) (DEDUCED, assumption 43). -/
def State.groupOk (s : State) (core : Nat) (n : Nat) : Bool :=
  match s.penOf core with
  | none => false
  | some p => decide (n ≤ 4095) && decide ((s.pen p).grpLo ≤ n ∧ n ≤ (s.pen p).grpHi)

/-- The package that keeps a group of a core's pen: the home named for a spanning group, otherwise this one (R367). -/
def State.groupHome (s : State) (core n : Nat) : Nat :=
  (((s.pen ((s.penOf core).getD 16)).spans.find? (fun x => decide (x.1 ≤ n ∧ n ≤ x.2.1))).map (fun x => x.2.2)).getD s.fabid

/-- The group spans packages and another package is its home (R367). -/
def State.remoteGroup (s : State) (core n : Nat) : Bool := s.groupHome core n != s.fabid

/-- Some fabric port is in service (R404); links 0 to 35 are the fabric ports. -/
def State.fabricUp (s : State) : Bool := (List.range 36).any (fun i => (mget {} s.links i).up)

/-- A fabric port that the packets of a die reach is in service: port i of die d is link 4d + i (R397, R404). -/
def State.fabricFrom (s : State) (die : Nat) : Bool := (List.range 36).any (fun i => (mget {} s.links i).up && s.routed die (i / 4))

/-- The packets of a die reach a package: a port in service counts as one of the minimal ports toward any other package, since the spec gives
no topology (DEDUCED, assumption 71). -/
def State.reachable (s : State) (die pkg : Nat) : Bool := pkg == s.fabid || s.fabricFrom die

/-- What the current context has asked for is withdrawn, before a trap. -/
def giveUp (s : State) : State := (s.withdrawReq s.curCore s.curCtx).getD s

/-- Requests of a group instruction i to a home at another package: what 0 join, 2 arrive, 6 the generation. The answer comes back in
`req`: the same code and one more than the generation. -/
def groupAsk (i : Instr) (what n : Nat) (s : State) : State :=
  if !s.reachable (dieOf s.curCore) (s.groupHome s.curCore n) then trapCur 0x24 (giveUp s)
  else match s.cur.req with
    | some (_, 0) => blockCur s
    | _ => blockCur ({ s with net := s.net ++ [Pkt.groupMsg n (s.member s.curCore s.curCtx) what] }.onCur (·.ask i what 0))

/-- The current context's step is marked committed, as its held effect is made (R147). -/
def State.commitCur (s : State) : State := s.commit s.curCore s.curCtx s.cur.k

/-- A held effect of the current context (R146, R147): it stalls, has no effect, or goes on, and commits its step when it is made.
One that is a release waits until the context's earlier accesses have been performed (R111). -/
def heldCur (rel : Bool) (s : State) (k : State → State) : State :=
  match s.held s.curCore s.curCtx s.cur.k with
  | .drop => match s.withdrawReq s.curCore s.curCtx with
    | some s1 => fall 1 s1
    | none => k s
  | .stall => holdCur s
  | .ok => if !rel || s.cur.drained then k s else blockCur s

/-- A `leave` of the context's waits for the accesses before it. -/
def Acc.leaves (a : Acc) : Bool := match a.op with
  | .leave _ => true
  | _ => false

/-- A group operation is a purity violation in no case, and needs a legal number. It comes after a `leave` that waits. -/
def groupCur (rel : Bool) (n : Nat) (s : State) (k : State → State) : State :=
  if !s.groupOk s.curCore n then trapCur 0x27 (giveUp s)
  else heldCur rel s (fun s => if s.cur.pend.any Acc.leaves then blockCur s else k s)

/-- A group operation in a generation leaves a deferred join answered: the context that waits sees its membership. -/
def joinCur (i : Instr) (n : Nat) (s : State) : State :=
  let m := s.member s.curCore s.curCtx
  let g := s.grp n
  if s.remoteGroup s.curCore n then
    (match s.cur.req with
     | some (_, _ + 1) => fall 1 s.commitCur
     | some _ => groupAsk i 0 n s
     | none => if g.isMember m || decide (8 ≤ s.memberships m) then trapCur 0x27 s else groupAsk i 0 n s)
  else if s.cur.req = some (0, 0) then (if g.isMember m then fall 1 s else
    let g' := g.join m
    let s := s.setGrp n g'
    if g'.isMember m then fall 1 s.commitCur else blockCur s)
  else if g.isMember m || decide (8 ≤ s.memberships m) then trapCur 0x27 s
  else
    let g' := g.join m
    let s := s.setGrp n g'
    if g'.isMember m then fall 1 s.commitCur else blockCur (s.onCur (·.ask i 0 0))

/-- `join` (R178, R272). -/
def execJoin (f : FJ) (s : State) : Host.Outcome State Fault Refusal :=
  guard { p := f.p.toNat, src := [(f.a.toNat, sel f.fa)] } s (fun s =>
    groupCur false (s.cur.rd f.a.toNat).toNat s (joinCur (.join f) (s.cur.rd f.a.toNat).toNat))

/-- A context leaves a group, or tells the group's home at another package (R178, R367). -/
def State.leaveNow (s : State) (core ctx n : Nat) (k : Coord) : State :=
  let m := s.member core ctx
  if s.remoteGroup core n then
    (if s.reachable (dieOf core) (s.groupHome core n) then ({ s with net := s.net ++ [Pkt.groupMsg n m 1] } : State).commit core ctx k
     else s.pendTrap core ctx { cls := 0x24, inst := (s.whoCtx core ctx 0).inst })
  else (s.putGrp n ((s.grp n).leave m)).commit core ctx k

/-- `leave` (R178, R272): the leaving context continues at once, and is a member until the generation completes, whose home says so
(R367). A counted `leave` is acquired from as an arrival is, so that it is a release as well: it takes effect behind the context's earlier
accesses (R179; DEDUCED, assumption 116). -/
def execLeave (f : FJ) (s : State) : Host.Outcome State Fault Refusal :=
  guard { p := f.p.toNat, src := [(f.a.toNat, sel f.fa)] } s (fun s =>
    let n := (s.cur.rd f.a.toNat).toNat
    groupCur false n s (fun s =>
      let w := s.whoCtx s.curCore s.curCtx s.cur.group.toNat
      if !(s.grp n).isMember (s.member s.curCore s.curCtx) then trapCur 0x27 s
      else if s.remoteGroup s.curCore n && !s.reachable (dieOf s.curCore) (s.groupHome s.curCore n) then trapCur 0x24 s
      else if s.cur.drained then fall 1 (s.leaveNow s.curCore s.curCtx n s.cur.k)
      else fall 1 (s.onCur (·.issueAcc { seq := 0, op := .leave n, rel := some 3, pc := s.cur.group, inst := w.inst, key := s.cur.k }))))

/-- `arrive` (R177, R179, R272): the generation it arrived in goes to sd. -/
def execArrive (f : FU) (s : State) : Host.Outcome State Fault Refusal :=
  guard { p := f.p.toNat, src := [(f.a.toNat, sel f.fa)], dst := [f.d.toNat] } s (fun s =>
    let n := (s.cur.rd f.a.toNat).toNat
    groupCur true n s (fun s =>
      let m := s.member s.curCore s.curCtx
      let g := s.grp n
      if !g.isMember m then trapCur 0x27 (giveUp s)
      else if s.remoteGroup s.curCore n then
        (match s.cur.req with
         | some (_, v + 1) => fall 1 (s.commitCur.onCur (fun c => c.wr f.d.toNat (dw v)))
         | _ => groupAsk (.arrive f) 2 n s)
      else if g.arrived.contains m then blockCur s
      else fall 1 ((s.putGrp n (g.arrive m)).commitCur.onCur (fun c => c.wr f.d.toNat (dw g.gen)))))

/-- `wait` (R177, R272): passes once GEN differs; a non-member may wait; not held. A group of another package is asked for its
generation until it differs (R367) (DEDUCED, assumption 103). -/
def execWait (f : FAB) (s : State) : Host.Outcome State Fault Refusal :=
  guard { p := f.p.toNat, src := [(f.a.toNat, sel f.fa), (f.b.toNat, sel f.fb)] } s (fun s =>
    let n := (s.cur.rd f.a.toNat).toNat
    let g := (s.cur.rd f.b.toNat).toNat % 2 ^ 16
    if !s.groupOk s.curCore n then trapCur 0x27 (giveUp s)
    else if s.cutDrops s.curCore s.curCtx s.cur.k then fall 1 (giveUp s)
    else if s.remoteGroup s.curCore n then
      (match s.cur.req with
       | some (_, v + 1) => if v ≠ g then fall 1 s else groupAsk (.wait f) askGen n s
       | _ => groupAsk (.wait f) askGen n s)
    else if (s.grp n).gen ≠ g then fall 1 s
    else blockCur s)

end Sys2Proof.Machine
end

