-- ==== Sys2Proof/Machine/Queue.lean ====
section
/-!
DEFINITION. Shed hardware queues (spec 02 R71 to R75; spec 11 R274 to R276), device launches as the context sees them (spec
06 R184; spec 11 R279, R280).
-/
namespace Sys2Proof.Machine

/-- Records of the spill ring; LOGSIZE 0 to 4 means none (R71). -/
def HQ.ringSize (q : HQ) : Nat := if 5 ≤ q.logsize then 2 ^ q.logsize else 0

def HQ.capacity (q : HQ) : Nat := 32 + q.ringSize

/-- The low watermark in force (R71). -/
def HQ.low (q : HQ) : Nat := if q.hiwm ≠ 0 ∧ q.hiwm ≤ q.lowm then q.hiwm - 1 else q.lowm

/-- Chip-scratchpad offset of a spill index (R74). -/
def HQ.slot (q : HQ) (i : Nat) : Nat := field q.base.toNat 5 27 * 32 + 32 * (i % 2 ^ q.logsize)

def State.setHq (s : State) (shed n : Nat) (q : HQ) : State :=
  s.setShed shed { s.shed shed with queues := mset (s.shed shed).queues n q }

/-- A context is held on a queue: of its shed, or of the shed it was saved in (R75). -/
def State.qHeld (s : State) (core ctx : Nat) : Bool :=
  s.sheds.any (fun h => h.2.queues.any (fun q => q.2.held.contains (core, ctx)))

/-- A context that resumes where it was held on a queue is held again only if HQDEPTH is not below LOWM then (R75). -/
def State.resumeHeld (s : State) (core ctx : Nat) : State :=
  { s with sheds := s.sheds.map (fun h => (h.1, { h.2 with queues := h.2.queues.map (fun q =>
      (q.1, if q.2.depth < q.2.low then { q.2 with held := q.2.held.filter (· != (core, ctx)) } else q.2)) })) }

/-- Release every held context once HQDEPTH is below LOWM (R75). -/
def State.releaseHeld (s : State) (shed n : Nat) : State :=
  let q := s.hq shed n
  if q.depth < q.low then
    q.held.foldl (fun s h => s.modCtx h.1 h.2 (fun c => if c.st = .held then { c with st := .running } else c))
      (s.setHq shed n { q with held := [] })
  else s

/-- The eight words of a record, from four registers (R274). -/
def recordOf (c : Ctx) (rb : Nat) : Nat :=
  (c.rd rb).toNat + (c.rd (rb + 1)).toNat * 2 ^ 64 + (c.rd (rb + 2)).toNat * 2 ^ 128 + (c.rd (rb + 3)).toNat * 2 ^ 192

/-- A record into four registers; writes to s0 are discarded (R275). -/
def Ctx.wrRecord (c : Ctx) (rb r : Nat) : Ctx :=
  (((c.wr rb (dw r)).wr (rb + 1) (dw (r / 2 ^ 64))).wr (rb + 2) (dw (r / 2 ^ 128))).wr (rb + 3) (dw (r / 2 ^ 192))

def four (rb : Nat) (f : Bool) : List (Nat × Bool) := [(rb, f), (rb + 1, f), (rb + 2, f), (rb + 3, f)]

/-- Place a record (R73, R74): on chip, or at the tail of the ring. None when the spill lies outside the pen's window. -/
def State.place (s : State) (core ctx shed n r : Nat) : Option State :=
  let q0 := s.hq shed n
  let q := { q0 with by_ := q0.by_ ++ [(core, ctx, (s.whoCtx core ctx 0).inst)] }
  if q.ring = 0 ∧ q.chip.length < 32 then some (s.setHq shed n { q with chip := q.chip ++ [r] })
  else if q.slot q.spill + 32 ≤ (s.chipOf core).2 then
    some ((s.wrSpc core 3 (q.slot q.spill) 32 r).setHq shed n { q with ring := q.ring + 1, spill := q.spill + 1 })
  else none

/-- The watermark policy after a push completes (R75). -/
def State.watermark (s : State) (core ctx n : Nat) : State :=
  let q := s.hq (shedOf core) n
  if q.hiwm ≠ 0 ∧ q.hiwm < q.depth ∧ !q.cons.getLsbD (4 * (core % 12) + ctx) then
    (s.setHq (shedOf core) n { q with held := q.held ++ [(core, ctx)] }).modCtx core ctx (fun c => { c with st := .held })
  else s

/-- The current context pushes (R72 to R75, R276): `pd` is the try form's predicate. The plain form waits at capacity, and, being a
release, for the context's earlier accesses: there the try form reports 0 (DEDUCED, assumption 117). -/
def pushCur (rb n : Nat) (pd : Option Nat) (s : State) : State :=
  let sh := shedOf s.curCore
  let put := fun (s : State) (v : Bool) => match pd with
    | some p => s.onCur (fun c => c.wrP p v)
    | none => s
  let q := s.hq sh n
  if !q.enable then trapCur 0x27 s
  else heldCur pd.isNone s (fun s =>
    if q.capacity ≤ q.depth ∨ !s.cur.drained then (if pd.isSome then fall 1 (put s false) else blockCur s)
    else
      let s1 := s.commitCur.purity (s.whoCtx s.curCore s.curCtx s.cur.group.toNat) s.cur.space .never kWrite 0 0 []
      match s1.place s.curCore s.curCtx sh n (recordOf s.cur rb) with
      | none => trapAccess kWrite (q.slot q.spill) 32 ⟨0x06, max (q.slot q.spill) (s.chipOf s.curCore).2, 7⟩ s
      | some s2 => (fall 1 (put s2 true)).watermark s.curCore s.curCtx n)

/-- The current context pops (R73, R275, R276), an acquire alone. While it waits its four destinations are empty (R91). -/
def popCur (i : Instr) (rb n : Nat) (pd : Option Nat) (s : State) : State :=
  let sh := shedOf s.curCore
  let put := fun (s : State) (v : Bool) => match pd with
    | some p => s.onCur (fun c => c.wrP p v)
    | none => s
  let q := s.hq sh n
  if !q.enable then trapCur 0x27 (giveUp s)
  else heldCur false s (fun s =>
    match q.chip with
    | [] => if pd.isSome then fall 1 (put s false) else blockCur (s.onCur (fun c => (c.markRecord rb true).ask i askPop rb))
    | r :: rest =>
      let s1 := s.commitCur.purity (s.whoCtx s.curCore s.curCtx s.cur.group.toNat) s.cur.space .never kRead 0 0 []
      let s2 := ((s1.setHq sh n { q with chip := rest, by_ := q.by_.tail }).onCur (fun c => (c.wrRecord rb r).markRecord rb false))
      fall 1 ((put s2 true).releaseHeld sh n))

/-- `push` (R275). -/
def execPush (f : FPush) (s : State) : Host.Outcome State Fault Refusal :=
  guard { p := f.p.toNat, src := four f.rb.toNat (sel f.fr) } s (pushCur f.rb.toNat f.q.toNat none)

/-- `pop` (R275). -/
def execPop (f : FPop) (s : State) : Host.Outcome State Fault Refusal :=
  guard { p := f.p.toNat, dst := if s.cur.req = some (askPop, f.rb.toNat) then [] else (four f.rb.toNat false).map Prod.fst } s
    (popCur (.pop f) f.rb.toNat f.q.toNat none)

/-- `push.try` (R275). -/
def execPushTry (f : FPushT) (s : State) : Host.Outcome State Fault Refusal :=
  guard { p := f.p.toNat, src := four f.rb.toNat (sel f.fr), pdst := [f.pd.toNat] } s
    (pushCur f.rb.toNat f.q.toNat (some f.pd.toNat))

/-- `pop.try` (R275). -/
def execPopTry (f : FPopT) (s : State) : Host.Outcome State Fault Refusal :=
  guard { p := f.p.toNat, dst := (four f.rb.toNat false).map Prod.fst, pdst := [f.pd.toNat] } s
    (popCur (.popTry f) f.rb.toNat f.q.toNat (some f.pd.toNat))

/-- QUEUE_REFILL (R73, R74): the ring's oldest record moves on chip. -/
def queueRefill (shed n : Nat) (s : State) : State :=
  let q := s.hq shed n
  if q.ring = 0 ∨ 32 ≤ q.chip.length ∨ 72 ≤ shed then s
  else s.setHq shed n { q with chip := q.chip ++ [s.rdSpc (12 * shed) 3 (q.slot (q.spill - q.ring)) 32], ring := q.ring - 1 }

def execQueueRefill (shed q : Nat) (s : State) : Host.Outcome State Fault Refusal := .next (queueRefill shed q s)

/-- QUEUE_WITHDRAWAL (R276): the queue answers a waiting push or pop, which places and takes only as it completes, that
nothing was placed or taken; the instruction is issued again in full when the context goes on. -/
def queueWithdrawal (core ctx : Nat) (s : State) : State := match (s.ctx core ctx).req with
  | some (5, _) => (s.withdrawReq core ctx).getD s
  | _ => s

def execQueueWithdrawal (core ctx : Nat) (s : State) : Host.Outcome State Fault Refusal := .next (queueWithdrawal core ctx s)

/-! ### launch -/

/-- The pen's device-launch queue of a die holds 64 records (R279). -/
def Pen.devRoom (p : Pen) (die : Nat) : Bool := decide ((p.devq.filter (fun d => dieOf d.core == die)).length < 64)

/-- `launch` once its operands are read: it waits for room and then for the distributor's answer (R279). -/
def launchCur (i : Instr) (d oprec : Nat) (s : State) : State :=
  match s.cur.req with
  | some (3, _) => if s.cutDrops s.curCore s.curCtx s.cur.k then fall 1 (giveUp s) else blockCur s
  | some (4, n) =>
    let w := s.whoCtx s.curCore s.curCtx s.cur.group.toNat
    let s1 := fall 1 (s.onCur (fun c => c.wr d (dw n)))
    if n = 0 then s1.pendTrap s.curCore s.curCtx { cls := 0x2E, cmdaddr := w.cmdaddr, inst := w.inst, spaceid := s.cur.spaceid.toNat }
    else s1
  | _ =>
    if oprec % 64 ≠ 0 then trapAccess kRead oprec 256 ⟨0x29, oprec, 7⟩ s
    else heldCur true s (fun s =>
      match s.penOf s.curCore with
      | none => blockCur s
      | some pn =>
        let p := s.pen pn
        if !p.devRoom (dieOf s.curCore) then blockCur s
        else
          let s1 := s.purity (s.whoCtx s.curCore s.curCtx s.cur.group.toNat) s.cur.space .never kRead oprec 256 []
          let c := s.cur
          let s2 := s1.setPen pn { p with devq := p.devq ++ [⟨s.curCore, s.curCtx, oprec, c.spaceid, c.wb0, c.wb1⟩] }
          blockCur (s2.onCur (·.ask i askLaunch 0)))

/-- `launch` (R279). -/
def execLaunch (f : FU) (s : State) : Host.Outcome State Fault Refusal :=
  guard { p := f.p.toNat, src := [(f.a.toNat, sel f.fa)], dst := [f.d.toNat] } s
    (fun s => launchCur (.launch f) f.d.toNat (s.cur.rd f.a.toNat).toNat s)

end Sys2Proof.Machine
end

