-- ==== Sys2Proof/Machine/Dist.lean ====
section
/-!
DEFINITION. Steps and bindings (spec 15 R358 to R362, R364, R369; spec 05 R145 to R150, R408, R409; spec 06 R166 to R171):
the fields of an operator record, selecting and placing steps, binding a core, retiring.
-/
namespace Sys2Proof.Machine

/-! ### Operator records -/

def opField (r lo n : Nat) : Nat := field r lo n
def opExtent (r j : Nat) : Nat := if j < field r 0 3 then field r (128 + 16 * j) 16 else 1
def opExtents (r : Nat) : List Nat := (List.range 6).map (opExtent r)
def opSteps (r : Nat) : Nat := (opExtents r).foldl (· * ·) 1
def opStages (r : Nat) : Nat := field r 9 3
def opPlace (r : Nat) : Nat := field r 4 2
def opPure (r : Nat) : Bool := field r 3 1 == 1
def opEntry (r j : Nat) : Nat := field r (320 + 64 * j) 64
def opHome (r j : Nat) : Nat := field r (15 + 3 * j) 3

/-- Linear index to coordinates (R364), k0 outermost. -/
def unflatten (ext : List Nat) (x : Nat) : Coord :=
  let e := fun j => max 1 (ext.getD j 1)
  let d5 := x / e 5
  let d4 := d5 / e 4
  let d3 := d4 / e 3
  let d2 := d3 / e 2
  let d1 := d2 / e 1
  ⟨BitVec.ofNat 16 d1, BitVec.ofNat 16 (d2 % e 1), BitVec.ofNat 16 (d3 % e 2), BitVec.ofNat 16 (d4 % e 3),
    BitVec.ofNat 16 (d5 % e 4), BitVec.ofNat 16 (x % e 5)⟩

/-- Coordinates to linear index (R364). -/
def flatten (ext : List Nat) (k : Coord) : Nat :=
  let e := fun j => ext.getD j 1
  ((((k.k0.toNat * e 1 + k.k1.toNat) * e 2 + k.k2.toNat) * e 3 + k.k3.toNat) * e 4 + k.k4.toNat) * e 5 + k.k5.toNat

/-- Number of steps at or below coordinates that need not be a step themselves (R354). -/
def stepsUpTo : List Nat → List Nat → Nat
  | e :: es, k :: ks =>
    let rest := es.foldl (· * ·) 1
    if e ≤ k then e * rest else k * rest + stepsUpTo es ks
  | _, _ => 1

def Coord.list (k : Coord) : List Nat := [k.k0.toNat, k.k1.toNat, k.k2.toNat, k.k3.toNat, k.k4.toNat, k.k5.toNat]

def State.message (s : State) (code pen arg : Nat) : State := { s with msgs := (code, pen, arg) :: s.msgs }

/-! ### Bindings -/

/-- A binding ends (R409): entries of its retired steps are freed, marks lapse, its retired steps pass to the
distributor floor (R408). -/
def State.endBinding (s : State) (core : Nat) : State :=
  let c := s.core core
  match c.bind with
  | none => s
  | some b =>
    let last := highest ((b.steps.filter Step.retired).map Step.key)
    let s := s.setCore core { c with bind := none, shadow := c.shadow.filter (fun e => e.inst != b.inst) }
    match last with
    | none => s
    | some k => s.modInst b.inst (fun i => { i with floor := match i.floor with
      | none => some k
      | some f => if f.rank < k.rank then some k else some f })

/-- A role context of the core has completed iteration m (R171, R371). -/
def Ctx.past (c : Ctx) (m : Nat) : Bool := c.finished || decide (m < c.ended)

/-- An engine of the core holds a command of a step, appended by a role context. -/
def Core.engHolds (c : Core) (inst : Nat) (k : Coord) : Bool :=
  [1, 2, 3, 4].any (fun e =>
    (c.eng e).apps.any (fun a => a.ctx != 3 && decide (field (a.entry.getD 4 0) 0 32 = inst) && Coord.ofNat (field (a.entry.getD 4 0) 32 32 + a.entry.getD 5 0 * 2 ^ 32) == k)
      || (c.eng e).cmds.any (fun a => !a.ended && field (a.entry.getD 6 0) 0 2 != 3 && decide (field (a.entry.getD 4 0) 0 32 = inst) &&
        Coord.ofNat (field (a.entry.getD 4 0) 32 32 + a.entry.getD 5 0 * 2 ^ 32) == k))

/-- A context has an access of a step outstanding. -/
def Ctx.serves (c : Ctx) (inst : Nat) (k : Coord) : Bool := c.pend.any (fun a => a.inst == inst && a.key == k)

/-- REWIND.DEPTH retired steps keep their entries: free those of older ones (R148), which stand freed from then on (R150). -/
def Core.rewindFree (c : Core) : Core := match c.bind with
  | none => c
  | some b =>
    let old := ((b.steps.filter Step.retired).map Step.key).reverse.drop c.rewind
    { c with shadow := c.shadow.filter (fun e => !(e.inst == b.inst && old.contains e.key)),
             bind := some { b with steps := b.steps.map (fun t => if t.retired && old.contains t.key then { t with freed := true } else t) } }

/-- A role context has a trap to take, or is in one, that a step of an instance has met (R159): its record names the step, or, when it
was raised at the context's own issue, the context serves it. -/
def Ctx.faultsFor (c : Ctx) (inst : Nat) (p : Coord → Bool) : Bool :=
  c.traps.any (fun t => field t.image 224 32 == inst && p (Coord.ofNat (t.image / 2 ^ 128)))
    || ((c.intrap || (c.st == .stopped && (c.why == .delegated || c.why == .double))) && (mget 0 c.trec 3).toNat / 2 ^ 32 == inst &&
      p (if c.own then c.k else Coord.ofNat ((mget 0 c.trec 2).toNat + 2 ^ 64 * (mget 0 c.trec 3).toNat)))

def Core.faultsFor (c : Core) (p : Coord → Bool) : Bool := c.bind.any (fun b => [0, 1, 2].any (fun x => (c.ctx x).faultsFor b.inst p))

/-- STEP_RETIRE (R171): the oldest unretired step, when every role context is past it and its work is complete. During a
stop nothing beyond the bound retires and nothing is freed (R152, R155), and a trap for the step returns first (R158, R159). -/
def stepRetire (core : Nat) (s : State) : State :=
  let c := s.core core
  match c.bind with
  | none => s
  | some b => match b.oldest with
    | none => s
    | some t =>
      let j := (b.steps.filter Step.retired).length - b.base
      let ready := t.begun && (List.range 3).all (fun x => (c.ctx x).past (j + b.depth - 1) && !(c.ctx x).serves b.inst t.key) &&
        !c.engHolds b.inst t.key
      if !ready || (decide (1 ≤ c.cut.phase) && (beyond c.cut.bound t.key || c.faultsFor (· == t.key))) then s
      else
        let b1 := { b with steps := b.steps.map (fun x => if x.key = t.key then { x with retired := true } else x) }
        let c1 := { c with bind := some b1, frInst := if b1.frontier.isSome then b.inst else c.frInst, frKey := b1.frontier.getD c.frKey }
        let s1 := s.setCore core (if c.cut.phase = 0 then c1.rewindFree else c1)
        (s1.modInst b.inst (fun i => { i with retired := i.retired + 1 })).traceShed core b.inst t.key 0xFFFF 0 2 0

def execStepRetire (core : Nat) (s : State) : Host.Outcome State Fault Refusal := .next (stepRetire core s)

/-- Floor of a core (R150): the highest assigned step committed, retired outside DEPTH, or freed. -/
def Core.floor (c : Core) : Option Coord := match c.bind with
  | none => none
  | some b =>
    let r := (b.steps.filter Step.retired).length
    let out := ((b.steps.filter Step.retired).map Step.key).take (r - c.rewind)
    highest ((b.steps.filter (fun t => t.committed || (t.retired && (t.freed || out.contains t.key)))).map Step.key)

/-- FRONTIER as a coordinate of the bound instance; none while it reads zero (R145, R155, R375). -/
def Core.frontier (c : Core) : Option Coord := c.bind.bind Bind.frontier

/-- Why an instance ends (R357). -/
def statusDone : Nat := 1
def statusServed : Nat := 2
def statusRefused : Nat := 3
def statusAbandoned : Nat := 4

def State.dropInst (s : State) (n : Nat) : State := { s with insts := s.insts.filter (fun i => i.num != n) }

/-- Every core bound to an instance ends its binding; its steps leave the step queues. -/
def State.unbindAll (s : State) (num : Nat) : State :=
  s.cores.foldl (fun s c =>
    let s := if (s.core c.1).bind.any (fun b => b.inst == num) then s.endBinding c.1 else s
    s.modCore c.1 (fun k => { k with stepq := k.stepq.filter (fun q => q.1 != num) })) s

/-! ### Selection and placement -/

/-- The finaliser of R364. -/
def mix (z : Nat) : Nat :=
  let z := ((z ^^^ (z / 2 ^ 30)) * 0xBF58476D1CE4E5B9) % 2 ^ 64
  let z := ((z ^^^ (z / 2 ^ 27)) * 0x94D049BB133111EB) % 2 ^ 64
  z ^^^ (z / 2 ^ 31)

/-- Steps assigned and not begun on a core (R359). -/
def Core.waiting (c : Core) : Nat :=
  c.stepq.length + (match c.bind with
    | some b => (b.steps.filter (fun t => !t.begun && !t.retired)).length
    | none => 0)

/-- The core that placement names (R364). -/
def State.placeOn (s : State) (i : Inst) (k : Coord) : Option Nat :=
  let cs := (s.pen i.pen).cores
  if opPlace i.record = 0 then
    cs[mix (i.seed ^^^ (flatten (opExtents i.record) k * 0x9E3779B97F4A7C15 % 2 ^ 64)) % cs.length]?
  else cs.foldl (fun (m : Option Nat) c => match m with
    | none => some c
    | some b => if (s.core c).waiting < (s.core b).waiting then some c else some b) none

/-- The head step of an instance: the lowest unplaced coordinate, and the instance without it. -/
def Inst.head (i : Inst) : Option (Coord × Inst) :=
  let next := unflatten (opExtents i.record) i.cursor
  match i.back with
  | k :: rest =>
    if i.cursor < i.total ∧ next.rank < k.rank then some (next, { i with cursor := i.cursor + 1 }) else some (k, { i with back := rest })
  | [] => if i.cursor < i.total then some (next, { i with cursor := i.cursor + 1 }) else none

/-- Insert coordinates in rising order. -/
def insertCoord (k : Coord) : List Coord → List Coord
  | [] => [k]
  | x :: l => if k.rank < x.rank then k :: x :: l else x :: insertCoord k l

/-- Steps return unplaced; a head step that comes with them waits from then on (R362). -/
def Inst.giveBack (i : Inst) (ks : List Coord) (tick : Nat) : Inst :=
  let i1 := { i with back := ks.foldl (fun l k => insertCoord k l) i.back }
  if i1.head.map Prod.fst = i.head.map Prod.fst then i1 else { i1 with since := tick }

def State.giveBack (s : State) (num : Nat) (ks : List Coord) : State := s.modInst num (·.giveBack ks s.tick)

/-- An instance is raised under R75, R362: a core bound to it holds a context marked in HQCONS of a queue that holds one. -/
def State.raised (s : State) (num : Nat) : Bool :=
  s.cores.any (fun c => c.2.bind.any (fun b => b.inst == num) &&
    (s.shed (shedOf c.1)).queues.any (fun q => !q.2.held.isEmpty && decide (field q.2.cons.toNat (4 * (c.1 % 12)) 4 ≠ 0)))

def State.prioOf (s : State) (i : Inst) : Nat := if s.raised i.num then 7 else min 7 (i.prio + i.levels)

/-- During a stop only steps of the named instance at or below the bound are assigned (R152, R153); after it, none. -/
def State.mayAssign (_s : State) (p : Pen) (i : Inst) (k : Coord) : Bool :=
  if p.cutDone then false
  else if !p.cutBusy then true
  else decide (i.num = p.cutreq.toNat / 2 ^ 96) && !p.cutNoinst &&
    !beyond (some (if p.cutDecided then p.cutL else Coord.ofNat p.cutreq.toNat)) k

/-- Steps of the instance may be selected: no breakpoint holds it, its key is formed, it is not served from the table, has not ended,
and has no selection that waits. -/
def Inst.selectable (i : Inst) : Bool := !i.brkHeld && !i.entering && i.serving.isNone && i.ending.isNone && i.pending.isNone

/-- The instance whose head step is selected: highest effective priority, then acceptance order (R358). -/
def State.choose (s : State) (pen : Nat) : Option (Inst × Coord × Inst) :=
  let p := s.pen pen
  (s.penInsts pen).foldl (fun (m : Option (Inst × Coord × Inst)) i =>
    if !i.selectable then m
    else match i.head with
      | none => m
      | some (k, i') =>
        if !s.mayAssign p i k then m
        else match m with
          | none => some (i, k, i')
          | some b => if s.prioOf b.1 < s.prioOf i then some (i, k, i') else m) none

/-- Every step of an instance has been placed. -/
def Inst.placed (i : Inst) : Bool := decide (i.total ≤ i.cursor) && i.back.isEmpty && i.pending.isNone

/-- The distributor reports N to the cores bound to an instance whose last step is placed (R168, R359). -/
def State.reportN (s : State) (num : Nat) : State :=
  match s.inst? num with
  | none => s
  | some i =>
    if !i.placed then s
    else { s with cores := s.cores.map (fun c => (c.1, { c.2 with bind := c.2.bind.map (fun b =>
      if b.inst = num ∧ b.n.isNone then { b with n := some (b.steps.length - b.base) } else b) })) }

/-- During the second phase of a stop the walker is told N once every step at or below L is placed: the steps the core
has begun or must run (R153, R254). -/
def State.cutN (s : State) (pen : Nat) : State :=
  let p := s.pen pen
  if !p.cutDecided then s
  else
    let open_ := (s.penInsts pen).any (fun i => decide (i.num = p.cutreq.toNat / 2 ^ 96) && !p.cutNoinst &&
      (match i.head with
       | some (k, _) => !beyond (some p.cutL) k
       | none => false) || decide (i.num = p.cutreq.toNat / 2 ^ 96) && i.pending.any (fun q => !beyond (some p.cutL) q.2.1))
    if open_ then s
    else { s with cores := s.cores.map (fun c =>
      if !p.cores.contains c.1 ∨ c.2.cut.phase ≠ 2 then c
      else (c.1, { c.2 with bind := c.2.bind.map (fun b =>
        let mine := b.steps.drop b.base
        { b with n := match b.n with
          | some n => some n
          | none => some (max (mine.filter Step.begun).length (mine.filter (fun t => !beyond c.2.cut.l t.key)).length) }) })) }

/-- Bind a selected step to a core: to the binding that still takes steps of its instance, or to the step queue. None
while the core's queue is full (R359). A step that came back from a pre-emption follows the steps the core holds then (R168;
DESIGN CHOICE, assumption 84). -/
def State.bindStep (s : State) (core num : Nat) (k : Coord) (prio : Nat) : Option State :=
  let c := s.core core
  if 64 ≤ c.waiting then none
  else
    let direct := c.bind.any (fun b => b.inst == num && b.n.isNone && !b.noNew && b.steps.length != b.base)
    if direct then
      some (s.setCore core { c with bind := c.bind.map (fun b => { b with steps := b.steps ++ [{ key := k, prio := prio }] }) })
    else some (s.setCore core { c with stepq := c.stepq ++ [(num, k, prio)] })

/-- STEP_SELECT (R358, R359, R369): one selection of the pen's distributor, at which the instance loses its levels (R362). A
selection that finds its core's queue full stands until there is room, with the priority it was made under (R361); during a stop, one
that may not be assigned stands aside (R153). -/
def stepSelect (pen : Nat) (s : State) : State :=
  let p := s.pen pen
  let done := fun (s : State) (num : Nat) => ((s.modInst num (fun i => { i with began := true, assigned := true })).reportN num).cutN pen
  if !p.enable then s
  else match (s.penInsts pen).find? (fun i => i.pending.any (fun q => !p.cutBusy || s.mayAssign p i q.2.1)) with
    | some i => match i.pending with
      | some (core, k, prio) =>
        if !s.mayAssign p i k then s
        else match s.bindStep core i.num k prio with
          | some s1 => done (s1.modInst i.num (fun i => { i with pending := none })) i.num
          | none => s
      | none => s
    | none => match s.choose pen with
      | none => s
      | some (i, k, i') => match s.placeOn i k with
        | none => s
        | some core =>
          let prio := s.prioOf i
          let s1 := s.modInst i.num (fun _ => { i' with levels := 0, since := s.tick })
          match s1.bindStep core i.num k prio with
          | some s2 => done s2 i.num
          | none => s1.modInst i.num (fun i => { i with pending := some (core, k, prio) })

def execStepSelect (pen : Nat) (s : State) : Host.Outcome State Fault Refusal := .next (stepSelect pen s)

/-! ### Binding a core -/

/-- A role context starts an instance's body (R166, R169, R359, R360). -/
def Ctx.start (c : Ctx) (i : Inst) (b : Bind) (x : Nat) (conf : Bool) : Ctx :=
  let r := i.record
  let c := { c with pc := dw (opEntry r x), st := .running, why := .none, sys := false, conf := conf, home := opHome r x,
                    spaceid := i.spaceid, wb0 := i.wb0, wb1 := i.wb1, pfx := {}, finished := false, req := none, wblk := none, landed := none }
  let c := (List.range 8).foldl (fun c j => c.wr (2 + j) (dw (field r (576 + 64 * j) 64))) (c.wr 1 (dw (field r 1088 64)))
  let c := ((c.wr 10 (dw (field r 224 16))).wr 11 (dw (field r 240 16))).wr 12 (dw (field r 256 16))
  c.startIter b 0

/-- An instance leads selection for a core (R365): no other one of its pen, with a step to place or queued at the core, has a
higher effective priority, or the same and an earlier acceptance. -/
def State.leads (s : State) (pen core num : Nat) : Bool :=
  let mine := ((s.inst? num).map s.prioOf).getD 0
  let before := (s.penInsts pen).takeWhile (fun i => i.num != num)
  (s.penInsts pen).all (fun j =>
    j.num == num || j.brkHeld || !(j.head.isSome || (s.core core).stepq.any (fun q => q.1 == j.num)) ||
      decide (s.prioOf j < mine) || (decide (s.prioOf j = mine) && !before.any (fun i => i.num == j.num)))

/-- A core that can be bound: nothing that it is bound to is unretired, its role contexts are Idle and it is not being pre-empted. -/
def Core.atRest (c : Core) : Bool :=
  c.bind.all (fun b => b.steps.all Step.retired) && c.pre.isNone && [0, 1, 2].all (fun x => (c.ctx x).st == .idle)

/-- A core takes no other work while an area that may be restored into it belongs to an instance that leads there (R365) (DEDUCED,
assumption 64). -/
def State.awaitsArea (s : State) (pn core : Nat) : Bool :=
  let p := s.pen pn
  p.enable && !p.cutBusy && p.areas.any (fun a => (a.core == core || (s.inst? a.inst).any (fun i => opPlace i.record != 0)) && s.leads pn core a.inst)

/-- CORE_BIND (R359, R363, R409): every step of the current instance has retired and the contexts are Idle; the core takes
the steps of the first instance of its step queue, in a stop those of the named one. A binding of the same instance continues. One with an
area saved on the core waits for its restore, which comes once it leads; until then the queue goes on behind it (R365) (DEDUCED, assumption
64). No role context runs before a C3START has been written (R407) (DEDUCED, assumption 16). -/
def coreBind (core : Nat) (s : State) : State :=
  let c := s.core core
  let saved := fun (pn num : Nat) => (s.pen pn).areas.any (fun a => a.inst == num && a.core == core &&
    (!(s.pen pn).cutDecided || a.steps.any (fun k => !beyond (some (s.pen pn).cutL) k)))
  let named := fun (pn num : Nat) => !(s.pen pn).cutNoinst && decide (num = (s.pen pn).cutreq.toNat / 2 ^ 96)
  match (s.penOf core).bind (fun pn => (c.stepq.find? (fun q => (!saved pn q.1 || s.leads pn core q.1) &&
      (!(s.pen pn).cutBusy || named pn q.1))).map (fun q => (q.1, pn))) with
  | some (num, pn) =>
    (match s.inst? num with
     | none => s
     | some i =>
       let busy := (s.pen pn).cutBusy
       if !s.started || !c.atRest || saved pn num || s.awaitsArea pn core || (s.pen pn).cutDone || (busy && decide (c.cut.phase = 3)) then s
       else
         let mine := (c.stepq.filter (fun q => q.1 == num)).map (fun q => ({ key := q.2.1, prio := q.2.2 } : Step))
         let cont := c.bind.filter (fun b => b.inst == num)
         let s1 := if cont.isSome then s else s.endBinding core
         let old := (cont.map Bind.steps).getD []
         let b : Bind := { inst := num, steps := old ++ mine, base := old.length, depth := opStages i.record + 1 }
         let cut := if c.cut.phase ≥ 1 then { c.cut with named := named pn num, c := some (Coord.ofNat (s.pen pn).cutreq.toNat), l := some (s.pen pn).cutL,
                                                          floor := if cont.isSome then c.cut.floor else none } else c.cut
         let s2 := s1.modCore core (fun c => { c with bind := some b, stepq := c.stepq.filter (fun q => q.1 != num), cut := cut,
                                                      frInst := if cont.isSome then c.frInst else 0, frKey := if cont.isSome then c.frKey else {} })
         let s3 := [0, 1, 2].foldl (fun s x => s.modCtx core x (fun t => t.start i b x (s.pen pn).conf)) s2
         ((s3.beginStep core 0).reportN num).cutN pn)
  | none => s

def execCoreBind (core : Nat) (s : State) : Host.Outcome State Fault Refusal := .next (coreBind core s)

/-! ### Priorities -/

/-- PRIORITY_AGEING (R362). -/
def priorityAgeing (pen num : Nat) (s : State) : State :=
  match s.inst? num with
  | none => s
  | some i =>
    let age := (s.pen pen).age
    if i.pen ≠ pen ∨ age = 0 ∨ i.head.isNone ∨ i.pending.isSome ∨ s.tick < i.since + 2 ^ (age + 10) then s
    else s.modInst num (fun i => { i with levels := min 7 (i.levels + 1), since := i.since + 2 ^ (age + 10) })

def execPriorityAgeing (pen num : Nat) (s : State) : Host.Outcome State Fault Refusal := .next (priorityAgeing pen num s)

/-- A write of PRIOSET (R361). -/
def priosetWrite (pen value : Nat) (s : State) : State :=
  if (s.inst? (value % 2 ^ 32)).any (fun i => i.pen == pen) then s.modInst (value % 2 ^ 32) (fun i => { i with prio := field value 32 3 })
  else s

end Sys2Proof.Machine
end

