-- ==== Sys2Proof/Machine/Append.lean ====
section
/-!
DEFINITION. Appending engine commands (spec 03 R95 to R97; spec 06 R160, R163, R164, R169; spec 09 R217, R221 to R225;
spec 13 R324): what the issuing context checks, what it places in the ring entry.
-/
namespace Sys2Proof.Machine

/-- The tail word's upper part and ESP, from its fields (R222). -/
def tailWord (t : Tail) : Nat :=
  t.esp.toNat + t.ctr.toNat * 2 ^ 10 + t.ce.toNat * 2 ^ 16 + t.stage.toNat * 2 ^ 17 + t.rg.toNat * 2 ^ 20 + t.re.toNat * 2 ^ 25
    + t.ag.toNat * 2 ^ 26 + t.ae.toNat * 2 ^ 31

/-- A field of the tail whose enable is 0 holds 0 (R225). -/
def tailOk (t : Tail) : Bool := (t.ae == 1 || t.ag == 0) && (t.re == 1 || t.rg == 0) && (t.ce == 1 || t.ctr == 0)

/-- An element type code of a tail is a float type's (R223). -/
def floatCode (esp : Nat) : Bool := decide (8 ≤ esp / 64 % 16)

/-- The entry of a command gives it a rounding mode, in tail bits 2:0 (R220): float arithmetic and fused multiply-add, a conversion
that a float takes part in, a float sum or scan, the addition into a float slice, special functions, a narrowing tile store, a
converting copy, a collective float sum. Other commands take RND = 0 there, which the engine checks (DEDUCED, assumption 34). -/
def takesMode (op fn bx esp : Nat) : Bool :=
  if op = 0x46 ∨ op = 0x47 then decide (fn ≤ 3)
  else if op = 0x48 then decide (fn ≤ 3)
  else if op = 0x4B then fn == 0 && (floatCode esp || decide (8 ≤ bx % 16))
  else if op = 0x4C then decide (fn ≤ 1) && (floatCode esp || decide (8 ≤ bx % 16))
  else if op = 0x4D then (fn == 0 || fn == 8) && floatCode esp
  else if op = 0x4F then fn == 2 && floatCode esp
  else if op = 0x50 then true
  else if op = 0x63 then decide (2 ≤ esp / 8 % 4)
  else if op = 0x6B then true
  else if op = 0x74 then fn % 4 == 0 && fn / 4 != 3
  else false

/-- What makes a command word undefined at issue beyond its function code: a field of the tail whose enable is 0, or a rounding
code 6 or 7 where the command takes a mode (R220, R225, R230). -/
def tailUndef (op fn bx : Nat) (t : Tail) : Bool := !tailOk t || (takesMode op fn bx t.esp.toNat && decide (6 ≤ t.esp.toNat % 8))

/-- Command words as the ring entry carries them (R221). -/
def evWord (op fn : Nat) (f : FEV) : Nat :=
  fn + f.bx.toNat * 2 ^ 7 + f.ax.toNat * 2 ^ 12 + f.dx.toNat * 2 ^ 17 + f.p.toNat * 2 ^ 22 + op * 2 ^ 25
def esWord (op fn : Nat) (f : FES) : Nat :=
  fn + f.fc.toNat * 2 ^ 4 + f.sc.toNat * 2 ^ 5 + f.fb.toNat * 2 ^ 10 + f.sb.toNat * 2 ^ 11 + f.fa.toNat * 2 ^ 16 + f.sa.toNat * 2 ^ 17
    + f.p.toNat * 2 ^ 22 + op * 2 ^ 25
def etWord (op fn : Nat) (f : FET) : Nat :=
  fn + f.ix.toNat * 2 ^ 2 + f.rc.toNat * 2 ^ 7 + f.tr.toNat * 2 ^ 8 + f.fx.toNat * 2 ^ 11 + f.sx.toNat * 2 ^ 12 + f.v.toNat * 2 ^ 17
    + f.p.toNat * 2 ^ 22 + op * 2 ^ 25

/-- The engine that owns a major (R229): 1 M, 2 V, 3 X, 4 F. -/
def engineOf (op : Nat) : Nat := if op < 0x60 then 2 else if op < 0x68 then 1 else if op < 0x70 then 3 else 4

/-- What an entry takes slot A, B or C to be (R221). -/
inductive Slot where
  | scalar | reg | none
  deriving DecidableEq, Repr

/-- The step a command of a stage serves (R169): none is the illegal-operand trap. c3 serves no step, at stage 0 (R160). -/
def State.stageKey (s : State) (stage : Nat) : Option (Nat × Coord) :=
  if s.curCtx = 3 then (if stage = 0 then some (0, {}) else none)
  else match (s.core s.curCore).bind with
    | none => none
    | some b =>
      let i := s.cur.iter
      if b.stage i stage then (b.a (i - stage)).map (fun t => (b.inst, t.key)) else none

/-- The eight dwords of a ring entry (R164). -/
def ringEntry (cmd tail a b c inst : Nat) (k : Coord) (ctx : Nat) : List Nat :=
  [cmd % 2 ^ 32 + tail % 2 ^ 32 * 2 ^ 32, a % 2 ^ 64, b % 2 ^ 64, c % 2 ^ 64, inst % 2 ^ 32 + k.pack % 2 ^ 32 * 2 ^ 32, k.pack / 2 ^ 32, ctx, 0]

def listVal : List Nat → Nat
  | [] => 0
  | x :: l => x + 2 ^ 64 * listVal l

/-- A ring's LOGSIZE is legal; the ring is full (R163). -/
def Eng.legal (e : Eng) : Bool := decide (4 ≤ e.logsize ∧ e.logsize ≤ 12)
def Eng.isFull (e : Eng) : Bool := decide (2 ^ e.logsize ≤ e.tail - e.head)
def Eng.slotAt (e : Eng) (i : Nat) : Nat := e.base + 64 * (i % 2 ^ e.logsize)

/-- Write the entry at index TAIL and advance TAIL (R164). `seq` is the context's access number: older accesses are
released by the append (R96). -/
def Core.append (c : Core) (e ctx tick : Nat) (entry : List Nat) : Core :=
  let g := c.eng e
  { c.setEng e { g with tail := g.tail + 1, last := (tick, ctx), apps := g.apps ++ [{ idx := g.tail, ctx := ctx, seq := (c.ctx ctx).seq, entry := entry }] } with
      sp := writeLE c.sp (g.slotAt g.tail) 64 (listVal entry) }

/-- A pending fence whose later set holds `rm` holds back fabric appends (R127). -/
def Ctx.fencesRm (c : Ctx) : Bool := c.pend.any (fun a => match a.op with
  | .fence _ late _ => late / 16 % 2 == 1
  | _ => false)

/-- A context of a higher number has appended to the engine in this tick: appends of one tick enter in the order c0 to c3 (R95). -/
def Eng.ahead (g : Eng) (tick ctx : Nat) : Bool := g.last.1 == tick && decide (ctx < g.last.2)

/-- The current context appends a command: stage and ring checks, the wait at a full ring or for its turn, then the append. `ret` is the
scalar the command returns, marked empty (R91). -/
def appendCur (e cmd : Nat) (t : Tail) (a b c : Nat) (ret : Option Nat) (s : State) : State :=
  let g := (s.core s.curCore).eng e
  match s.stageKey t.stage.toNat with
  | none => trapCur 0x27 s
  | some (inst, k) =>
    if !g.legal then trapCur 0x27 s
    else if g.isFull || g.ahead s.tick s.curCtx || (e == 4 && s.cur.fencesRm) then blockCur s
    else
      let s1 := s.modCore s.curCore (·.append e s.curCtx s.tick (ringEntry cmd (tailWord t) a b c inst k s.curCtx))
      fall 2 (match ret with
        | some d => s1.onCur (·.mark d true)
        | none => s1)

/-- Format EV (R221): no operand is read at issue; a reduction's DX is a scalar it marks empty. -/
def appendEV (op fn : Nat) (f : FEV) (t : Tail) (scalar : Bool) (s : State) : Host.Outcome State Fault Refusal :=
  guard { p := f.p.toNat, words := 2, undef := tailUndef op fn f.bx.toNat t, rep := repR, dst := if scalar then [f.dx.toNat] else [] } s
    (appendCur (engineOf op) (evWord op fn f) t 0 0 0 (if scalar then some f.dx.toNat else none))

def slotSrc (k : Slot) (n : BitVec 5) (f : BitVec 1) : List (Nat × Bool) := if k = .scalar then [(n.toNat, sel f)] else []

def slotVal (c : Ctx) (k : Slot) (n : BitVec 5) : Nat := if k = .scalar then (c.rd n.toNat).toNat else 0

/-- Operand A with the displacement that xim gives (R217). -/
def slotA (c : Ctx) (k : Slot) (n : BitVec 5) : Nat :=
  if k = .scalar then (c.rd n.toNat + dwordOfInt (engDisp c.pfx.xims)).toNat else 0

/-- Format ES (R221): the scalar slots are read at issue. -/
def appendES (op fn : Nat) (ka kb kc : Slot) (f : FES) (t : Tail) (s : State) : Host.Outcome State Fault Refusal :=
  guard { p := f.p.toNat, words := 2, undef := tailUndef op fn 0 t, xim := 2, rep := repR,
          src := slotSrc ka f.sa f.fa ++ slotSrc kb f.sb f.fb ++ slotSrc kc f.sc f.fc } s
    (fun s => appendCur (engineOf op) (esWord op fn f) t (slotA s.cur ka f.sa) (slotVal s.cur kb f.sb) (slotVal s.cur kc f.sc) none s)

/-- Format ET (R224): the context computes the slice index; outside 0 to 31 it is an illegal operand. -/
def appendET (op fn : Nat) (f : FET) (t : Tail) (s : State) : Host.Outcome State Fault Refusal :=
  guard { p := f.p.toNat, words := 2, undef := tailUndef op fn 0 t, rep := some (true, true, false, true), src := [(f.sx.toNat, sel f.fx)] } s
    (fun s =>
      let x := (s.cur.rd f.sx.toNat + dw f.ix.toNat).toNat
      if 31 < x then trapCur 0x27 s else appendCur (engineOf op) (etWord op fn f) t x 0 0 none s)

/-- A collective (R324): GR is read at issue; OPC carries the length and the group number. -/
def appendColl (fn : Nat) (f : FES) (t : Tail) (s : State) : Host.Outcome State Fault Refusal :=
  let gr := t.esp.toNat / 32
  guard { p := f.p.toNat, words := 2, undef := tailUndef 0x74 fn 0 t, xim := 2, rep := repR,
          src := slotSrc .scalar f.sa f.fa ++ slotSrc .scalar f.sb f.fb ++ slotSrc .scalar f.sc f.fc ++ [(gr, decide (t.esp.toNat / 16 % 2 = 1))] } s
    (fun s =>
      let len := (s.cur.rd f.sc.toNat).toNat
      let g := (s.cur.rd gr).toNat
      if 2 ^ 20 ≤ len ∨ !s.groupOk s.curCore g then trapCur 0x27 s
      else appendCur 4 (esWord 0x74 fn f) t (slotA s.cur .scalar f.sa) (slotVal s.cur .scalar f.sb) (len + g * 2 ^ 52) none s)

end Sys2Proof.Machine
end

