-- ==== Sys2Proof/Machine/Regs.lean ====
section
/-!
DEFINITION. System registers by number (spec 14 R327 to R330, R334), read and written. Reserved fields read zero and ignore what is
written (R10).
-/
namespace Sys2Proof.Machine

/-! ### Shared register values -/

def feat (i : Nat) : Nat := match i with
  | 0 => 0x000300300000 * 2 ^ 16 + 0x3FFF
  | 1 => 0x617BF
  | 2 => 0xF3FFF
  | _ => 0xFFFFF

/-- CSTAT (R327); CONF says whether the context's pen is confidential. -/
def Ctx.cstat (c : Ctx) (conf : Bool) : Nat := ctxCode c.state + (if c.sys then 8 else 0) + (if conf then 32 else 0)

/-- A ring register (R163). -/
def Eng.ringReg (e : Eng) : Nat :=
  e.base / 64 % 2 ^ 15 * 2 ^ 6 + e.logsize % 16 * 2 ^ 28 + e.head % 2 ^ 16 * 2 ^ 32 + e.tail % 2 ^ 16 * 2 ^ 48

/-- A loop slot's dword (R250). -/
def HLoop.dword (l : HLoop) (j : Nat) : Nat := match j with
  | 0 => l.start.toNat % 2 ^ 57 + (if l.active then 2 ^ 63 else 0)
  | 1 => l.last.toNat % 2 ^ 57
  | _ => l.count.toNat

/-- A 57-bit address extended to its canonical form. -/
def canon57 (x : Nat) : Dword := dwordOfInt (signed 57 x)

/-- A loop slot with a dword written. -/
def HLoop.put (l : HLoop) (j x : Nat) : HLoop := match j with
  | 0 => { l with start := canon57 x, active := decide (x / 2 ^ 63 % 2 = 1) }
  | 1 => { l with last := canon57 x }
  | _ => { l with count := dw x }

/-- A matrix command stands stopped on a fault, or has been put back as one and goes on from there (R308, R349): a multiply's mark stands
until it does. -/
def Cmd.rowHeld (m : Cmd) : Bool :=
  !m.ended && (m.fault || (decide (field (m.entry.getD 0 0) 25 7 = 0x60 ∨ field (m.entry.getD 0 0) 25 7 = 0x61) && m.done == 1))

/-- MROWP as it reads (R308): the position recorded last, and VALID while a matrix command stands stopped. -/
def Core.mrowpReg (c : Core) : Nat := c.mrowp.toNat % 2 ^ 63 + (if (c.eng 1).cmds.any Cmd.rowHeld then 2 ^ 63 else 0)

/-- FRONTIER (R145). -/
def Core.frontierReg (c : Core) : Nat := c.frKey.pack + c.frInst % 2 ^ 32 * 2 ^ 96

/-- A write of HQCTL, HQBASE or HQCONS (R71, R72, R275): while records are held, HQBASE and HQCTL's other fields stand. R75 frees a held
context as HQDEPTH falls below LOWM, and does not say what a write that lifts LOWM above HQDEPTH does: it frees none, and the next pop
does (DESIGN CHOICE, assumption 97). -/
def State.hqWrite (s : State) (shed n f value : Nat) : State :=
  let q := s.hq shed n
  let ctl := { q with hiwm := field value 32 16, lowm := field value 16 16, enable := value % 2 == 1 }
  match f with
  | 0 => s.setHq shed n (if q.depth ≠ 0 then ctl else { ctl with logsize := field value 8 4, spill := 0 })
  | 1 => if q.depth ≠ 0 then s else s.setHq shed n { q with base := dw (field value 5 27 * 32) }
  | 2 => s.setHq shed n { q with cons := dw (value % 2 ^ 48) }
  | _ => s

def State.setHeatReg (s : State) (die pen : Nat) (h : HeatRegs) : State :=
  s.setDie die { s.die die with heatRegs := mset (s.die die).heatRegs pen h }

/-- A write of the heat registers; HEATQTAIL is read-only. -/
def HeatRegs.put (h : HeatRegs) (f value : Nat) : HeatRegs := match f with
  | 0 => { h with enable := decide (field value 31 1 = 1), logsize := field value 16 4, core := field value 5 11, gate := value % 32 }
  | 1 => { h with base := dw value }
  | 3 => { h with head := value % 2 ^ 32 }
  | _ => h

/-- HEATCLR: the entry of the pen that holds the page is freed (R39). -/
def State.heatClear (s : State) (die pen va spaceid : Nat) : State :=
  let d := s.die die
  s.setDie die { d with heat := d.heat.filter (fun p =>
    !(p.2.pen == pen && p.2.spaceid.toNat == spaceid % 2 ^ 16 && decide (p.2.page ≤ va ∧ va < p.2.page + pageBytes p.2.size))) }

/-- A write of REWIND (R148): a lowered depth frees at once, though not during a stop (R152). -/
def State.rewindWrite (s : State) (core value : Nat) : State :=
  s.modCore core (fun c =>
    let c := { c with rewind := value % 2 ^ 10 }
    if c.cut.phase = 0 then c.rewindFree else c)

/-- A write of a ring register (R163): none is the illegal-operand trap. -/
def Eng.ringWrite (e : Eng) (value : Nat) : Option Eng :=
  let base := field value 6 15 * 64
  let log := field value 28 4
  if e.head ≠ e.tail then none
  else if 4 ≤ log ∧ log ≤ 12 ∧ 0x200000 < base + 64 * 2 ^ log then none
  else some { e with base := base, logsize := log, head := field value 48 16, tail := field value 48 16, apps := [], cmds := [] }

/-- Every engine command that a context appended has completed (R330, R337). -/
def Core.engDone (c : Core) (ctx : Nat) : Bool :=
  [1, 2, 3, 4].all (fun e => !(c.eng e).apps.any (fun a => a.ctx == ctx) && !(c.eng e).cmds.any (fun m => !m.ended && field (m.entry.getD 6 0) 0 2 == ctx))

/-! ### System registers by number -/

/-- The registers a program may read (R328). -/
def progReads (r : Nat) : Bool := decide (r ≤ 0x1A) || decide (r = 0x3B) || decide (0x40 ≤ r ∧ r ≤ 0x7F)

/-- The registers a program may write. -/
def progWrites (r : Nat) : Bool := decide (r = 0 ∨ r = 2)

/-- The registers system state may write. -/
def sysWrites (r : Nat) : Bool :=
  decide (r = 0 ∨ r = 2 ∨ r = 0x0E ∨ (0x10 ≤ r ∧ r ≤ 0x19) ∨ (0x1B ≤ r ∧ r ≤ 0x1F) ∨ r = 0x21 ∨ r = 0x22 ∨ r = 0x23 ∨
    (0x25 ≤ r ∧ r ≤ 0x2F) ∨ r = 0x38 ∨ r = 0x3A) || decide (0x40 ≤ r ∧ r ≤ 0x7F ∧ r % 4 ≠ 3)

/-- No register has the number (R328). -/
def srnBad (r : Nat) : Bool := decide (0x3C ≤ r ∧ r ≤ 0x3F) || decide (0x80 ≤ r)

/-- Read a system register; `ctx` is the context whose registers are meant. -/
def State.readSrn (s : State) (core ctx r : Nat) : Nat :=
  let c := s.core core
  let t := c.ctx ctx
  let pn := (s.penOf core).getD 16
  let p := s.pen pn
  let die := dieOf core
  if 0x40 ≤ r then (s.hq (shedOf core) ((r - 0x40) / 4)).reg (r % 4)
  else if 0x30 ≤ r ∧ r ≤ 0x37 then (mget 0 t.trec (r - 0x30)).toNat
  else if 0x2C ≤ r ∧ r ≤ 0x2F then (mget 0 t.tscr (r - 0x2C)).toNat
  else if 0x22 ≤ r ∧ r ≤ 0x25 then (s.heatReg die pn).reg (r - 0x22)
  else if 0x14 ≤ r ∧ r ≤ 0x16 then t.hl0.dword (r - 0x14)
  else if 0x17 ≤ r ∧ r ≤ 0x19 then t.hl1.dword (r - 0x17)
  else if 0x10 ≤ r ∧ r ≤ 0x13 then (c.eng (r - 0x0F)).ringReg
  else if 0x04 ≤ r ∧ r ≤ 0x07 then feat (r - 4)
  else match r with
    | 0x00 => t.genprof
    | 0x01 => t.ovftab.toNat
    | 0x02 => t.aflags.toNat
    | 0x03 => t.cstat p.conf
    | 0x08 => c.frontierReg % 2 ^ 64
    | 0x09 => c.frontierReg / 2 ^ 64
    | 0x0A => p.cutreq.toNat % 2 ^ 64
    | 0x0B => p.cutreq.toNat / 2 ^ 64
    | 0x0C => p.cutdone % 2 ^ 64
    | 0x0D => p.cutdone / 2 ^ 64
    | 0x0E => c.rewind
    | 0x0F => s.tick % 2 ^ 64
    | 0x1A => c.mrowpReg
    | 0x1B => t.wb0.toNat
    | 0x1C => t.wb1.toNat
    | 0x1D => t.spaceid.toNat
    | 0x1E => p.lmapbase.toNat
    | 0x1F => c.psave.toNat
    | 0x20 => (mget 0 p.cspwin die).toNat
    | 0x21 => (s.die die).wbtime.toNat
    | 0x28 => t.tvec.toNat
    | 0x29 => t.tpc.toNat
    | 0x2A => t.tstat.toNat
    | 0x2B => t.tctl.toNat
    | 0x38 => c.fringBase % 2 ^ 21 + c.fringLog % 16 * 2 ^ 28
    | 0x39 => c.frtail
    | 0x3A => c.frhead
    | 0x3B => p.rfctl
    | _ => 0

/-- What a write of a system register meets. -/
inductive SrWrite where
  | ok (s : State)
  | illegal
  | wait
  deriving Repr

/-- GENPROF (R5, R202, R330): it loads OVFTAB; a reserved value is illegal; it waits for the context's engine commands. The spec gives the
register no layout: bits 3:0 of a written value count, and the others are ignored (DESIGN CHOICE, assumption 118). -/
def State.genprofWrite (s : State) (core ctx value : Nat) : SrWrite :=
  let v := value % 16
  if v = 0 ∨ 3 < v then .illegal
  else if !(s.core core).engDone ctx then .wait
  else .ok (s.modCtx core ctx (fun c => { c with genprof := v, ovftab := profileOvf v }))

/-- Write a system register (R328, R330, R334). -/
def State.writeSrn (s : State) (core ctx r value : Nat) : SrWrite :=
  let pn := (s.penOf core).getD 16
  let die := dieOf core
  let onCtx := fun (f : Ctx → Ctx) => SrWrite.ok (s.modCtx core ctx f)
  let onCore := fun (f : Core → Core) => SrWrite.ok (s.modCore core f)
  if 0x40 ≤ r then .ok (s.hqWrite (shedOf core) ((r - 0x40) / 4) (r % 4) value)
  else if 0x2C ≤ r ∧ r ≤ 0x2F then onCtx (fun c => { c with tscr := mset c.tscr (r - 0x2C) (dw value) })
  else if 0x22 ≤ r ∧ r ≤ 0x25 then .ok (s.setHeatReg die pn ((s.heatReg die pn).put (r - 0x22) value))
  else if 0x14 ≤ r ∧ r ≤ 0x16 then onCtx (fun c => { c with hl0 := c.hl0.put (r - 0x14) value })
  else if 0x17 ≤ r ∧ r ≤ 0x19 then onCtx (fun c => { c with hl1 := c.hl1.put (r - 0x17) value })
  else if 0x10 ≤ r ∧ r ≤ 0x13 then
    (match ((s.core core).eng (r - 0x0F)).ringWrite value with
     | some e => .ok (s.setEng core (r - 0x0F) e)
     | none => .illegal)
  else match r with
    | 0x00 => s.genprofWrite core ctx value
    | 0x02 => onCtx (fun c => { c with aflags := dw (value % 32) })
    | 0x0E => .ok (s.rewindWrite core value)
    | 0x1B => onCtx (fun c => { c with wb0 := dw (field value 12 40 * 2 ^ 12) })
    | 0x1C => onCtx (fun c => { c with wb1 := dw (field value 12 40 * 2 ^ 12) })
    | 0x1D => onCtx (fun c => { c with spaceid := BitVec.ofNat 16 value })
    | 0x1E => .ok (s.setPen pn { s.pen pn with lmapbase := dw value })
    | 0x1F => onCore (fun c => { c with psave := dw value })
    | 0x21 => .ok (s.setDie die { s.die die with wbtime := dw value })
    | 0x26 => .ok (s.setHeatReg die pn { s.heatReg die pn with clr := dw value })
    | 0x27 => .ok (s.heatClear die pn (s.heatReg die pn).clr.toNat value)
    | 0x28 => onCtx (fun c => { c with tvec := dw value })
    | 0x29 => onCtx (fun c => { c with tpc := dw value })
    | 0x2A => onCtx (fun c => { c with tstat := dw (value / 2 ^ 36 * 2 ^ 36) })
    | 0x2B => onCtx (fun c => { c with tctl := dw (value % 32 + field value 8 1 * 2 ^ 8) })
    | 0x38 => onCore (fun c => { c with fringBase := field value 6 15 * 64, fringLog := field value 28 4 })
    | 0x3A => onCore (fun c => { c with frhead := value % 2 ^ 32 })
    | _ => .illegal

end Sys2Proof.Machine
end

