-- ==== Sys2Proof/Machine/Complete.lean ====
section
/-!
DEFINITION. The distributor's own accesses, its trace records, and how an instance ends (spec 15 R357, R360; spec 06 R182; spec 19
R378; spec 20 R390).
-/
namespace Sys2Proof.Machine

/-! ### The distributor's own accesses (R360) -/

/-- The targets of an access grant it and, for a read, hold no bad line of it (R35, R79). -/
def State.targetAll (s : State) (core : Nat) (segs : List (Nat × Nat)) (write : Bool) : Bool :=
  s.allows (shedOf core) segs write && (write || !segs.any (fun g => s.badAt g.1 g.2))

/-- What a read of the distributor gives; `wait` while a walk is under way. -/
inductive Rd (α : Type) where
  | ok (a : α) (s : State)
  | bad (s : State)
  | wait (s : State)

/-- Read n bytes in an address space. -/
def State.readSpace (s : State) (sp : Space) (w : Who) (va n : Nat) : Rd Nat :=
  let (x, s1) := s.xlate sp w kRead false va n
  if x.busy then .wait s1
  else if (x.regFault va).isSome then .bad (s.untouched s1)
  else if x.flt.isSome || !s1.targetAll w.core x.segs false then .bad s1
  else .ok (s1.rdAny w.core (shedOf w.core) 0 x.segs sp.sys) (s1.heatAll w sp va x)

/-- What a write of the distributor meets: a walk, a write-blocked page at an address (R42), or a register, which is still to be
written. -/
inductive Wrote where
  | ok (s : State)
  | busy (s : State)
  | wait (va : Nat) (s : State)
  | reg (pa : Nat) (s : State)
  | bad (s : State)
  deriving Repr

/-- Write n bytes in an address space. -/
def State.writeMem (s : State) (sp : Space) (w : Who) (va n x : Nat) : Wrote :=
  let (t, s1) := s.xlate sp w kWrite false va n
  if t.busy then .busy s1
  else if (t.regFault va).isSome then .bad (s.untouched s1)
  else if t.flt.isSome || !s1.targetAll w.core t.segs true || s1.badWrite t.segs then .bad s1
  else match t.wait, t.segs with
    | some wva, _ => .wait wva s1
    | none, (pa, _) :: _ =>
      if tierOf pa = .regs then .reg pa s1
      else .ok (((s1.heatAll w sp va t).wrSegs w.core 0 t.segs x).wrote w.core sp t.leaf va n t.segs)
    | none, [] => .ok s1

/-- What translating has changed is kept when the rest is to be tried again. -/
def State.keepWalks (s t : State) : State := { s with mem := t.mem, tlb := t.tlb, walks := t.walks, slow := t.slow, free := t.free }

/-! ### The trace ring, written by the die (R390) -/

/-- Write a 32-byte record to a pen's trace ring when it has room; encrypted for a confidential pen (R392). A record whose slot
lies in a bad line is lost, and its index counted (R80; DESIGN CHOICE, assumption 66). -/
def State.ringTrace (s : State) (pen image : Nat) : State :=
  let p := s.pen pen
  let n := 2 ^ field p.trcctl.toNat 24 4
  if field p.trcctl.toNat 24 4 < 4 ∨ n ≤ (p.trctail + 2 ^ 32 - p.trchead) % 2 ^ 32 then s
  else
    let a := field p.trcbase.toNat 6 46 * 64 + 32 * (p.trctail % n)
    (s.physWrite p.seals a 32 image).setPen pen { p with trctail := (p.trctail + 1) % 2 ^ 32 }

/-- A record of the distributor: CORE 0x3FF, no context (DESIGN CHOICE, assumption 23). -/
def State.distTrace (s : State) (pen inst kind arg : Nat) : State :=
  if (s.pen pen).traces kind then s.ringTrace pen (traceImage s.tick 0 inst {} 0xFFFF arg kind 0 0x3FF) else s

/-! ### Completion -/

/-- A completion record's image (R357). -/
def doneRecord (tick status num : Nat) : Nat := num % 2 ^ 32 + status % 256 * 2 ^ 32 + tick % 2 ^ 48 * 2 ^ 80

/-- The message of INTR follows the completion record (R357, R401). -/
def State.intr (s : State) (pen : Nat) (intr : Bool) (num : Nat) : State := if intr then s.message 1 pen num else s

/-- Write a completion record and send the message of INTR (R357, R401). A record that faults is not written; one is 16 bytes, which no
register takes (R396). -/
def State.writeDone (s : State) (pen : Nat) (sp : Space) (doneaddr : Nat) (intr : Bool) (status num : Nat) : Wrote :=
  if doneaddr = 0 ∨ doneaddr % 16 ≠ 0 then .ok (s.intr pen intr num)
  else match s.writeMem sp (distWho (s.pen pen)) doneaddr 16 (doneRecord s.tick status num) with
    | .ok s1 => .ok (s1.intr pen intr num)
    | .bad s1 => .ok (s1.intr pen intr num)
    | .reg _ s1 => .ok (s1.intr pen intr num)
    | .busy s1 => .busy s1
    | .wait wva s1 => .wait wva s1

/-- The distributor's write for an instance waits on a write-blocked page (R42): n bytes are left, the last at `hi`. -/
def State.parkInst (s : State) (num wva n hi : Nat) : State :=
  s.modInst num (fun i => { i with wblk := some (s.newPark (s.pen i.pen).die wva kWrite n 0 hi) })

/-- Bytes of ranges, in order. -/
def State.readRanges (s : State) (sp : Space) (w : Who) : List (Nat × Nat) → Rd (List (List Nat))
  | [] => .ok [] s
  | (a, n) :: l =>
    match s.readSpace sp w a n with
    | .bad s1 => .bad s1
    | .wait s1 => .wait s1
    | .ok x s1 => match s1.readRanges sp w l with
      | .ok xs s2 => .ok (bytesOf n x :: xs) s2
      | r => r

/-- The entry created or matched longest ago (R341). -/
def oldestRefl (l : List Refl) : Option Refl := l.foldl (fun m x => match m with
  | none => some x
  | some y => if x.used < y.used then some x else some y) none

/-- Entries beyond a share go, the one created or matched longest ago first; the fuel is how many there are (R341). -/
def trimRefl (cap : Nat) : Nat → List Refl → List Refl
  | 0, l => l
  | fuel + 1, l => if l.length ≤ cap then l else trimRefl cap fuel (((oldestRefl l).bind (fun y => dropFirst (· == y) l)).getD l)

/-- A pure instance that completes unmarked makes an entry, which replaces the one created or matched longest ago when the share is
full (R182, R341, R378). It waits while a walk is under way. The spec names no read of the output ranges: the final bytes are read as
the distributor reads input ranges, and where such a read is refused no entry is made (DESIGN CHOICE, assumption 100). -/
def State.makeEntry (s : State) (i : Inst) : Rd Unit :=
  let p := s.pen i.pen
  let cap := p.rfcap
  if !i.pure || i.impure || i.spoiled || !i.began || cap = 0 || decide (2 ^ 18 < i.outs.foldl (fun a r => a + r.2) 0) then .ok () s
  else
    let sp := i.space p.conf
    match s.readRanges sp (distWho p) i.ins with
    | .bad s1 => .ok () s1
    | .wait s1 => .wait s1
    | .ok ins s1 => match s1.readRanges sp (distWho p) i.outs with
      | .bad s2 => .ok () s2
      | .wait s2 => .wait s2
      | .ok outs s2 =>
        if ins ≠ i.inBytes then .ok () s2
        else
          let e : Refl := ⟨i.key, outs.map (·.map (BitVec.ofNat 8)), i.ins, i.watch, s.tick, sp⟩
          .ok () (s2.setPen i.pen { p with refl := trimRefl (cap - 1) p.refl.length p.refl ++ [e] })

/-- End an instance with a status (R357). While its completion record waits (R42), the instance stands ended. -/
def State.finish (s : State) (i : Inst) (status : Nat) : State :=
  let ended := fun (s : State) => (s.unbindAll i.num).modInst i.num (fun i => { i with ending := some status, pending := none })
  match if status = statusDone ∧ i.ending.isNone then s.makeEntry i else .ok () s with
  | .wait s1 => s.keepWalks s1
  | .bad s1 => s1
  | .ok _ s1 => match s1.writeDone i.pen (i.space (s1.pen i.pen).conf) i.doneaddr i.intr status i.num with
    | .busy s2 => ended s2
    | .wait wva s2 => (ended s2).parkInst i.num wva 16 (i.doneaddr + 15)
    | .ok s2 => (s2.unbindAll i.num).dropInst i.num
    | .reg _ s2 => (s2.unbindAll i.num).dropInst i.num
    | .bad s2 => (s2.unbindAll i.num).dropInst i.num

end Sys2Proof.Machine
end

