-- ==== Sys2Proof/Machine/Cut.lean ====
section
/-!
DEFINITION. The cut (spec 05 R144 to R155, R408; spec 14 R338; spec 15 R363; spec 17 R374): requesting a stop, its
arrival at each core, the decision of L, resuming and abandoning.
-/
namespace Sys2Proof.Machine

/-- The instance a request names runs in the pen (R154): accepted, not complete, not held at a breakpoint. -/
def State.running (s : State) (pen num : Nat) : Bool := (s.penInsts pen).any (fun i => i.num == num && !i.brkHeld)

/-- The pen's cut controller serves a request of 128 bits (R338): refused while BUSY; otherwise the stop begins. -/
def State.cutRequest (s : State) (pen value : Nat) : Bool × State :=
  let p := s.pen pen
  if p.cutBusy then (false, s)
  else
    let num := value / 2 ^ 96 % 2 ^ 32
    let s1 := s.setPen pen { p with cutreq := BitVec.ofNat 128 value, cutBusy := true, cutDone := false, cutLate := false,
                                    cutNoinst := !s.running pen num, cutDecided := false, cutRestored := false, cutL := {} }
    (true, p.cores.foldl (fun s c => s.modCore c (fun k => { k with cut := {} })) s1)

/-- A request reaches the pen's cut controller, where those of one tick wait for each other (R338, R398): `who` is 0 for the host, else one
more than the requesting context's number. -/
def State.cutAsk (s : State) (pen who value : Nat) : State :=
  s.setPen pen { s.pen pen with cutAsks := (s.pen pen).cutAsks ++ [(who, value)] }

/-- A host request through CUTREQ (R398): CUTACK counts the answer. -/
def State.cutHost (s : State) (pen value : Nat) : State :=
  let bad := decide (value / 2 ^ 96 % 2 ^ 32 = 0)
  let (ok, s1) := if bad then (false, s) else s.cutRequest pen value
  let p := s1.pen pen
  s1.setPen pen { p with cutackCount := (p.cutackCount + 1) % 2 ^ 32, cutackBad := bad, cutackAccept := ok }

/-- The controller answers one request: CUTACK tells the host, and the context that waits at its `stop` hears of it. -/
def State.cutAnswer (s : State) (pen : Nat) (r : Nat × Nat) : State := match r.1 with
  | 0 => s.cutHost pen r.2
  | n + 1 =>
    let (ok, s1) := s.cutRequest pen r.2
    s1.modCtx (n / 4) (n % 4) (fun c => if c.req = some (askStop, 0) then { c with req := some (askStop, if ok then 2 else 1) } else c)

/-- The controllers of the pens serve what has reached them on this tick: host requests first, in the order they came, then those of
contexts by their package context numbers (R338, R398). -/
def State.cutServe (s : State) : State :=
  (s.pens.filter (fun p => !p.2.cutAsks.isEmpty)).foldl (fun s p =>
    (sortBy (fun a b => decide (a.1 ≤ b.1)) p.2.cutAsks).foldl (fun s r => s.cutAnswer p.1 r)
      (s.setPen p.1 { s.pen p.1 with cutAsks := [] })) s

/-- `stop pd, sa` (R338): c3 only; OPINST 0 is an illegal operand; the request goes to the controller, and its answer to pd. -/
def execStop (f : FStop) (s : State) : Host.Outcome State Fault Refusal :=
  guard { p := f.p.toNat, undef := decide (f.a.toNat % 2 = 1), src := [(f.a.toNat, sel f.fa), (f.a.toNat + 1, sel f.fa)], pdst := [f.pd.toNat] } s
    (fun s =>
      let v := (s.cur.rd f.a.toNat).toNat + (s.cur.rd (f.a.toNat + 1)).toNat * 2 ^ 64
      match s.cur.req, s.penOf s.curCore with
      | some (_, n + 1), _ => fall 1 (s.onCur (fun c => c.wrP f.pd.toNat (n == 1)))
      | asked, some p =>
        let who := 4 * s.curCore + s.curCtx + 1
        if s.curCtx ≠ 3 ∨ v / 2 ^ 96 = 0 then trapCur 0x27 s
        else if !s.cur.drained || (asked.isSome && (s.pen p).cutAsks.any (fun r => r.1 == who)) then blockCur s
        else blockCur ((s.cutAsk p who v).onCur (·.ask (.stop f) askStop 0))
      | _, none => trapCur 0x27 s)

/-- STOP_ARRIVAL (R152, R155): the request reaches a core of the pen, which reports its floor. A core that runs another
instance, or any core when NOINST = 1, takes its own frontier as c. Every core traces its report (R390). -/
def stopArrival (core : Nat) (s : State) : State :=
  match s.penOf core with
  | none => s
  | some pn =>
    let p := s.pen pn
    let c := s.core core
    if !p.cutBusy ∨ c.cut.phase ≠ 0 then s
    else
      let num := p.cutreq.toNat / 2 ^ 96
      let named := !p.cutNoinst && c.bind.any (fun b => b.inst == num)
      let cc := if named then some (Coord.ofNat p.cutreq.toNat) else c.frontier
      (s.setCore core { c with cut := { phase := 1, c := cc, floor := c.floor, named := named } }).traceShed core
        ((c.bind.map Bind.inst).getD 0) (c.floor.getD {}) 0xFFFF 0 6 0

def execStopArrival (core : Nat) (s : State) : Host.Outcome State Fault Refusal := .next (stopArrival core s)

def optMax (a : Coord) (b : Option Coord) : Coord := match b with
  | none => a
  | some x => a.max x

/-- CUT_DECISION (R152, R155): when every core has reported, L is the highest of c, the floors of the named instance's
cores and its distributor floor; another core's own L is the higher of its frontier and its floor (DEDUCED, assumption 27). -/
def cutDecision (pen : Nat) (s : State) : State :=
  let p := s.pen pen
  if !p.cutBusy ∨ p.cutDecided ∨ p.cores.any (fun c => (s.core c).cut.phase == 0) then s
  else
    let c := Coord.ofNat p.cutreq.toNat
    let floors := (p.cores.filter (fun k => (s.core k).cut.named)).map (fun k => (s.core k).cut.floor)
    let dist := if p.cutNoinst then none else (s.inst? (p.cutreq.toNat / 2 ^ 96)).bind Inst.floor
    let l := (dist :: floors).foldl optMax c
    let s1 := s.setPen pen { p with cutL := l, cutDecided := true, cutLate := decide (c.rank < l.rank) }
    let s2 := p.cores.foldl (fun s k => s.modCore k (fun x =>
      { x with cut := { x.cut with phase := 2, l := if x.cut.named then some l else match x.cut.c with
        | some y => some (optMax y x.cut.floor)
        | none => x.cut.floor } })) s1
    s2.cutN pen

/-- Instances that a core of the pen has halted, or gave up so that a saved area could be restored (R155, R159, R363). -/
def State.haltedInsts (s : State) (pen : Nat) : List Nat :=
  (s.pen pen).cores.filterMap (fun c => (s.core c).bind.map Bind.inst) ++ ((s.penInsts pen).filter Inst.halted).map Inst.num

def execCutDecision (pen : Nat) (s : State) : Host.Outcome State Fault Refusal := .next (cutDecision pen s)

/-! ### Resuming and abandoning -/

/-- A role context cleared for a resume (R363): scalars other than s1 to s12, predicates, vectors, loop slots and
full/empty bits; GENPROF, OVFTAB and AFLAGS are kept. -/
def Ctx.resumed (c : Ctx) : Ctx :=
  { c with s := c.s.filter (fun r => decide (1 ≤ r.1 ∧ r.1 ≤ 12)), sE := [], p := [], pE := [], q := [], v := [], hl0 := {}, hl1 := {},
           st := .idle, why := .none, pend := [], pfx := {}, finished := true, req := none, wblk := none, k := {}, iter := 0, n := none }

/-- Steps of a core beyond its L that come back unplaced. -/
def Core.returned (c : Core) (num : Nat) : List Coord :=
  ((c.bind.map (fun b => if b.inst = num then (b.steps.filter (fun t => !t.retired)).map Step.key else [])).getD [])
    ++ (c.stepq.filter (fun q => q.1 == num)).map (fun q => q.2.1)

/-- A core prepares for the resume (R363, R374). -/
def Core.resume (c : Core) : Core :=
  let c := { c with gates := [], ctrs := [], tiles := [], cut := {},
                    ctxs := [0, 1, 2].foldl (fun m x => mset m x (c.ctx x).resumed) c.ctxs }
  let c := match c.bind with
    | none => c
    | some b =>
      let kept := b.steps.filter Step.retired
      { c with bind := some { b with steps := kept, base := kept.length, n := none, noNew := false },
               stepq := c.stepq.filter (fun q => q.1 != b.inst) }
  c.rewindFree

/-- PENCTL.RESUME after a cut (R363): every step beyond L of a halted instance returns unplaced, one that waits for a full step queue
too, the cores prepare, DONE is cleared. -/
def State.penResume (s : State) (pen : Nat) : State :=
  let p := s.pen pen
  let named := fun (n : Nat) => !p.cutNoinst && n == p.cutreq.toNat / 2 ^ 96
  let s1 := (s.penInsts pen).foldl (fun s i =>
    let halted := p.cores.filter (fun c => (s.core c).bind.any (fun b => b.inst == i.num) || named i.num)
    let ks := halted.flatMap (fun c => (s.core c).returned i.num)
    let went := !halted.isEmpty || i.halted
    let waits := if went then (i.pending.map (fun q => q.2.1)).toList else []
    (s.giveBack i.num (ks ++ waits)).modInst i.num (fun j =>
      { j with pending := if went then none else j.pending, halted := false })) s
  let s2 := p.cores.foldl (fun s c => s.modCore c (fun k =>
    let k := { k with stepq := k.stepq.filter (fun q => p.cutNoinst || q.1 != p.cutreq.toNat / 2 ^ 96) }
    k.resume)) s1
  s2.setPen pen { p with cutDone := false, cutDecided := false, cutLate := false, cutNoinst := false, cutL := {} }

/-- A role context that a cut halted stands Idle. -/
def Ctx.unhalt (c : Ctx) : Ctx :=
  if c.st = .stopped ∧ c.why = .cut then { c with st := .idle, why := .none, pend := [], pfx := {}, req := none, wblk := none } else c

def Core.unhalt (c : Core) : Core := { c with ctxs := [0, 1, 2].foldl (fun m x => mset m x (c.ctx x).unhalt) c.ctxs }

/-- PENCTL.ABANDON after a cut (R363): the named instance and every instance a core halted under R155 end with STATUS 4. DONE is
cleared; LATE, NOINST and the coordinates stand until a resume or the next request (R154). -/
def State.penAbandon (s : State) (pen : Nat) : State :=
  let p := s.pen pen
  let halted := s.haltedInsts pen
  let ends := (s.penInsts pen).filter (fun i => (!p.cutNoinst && decide (i.num = p.cutreq.toNat / 2 ^ 96)) || halted.contains i.num)
  let s1 := p.cores.foldl (fun s c => s.modCore c (fun k => { k with cut := {} }.unhalt)) s
  let s2 := ends.foldl (fun s i => (s.modInst i.num (fun i => { i with serving := none, entering := false, wblk := none })).finish i statusAbandoned) s1
  let p := s2.pen pen
  s2.setPen pen { p with cutDone := false, cutDecided := false,
                         areas := p.areas.filter (fun a => !(ends.any (fun i => i.num == a.inst))) }

/-- A write of PENCTL (R363, R369). One with RESUME and ABANDON both set, or with either of them before DONE, has no effect. -/
def State.penctl (s : State) (pen value : Nat) : State :=
  let p := s.pen pen
  let s1 := s.setPen pen { p with age := field value 12 4, premode := field value 8 1 == 1, enable := value % 2 == 1 }
  let go := p.cutDone && !p.cutBusy
  match field value 1 2 with
  | 0 => s1
  | 1 => if go then s1.penResume pen else s
  | 2 => if go then s1.penAbandon pen else s
  | _ => s

end Sys2Proof.Machine
end

