-- ==== Sys2Proof/Machine/Blocks.lean ====
section
/-!
DEFINITION. What a write of a register block does (spec 21 R396 to R398; spec 15 R353, R361, R363, R366; spec 20 R383 to R393), and
the distributor's writes, which may go to one (R360).
-/
namespace Sys2Proof.Machine

/-- C3START (R366): starts c3 in system state; ignored while c3 is not Idle. It is the last step of bring-up, so that it starts nothing before
the firmware is accepted, FABID set and the core's pen configured (R406, R407) (DEDUCED, assumption 16). -/
def State.startC3 (s : State) (core value : Nat) : State :=
  let c := s.core core
  let t := c.ctx 3
  if s.firmware ≠ some true ∨ !s.fabSet ∨ (s.penOf core).isNone ∨ t.st ≠ .idle then s
  else
    let p := s.pen ((s.penOf core).getD 16)
    let t := { t with pc := canon57 value, sys := true, st := .running, why := .none, tvec := 0, spaceid := c.c3space, wb0 := p.wb0, wb1 := p.wb1,
                      conf := p.conf, pfx := {}, req := none, wblk := none }
    ({ s with started := true } : State).setCore core { c.setCtx 3 t with c3start := dw (value % 2 ^ 57) }

/-- LQBASE and LQCTL (R353). -/
def LQ.put (q : LQ) (ctl : Bool) (value : Nat) : LQ :=
  let en := field value 31 1 == 1
  if q.enable then (if ctl && !en then { q with enable := false } else q)
  else if ctl then { q with enable := en, logsize := value % 16, count := if en then 0 else q.count }
  else { q with base := dw (field value 6 46 * 64) }

/-- BRKCTL (R393): GO releases every held instance; a pure one has its key to form. -/
def State.brkctl (s : State) (pen value : Nat) : State :=
  let s1 := s.setPen pen { s.pen pen with brkEnable := field value 31 1 == 1 }
  if field value 29 1 = 1 then
    ((s1.penInsts pen).filter Inst.brkHeld).foldl
      (fun s i => s.modInst i.num (fun i => { i with brkHeld := false, since := s.tick, entering := i.pure })) s1
  else s1

/-- A shed's counters restart (R384). -/
def Shed.restart (h : Shed) : Shed := { h with fov := [], cnt := [], gainedPower := false }

/-- Every counter restarts: an interval begins. -/
def State.restartCounters (s : State) : State :=
  { s with sheds := s.sheds.map (fun p => (p.1, p.2.restart)), dies := s.dies.map (fun p => (p.1, { p.2 with cnt := [] })) }

/-- FABID (R403): the board controller writes it before any pen is enabled, and never 0xFFFF. -/
def State.fabidWrite (s : State) (value : Nat) : State :=
  if s.pens.any (fun p => p.2.enable) ∨ value % 2 ^ 16 = 0xFFFF then s else { s with fabid := value % 2 ^ 16, fabSet := true }

/-- BCNCTL (R383, R384): ENABLE set begins an interval; a change of K while enabled is ignored; the first interval after ENABLE is PARTIAL. -/
def State.bcnctl (s : State) (value : Nat) : State :=
  let en := field value 31 1 == 1
  if s.bcnEnable && field value 16 5 != s.bcnK then s
  else if en && !s.bcnEnable then { s.restartCounters with bcnEnable := true, bcnK := field value 16 5, bcnPartial := true, bcnLast := s.tick }
  else { s with bcnEnable := en, bcnK := field value 16 5 }

/-- Write a register of a block at a dword offset with a whole value; `sys` says whether the writer is in system state. A register marked R ignores it (R397). -/
def State.blockWrite (s : State) (master b off value : Nat) (sys : Bool) : State :=
  if s.hidden master b off sys then s
  else if b = 0 then (match off with
    | 0x00 => if master = 82 then s.fabidWrite value else s
    | 0x08 => s.bcnctl value
    | 0x10 => { s with bcnr := { s.bcnr with ctl := dw (value / 2 ^ 63 % 2 * 2 ^ 63 + field value 10 46 * 2 ^ 10) } }
    | 0x18 => { s with bcnr := { s.bcnr with head := value % 2 ^ 32 } }
    | _ => s)
  else if b ≤ 9 then
    (if 0x30000 ≤ off ∧ off < 0x30600 then
       let core := 96 * (b - 1) + (off - 0x30000) / 0x10
       if off % 0x10 = 0 then s.startC3 core value
       else if (s.ctx core 3).st ≠ .idle then s
       else s.modCore core (fun c => { c with c3space := BitVec.ofNat 16 value })
     else s)
  else if b ≤ 25 then
    let pn := b - 10
    let p := s.pen pn
    if off < 0x80 then s.setPen pn { p with lqs := mset p.lqs (off / 0x10) ((mget {} p.lqs (off / 0x10)).put (off % 0x10 == 8) value) }
    else match off with
      | 0x80 => priosetWrite pn value s
      | 0x88 => s.penctl pn value
      | 0x90 => { s with cutLow := s.cutLow.filter (fun x => !(x.1 == pn && x.2.1 == master)) ++ [(pn, master, value)] }
      | 0x98 =>
        let low := ((s.cutLow.find? (fun x => x.1 == pn && x.2.1 == master)).map (fun x => x.2.2)).getD (p.cutreq.toNat % 2 ^ 64)
        { s with cutLow := s.cutLow.filter (fun x => !(x.1 == pn && x.2.1 == master)) }.cutAsk pn 0 (low + value * 2 ^ 64)
      | 0xC0 => s.setPen pn { p with trcctl := dw (value - field value 28 3 * 2 ^ 28 - field value 16 4 * 2 ^ 16) }
      | 0xC8 => s.setPen pn { p with trcbase := dw (field value 6 46 * 64) }
      | 0xD8 => s.setPen pn { p with trchead := value % 2 ^ 32 }
      | 0xE0 => s.setPen pn { p with brkaddr := dw (value % 2 ^ 57) }
      | 0xE8 => s.brkctl pn value
      | 0x100 => s.setPen pn { p with pbcn := { p.pbcn with ctl := dw (value / 2 ^ 63 % 2 * 2 ^ 63 + field value 10 46 * 2 ^ 10) } }
      | 0x108 => s.setPen pn { p with pbcn := { p.pbcn with head := value % 2 ^ 32 } }
      | _ => s
  else s

/-- Write 4 or 8 bytes of a register (R396), in system state or not: a low half is staged; a high half writes the whole register with it. -/
def State.regWrite (s : State) (master pa n value : Nat) (sys : Bool) : State := match regBlock pa with
  | some (b, off) =>
    let mine := s.staged.find? (fun x => x.1 == master && x.2.1 == pa / 8 * 8)
    let clear := s.unstage master
    if n = 8 then clear.blockWrite master b off (value % 2 ^ 64) sys
    else if off % 8 = 0 then { clear with staged := clear.staged ++ [(master, pa, value % 2 ^ 32)] }
    else
      let low := (mine.map (fun x => x.2.2)).getD (s.regRead master (pa / 8 * 8) 4 sys)
      clear.blockWrite master b (off / 8 * 8) (low + value % 2 ^ 32 * 2 ^ 32) sys
  | none => s

/-- Write n bytes in an address space, or a register (R360, R396). -/
def State.writeSpace (s : State) (sp : Space) (w : Who) (va n x : Nat) : Wrote := match s.writeMem sp w va n x with
  | .reg pa s1 => .ok (s1.regWrite (shedOf w.core) pa n x sp.sys)
  | r => r

end Sys2Proof.Machine
end

