-- ==== Sys2Proof/Machine/Sched.lean ====
section
/-!
DEFINITION. From launch to completion (spec 15 R353 to R357, R360; spec 06 R180 to R183; spec 19 R378, R379; spec 20 R393):
accepting launch records, serving launches from the reflection table, completing.
-/
namespace Sys2Proof.Machine

/-! ### Operator records -/

/-- The record's own malformed cases (R167), entry points apart. -/
def recordBad (r : Nat) : Bool :=
  field r 0 3 == 0 || field r 0 3 == 7 || decide (2 ≤ opPlace r) || (List.range 3).any (fun j => decide (opStages r < opHome r j))
    || field r 6 3 != 0 || field r 24 8 != 0 || field r 32 32 != 0 || field r 272 48 != 0 || field r 512 64 != 0 || field r 1216 832 != 0

/-- Ranges of a purity descriptor: (base, length) pairs from 16-byte entries. -/
def descRanges (d : Nat) (lo n : Nat) : List (Nat × Nat) :=
  (List.range n).map (fun i => (field d (64 + 128 * (lo + i)) 64, field d (128 + 128 * (lo + i)) 64))

/-- A purity descriptor is malformed (R180). -/
def descBad (d : Nat) : Bool :=
  let nin := field d 0 8
  let nout := field d 8 8
  let nw := field d 16 8
  let rs := descRanges d 0 (nin + nout + nw)
  decide (16 < nin) || decide (16 < nout) || decide (16 < nw) ||
    rs.any (fun r => r.2 == 0 || decide (2 ^ 40 < r.2)) ||
    (descRanges d nin nout).any (fun o => (descRanges d (nin + nout) nw).any (fun w => overlaps o.1 o.2 w.1 w.2))

/-- The header of a descriptor, then as many ranges as it counts. -/
def State.readDesc (s : State) (sp : Space) (w : Who) (va : Nat) : Rd Nat :=
  match s.readSpace sp w va 8 with
  | .ok h s1 =>
    let n := min 16 (field h 0 8) + min 16 (field h 8 8) + min 16 (field h 16 8)
    (match s1.readSpace sp w (va + 8) (16 * n) with
     | .ok x s2 => .ok (h + 2 ^ 64 * x) s2
     | r => r)
  | r => r

/-! ### Task keys -/

/-- Admitted ranges that hold an entry point, each once, by address (R180). -/
def codeRanges (p : Pen) (r : Nat) : List (Nat × Nat) :=
  sortBy (fun a b => decide (a.1 ≤ b.1)) (p.admitted.filter (fun a => (List.range 3).any (fun j => within (opEntry r j) 1 a))).eraseDups

/-- The task key (R180), from the code bytes and the input bytes. -/
def taskKey (r : Nat) (code ins : List (List Nat)) (inr outr watchr : List (Nat × Nat)) : Nat :=
  let rec0 := r - field r 64 64 * 2 ^ 64 - field r 12 3 * 2 ^ 12 - field r 4 2 * 2 ^ 4
  sha256 (code.flatten ++ bytesOf 144 (rec0 % 2 ^ 1152)
    ++ (inr.zip ins).flatMap (fun x => bytesOf 8 x.1.2 ++ x.2)
    ++ outr.flatMap (fun x => bytesOf 8 x.2)
    ++ watchr.flatMap (fun x => bytesOf 8 x.1 ++ bytesOf 8 x.2))

/-- Change the first element that a test picks. -/
def modFirst {α : Type} (p : α → Bool) (f : α → α) : List α → List α
  | [] => []
  | x :: l => if p x then f x :: l else x :: modFirst p f l

/-! ### Serving a matched launch -/

/-- Bytes at an address as pieces that no aligned dword boundary crosses; the fuel is their number. -/
def dwordPieces : Nat → Nat → List (BitVec 8) → List ((Nat × Nat) × List (BitVec 8))
  | 0, _, _ => []
  | _, _, [] => []
  | fuel + 1, va, bytes =>
    let k := 8 - va % 8
    ((va, min k bytes.length), bytes.take k) :: dwordPieces fuel (va + k) (bytes.drop k)

/-- Pieces in address order with those of one aligned dword that meet or overlap made one; the first argument is the piece before. -/
def joinPieces (r : (Nat × Nat) × List (BitVec 8)) : List ((Nat × Nat) × List (BitVec 8)) → List ((Nat × Nat) × List (BitVec 8))
  | [] => [r]
  | q :: l =>
    if q.1.1 / 8 = r.1.1 / 8 ∧ q.1.1 ≤ r.1.1 + r.1.2 then
      let bytes := r.2 ++ q.2.drop (r.1.1 + r.1.2 - q.1.1)
      joinPieces ((r.1.1, bytes.length), bytes) l
    else r :: joinPieces q l

/-- The output bytes of an entry as the distributor writes them: dword by dword, in increasing address order, and each byte once, though
several ranges may hold it (R379). -/
def outPieces (outs : List (Nat × Nat)) (bytes : List (List (BitVec 8))) : List ((Nat × Nat) × List (BitVec 8)) :=
  match sortBy (fun a b => decide (a.1.1 ≤ b.1.1)) ((outs.zip bytes).flatMap (fun x => dwordPieces x.2.length x.1.1 x.2)) with
  | [] => []
  | r :: l => joinPieces r l

/-- A fault on a write of a matched launch invalidates the entry, and the instance runs its steps (R379). -/
def State.unserve (s : State) (i : Inst) : State :=
  let p := s.pen i.pen
  (s.setPen i.pen { p with refl := (dropFirst (fun (e : Refl) => e.key == i.key) p.refl).getD p.refl }).modInst i.num
    (fun i => { i with serving := none, wblk := none })

/-- One dword of a matched launch is written, with those that follow it still to write; the instance goes on, or waits (R42). -/
def State.servePiece (s : State) (i : Inst) (r : (Nat × Nat) × List (BitVec 8)) (rest : List ((Nat × Nat) × List (BitVec 8))) : Bool × State :=
  let p := s.pen i.pen
  match s.writeSpace (i.space p.conf) (distWho p) r.1.1 r.1.2 (r.2.foldr (fun b a => b.toNat + 256 * a) 0) with
  | .ok s1 => (true, s1.modInst i.num (fun i => { i with serving := some rest }))
  | .reg _ s1 => (true, s1.modInst i.num (fun i => { i with serving := some rest }))
  | .busy s1 => (false, s1)
  | .wait wva s1 => (false, s1.parkInst i.num wva (r.1.2 + (rest.map (fun x => x.1.2)).foldl (· + ·) 0)
      (((r :: rest).map (fun x => x.1.1 + x.1.2)).foldl max 0 - 1))
  | .bad s1 => (false, s1.unserve i)

/-- A matched launch is served (R183, R379): what is left of its outputs is written, then its completion record; a write that waits on
WBLK waits here (R42). -/
def State.serve (s : State) (i : Inst) : List ((Nat × Nat) × List (BitVec 8)) → State
  | r :: rest => match s.servePiece i r rest with
    | (true, s1) => s1.serve i rest
    | (false, s1) => s1
  | [] =>
    let p := s.pen i.pen
    match s.writeDone i.pen (i.space p.conf) i.doneaddr i.intr statusServed i.num with
    | .busy s2 => s2
    | .wait wva s2 => s2.parkInst i.num wva 16 (i.doneaddr + 15)
    | .ok s2 => s2.dropInst i.num
    | .reg _ s2 => s2.dropInst i.num
    | .bad s2 => s2.dropInst i.num

/-- The pieces that lie in dword d of those at the head of a list are written together (R379). -/
def State.serveSame (s : State) (i : Inst) (d : Nat) : List ((Nat × Nat) × List (BitVec 8)) → State
  | r :: rest => if r.1.1 / 8 ≠ d then s else match s.servePiece i r rest with
    | (true, s1) => s1.serveSame i d rest
    | (false, s1) => s1
  | [] => s

/-- Turn.serve: one dword of a matched launch is written. -/
def serveDword (num : Nat) (s : State) : State := match s.inst? num with
  | some i => (match i.serving with
    | some (r :: rest) => if i.wblk.isSome then s else s.serveSame i (r.1.1 / 8) (r :: rest)
    | _ => s)
  | none => s

/-- A numbered instance enters selection: a pure one forms its key, and a match serves it from the table (R183, R378,
R379). `s` already holds the instance. The spec does not say how the admitted code bytes are read: they are read as the input ranges
are, and where one cannot be read the launch misses and makes no entry (DESIGN CHOICE, assumption 101). -/
def State.enter (s : State) (num : Nat) : State :=
  match s.inst? num with
  | none => s
  | some i =>
    let p := s.pen i.pen
    let sp := i.space p.conf
    let w := distWho p
    let miss := fun (s : State) => s.modInst num (fun i => { i with impure := true, entering := false })
    let later := fun (s : State) => s.modInst num (fun i => { i with entering := true })
    if !i.pure then s
    else match s.readRanges sp w (codeRanges p i.record) with
      | .bad s1 => miss s1
      | .wait s1 => later s1
      | .ok code s1 => match s1.readRanges sp w i.ins with
        | .bad s2 => miss s2
        | .wait s2 => later s2
        | .ok ins s2 =>
          let key := taskKey i.record code ins i.ins i.outs i.watch
          let i := { i with key := key, inBytes := ins, began := true, entering := false }
          let s3 := s2.modInst num (fun _ => i)
          let p := s3.pen i.pen
          match p.refl.find? (fun e => e.key == key) with
          | none => s3
          | some e => (s3.setPen i.pen { p with refl := modFirst (fun x => x.key == key) (fun x => { x with used := s.tick }) p.refl }).modInst num
              (fun i => { i with serving := some (outPieces i.outs e.outs) })

/-- Check a record and number it; the result is the number, 0 when refused (R356). -/
def State.accept (s : State) (pen oprec : Nat) (sp : Space) (doneaddr : Nat) (intr : Bool) (seed : Option Nat) (resk : Option Coord) : Rd Nat :=
  let p := s.pen pen
  let w := distWho p
  let readable := fun (va : Nat) => p.admitted.any (inRange va)
  match if oprec % 64 ≠ 0 then .bad s else s.readSpace sp w oprec 256 with
  | .bad s1 => .ok 0 s1
  | .wait s1 => .wait s1
  | .ok r s1 =>
    if recordBad r || (List.range 3).any (fun j => !readable (opEntry r j)) then .ok 0 s1
    else
      match if opPure r then s1.readDesc sp w (field r 1152 64) else .ok 0 s1 with
      | .bad s2 => .ok 0 s2
      | .wait s2 => .wait s2
      | .ok d s2 =>
        if opPure r && descBad d then .ok 0 s2
        else
          let nin := field d 0 8
          let nout := field d 8 8
          let num := if s2.nextInst = 0 then 1 else s2.nextInst
          let done := match resk with
            | none => 0
            | some k => min (opSteps r) (stepsUpTo (opExtents r) k.list)
          let i : Inst := { num := num, pen := pen, record := r, prio := field r 12 3, since := s.tick, spaceid := sp.spaceid,
                            wb0 := sp.wb0, wb1 := sp.wb1, doneaddr := doneaddr, intr := intr, seed := seed.getD (field r 64 64),
                            cursor := done, total := opSteps r, retired := done, resk := resk, floor := resk,
                            brkHeld := p.brkEnable && decide (oprec % 2 ^ 57 = p.brkaddr.toNat % 2 ^ 57),
                            pure := opPure r, ins := descRanges d 0 nin, outs := descRanges d nin nout,
                            watch := descRanges d (nin + nout) (field d 16 8) }
          .ok num { s2 with insts := s2.insts ++ [i], nextInst := (num + 1) % 2 ^ 32 }

/-- An accepted instance is traced (R390), then held at a breakpoint (R393), or enters selection. -/
def State.admitInst (s : State) (pen num q : Nat) : State :=
  let s1 := s.distTrace pen num 3 q
  if (s.inst? num).any Inst.brkHeld then
    let p := s1.pen pen
    let hits := (p.brkHits + 1) % 2 ^ 32
    ((s1.setPen pen { p with brkHits := hits }).distTrace pen num 7 hits).message 2 pen hits
  else s1.enter num

/-- Physical address of the next slot of a launch queue. -/
def LQ.slot (q : LQ) : Nat := field q.base.toNat 6 46 * 64 + 64 * (q.count % 2 ^ q.logsize)

/-- A queue's next record is complete (R353, R355). One in a line with an uncorrectable error cannot be read: its queue stands still
(R80; DESIGN CHOICE, assumption 66). -/
def State.lqReady (s : State) (q : LQ) : Bool :=
  q.enable && decide (2 ≤ q.logsize ∧ q.logsize ≤ 12) && readLE s.mem (q.slot + 56) 8 == q.count + 1 && !s.badAt q.slot 64

/-- A launch of a context of a core in a stop serves a step beyond the bound: it is not accepted (R152, R153). -/
def State.launchBarred (s : State) (d : DevLaunch) : Bool := s.barred d.core d.ctx (s.ctx d.core d.ctx).k

/-- A refused host launch (R356): its record is traced as accepted (R390), and its completion record written, or it waits on a
write-blocked page (R42). -/
def State.refuseHost (s : State) (pen q : Nat) (sp : Space) (doneaddr : Nat) (intr : Bool) : Wrote :=
  match (s.distTrace pen 0 3 q).writeDone pen sp doneaddr intr statusRefused 0 with
  | .wait wva s1 => .ok (s1.setPen pen { s1.pen pen with
      refusing := some (doneaddr, intr, s1.newPark (s1.pen pen).die wva kWrite 16 0 (doneaddr + 15)) })
  | r => r

/-- LAUNCH_ACCEPT (R355, R356, R279): the next ready host record in round-robin order, or the oldest device launch that a stop does not
bar; the spec orders neither before the other, so the choice is free (DESIGN CHOICE, assumptions 3, 26). -/
def launchAccept (pen : Nat) (s : State) : State :=
  let p := s.pen pen
  if 256 ≤ (s.penInsts pen).length then s
  else
    let order := (List.range 8).map (fun i => (p.lastQ + 1 + i) % 8)
    let host := if p.refusing.isSome then none else order.find? (fun q => s.lqReady (mget {} p.lqs q))
    let dev := p.devq.find? (fun d => !s.launchBarred d)
    let (x, s1) := if host.isSome && dev.isSome then s.draw else (if host.isSome then 0 else 1, s)
    match x % 2, host, dev with
    | 0, some q, _ =>
      let lq := mget {} p.lqs q
      let r := readLE s1.mem lq.slot 64
      let s2 := s1.setPen pen { p with lqs := mset p.lqs q { lq with count := lq.count + 1 }, lastQ := q }
      let seed := if field r 258 1 = 1 then some (field r 192 64) else none
      let resk := if field r 256 1 = 1 then some (Coord.ofNat (field r 352 96)) else none
      (match s2.accept pen (field r 0 64) p.hostSpace (field r 128 64) (field r 257 1 == 1) seed resk with
       | .ok 0 s3 => (match s3.refuseHost pen q p.hostSpace (field r 128 64) (field r 257 1 == 1) with
         | .busy s4 => s.keepWalks s4
         | .ok s4 => s4
         | .reg _ s4 => s4
         | .bad s4 => s4
         | .wait _ s4 => s4)
       | .ok num s3 => s3.admitInst pen num q
       | .wait s3 => s.keepWalks s3
       | .bad s3 => s3)
    | _, _, some d =>
      let s2 := s1.setPen pen { p with devq := (dropFirst (· == d) p.devq).getD p.devq }
      (match s2.accept pen d.oprec ⟨d.spaceid, d.wb0, d.wb1, false, p.conf⟩ 0 false none none with
       | .ok num s3 =>
         let s4 := s3.modCtx d.core d.ctx (fun c => { c with req := some (gotLaunch, num) })
         if num = 0 then s4.distTrace pen 0 3 8 else (s4.commit d.core d.ctx (s4.ctx d.core d.ctx).k).admitInst pen num 8
       | .wait s3 => s.keepWalks s3
       | .bad s3 => s3)
    | _, _, none => s

def execLaunchAccept (pen : Nat) (s : State) : Host.Outcome State Fault Refusal := .next (launchAccept pen s)

/-! ### Completion -/

/-- A decided stop will undo a step of the instance that has retired (R153) (DEDUCED, assumption 63). -/
def State.undoes (s : State) (num : Nat) : Bool :=
  s.cores.any (fun c => c.2.cut.phase == 2 && c.2.bind.any (fun b => b.inst == num && b.steps.any (fun t => t.retired && beyond c.2.cut.l t.key)))

/-- INSTANCE_COMPLETE (R357): every step has retired on every core. One that waits to form its key, to write a matched launch's
bytes, or to write its completion record, goes on; what waits on a write-blocked page waits (R42). Instance 0 of a pen is a refused host
launch whose completion record has waited (R356). -/
def instanceComplete (pen num : Nat) (s : State) : State :=
  match s.inst? num with
  | none => (match num, (s.pen pen).refusing with
    | 0, some (doneaddr, intr, w) => if !w.mayTry s.tick then s
      else (match (s.setPen pen { s.pen pen with refusing := none }).writeDone pen (s.pen pen).hostSpace doneaddr intr statusRefused 0 with
        | .ok s1 => s1
        | .reg _ s1 => s1
        | .bad s1 => s1
        | .busy s1 => s.keepWalks s1
        | .wait wva s1 => s1.setPen pen { s1.pen pen with refusing := some (doneaddr, intr, s1.parkAgain (s1.pen pen).die { w with va := wva }) })
    | _, _ => s)
  | some i =>
    if i.pen ≠ pen ∨ i.wblk.isSome then s
    else if i.entering then s.enter num
    else match i.serving, i.ending with
      | some outs, _ => s.serve i outs
      | none, some status => s.finish i status
      | none, none => if i.retired = i.total ∧ !i.brkHeld ∧ !s.undoes num then s.finish i statusDone else s

def execInstanceComplete (pen num : Nat) (s : State) : Host.Outcome State Fault Refusal := .next (instanceComplete pen num s)

end Sys2Proof.Machine
end

