-- ==== Sys2Proof/Machine/Perform.lean ====
section
/-!
DEFINITION. Issuing and performing the accesses of a context (spec 11 R255 to R268; spec 02 R59 to R70; spec 04 R115 to
R121): what an instruction puts in the pending list, and what happens when an entry is performed at a bank, a home slice
or a register block, and when its reply arrives.
-/
namespace Sys2Proof.Machine

/-! ### Issue -/

/-- The current context waits at its instruction, whose access of n bytes at an address has met WBLK (DEDUCED, assumption 21). -/
def parkCur (wva kind va n : Nat) (s : State) : State :=
  blockCur (s.onCur (fun c => { c with wblk := some (s.newPark (dieOf s.curCore) wva kind n 0 (va + n - 1)) }))

/-- Bytes of a local access lie below the space's size, or the fault of R15. -/
def State.localFault (s : State) (core spc a n : Nat) : Option Flt :=
  let size := s.spaceSize core spc
  if a + n ≤ size then none else some ⟨0x06, max a size, 7⟩

/-- A load of CUTDONE's DONE, of RFCTL or of the TAIL of a trace or beacon ring: an acquire at package scope (R154, R380, R385, R390),
whatever it returns (DEDUCED, assumption 105). -/
def regAcq (segs : List (Nat × Nat)) : Bool := segs.any (fun g => tierOf g.1 == .regs && (match regBlock g.1 with
  | some (0, off) => off == 0x20
  | some (b, off) => decide (10 ≤ b ∧ b ≤ 25) &&
      ((off == 0xA8 && g.2 == 8) || off == 0xAC || off == 0xB8 || off == 0xBC || off == 0xD0 || off == 0x110)
  | none => false))

/-- The current context's global access: it waits behind a pending acquire (R111); then translation, the wait on WBLK, the register
shape, held effects (always for `held`, else through an uncached or register leaf: R146), heat, purity; then the entry is issued
and the instruction falls through. -/
def globalCur (kind : Nat) (home held : Bool) (how : Pure) (va n : Nat) (a : Acc) (s : State) : State :=
  let w := s.whoAcc
  let sp := s.cur.space
  let (x, s1) := s.xlate sp w kind home va n
  if s.cur.acqHeld then blockCur s
  else if x.busy then blockCur s1
  else match x.flt, x.regFault va, x.wait with
  | some f, _, _ => trapAccess kind va n f s1
  | none, some f, _ => trapAccess kind va n f (s.untouched s1)
  | none, none, some wva => parkCur wva kind va n s1
  | none, none, none =>
    let go := fun (s : State) =>
      let s := (s.heatAll w sp va x).purity w sp how kind va n (x.leafs va)
      fall 1 (s.onCur (·.issueAcc { a with va := va, segs := x.segs, len := n, leaf := x.leaf, pc := s.cur.group, inst := w.inst, key := w.key,
                                           acq := if kind = kRead ∧ regAcq x.segs then some 3 else a.acq }))
    match if held || field x.leaf 8 2 != 0 then s1.held s1.curCore s1.curCtx w.key else .ok with
    | .drop => fall 1 s1
    | .stall => holdCur s1
    | .ok => go s1

/-- The current context's access to a local space; it waits behind a pending acquire too (R111, R118). -/
def localCur (kind spc va n : Nat) (a : Acc) (s : State) : State :=
  match if s.cur.acqHeld then none else s.localFault s.curCore spc va n with
  | some f => trapAccess kind va n f s
  | none =>
    let w := s.whoCtx s.curCore s.curCtx s.cur.group.toNat
    if s.cur.acqHeld then blockCur s
    else fall 1 (s.onCur (·.issueAcc { a with spc := spc, va := va, segs := [(va, n)], len := n, pc := s.cur.group, inst := w.inst, key := w.key }))

/-- A plain or ordered access of the current context to any space. -/
def accessCur (write : Bool) (spc va n : Nat) (a : Acc) (s : State) : State :=
  let a := { a with cls := if spc = 0 then (if write then 8 else 4) else (if write then 2 else 1) }
  if spc = 0 then globalCur (if write then kWrite else kRead) false false (if write then .store else .load) va n a s
  else localCur (if write then kWrite else kRead) spc va n a s

/-! ### Performing -/

/-- The space in which an entry was issued. -/
def State.accSpace (s : State) (core ctx : Nat) (a : Acc) : Space := { (s.ctx core ctx).space with spaceid := a.spaceid, sys := a.sys }

/-- Record of a trap that an entry raises after its issue; parts that were performed are done (R45, R121). -/
def Acc.rcd (a : Acc) (core ctx cls addr kind : Nat) (done : Nat := 0) : FRec :=
  { cls := cls, cmdaddr := a.pc.toNat, rem := a.len - done, done := done, remhi := a.va + a.len - 1, inst := a.inst, key := a.key,
    addr := addr, ctx := ctx, access := kind, core := core, spaceid := a.spaceid.toNat }

/-- The destination of an entry that ends without a result is full again, with its old value (DEDUCED, assumption 24). -/
def Ctx.release (c : Ctx) (a : Acc) : Ctx := match a.dst with
  | some d => c.mark d false
  | none => c

/-- An entry ends without a result. -/
def State.endAcc (s : State) (core ctx : Nat) (a : Acc) : State := (s.modCtx core ctx (·.release a)).dropAcc core ctx a.seq

/-- An entry ends with a trap pending (R332). -/
def State.accTrap (s : State) (core ctx : Nat) (a : Acc) (r : FRec) : State := (s.endAcc core ctx a).pendTrap core ctx r

/-- What the target of segments at one home controller answers an access (R35, R36, R79, R80, R404): none, or the first refused byte
and the class. Where no single entry covers an access whose bytes are each granted, its first byte is refused. -/
def State.refuses (s : State) (core va : Nat) (segs : List (Nat × Nat)) (write : Bool) : Option (Nat × Nat) :=
  if segs.any (fun g => !s.routed (dieOf core) (homeDie g.1)) then some (va, 0x24)
  else if !s.grantedAll (shedOf core) segs write then some ((firstByte (fun pa => !s.granted (shedOf core) pa 1 write) va segs).getD va, 0x07)
  else if if write then s.badWrite segs else segs.any (fun g => s.badAt g.1 g.2) then
    some ((firstByte (fun pa => s.badAt pa 1) va segs).getD va, 0x32)
  else none

/-! ### What an older chain holds back -/

/-- Offset j of a chain (R277). -/
def chainOff (offs j : Nat) : Int := signed 21 (field offs (21 * (j - 1)) 21)

/-- It writes memory when it is performed. -/
def AccOp.writes : AccOp → Bool
  | .store => true
  | .rmw _ _ => true
  | .xadd _ => true
  | .xmerge => true
  | .xread _ _ clr => clr
  | .fld take => take
  | .ffill => true
  | .chain fin _ => decide (4 ≤ fin)
  | _ => false

/-- Bytes that a chain has still to touch, once its last address is there; none while a pointer is still to be read, which may lead it
anywhere. -/
def State.chainBytes (s : State) (core ctx fin ns : Nat) (b : Acc) : Option (List (Nat × Nat)) :=
  match s.fchains.find? (fun c => c.core == core && c.isCtx && c.ctx == ctx && c.seq == b.seq) with
  | none => some []
  | some c => if c.step < ns then none
    else some (match s.walk (s.accSpace core ctx b) c.addr with
      | .leaf e _ _ => [(leafPa e c.addr, if fin < 4 then b.len else 8)]
      | .bad _ _ => [])

/-- An older entry b is a chain that holds back an access to some bytes: they may share one, and one of the two writes (R86) (DEDUCED, assumption 32). -/
def State.chainMeets (s : State) (core ctx : Nat) (b : Acc) (writes : Bool) (segs : List (Nat × Nat)) : Bool := match b.op with
  | .chain fin ns => !b.performed && !segs.isEmpty && (writes || b.op.writes) && (match s.chainBytes core ctx fin ns b with
    | none => true
    | some l => l.any (fun x => segs.any (fun y => overlaps x.1 x.2 y.1 y.2)))
  | _ => false

/-- The entry may be performed now (R85 to R89, R111). -/
def State.mayPerform (s : State) (core ctx seq : Nat) : Option Acc :=
  ((s.ctx core ctx).mayPerform seq).filter (fun a => !(s.ctx core ctx).pend.any (fun b => decide (b.seq < a.seq) && a.spc == 0 && s.chainMeets core ctx b a.op.writes (a.segs ++ a.segs2)))

/-! ### Parts of a split access (R121), and what of them is atomic (R84) -/

/-- The parts of an access. -/
def Acc.parts (a : Acc) : List (List (Nat × Nat)) := if a.spc = 0 then partsOf a.segs else [a.segs]

/-- The atoms of a part: the part where it is one aligned access of 1, 2, 4 or 8 bytes, else its bytes (R84). -/
def atomsOf (p : List (Nat × Nat)) : List (List (Nat × Nat)) :=
  if p.length = 1 ∧ p.all (fun g => [1, 2, 4, 8].contains g.2 && g.1 % g.2 == 0) then [p] else (segAddrs p).map (fun x => [(x, 1)])

/-- The atoms of an access, each with the part that it belongs to and where that part begins in the access. -/
def Acc.atoms (a : Acc) : List (List (Nat × Nat) × Nat × List (Nat × Nat)) :=
  (List.range a.parts.length).flatMap (fun i =>
    (atomsOf (a.parts.getD i [])).map (fun x => (x, segBytes (a.parts.take i).flatten, a.parts.getD i [])))

/-- The segments of atom i, where it begins in the access, and its part with where that begins. -/
def Acc.atomSegs (a : Acc) (i : Nat) : List (Nat × Nat) := (a.atoms.getD i ([], 0, [])).1
def Acc.atomOff (a : Acc) (i : Nat) : Nat := segBytes ((a.atoms.take i).map Prod.fst).flatten
def Acc.part (a : Acc) (i : Nat) : Nat × List (Nat × Nat) := (a.atoms.getD i ([], 0, [])).2

/-- Atoms of the same part as atom i. -/
def Acc.mates (a : Acc) (i : Nat) : List Nat := (List.range a.atoms.length).filter (fun j => (a.part j).1 == (a.part i).1)

/-- The next atom to be performed: any of those left (DESIGN CHOICE, assumption 8). -/
def State.nextAtom (s : State) (a : Acc) : Nat × State :=
  match (List.range a.atoms.length).filter (fun i => !a.ans.contains i && !a.bad.any (fun b => b.1 == i)) with
  | [] => (0, s)
  | [i] => (i, s)
  | l => let (x, s1) := s.draw; (l.getD (x % l.length) 0, s1)

/-- What the target answers an atom: the first of a part to reach it is refused or not as the whole part; a later one finds its own
line bad, or passes. -/
def State.atomRefusal (s : State) (core : Nat) (a : Acc) (i : Nat) (write : Bool) : Option (Nat × Nat) :=
  let (off, part) := a.part i
  if a.spc ≠ 0 then none
  else if (a.mates i).any (a.ans.contains ·) then
    (if if write then s.badWrite (a.atomSegs i) else (a.atomSegs i).any (fun g => s.badAt g.1 g.2) then some (a.va + a.atomOff i, 0x32) else none)
  else s.refuses core (a.va + off) part write

/-- An atom has been performed; or what is left of its part is refused. -/
def Acc.answer (a : Acc) (i : Nat) (bad : Option (Nat × Nat)) : Acc := match bad with
  | none => { a with ans := a.ans ++ [i] }
  | some b => { a with bad := a.bad ++ ((a.mates i).filter (fun j => !a.ans.contains j)).map (·, b) }

/-- Every atom has answered. -/
def Acc.answered (a : Acc) : Bool := decide (a.atoms.length ≤ a.ans.length + a.bad.length)

/-- Bytes performed. -/
def Acc.doneBytes (a : Acc) : Nat := (a.ans.map (fun i => segBytes (a.atomSegs i))).foldl (· + ·) 0

/-- The lowest refusal of an access. -/
def Acc.firstBad (a : Acc) : Option (Nat × Nat) :=
  (a.bad.foldl (fun (m : Option (Nat × Nat × Nat)) b => match m with
    | none => some b
    | some x => if b.1 < x.1 then some b else some x) none).map Prod.snd

/-- An entry one of whose atoms has answered: it waits for the others, ends with the trap of a refusal, or completes. -/
def State.afterAtom (s : State) (core ctx : Nat) (a : Acc) (kind : Nat) (complete : State → State) : State :=
  if !a.answered then s.modCtx core ctx (·.putAcc a)
  else match a.firstBad with
    | some (va, cls) => s.accTrap core ctx a (a.rcd core ctx cls va kind a.doneBytes)
    | none => complete s

/-- One atom of a store of a context is performed at its bank or target (R84, R86, R108, R120, R121, R149); every line of the access
is logged first. A store through an uncached or register leaf is held, and not logged (R146). -/
def State.storeAtom (s : State) (core ctx : Nat) (a : Acc) (i : Nat) : State :=
  let segs := a.atomSegs i
  let va := a.va + a.atomOff i
  let x := a.data / 2 ^ (8 * a.atomOff i)
  let attr := if a.spc = 0 then field a.leaf 8 2 else 0
  let after := fun (bad : Option (Nat × Nat)) (s : State) => s.afterAtom core ctx (a.answer i bad) kWrite (·.dropAcc core ctx a.seq)
  match s.atomRefusal core a i true with
  | some b => after (some b) s
  | none =>
    let put := fun (s : State) =>
      let s1 := s.wrSegs core a.spc segs x
      after none (if a.spc = 0 then s1.wrote core (s.accSpace core ctx a) a.leaf va (segBytes segs) segs else s1)
    if attr ≠ 0 then
      let s := s.commit core ctx a.key
      match segs with
      | (pa, n) :: _ => if tierOf pa = .regs then after none (s.regWrite (shedOf core) pa n x a.sys) else put s
      | [] => put s
    else match s.logWrite core ctx a.spc a.inst a.key a.segs with
      | .ok s1 => put s1
      | .stall => if s.cutDrops core ctx a.key then s.dropAcc core ctx a.seq else s
      | .full l => after (some (fullAt a.va a.segs l, 0x2F)) s

/-- A store of a context is performed, atom by atom (DESIGN CHOICE, assumptions 8 and 28). -/
def State.performStore (s : State) (core ctx : Nat) (a : Acc) : State :=
  match if a.spc ≠ 0 ∨ field a.leaf 8 2 = 0 then .ok else s.held core ctx a.key with
  | .stall => s
  | .drop => s.dropAcc core ctx a.seq
  | .ok => let (i, s1) := s.nextAtom a; s1.storeAtom core ctx a i

/-- Turn.perform: a store, or a `graise` or `leave` that has waited for the accesses before it (R99, R179). -/
def perform (core ctx seq : Nat) (s : State) : State :=
  match s.mayPerform core ctx seq with
  | none => s
  | some a => match a.op with
    | .store => s.performStore core ctx a
    | .leave n => (match s.held core ctx a.key with
      | .stall => s
      | .drop => s.dropAcc core ctx seq
      | .ok => (s.dropAcc core ctx seq).leaveNow core ctx n a.key)
    | .graise g => (s.dropAcc core ctx seq).graiseNow core ctx g { core := core, ctx := ctx, inst := a.inst, key := a.key, cmdaddr := a.pc.toNat }
    | _ => s

/-! ### Home-slice operations -/

/-- The new value of an atomic (R261), over w bits; a holds b and, for `cas`, the replacement. -/
def amoNew (op w old b c : Nat) : Nat :=
  let m := 2 ^ w
  match op with
  | 0 => (old + b) % m
  | 1 => old &&& (b % m)
  | 2 => old ||| (b % m)
  | 3 => old ^^^ (b % m)
  | 4 => if signed w old ≤ signed w b then old else b % m
  | 5 => if signed w old ≤ signed w b then b % m else old
  | 6 => if old ≤ b % m then old else b % m
  | 7 => if old ≤ b % m then b % m else old
  | 8 => b % m
  | _ => if old = b % m then c % m else old

/-- Deferred future requests at a word, oldest first: (core, context, entry). -/
def State.deferred (s : State) (pa : Nat) : List (Nat × Nat × Acc) :=
  sortBy (fun x y => decide (x.2.2.wait ≤ y.2.2.wait)) (s.cores.flatMap (fun c => c.2.ctxs.flatMap (fun t =>
    (t.2.pend.filter (fun a => a.phase == 2 && a.segs.any (fun g => g.1 == pa))).map (fun a => (c.1, t.1, a)))))

/-- Deferral places in use at the home slice of an address (R68). -/
def State.placesUsed (s : State) (pa : Nat) : Nat :=
  (s.cores.map (fun c => (c.2.ctxs.map (fun t => (t.2.pend.filter (fun a => a.phase == 2 &&
    a.segs.any (fun g => homeDie g.1 == homeDie pa && sliceOf g.1 == sliceOf pa))).length)).foldl (· + ·) 0)).foldl (· + ·) 0

/-- Write a future word's state dword (R66): FULL and whether requests stay deferred. -/
def State.setFuture (s : State) (pa : Nat) (isFull : Bool) : State :=
  { s with mem := writeLE s.mem (pa + 8) 8 ((if isFull then 1 else 0) + (if (s.deferred pa).isEmpty then 0 else 2)) }

def State.putAcc (s : State) (core ctx : Nat) (a : Acc) : State := s.modCtx core ctx (·.putAcc a)

/-- Count at a home slice: words 64, 96 and 128 of the die record (R389). -/
def State.sliceCount (s : State) (pa word : Nat) : State :=
  let d := s.die (homeDie pa)
  s.setDie (homeDie pa) { d with cnt := bump d.cnt (word + sliceOf pa) }

/-- A future word is written for an entry: by a fill, or by a load that consumes it. -/
def State.futureWrote (s : State) (core ctx : Nat) (a : Acc) : State :=
  (s.commit core ctx a.key).wrote core (s.accSpace core ctx a) a.leaf a.va 16 a.segs

/-- The entry is a held effect (R146). -/
def Acc.isHeld (a : Acc) : Bool := decide (field a.leaf 8 2 ≠ 0) || (match a.op with
  | .rmw _ _ => true
  | .xadd _ => true
  | .xmerge => true
  | .xread _ _ clr => clr
  | .fld take => take
  | .ffill => true
  | _ => false)

/-- A load at its home slice through an uncached leaf commits its step, as a load at its target does (R146, R147). -/
def State.uncached (s : State) (core ctx : Nat) (a : Acc) : State := if field a.leaf 8 2 ≠ 0 then s.commit core ctx a.key else s

/-- Serve deferred requests with a value, oldest first, until a consuming one (R69): is FULL left set? A consuming one that a stop holds
back is passed over, keeps its place, and takes the value if it may do so later (R152, R157) (DEDUCED, assumption 106). -/
def serveAll (v : Nat) : List (Nat × Nat × Acc) → State → Bool × State
  | [], s => (true, s)
  | (core, ctx, a) :: l, s =>
    let s1 := (s.putAcc core ctx { a with phase := 3, val := v })
    if a.isHeld && s.barred core ctx a.key then serveAll v l (s.putAcc core ctx { a with retry := 1 })
    else match a.op with
      | .fld true => (false, s1.futureWrote core ctx a)
      | _ => serveAll v l (s1.uncached core ctx a)

/-- A future load reaches its home slice (R67, R68). One that would wait, for a step beyond a decided L, has no effect (R153). -/
def State.futureLoad (s : State) (core ctx : Nat) (a : Acc) (pa : Nat) (take : Bool) : State :=
  if readLE s.mem (pa + 8) 8 % 2 = 1 then
    let s1 := s.putAcc core ctx { a with phase := 3, val := readLE s.mem pa 8, wait := 0, retry := 0 }
    if take then (s1.setFuture pa false).futureWrote core ctx a else s1.uncached core ctx a
  else if s.cutDrops core ctx a.key then s.endAcc core ctx a
  else if a.phase = 2 then s.putAcc core ctx { a with retry := 0 }
  else if s.placesUsed pa < 64 then
    ({ s with stamp := s.stamp + 1 }.putAcc core ctx { a with phase := 2, wait := s.stamp, retry := 0 }).setFuture pa false
  else
    let r := if a.retry = 0 then 64 else min 4096 (2 * a.retry)
    (s.putAcc core ctx { a with phase := 0, wait := s.tick + r, retry := r }).sliceCount pa 96

/-- A future fill at its home slice (R69, R268). -/
def State.futureFill (s : State) (core ctx : Nat) (a : Acc) (pa : Nat) : State :=
  let was := readLE s.mem (pa + 8) 8 % 2 == 1
  let s1 := if was then s.sliceCount pa 128 else s
  let s2 := { s1 with mem := writeLE s1.mem pa 8 a.data }
  let (isFull, s3) := serveAll (a.data % 2 ^ 64) (s2.deferred pa) s2
  ((s3.setFuture pa isFull).futureWrote core ctx a).dropAcc core ctx a.seq

/-- An entry held at home is performed with a value to reply. -/
def State.reply (s : State) (core ctx : Nat) (a : Acc) (v : Nat) (flags : Nat := 0) : State :=
  (s.putAcc core ctx { a with phase := 3, val := v, data2 := flags }).settleCtx core ctx

/-- A write of a home-slice operation. -/
def State.homeWrite (s : State) (core ctx : Nat) (a : Acc) (pa n x : Nat) : State :=
  (({ s with mem := writeLE s.mem pa n x } : State).commit core ctx a.key).wrote core (s.accSpace core ctx a) a.leaf a.va n [(pa, n)]

/-- The operation of an entry at its home slice, once it may be performed there (R59, R115, R261 to R268). An exact-sum read rounds
under the OVFTAB its context holds then (R65, R201; DESIGN CHOICE, assumption 85). -/
def State.homeOp (s : State) (core ctx : Nat) (a : Acc) (pa : Nat) : State :=
  match a.op with
  | .rmw op ret =>
    let old := readLE s.mem pa a.len
    let s1 := s.homeWrite core ctx a pa a.len (amoNew op (8 * a.len) old a.data a.data2)
    if ret then s1.reply core ctx a old else s1.dropAcc core ctx a.seq
  | .xadd ty => (s.homeWrite core ctx a pa 64 (cellAdd (readLE s.mem pa 64) (decodeF (xsumFmt ty) a.data))).dropAcc core ctx a.seq
  | .xmerge =>
    if a.phase = 0 then
      let w : Who := { s.whoCtx core ctx a.pc.toNat with inst := a.inst, key := a.key }
      (s.purity w (s.accSpace core ctx a) .load kRead a.data2 64 [(a.data2, 64, a.val)]).putAcc core ctx
        { a with phase := 1, data := s.rdSegs core 0 a.segs2 }
    else (s.homeWrite core ctx a pa 64 (cellMerge (readLE s.mem pa 64) a.data)).dropAcc core ctx a.seq
  | .xread ty rnd clr =>
    let r := cellRead (xsumFmt ty) (ovfEnt (s.ctx core ctx).ovftab (xsumFmt ty)) rnd (readLE s.mem pa 64)
    (if clr then s.homeWrite core ctx a pa 64 0 else s.uncached core ctx a).reply core ctx a r.1 r.2
  | .fld take => (s.futureLoad core ctx a pa take).settleCtx core ctx
  | .ffill => s.futureFill core ctx a pa
  | _ => s

/-- It writes at its home. -/
def Acc.homeKind (a : Acc) : Nat := match a.op with
  | .xread _ _ false => kRead
  | .fld false => kRead
  | _ => kRmw

/-- An entry as the access it makes next: an exact-sum merge first reads its source, at the source's home slice (R265). -/
def Acc.now (a : Acc) : Acc := match a.op with
  | .xmerge => if a.phase = 0 then { a with va := a.data2, segs := a.segs2, op := .xread 0 0 false } else a
  | _ => a

/-- An entry at its home slice: held effects, a route to it (R404), the access table, an uncorrectable error, then the operation, which the slice
counts. -/
def State.atHome (s : State) (core ctx : Nat) (a : Acc) : State :=
  match a.now.segs with
  | [] => s
  | (pa, n) :: _ =>
    match if a.isHeld then s.held core ctx a.key else .ok with
    | .stall => s
    | .drop => s.endAcc core ctx a
    | .ok =>
      let b := a.now
      if !s.routed (dieOf core) (homeDie pa) then s.accTrap core ctx a (b.rcd core ctx 0x24 b.va b.homeKind)
      else if !s.granted (shedOf core) pa n (b.homeKind == kRmw) then s.accTrap core ctx a (b.rcd core ctx 0x07 b.va b.homeKind)
      else if s.badAt pa n then s.accTrap core ctx a (b.rcd core ctx 0x32 b.va b.homeKind)
      else (s.homeOp core ctx a pa).sliceCount pa 64

/-- The entry goes to a home slice. -/
def Acc.isHome (a : Acc) : Bool := match a.op with
  | .rmw _ _ => true
  | .xadd _ => true
  | .xmerge => true
  | .xread _ _ _ => true
  | .fld _ => true
  | .ffill => true
  | _ => false

/-- A future load of a context that stands pre-empted or stopped is sent again when the context resumes (R70). -/
def Acc.asleep (a : Acc) (c : Ctx) : Bool := (match a.op with
  | .fld _ => true
  | _ => false) && (c.landed.isSome || c.st == .stopped)

/-- HOME_SLICE_OPERATION (R59): an entry that nothing holds back executes at its home slice; so does a deferred consuming load that a
fill passed over in a stop. -/
def homeSlice (core ctx seq : Nat) (s : State) : State :=
  match s.mayPerform core ctx seq with
  | none => s
  | some a => if a.isHome && (decide (a.phase ≤ 1) && a.wait == 0 || a.phase == 2 && a.retry == 1) && !a.asleep (s.ctx core ctx) then s.atHome core ctx a else s

def execHomeSliceOperation (core ctx seq : Nat) (s : State) : Host.Outcome State Fault Refusal := .next (homeSlice core ctx seq s)

/-- FUTURE_REISSUE (R68): a refused future load is sent again once its wait is over. -/
def futureReissue (core ctx seq : Nat) (s : State) : State :=
  match s.mayPerform core ctx seq with
  | none => s
  | some a => if a.phase = 0 ∧ a.wait ≠ 0 ∧ a.wait ≤ s.tick ∧ !a.asleep (s.ctx core ctx) then s.atHome core ctx a else s

def execFutureReissue (core ctx seq : Nat) (s : State) : Host.Outcome State Fault Refusal := .next (futureReissue core ctx seq s)

/-- A deferred request is withdrawn (R70): its place is freed, nothing is consumed. The word's state dword cannot be written in a bad
line, which stops the context instead (R80) (DEDUCED, assumption 107). -/
def State.withdraw (s : State) (core ctx : Nat) (a : Acc) : State :=
  match a.segs with
  | (pa, _) :: _ =>
    if a.phase = 2 && s.badAt pa 16 then s.accTrap core ctx a (a.rcd core ctx 0x32 a.va kRmw)
    else if a.phase = 2 then
      let s1 := s.putAcc core ctx { a with phase := 0, wait := 0, retry := 0 }
      s1.setFuture pa (readLE s1.mem (pa + 8) 8 % 2 == 1)
    else s
  | [] => s

/-- A context's deferred request is withdrawn: a pre-emption at safe points takes the context or has landed in it, or it stands stopped,
or a decided stop has passed the step it serves (R70, R153, R345). -/
def State.withdraws (s : State) (core ctx : Nat) (a : Acc) : Bool :=
  (s.ctx core ctx).landed.isSome || ((s.core core).pre.any Pre.safe && decide (ctx < 3)) || (s.ctx core ctx).st == .stopped
    || s.cutDrops core ctx a.key

/-- FUTURE_WITHDRAWAL (R70): withdrawn; when a fill came first the load has been served and nothing changes. -/
def futureWithdrawal (core ctx seq : Nat) (s : State) : State :=
  match findAcc seq (s.ctx core ctx).pend with
  | some (_, a) => if s.withdraws core ctx a then s.withdraw core ctx a else s
  | none => s

def execFutureWithdrawal (core ctx seq : Nat) (s : State) : Host.Outcome State Fault Refusal := .next (futureWithdrawal core ctx seq s)

/-! ### Results -/

/-- The result of an entry reaches its destination, which becomes full (R91); an exact-sum read sets its flags (R266). -/
def State.deliver (s : State) (core ctx : Nat) (a : Acc) (v : Nat) : State :=
  (s.modCtx core ctx (fun c =>
    let c := match a.dst with
      | some d => (c.wr d (dw v)).mark d false
      | none => c
    { c with aflags := c.aflags ||| dw (match a.op with
      | .xread _ _ _ => a.data2
      | _ => 0) })).dropAcc core ctx a.seq

/-- Sign or zero extension of a loaded value. -/
def extend (sgn : Bool) (n v : Nat) : Nat := if sgn then wrapInt 64 (signed (8 * n) v) else v

/-- One atom of a load is performed at its bank or target, and the data arrives with the last (R84, R120, R121). -/
def State.loadAtom (s : State) (core ctx : Nat) (a : Acc) (sgn : Bool) (i : Nat) : State :=
  let after := fun (a : Acc) (s : State) => s.afterAtom core ctx a kRead (fun s => s.deliver core ctx a (extend sgn a.len a.val))
  match s.atomRefusal core a i false with
  | some b => after (a.answer i (some b)) s
  | none =>
    let s := if a.spc ≠ 0 ∨ field a.leaf 8 2 = 0 then s else s.commit core ctx a.key
    let x := s.rdAny core (shedOf core) a.spc (a.atomSegs i) a.sys
    after ({ a with val := a.val + x * 2 ^ (8 * a.atomOff i) }.answer i none) s

/-- RESULT_ARRIVAL (R91, R93): a load is performed and its data arrives; or the reply of an entry performed at home,
which fails where it has no route any more (R404). -/
def resultArrival (core ctx seq : Nat) (s : State) : State :=
  match findAcc seq (s.ctx core ctx).pend with
  | none => s
  | some (_, a) =>
    if a.performed then
      (if a.segs.any (fun g => a.spc == 0 && !s.routed (homeDie g.1) (dieOf core)) then s.accTrap core ctx a (a.rcd core ctx 0x24 a.va a.homeKind)
       else s.deliver core ctx a a.val)
    else match a.op, s.mayPerform core ctx seq with
      | .load sgn, some a =>
        (match if a.spc ≠ 0 ∨ field a.leaf 8 2 = 0 then .ok else s.held core ctx a.key with
          | .stall => s
          | .drop => s.endAcc core ctx a
          | .ok => let (i, s1) := s.nextAtom a; s1.loadAtom core ctx a sgn i)
      | _, _ => s

def execResultArrival (core ctx seq : Nat) (s : State) : Host.Outcome State Fault Refusal := .next (resultArrival core ctx seq s)

end Sys2Proof.Machine
end

