-- ==== Sys2Proof/Machine/EngRun.lean ====
section
/-!
DEFINITION. What the engines share (spec 01 R32, R43, R45, R47; spec 03 R94 to R104; spec 06 R163 to R165; spec 09 R225):
the fields of a command, its accesses, and the ways a command ends, stops or waits.
-/
namespace Sys2Proof.Machine

/-! ### Fields of a ring entry (R164, R221, R222) -/

def Cmd.word (m : Cmd) : Nat := m.entry.getD 0 0 % 2 ^ 32
def Cmd.tail (m : Cmd) : Nat := m.entry.getD 0 0 / 2 ^ 32 % 2 ^ 32
def Cmd.opa (m : Cmd) : Nat := m.entry.getD 1 0
def Cmd.opb (m : Cmd) : Nat := m.entry.getD 2 0
def Cmd.opc (m : Cmd) : Nat := m.entry.getD 3 0
def Cmd.inst (m : Cmd) : Nat := field (m.entry.getD 4 0) 0 32
def Cmd.key (m : Cmd) : Coord := Coord.ofNat (field (m.entry.getD 4 0) 32 32 + m.entry.getD 5 0 * 2 ^ 32)
def Cmd.ctx (m : Cmd) : Nat := field (m.entry.getD 6 0) 0 2
def Cmd.major (m : Cmd) : Nat := field m.word 25 7
/-- FN of format ES; the other fields of ES. -/
def Cmd.fn (m : Cmd) : Nat := field m.word 0 4
def Cmd.fcSel (m : Cmd) : Nat := field m.word 4 1
def Cmd.sc (m : Cmd) : Nat := field m.word 5 5
def Cmd.fbSel (m : Cmd) : Nat := field m.word 10 1
def Cmd.sb (m : Cmd) : Nat := field m.word 11 5
def Cmd.faSel (m : Cmd) : Nat := field m.word 16 1
def Cmd.sa (m : Cmd) : Nat := field m.word 17 5
def Cmd.esp (m : Cmd) : Nat := field m.tail 0 10
def Cmd.ctr (m : Cmd) : Nat := field m.tail 10 6
def Cmd.ce (m : Cmd) : Bool := field m.tail 16 1 == 1
def Cmd.stage (m : Cmd) : Nat := field m.tail 17 3
def Cmd.rg (m : Cmd) : Nat := field m.tail 20 5
def Cmd.re (m : Cmd) : Bool := field m.tail 25 1 == 1
def Cmd.ag (m : Cmd) : Nat := field m.tail 26 5
def Cmd.ae (m : Cmd) : Bool := field m.tail 31 1 == 1

/-- Slot B, and slot C, unused: s0 with selector 0 (R303). A slot or selector that a command does not use is checked here, at the engine
(class 0x22): R225 leaves every field of ES but OP, PRED, FN and the tail's bits 31:10 to the engine, and R214 names class 0x20 for a
nonzero unused field (DEDUCED, assumption 104). -/
def Cmd.noB (m : Cmd) : Bool := m.sb == 0 && m.fbSel == 0
def Cmd.noC (m : Cmd) : Bool := m.sc == 0 && m.fcSel == 0
def Cmd.noA (m : Cmd) : Bool := m.sa == 0 && m.faSel == 0

/-- Fields that the context lays down at issue, as a stored entry may break them: of the tail, and the entry's reserved bits
511:386 (R164, R225). -/
def Cmd.tailBad (m : Cmd) : Bool :=
  (!m.ae && m.ag != 0) || (!m.re && m.rg != 0) || (!m.ce && m.ctr != 0) || m.entry.getD 6 0 / 4 != 0 || m.entry.getD 7 0 != 0

/-- The letter of an engine's accesses (R28). -/
def engLetter (e : Nat) : Nat := match e with
  | 1 => 58
  | 2 => 57
  | 3 => 59
  | _ => 60

/-- The agent of a command's accesses. -/
def State.whoCmd (s : State) (core e : Nat) (m : Cmd) : Who :=
  { core := core, ctx := m.ctx, eng := e, letter := engLetter e, inst := m.inst, key := m.key, stage := m.stage,
    cmdaddr := (s.eng core e).slotAt m.idx, ridx := m.idx % 2 ^ 16 }

/-- Its address space: its context's, in the state the context is in (DEDUCED, assumption 35). -/
def State.cmdSpace (s : State) (core : Nat) (m : Cmd) : Space := (s.ctx core m.ctx).space

/-! ### Accesses -/

/-- What an access of an engine gives. -/
inductive Got where
  | ok (v : Nat) (s : State)
  | fault (f : Flt) (s : State)
  /-- it stalls: on a WBLK page at an address, or for a walk, as a held effect or for a shadow entry -/
  | wait (va : Option Nat) (s : State)
  deriving Repr

/-- Physical segments of n bytes of a space. A register block that is not accessed as R396 asks is no translation that is used. -/
def State.locate (s : State) (w : Who) (sp : Space) (kind : Nat) (home : Bool) (spc va n : Nat) : Xl × State :=
  if spc = 0 then
    let (x, s1) := s.xlate sp w kind home va n
    if x.busy ∨ x.flt.isSome then (x, s1)
    else match x.regFault va with
      | some f => ({ flt := some f }, s.untouched s1)
      | none => (x, s1)
  else match s.localFault w.core spc va n with
    | some f => ({ flt := some f }, s)
    | none => ({ segs := if n = 0 then [] else [(va, n)] }, s)

/-- What stands before an access that has been translated: a walk under way, a fault, WBLK, held effects through ATTR = 1 or 2 (R146). -/
def State.preAccess (s : State) (w : Who) (x : Xl) (held : Bool) : Got :=
  if x.busy then .wait none s
  else match x.flt, x.wait with
    | some f, _ => .fault f s
    | none, some wva => .wait (some wva) s
    | none, none =>
      match if held || field x.leaf 8 2 != 0 then s.held w.core w.ctx w.key else .ok with
      | .ok => .ok 0 s
      | _ => .wait none s

/-- The first part that its target refuses (R35, R36): the first refused byte and the class. -/
def State.refusal (s : State) (core : Nat) (write : Bool) : List (List (Nat × Nat)) → Nat → Option (Nat × Nat)
  | [], _ => none
  | p :: ps, va => match s.refuses core va p write with
    | some b => some b
    | none => s.refusal core write ps (va + segBytes p)

/-- Read physical segments for an engine, in system state or not: the access table, uncorrectable errors, then the bytes, as one number. -/
def State.takeSegs (s : State) (w : Who) (sys : Bool) (spc va : Nat) (x : Xl) : Got :=
  if spc ≠ 0 then .ok (s.rdSegs w.core spc x.segs) s
  else match s.refusal w.core false (partsOf x.segs) va with
    | some (a, cls) => .fault ⟨cls, a, 7⟩ s
    | none => .ok (s.rdAny w.core (shedOf w.core) 0 x.segs sys) (if field x.leaf 8 2 = 0 then s else s.commit w.core w.ctx w.key)

/-- An engine reads n bytes of a space. -/
def State.eread (s : State) (w : Who) (sp : Space) (spc va n : Nat) : Got :=
  let (x, s1) := s.locate w sp kRead false spc va n
  match s1.preAccess w x false with
  | .ok _ s2 => (match s2.takeSegs w sp.sys spc va x with
    | .ok v s3 => .ok v (if spc = 0 then (s3.heatAll w sp va x).purity w sp .load kRead va n (x.leafs va) else s3)
    | g => g)
  | g => g

/-- Lay down bytes that their targets have granted (R77, R120, R149). Bytes of a held effect, and bytes that go through an uncached
or register leaf, are not logged (R146). -/
def State.laySegs (s : State) (w : Who) (sp : Space) (spc va leaf : Nat) (segs : List (Nat × Nat)) (v : Nat) (log : Bool) : Got :=
  let attr := field leaf 8 2
  let put := fun (s : State) =>
    let s1 := s.wrSegs w.core spc segs v
    Got.ok 0 (if spc = 0 then s1.wrote w.core sp leaf va (segBytes segs) segs else s1)
  let s := if spc ≠ 0 ∨ attr = 0 then s else s.commit w.core w.ctx w.key
  match segs with
  | [] => .ok 0 s
  | (pa, n) :: _ =>
    if spc = 0 ∧ tierOf pa = .regs then .ok 0 (s.regWrite (shedOf w.core) pa n v sp.sys)
    else if !log ∨ (spc = 0 ∧ attr ≠ 0) then put s
    else match s.logWrite w.core w.ctx spc w.inst w.key segs with
      | .ok s1 => put s1
      | .stall => .wait none s
      | .full l => .fault ⟨0x2F, fullAt va segs l, 7⟩ s

/-- Write physical segments for an engine: the access table, a bad line written in part, then the bytes (R36, R80). -/
def State.putSegs (s : State) (w : Who) (sp : Space) (spc va : Nat) (x : Xl) (v : Nat) (log : Bool) : Got :=
  match if spc = 0 then s.refusal w.core true (partsOf x.segs) va else none with
  | some (a, cls) => .fault ⟨cls, a, 7⟩ s
  | none => s.laySegs w sp spc va x.leaf x.segs v log

/-- An engine writes n bytes of a space. -/
def State.ewrite (s : State) (w : Who) (sp : Space) (spc va n v : Nat) (log : Bool := true) : Got :=
  let (x, s1) := s.locate w sp kWrite false spc va n
  match s1.preAccess w x false with
  | .ok _ s2 => (match s2.putSegs w sp spc va x v log with
    | .ok _ s3 => .ok 0 (if spc = 0 then (s3.heatAll w sp va x).purity w sp .store kWrite va n (x.leafs va) else s3)
    | g => g)
  | g => g

/-- The bytes that a range of a space maps to, where it is mapped. -/
def State.peekSegs (s : State) (sp : Space) (va n : Nat) : List (Nat × Nat) :=
  (pieces (n / 4096 + 2) va n).filterMap (fun p => match s.walk sp p.1 with
    | .leaf e _ _ => some (leafPa e p.1, p.2)
    | .bad _ _ => none)

/-! ### How a command ends, stops or waits -/

/-- What a run of a command comes to. -/
inductive Eff where
  /-- it has completed: flags raised, bytes delivered, a scalar returned -/
  | done (s : State) (flags bytes : Nat) (scalar : Option (Nat × Nat))
  /-- a fault stops it in its ring (R47); the command as it stands, bytes done and to do, the highest address left -/
  | fault (s : State) (m : Cmd) (f : Flt) (kind done rem remhi : Nat)
  /-- it leaves the ring with a record (R101, R225, R322) -/
  | refuse (s : State) (f : Flt) (kind done rem : Nat)
  /-- it stalls, or waits for an answer -/
  | wait (s : State) (m : Cmd)
  deriving Repr

/-- A command that an engine check fails (R225). -/
def Eff.bad (s : State) : Eff := .refuse s ⟨0x22, 0, 7⟩ kRead 0 0

/-- A stalled command, parked when it waits on WBLK (R42): bytes left and done, and the last address left. -/
def State.stallCmd (s : State) (core : Nat) (m : Cmd) (va : Option Nat) (kind n done hi : Nat) : Eff :=
  .wait s { m with wblk := va.map (fun a => s.newPark (dieOf core) a kind n done hi) }

def State.setCmd (s : State) (core e : Nat) (m : Cmd) : State :=
  let g := s.eng core e
  s.setEng core e { g with cmds := g.cmds.map (fun c => if c.idx = m.idx then m else c) }

/-- HEAD advances past the commands at the front that have ended (R165). -/
def Eng.advance (g : Eng) : Eng :=
  let cmds := g.cmds.dropWhile Cmd.ended
  { g with cmds := cmds, head := match cmds, g.apps with
      | m :: _, a :: _ => min m.idx a.idx
      | m :: _, [] => m.idx
      | [], a :: _ => a.idx
      | [], [] => g.tail }

/-- A command leaves the ring. -/
def State.leaveRing (s : State) (core e : Nat) (m : Cmd) : State :=
  let g := s.eng core e
  let g1 : Eng := { g with cmds := g.cmds.map (fun c => if c.idx = m.idx then { c with ended := true } else c) }
  (s.setEng core e g1.advance).settleCtx core m.ctx

/-- A record of a command that names no access. -/
def State.cmdRec (s : State) (core e : Nat) (m : Cmd) (cls : Nat) : FRec :=
  let w := s.whoCmd core e m
  { cls := cls, stage := w.stage, cmdaddr := w.cmdaddr, inst := w.inst, key := w.key, eng := e, ctx := w.ctx, core := core, ridx := w.ridx,
    spaceid := (s.ctx core m.ctx).spaceid.toNat }

/-- Majors whose counter item delivers (R102). -/
def delivers (m : Cmd) : Bool := decide (0x68 ≤ m.major ∧ m.major ≤ 0x6B) || (m.major == 0x70 && m.fn == 1) || m.major == 0x73

/-- Deliver bytes into a counter of a core, for a command of another core perhaps (R102 to R104). -/
def State.deliverTo (s : State) (dest core e : Nat) (m : Cmd) (n : Nat) : State :=
  let (low, c) := (s.core dest).deliver m.ctr n
  let s1 := s.setCore dest c
  if low then s1.pendTrap core m.ctx (s.cmdRec core e m 0x2B) else s1

/-- Raise the gate of a command's tail (R99, R100). -/
def State.raiseFor (s : State) (core e : Nat) (m : Cmd) : State :=
  if !m.re then s
  else
    let (full, c) := (s.core core).raiseGate m.rg
    let s1 := s.setCore core c
    if full then s1.pendTrap core m.ctx (s.cmdRec core e m 0x2A) else s1

/-- The flags a command raised, and the scalar it returns (R91, R204, R297). -/
def Ctx.results (c : Ctx) (flags : Nat) (scalar : Option (Nat × Nat)) : Ctx :=
  let c := { c with aflags := c.aflags ||| dw flags }
  match scalar with
  | some (d, v) => (c.wr d (dw v)).mark d false
  | none => c

/-- A command has completed (R99, R102, R165, R204). -/
def State.endCmd (s : State) (core e : Nat) (m : Cmd) (flags bytes : Nat) (scalar : Option (Nat × Nat)) : State :=
  let s1 := s.modCtx core m.ctx (·.results flags scalar)
  let s2 := if delivers m && m.ce then s1.deliverTo core core e m bytes else s1
  (s2.raiseFor core e m).leaveRing core e m

/-- A fault record of a command's access (R45). -/
def State.engRec (s : State) (core e : Nat) (m : Cmd) (f : Flt) (kind done rem remhi : Nat) : FRec :=
  { (s.whoCmd core e m).frec (s.cmdSpace core m) kind rem f with done := done, rem := rem, remhi := remhi }

/-- The scalar a reduction that leaves the ring would have returned (R297): it is full again with its old value
(DEDUCED, assumption 36). -/
def Cmd.scalarOut (m : Cmd) : Option Nat := if m.major = 0x4D ∧ field m.word 0 7 < 6 then some m.sa else none

/-- A command leaves the ring with a record, and raises no gate (R101, R225) (DEDUCED, assumption 37). -/
def State.refuseCmd (s : State) (core e : Nat) (m : Cmd) (f : Flt) (kind done rem : Nat) (hi : Option Nat := none) : State :=
  let r := if f.cls = 0x22 then s.cmdRec core e m 0x22
    else s.engRec core e m f kind done rem (hi.getD (if rem = 0 then 0 else f.addr + rem - 1))
  let s1 := (match m.scalarOut with
    | some d => s.modCtx core m.ctx (·.mark d false)
    | none => s)
  (s1.pendTrap core m.ctx r).leaveRing core e m

/-- Apply what a run came to. A misaligned access, one without a route, or one of a chained load is no fault that a command resumes from
(DEDUCED, assumption 37; R404; R323). A command that waits may have been sent, which a fence waits for (R127). -/
def settleEff (core e : Nat) (m : Cmd) (r : Eff) : State := match r with
  | .done s fl n sc => s.endCmd core e m fl n sc
  | .fault s m1 f kind done rem hi =>
    if f.cls = 0x29 ∨ f.cls = 0x24 ∨ m.major = 0x73 then s.refuseCmd core e m f kind done rem (some hi)
    else (s.setCmd core e { m1 with fault := true, budget := none }).pendTrap core m.ctx (s.engRec core e m f kind done rem hi)
  | .refuse s f kind done rem => s.refuseCmd core e m f kind done rem
  | .wait s m1 => (s.setCmd core e { m1 with budget := none }).settleCtx core m.ctx

end Sys2Proof.Machine
end

