-- ==== Sys2Proof/Machine/Special.lean ====
section
/-!
DEFINITION. The special functions of the vector engine (spec 12, R301, R302): the correctly rounded value of the exact
real function. A quotient and a square root are rounded exactly. For the others the function is bracketed between two
dyadic numbers, at growing precision, until both ends round alike; away from the exact cases (which are taken first)
the value is irrational, so a bracket that is narrow enough always exists. The precisions tried are bounded, and none
is answered past the last of them (DESIGN CHOICE, assumption 14): the caller then takes a free value.
-/
namespace Sys2Proof.Machine

/-- Series Σ t_k with t_0 = t and t_(k+1) = t_k·z2 / 2^Q, each term divided by 2k+1 (atanh, or atan for z2 negative). -/
def oddSeries (q : Nat) (z2 : Int) : Nat → Nat → Int → Int → Int
  | 0, _, _, acc => acc
  | n + 1, k, t, acc => if t = 0 then acc else oddSeries q z2 n (k + 1) (t * z2 / (2 ^ q : Nat)) (acc + t / (2 * k + 1 : Nat))

/-- Series of the exponential at r. -/
def expSeries (q : Nat) (r : Int) : Nat → Nat → Int → Int → Int
  | 0, _, _, acc => acc
  | n + 1, k, t, acc => if t = 0 then acc else expSeries q r n (k + 1) (t * r / ((k : Nat) * 2 ^ q : Nat)) (acc + t)

/-- Series of the sine, y2 the square of the argument. -/
def sinSeries (q : Nat) (y2 : Int) : Nat → Nat → Int → Int → Int
  | 0, _, _, acc => acc
  | n + 1, k, t, acc =>
    if t = 0 then acc else sinSeries q y2 n (k + 1) (-(t * y2 / (2 ^ q * ((2 * k) * (2 * k + 1)) : Nat))) (acc + t)

/-- atan or atanh of 1/m at 2^q. -/
def seriesInv (q m : Nat) (hyper : Bool) : Int :=
  let z : Int := (2 ^ q / m : Nat)
  let z2 : Int := (2 ^ q / (m * m) : Nat)
  oddSeries q (if hyper then z2 else -z2) (q + 2) 0 z 0

def ln2Fix (q : Nat) : Int := 2 * seriesInv q 3 true

def piFix (q : Nat) : Int := 16 * seriesInv q 5 false - 4 * seriesInv q 239 false

/-- ±m·2^e at 2^q, rounded down. -/
def toFix (q : Nat) (neg : Bool) (m : Nat) (e : Int) : Int :=
  let y := scaleQuot m 1 (e + q)
  let v : Int := (y.1 / y.2 : Nat)
  if neg then -v else v

/-- e^x for a fixed-point x of small magnitude, as s·2^(k-q) with s near 2^q. -/
def expParts (q : Nat) (x : Int) : Int × Int :=
  let l := ln2Fix q
  let k := x / l
  (expSeries q (x - k * l) (q + 2) 1 (2 ^ q : Nat) 0, k)

/-- e^x at 2^q. -/
def expFix (q : Nat) (x : Int) : Int :=
  let r := expParts q x
  if 0 ≤ r.2 then r.1 * (2 ^ r.2.toNat : Nat) else r.1 / (2 ^ (-r.2).toNat : Nat)

/-- ln of n/2^q for n/2^q between 1/2 and 2. -/
def lnFix (q : Nat) (n : Int) : Int :=
  let one : Int := (2 ^ q : Nat)
  let z := (n - one) * one / (n + one)
  2 * oddSeries q (z * z / one) (q + 2) 0 z 0

/-- sin(π·r) at 2^q for a fixed-point r between 0 and 1/2. -/
def sinPiFix (q : Nat) (r : Int) : Int :=
  let y := r * piFix q / (2 ^ q : Nat)
  sinSeries q (y * y / (2 ^ q : Nat)) (q + 2) 1 y 0

/-- Result when both ends of a bracket, at 2^-q, round alike and inexactly. -/
def bracket (f : Fmt) (ent mode : Nat) (q lo hi : Int) : Option Res :=
  if 0 < lo then
    let a := roundTo f ent mode false lo.toNat 1 (-q)
    let b := roundTo f ent mode false hi.toNat 1 (-q)
    if a = b ∧ a.2 / FNX % 2 = 1 then some a else none
  else if hi < 0 then
    let a := roundTo f ent mode true lo.natAbs 1 (-q)
    let b := roundTo f ent mode true hi.natAbs 1 (-q)
    if a = b ∧ a.2 / FNX % 2 = 1 then some a else none
  else none

/-- A bracket of width 2^25 units around a fixed-point value whose error is smaller. -/
def around (f : Fmt) (ent mode : Nat) (q v : Int) : Option Res :=
  bracket f ent mode q (v - (2 ^ 24 : Nat)) (v + (2 ^ 24 : Nat))

/-- The first precision that decides. -/
def tryAt (g : Nat → Option Res) : List Nat → Option Res
  | [] => none
  | q :: l => match g q with
    | some r => some r
    | none => tryAt g l

/-- Working precisions. -/
def precisions : List Nat := [128, 256, 512, 1024]

/-- A value above every format's range, or below it, or just under one: any bracket there rounds alike. -/
def huge (f : Fmt) (ent mode : Nat) : Res := roundTo f ent mode false 3 1 300
def tiny (f : Fmt) (ent mode : Nat) : Res := roundTo f ent mode false 3 1 (-400)
def justBelowOne (f : Fmt) (ent mode : Nat) (neg : Bool) : Res := roundTo f ent mode neg (2 ^ 300 - 1) 1 (-300)

/-- Integer square root by bits: the largest r with r² ≤ n, given that r < 2^k. -/
def isqrtGo (n : Nat) : Nat → Nat → Nat
  | 0, r => r
  | k + 1, r => if (r + 2 ^ k) * (r + 2 ^ k) ≤ n then isqrtGo n k (r + 2 ^ k) else isqrtGo n k r

def isqrt (n : Nat) : Nat := isqrtGo n (Nat.log2 n / 2 + 1) 0

/-- √(m·2^e), the root taken to 64 bits past the point and a sticky bit below them. -/
def sqrtRes (f : Fmt) (ent mode m : Nat) (e : Int) : Res :=
  let m1 := if e % 2 = 0 then m else 2 * m
  let e1 := if e % 2 = 0 then e else e - 1
  let n := m1 * 2 ^ 128
  let r := isqrt n
  let s := 2 * r + (if r * r = n then 0 else 1)
  roundTo f ent mode false s 1 (e1 / 2 - 65)

/-- 1/√(m·2^e): exact rounding of 2^(128+k)/√m with a sticky bit. -/
def rsqrtRes (f : Fmt) (ent mode m : Nat) (e : Int) : Res :=
  let m1 := if e % 2 = 0 then m else 2 * m
  let e1 := if e % 2 = 0 then e else e - 1
  let n := 2 ^ 320
  let r := isqrt (n / m1)
  let s := 2 * r + (if r * r * m1 = n then 0 else 1)
  roundTo f ent mode false s 1 (-(e1 / 2) - 161)

/-- |x| = m·2^e is below, or at least, a power of two. -/
def geTwoPow (m : Nat) (e k : Int) : Bool := decide (k ≤ (Nat.log2 m : Int) + e)

/-- x = ±m·2^e as a multiple of 1/2 reduced to a fraction of the period 2: the quarter turns and the rest, exactly.
Answers ⌊2|x|⌋ mod 4 and the remainder |x| - ⌊2|x|⌋/2 as n/2^k. -/
def halfTurns (m : Nat) (e : Int) : Nat × Nat × Nat :=
  if 0 ≤ e then (2 * (m * 2 ^ e.toNat) % 4, 0, 1)
  else
    let k := (-e).toNat
    let t := 2 * m / 2 ^ k
    (t % 4, 2 * m - t * 2 ^ k, k + 1)

/-- sin(π·(h/2 + n/2^k)) for h in 0..3 and 0 ≤ n/2^k < 1/2, as a sign and the folded fraction in [0,1/2]. -/
def foldSin (h n k : Nat) : Bool × Nat × Nat :=
  match h % 4 with
  | 0 => (false, n, k)
  | 1 => (false, 2 ^ (k - 1) - n, k)
  | 2 => (true, n, k)
  | _ => (true, 2 ^ (k - 1) - n, k)

/-- The value of sin(π·r)·±1 rounded, r = n/2^k in [0,1/2]: exact at 0 and 1/2. -/
def sinPiRes (f : Fmt) (ent mode : Nat) (neg zneg : Bool) (n k : Nat) : Option Res :=
  if n = 0 then some (encZero f zneg, 0)
  else if 2 * n = 2 ^ k then some (roundTo f ent mode neg 1 1 0)
  else tryAt (fun q =>
    let v := sinPiFix q (toFix q false n (-(k : Int)))
    around f ent mode q (if neg then -v else v)) precisions

/-- The special function fn of R301 at x; none only where the bounded precisions do not decide. -/
def special (fn : Nat) (f : Fmt) (ent mode : Nat) (x : Fp) : Option Res :=
  match fn, x with
  | _, .nan => some (nanRes f)
  | 0, .inf s | 9, .inf s => some (if s then (encZero f false, 0) else (encInf f false, 0))
  | 1, .inf s | 10, .inf s => some (if s then invalid f else (encInf f false, 0))
  | 2, .inf s => some (encZero f s, 0)
  | 3, .inf s => some (if s then invalid f else (encZero f false, 0))
  | 4, .inf s => some (if s then invalid f else (encInf f false, 0))
  | 5, .inf _ | 6, .inf _ => some (invalid f)
  | 7, .inf s => some (roundTo f ent mode s 1 1 0)
  | _, .inf s => some (if s then (encZero f false, 0) else roundTo f ent mode false 1 1 0)
  | 0, .fin s m e =>
    if m = 0 then some (roundTo f ent mode false 1 1 0)
    else if geTwoPow m e 9 then some (if s then tiny f ent mode else huge f ent mode)
    else if 0 ≤ e ∨ m % 2 ^ (-e).toNat = 0 then
      let v := toFix 0 s m e
      some (roundTo f ent mode false 1 1 v)
    else tryAt (fun q =>
      let r := expParts q (toFix q s m e * ln2Fix q / (2 ^ q : Nat))
      around f ent mode ((q : Int) - r.2) r.1) precisions
  | 9, .fin s m e =>
    if m = 0 then some (roundTo f ent mode false 1 1 0)
    else if geTwoPow m e 8 then some (if s then tiny f ent mode else huge f ent mode)
    else tryAt (fun q =>
      let r := expParts q (toFix q s m e)
      around f ent mode ((q : Int) - r.2) r.1) precisions
  | 1, .fin s m e =>
    if m = 0 then some (encInf f true, 0)
    else if s then some (invalid f)
    else
      let k : Int := (Nat.log2 m : Int) + e
      if m = 2 ^ Nat.log2 m then some (roundInt2 f ent mode false k 0)
      else tryAt (fun q =>
        around f ent mode q (k * (2 ^ q : Nat)
          + lnFix q (toFix q false m (-(Nat.log2 m : Int))) * (2 ^ q : Nat) / ln2Fix q)) precisions
  | 10, .fin s m e =>
    if m = 0 then some (encInf f true, 0)
    else if s then some (invalid f)
    else
      let k : Int := (Nat.log2 m : Int) + e
      if m = 2 ^ Nat.log2 m ∧ k = 0 then some (encZero f false, 0)
      else tryAt (fun q =>
        around f ent mode q (k * ln2Fix q + lnFix q (toFix q false m (-(Nat.log2 m : Int))))) precisions
  | 2, .fin s m e => some (if m = 0 then (encInf f s, 0) else roundTo f ent mode s 1 m (-e))
  | 3, .fin s m e =>
    some (if m = 0 then (encInf f s, 0) else if s then invalid f else rsqrtRes f ent mode m e)
  | 4, .fin s m e =>
    some (if m = 0 then (encZero f s, 0) else if s then invalid f else sqrtRes f ent mode m e)
  | 5, .fin s m e =>
    let h := halfTurns m e
    let r := foldSin h.1 h.2.1 h.2.2
    sinPiRes f ent mode (s != r.1) s r.2.1 r.2.2
  | 6, .fin _ m e =>
    let h := halfTurns m e
    let r := foldSin (h.1 + 1) h.2.1 h.2.2
    sinPiRes f ent mode r.1 false r.2.1 r.2.2
  | 7, .fin s m e =>
    if m = 0 then some (encZero f s, 0)
    else if geTwoPow m e 8 then some (justBelowOne f ent mode s)
    else tryAt (fun q =>
      let one : Int := (2 ^ q : Nat)
      let w := expFix q (2 * toFix q false m e)
      let v := (w - one) * one / (w + one)
      around f ent mode q (if s then -v else v)) precisions
  | _, .fin s m e =>
    if m = 0 then some (roundTo f ent mode false 1 1 (-1))
    else if geTwoPow m e 8 then some (if s then tiny f ent mode else justBelowOne f ent mode false)
    else tryAt (fun q =>
      let one : Int := (2 ^ q : Nat)
      let w := expFix q (-(toFix q s m e))
      around f ent mode q (one * one / (one + w))) precisions

end Sys2Proof.Machine
end

