-- ==== Sys2Proof/Machine/VecOps.lean ====
section
/-!
DEFINITION. The register-to-register commands of the vector engine as functions of the registers they read (spec 12,
R281 to R302). Each answers none where an engine check fails (R225, R283): the command is then malformed.
-/
namespace Sys2Proof.Machine

/-- The n elements of width w of a register (R281). -/
def elems (w : Nat) : Nat → Nat → List Nat
  | 0, _ => []
  | n + 1, x => x % 2 ^ w :: elems w n (x / 2 ^ w)

/-- A register from its elements. -/
def packElems (w : Nat) : List Nat → Nat
  | [] => 0
  | x :: l => x % 2 ^ w + 2 ^ w * packElems w l

/-- Elements of a register for a type. -/
def elemsT (t : Ty) (x : Nat) : List Nat := elems t.width (4096 / t.width) x

/-- What a register command does: registers written, the scalar it returns, the flags it raises. -/
structure VOut where
  regs : List (Nat × Nat) := []
  scalar : Option Nat := none
  flags : Nat := 0
  deriving DecidableEq, Repr

/-- Results of elements with their flags gathered. -/
def gather (l : List Res) : List Nat × Nat := (l.map Prod.fst, l.foldl (fun a r => a ||| r.2) 0)

def outReg (t : Ty) (vd : Nat) (l : List Res) : VOut :=
  { regs := [(vd, packElems t.width (gather l).1)], flags := (gather l).2 }

/-- The larger and the smaller of two integer elements' encodings. -/
def pick (w : Nat) (sgn : Bool) (least : Bool) (x y : Nat) : Nat :=
  if decide (intVal w sgn x ≤ intVal w sgn y) = least then x else y

/-- Integer arithmetic of R289 on one element; none for a function the type does not allow. -/
def vIntElem (fn w : Nat) (sgn : Bool) (x y : Nat) : Option Res :=
  let a := intVal w sgn x
  let b := intVal w sgn y
  match fn with
  | 0 => some (wrapInt w (a + b), 0)
  | 1 => some (wrapInt w (a - b), 0)
  | 2 => some (satInt w sgn (a + b))
  | 3 => some (satInt w sgn (a - b))
  | 4 => some (wrapInt w (a * b), 0)
  | 5 => some (wrapInt w (a * b / (2 ^ w : Nat)), 0)
  | 6 => some (pick w sgn true x y, 0)
  | 7 => some (pick w sgn false x y, 0)
  | 8 => some (x &&& y, 0)
  | 9 => some (x ||| y, 0)
  | 10 => some (x ^^^ y, 0)
  | 11 => some (x &&& (2 ^ w - 1 - y), 0)
  | 12 => if sgn then some (satInt w sgn (a.natAbs : Int)) else none
  | 13 => some (wrapInt w (-a), 0)
  | 14 => some (wrapInt w ((a + b + 1) / 2), 0)
  | 15 => some (wrapInt w ((a - b).natAbs : Int), 0)
  | _ => none

/-- Float arithmetic of R290 on one element. A difference is the sum with the second operand negated, so that (-0) - (+0) is a sum of two
zeros of the same sign, which R200 names, and keeps it (DEDUCED, assumption 102). -/
def vFltElem (fn : Nat) (f : Fmt) (ent mode x y : Nat) : Option Res :=
  let a := decodeF f x
  let b := decodeF f y
  match fn with
  | 0 => some (addF f ent mode a b)
  | 1 => some (addF f ent mode a b.neg)
  | 2 => some (mulF f ent mode a b)
  | 3 => some (divF f ent mode a b)
  | 4 => some (minF f x y)
  | 5 => some (maxF f x y)
  | 6 => some (if a.isNan then nanRes f else (x % 2 ^ (f.eb + f.mb), 0))
  | 7 => some (if a.isNan then nanRes f else (x ^^^ 2 ^ (f.eb + f.mb), 0))
  | _ => none

/-- The three float types that arithmetic allows (R290). -/
def arithFlt : Ty → Option Fmt
  | .flt f => if f.code = 0 ∨ f.code = 2 ∨ f.code = 3 then some f else none
  | .int _ _ => none

/-- All elements, or none if one is. -/
def allSome {α : Type} : List (Option α) → Option (List α)
  | [] => some []
  | none :: _ => none
  | some x :: l => (allSome l).map (x :: ·)

/-- Integer and float arithmetic, register against a list of second operands (R289, R290). -/
def vArith (isF : Bool) (fn typ rnd vd : Nat) (ovf : Dword) (a b : List Nat) : Option VOut :=
  let t := Ty.ofVec typ
  if isF then
    match arithFlt t with
    | none => none
    | some f =>
      if rnd > 5 ∨ (4 ≤ fn ∧ rnd ≠ 0) then none
      else (allSome (List.zipWith (vFltElem fn f (ovfEnt ovf f) rnd) a b)).map (outReg t vd)
  else
    match t with
    | .flt _ => none
    | .int w sgn => if rnd ≠ 0 then none else (allSome (List.zipWith (vIntElem fn w sgn) a b)).map (outReg t vd)

/-- Multiply-add of R291 on one element. -/
def vFmaElem (fn : Nat) (t : Ty) (ovf : Dword) (mode x y d : Nat) : Option Res :=
  match t with
  | .flt f =>
    if fn > 3 then none else
    let a := decodeF f x
    let a := if fn = 2 ∨ fn = 3 then a.neg else a
    let dd := decodeF f d
    some (fmaF f (ovfEnt ovf f) mode a (decodeF f y) (if fn = 1 ∨ fn = 3 then dd.neg else dd))
  | .int w sgn =>
    let v := intVal w sgn d + intVal w sgn x * intVal w sgn y
    if fn = 4 then some (wrapInt w v, 0) else if fn = 5 then some (satInt w sgn v) else none

def zip3 {α : Type} (g : Nat → Nat → Nat → α) : List Nat → List Nat → List Nat → List α
  | x :: a, y :: b, z :: c => g x y z :: zip3 g a b c
  | _, _, _ => []

def vFma (fn typ rnd vd : Nat) (ovf : Dword) (a b d : List Nat) : Option VOut :=
  let t := Ty.ofVec typ
  if (fn ≤ 3 ∧ (arithFlt t = none ∨ rnd > 5)) ∨ (4 ≤ fn ∧ rnd ≠ 0) then none
  else (allSome (zip3 (vFmaElem fn t ovf rnd) a b d)).map (outReg t vd)

/-- Value bits of an element; a 6-bit container's upper bits are ignored (R194). -/
def valueBits (t : Ty) (x : Nat) : Nat :=
  match t with
  | .int w _ => x % 2 ^ w
  | .flt f => x / 2 ^ f.sh % 2 ^ (1 + f.eb + f.mb) * 2 ^ f.sh

/-- Compare of R292: the truth of condition fn on one element. -/
def vCmpElem (fn : Nat) (t : Ty) (x y : Nat) : Bool :=
  let a := fpOf t x
  let b := fpOf t y
  if a.isNan ∨ b.isNan then decide (fn = 1 ∨ fn = 6)
  else
    let c := cmpF a b
    match fn with
    | 0 => decide (c = 0)
    | 1 => decide (c ≠ 0)
    | 2 => decide (c < 0)
    | 3 => decide (c ≤ 0)
    | 4 => decide (0 < c)
    | 5 => decide (0 ≤ c)
    | _ => false

def vCmp (fn typ rnd vd : Nat) (a b d : List Nat) : Option VOut :=
  let t := Ty.ofVec typ
  if rnd ≠ 0 ∨ (fn = 6 ∧ ¬ t.isFloat) then none
  else if fn = 7 then
    some (outReg t vd (zip3 (fun x y z => (valueBits t (if valueBits t z ≠ 0 then x else y), 0)) a b d))
  else some (outReg t vd (List.zipWith (fun x y => (if vCmpElem fn t x y then 2 ^ t.width - 1 else 0, 0)) a b))

/-- Shifts of R293 on one element. -/
def vShiftElem (kind w x amt : Nat) : Nat :=
  match kind with
  | 0 => x * 2 ^ amt % 2 ^ w
  | 1 => x / 2 ^ amt
  | 2 => wrapInt w (signed w x / (2 ^ amt : Nat))
  | _ => (x / 2 ^ amt + x * 2 ^ (w - amt)) % 2 ^ w

def vShift (fn typ rnd vd bx : Nat) (a b : List Nat) : Option VOut :=
  match Ty.ofVec typ with
  | .flt _ => none
  | .int w sgn =>
    if rnd ≠ 0 ∨ (4 ≤ fn ∧ w ≤ bx) then none
    else some (outReg (.int w sgn) vd
      (List.zipWith (fun x y => (vShiftElem (fn % 4) w x (if 4 ≤ fn then bx else y % w), 0)) a b))

/-- Conversions may round only where a float takes part (R295). -/
def cvtRndOk (st dt : Ty) (wrap : Bool) (rnd : Nat) : Bool :=
  decide (rnd ≤ 5) && (st.isFloat || dt.isFloat || decide (rnd = 0)) && !(wrap && (st.isFloat || dt.isFloat))

def vCvt (fn typ rnd vd bx : Nat) (ovf : Dword) (src : Nat) : Option VOut :=
  let dt := Ty.ofVec typ
  let st := Ty.ofVec (bx % 16)
  let wrap := decide (fn = 1)
  if 16 ≤ bx ∨ st.width ≠ dt.width ∨ ¬ cvtRndOk st dt wrap rnd then none
  else some (outReg dt vd ((elemsT st src).map (cvt st dt ovf rnd wrap)))

/-- Element i of a list, for i running over one residue class: the elements i ≡ r (mod f), in order. -/
def everyNth (f r : Nat) : Nat → List Nat → List Nat
  | _, [] => []
  | i, x :: l => if i % f = r then x :: everyNth f r (i + 1) l else everyNth f r (i + 1) l

/-- Elements interleaved from f lists of equal length n: element i from list i mod f. -/
def interleave (ls : List (List Nat)) : Nat → Nat → List Nat
  | 0, _ => []
  | n + 1, i => ls.map (fun l => l.getD i 0) ++ interleave ls n (i + 1)

/-- Widening and narrowing of R296. -/
def vWiden (fn typ rnd dx ax bx : Nat) (ovf : Dword) (rd : Nat → Nat) : Option VOut :=
  let dt := Ty.ofVec typ
  let st := Ty.ofVec (bx % 16)
  let wrap := decide (fn = 2)
  if 16 ≤ bx ∨ ¬ cvtRndOk st dt wrap rnd then none
  else if fn = 0 then
    let f := dt.width / st.width
    if ¬ (f = 2 ∨ f = 4) ∨ dx % f ≠ 0 then none
    else
      let r := gather ((elemsT st (rd ax)).map (cvt st dt ovf rnd wrap))
      some { regs := (List.range f).map (fun j => (dx + j, packElems dt.width (everyNth f j 0 r.1))), flags := r.2 }
  else
    let f := st.width / dt.width
    if ¬ (f = 2 ∨ f = 4) ∨ ax % f ≠ 0 then none
    else
      let n := 4096 / st.width
      let src := interleave ((List.range f).map (fun j => elemsT st (rd (ax + j)))) n 0
      some (outReg dt dx (src.map (cvt st dt ovf rnd wrap)))

/-- The reduction tree of R297 over a list whose length is a power of two; `fuel` bounds its depth. -/
def sumTree (g : Nat → Nat → Res) : Nat → List Nat × Nat → Res
  | 0, (l, fl) => (l.headD 0, fl)
  | k + 1, (l, fl) =>
    let h := l.length / 2
    if h = 0 then (l.headD 0, fl)
    else
      let r := gather (List.zipWith g (l.take h) (l.drop h))
      sumTree g k (r.1, fl ||| r.2)

/-- Fold of an exact operation over a nonempty list. -/
def foldRes (g : Nat → Nat → Res) : List Nat → Res
  | [] => (0, 0)
  | x :: l => l.foldl (fun a y => let r := g a.1 y; (r.1, a.2 ||| r.2)) (x, 0)

/-- Inclusive scan of R298. -/
def scanRes (g : Nat → Nat → Res) : Nat → List Nat → List Res
  | _, [] => []
  | y, x :: l => let r := g y x; r :: scanRes g r.1 l

/-- The scalar image of an element (R297). -/
def scalarOf (t : Ty) (x : Nat) : Nat :=
  match t with
  | .int w true => wrapInt 64 (signed w x)
  | _ => x

/-- A single element as a minimum or maximum takes it: a NaN becomes the canonical NaN. -/
def canonElem (t : Ty) (x : Nat) : Nat :=
  match t with
  | .flt f => if (decodeF f x).isNan then canonNan f else x
  | .int _ _ => x

def vReduce (fn typ rnd dx : Nat) (ovf : Dword) (a : List Nat) : Option VOut :=
  let t := Ty.ofVec typ
  let op := fn % 8
  match t with
  | .int w sgn =>
    if rnd ≠ 0 then none else
    let bit (g : Nat → Nat → Nat) : Res := foldRes (fun x y => (g x y, 0)) a
    match fn with
    | 0 => some { scalar := some (wrapInt 64 (a.foldl (fun s x => s + intVal w sgn x) 0)) }
    | 1 | 2 => some { scalar := some (scalarOf t (bit (pick w sgn (decide (fn = 1)))).1) }
    | 3 => some { scalar := some (scalarOf t (bit (· &&& ·)).1) }
    | 4 => some { scalar := some (scalarOf t (bit (· ||| ·)).1) }
    | 5 => some { scalar := some (scalarOf t (bit (· ^^^ ·)).1) }
    | _ =>
      let g : Nat → Nat → Res := fun y x =>
        if op = 0 then (wrapInt w (intVal w sgn y + intVal w sgn x), 0) else (pick w sgn (decide (op = 1)) y x, 0)
      match a with
      | [] => none
      | x :: l => some (outReg t dx ((x, 0) :: scanRes g x l))
  | .flt f =>
    if arithFlt t = none ∨ (op ≠ 0 ∧ rnd ≠ 0) ∨ rnd > 5 ∨ 3 ≤ op then none else
    let g : Nat → Nat → Res :=
      if op = 0 then fun y x => addF f (ovfEnt ovf f) rnd (decodeF f y) (decodeF f x)
      else if op = 1 then minF f else maxF f
    if fn < 8 then
      let r := if op = 0 then sumTree g 12 (a, 0) else foldRes g (a.map (canonElem t))
      some { scalar := some r.1, flags := r.2 }
    else
      match a with
      | [] => none
      | x :: l => some (outReg t dx ((canonElem t x, 0) :: scanRes g (canonElem t x) l))

/-- Permutes of R299. -/
def vPermute (fn typ rnd dx bx : Nat) (a b : List Nat) : Option VOut :=
  let t := Ty.ofVec typ
  let n := a.length
  let mv (l : List Nat) : Option VOut := some (outReg t dx (l.map (fun x => (x, 0))))
  if rnd ≠ 0 then none else
  match fn with
  | 0 => if t.width < 16 then none else mv (b.map (fun j => a.getD (j % n) 0))
  | 1 => mv (interleave [a.take (n / 2), b.take (n / 2)] (n / 2) 0)
  | 2 => mv (interleave [a.drop (n / 2), b.drop (n / 2)] (n / 2) 0)
  | 3 => mv (everyNth 2 0 0 a ++ everyNth 2 0 0 b)
  | 4 => mv (everyNth 2 1 0 a ++ everyNth 2 1 0 b)
  | 5 => if bx ≠ 0 then none else mv a.reverse
  | 6 => mv (a.map (fun _ => a.getD bx 0))
  | _ => none

/-- Special functions of R301 on one element. -/
def vSpecialElem (fn : Nat) (f : Fmt) (ovf : Dword) (rnd x : Nat) : Res :=
  match special fn f (ovfEnt ovf f) rnd (decodeF f x) with
  | some r => r
  | none => (Config.specialFree fn f.code rnd x % 2 ^ f.cw, FNX)

def vSpecial (fn typ rnd dx : Nat) (ovf : Dword) (a : List Nat) : Option VOut :=
  let t := Ty.ofVec typ
  match arithFlt t with
  | none => none
  | some f => if rnd > 5 then none else some (outReg t dx (a.map (vSpecialElem fn f ovf rnd)))

/-- A register command in format EV, majors 0x44 to 0x50: rd reads a vector register, esp is the tail's low ten bits (DEDUCED, assumption 34). -/
def evalEV (major fn dx ax bx esp : Nat) (ovf : Dword) (rd : Nat → Nat) : Option VOut :=
  let typ := esp / 64 % 16
  let rnd := esp % 8
  let t := Ty.ofVec typ
  let a := elemsT t (rd ax)
  let b := elemsT t (rd bx)
  let d := elemsT t (rd dx)
  if esp / 8 % 8 ≠ 0 then none else
  match major with
  | 0x44 => if (fn = 12 ∨ fn = 13) ∧ bx ≠ 0 then none else vArith false fn typ rnd dx ovf a b
  | 0x46 => if (fn = 6 ∨ fn = 7) ∧ bx ≠ 0 then none else vArith true fn typ rnd dx ovf a b
  | 0x48 => vFma fn typ rnd dx ovf a b d
  | 0x49 => vCmp fn typ rnd dx a b d
  | 0x4A => vShift fn typ rnd dx bx a b
  | 0x4B => vCvt fn typ rnd dx bx ovf (rd ax)
  | 0x4C => vWiden fn typ rnd dx ax bx ovf rd
  | 0x4D => if bx ≠ 0 then none else vReduce fn typ rnd dx ovf a
  | 0x4E => vPermute fn typ rnd dx bx a b
  | 0x50 => if bx ≠ 0 then none else vSpecial fn typ rnd dx ovf a
  | _ => none

/-- A register command with a scalar operand, majors 0x45 and 0x47 (R289, R290): vd, va and the scalar's low bits. -/
def evalScalarForm (major fn vd va esp : Nat) (scalar : Dword) (ovf : Dword) (rd : Nat → Nat) : Option VOut :=
  let typ := esp / 64 % 16
  let rnd := esp % 8
  let t := Ty.ofVec typ
  let a := elemsT t (rd va)
  let b := a.map (fun _ => scalar.toNat % 2 ^ t.width)
  if esp / 8 % 8 ≠ 0 then none else vArith (decide (major = 0x47)) fn typ rnd vd ovf a b

end Sys2Proof.Machine
end

