-- ==== Sys2Proof/Machine/MatOps.lean ====
section
/-!
DEFINITION. The matrix engine's arithmetic and operand layout (spec 08, R206 to R211; spec 13, R304 to R308; spec 07,
R192). An operand block is a function from a byte offset to a byte; a tile element is a 32-bit number.
-/
namespace Sys2Proof.Machine

/-- The element at position k of a row that starts at byte `row`. -/
def blkElem (rd : Nat → Nat) (t : Ty) (row k : Nat) : Nat :=
  let w := t.width
  if w < 8 then rd (row + w * k / 8) / 2 ^ (w * k % 8) % 2 ^ w
  else (List.range (w / 8)).foldl (fun a j => a + rd (row + w * k / 8 + j) * 2 ^ (8 * j)) 0

/-- Four bytes, little-endian. -/
def blkWord (rd : Nat → Nat) (off : Nat) : Nat :=
  (List.range 4).foldl (fun a j => a + rd (off + j) * 2 ^ (8 * j)) 0

/-- A format with scales in its block (R305): codes 4 to 8. -/
def isScaled (code : Nat) : Bool := decide (4 ≤ code ∧ code ≤ 8)

/-- One operand block: its format code, K, whether it is the sparse A operand. -/
structure Opnd where
  code : Nat
  k : Nat
  sparse : Bool
  deriving DecidableEq, Repr

def Opnd.ty (o : Opnd) : Ty := Ty.ofFmt o.code

def ceilDiv (a b : Nat) : Nat := (a + b - 1) / b

def roundUp (a b : Nat) : Nat := ceilDiv a b * b

/-- Groups of 48 dense K positions. -/
def groups (k : Nat) : Nat := ceilDiv k 48

/-- Bits of one stored row; RB or RS when divided by 8. -/
def Opnd.rowBits (o : Opnd) : Nat := o.ty.width * (if o.sparse then o.k / 2 else o.k)

def Opnd.rowBytes (o : Opnd) : Nat := o.rowBits / 8

/-- Where the scale part starts: after the elements, and after the metadata of a sparse block (R306). -/
def Opnd.scaleAt (o : Opnd) : Nat :=
  if o.sparse then roundUp (32 * o.rowBytes + 4 * o.k) 64 else 32 * o.rowBytes

/-- Start of the tensor scales. -/
def Opnd.tensorAt (o : Opnd) : Nat :=
  if o.sparse then o.scaleAt + roundUp (32 * groups o.k) 64 else roundUp (32 * o.rowBytes + 32 * groups o.k) 64

/-- Size of the block in bytes. -/
def Opnd.size (o : Opnd) : Nat :=
  if isScaled o.code then o.tensorAt + 128 * ceilDiv o.k 192
  else if o.sparse then 32 * o.rowBytes + 4 * o.k else 32 * o.rowBytes

/-- Metadata code of quad h of row i (R306). -/
def metaCode (o : Opnd) (rd : Nat → Nat) (i h : Nat) : Nat :=
  rd (32 * o.rowBytes + o.k / 8 * i + h / 2) / 2 ^ (4 * (h % 2)) % 16

/-- Legal codes: the second position lies above the first (R210). -/
def metaLegal (c : Nat) : Bool := decide (c % 4 < c / 4)

/-- Elements of row (or column) i in the dense positions from k up, n of them (DEDUCED, assumption 18). -/
def denseElems (o : Opnd) (rd : Nat → Nat) (i k n : Nat) : List Nat :=
  if o.sparse then
    (List.range n).map (fun j =>
      let p := k + j
      let c := metaCode o rd i (p / 4)
      if p % 4 = c % 4 then blkElem rd o.ty (o.rowBytes * i) (p / 4 * 2)
      else if p % 4 = c / 4 then blkElem rd o.ty (o.rowBytes * i) (p / 4 * 2 + 1)
      else 0)
  else (List.range n).map (fun j => blkElem rd o.ty (o.rowBytes * i) (k + j))

/-- Dense positions of group g. -/
def groupLen (k g : Nat) : Nat := min 48 (k - 48 * g)

/-- Block scale of row i for group g, the byte e of 2^(e-127). -/
def blockScale (o : Opnd) (rd : Nat → Nat) (i g : Nat) : Nat :=
  if isScaled o.code then rd (o.scaleAt + groups o.k * i + g) else 127

/-- Tensor scale for group g: one per row of A, one for all columns of B (R192). -/
def tensorScale (o : Opnd) (rd : Nat → Nat) (isA : Bool) (i g : Nat) : Nat :=
  if isScaled o.code then blkWord rd (o.tensorAt + 128 * (48 * g / 192) + (if isA then 4 * i else 0)) else 0x3F800000

/-- Exact sum of products: any NaN, any invalid product, the infinities, and the finite part m·2^e. -/
structure GSum where
  nan : Bool := false
  pinf : Bool := false
  ninf : Bool := false
  m : Int := 0
  e : Int := 0
  deriving DecidableEq, Repr

/-- One more product. -/
def GSum.add (s : GSum) (a b : Fp) : GSum :=
  match a, b with
  | .nan, _ => { s with nan := true }
  | _, .nan => { s with nan := true }
  | .inf x, .inf y => if x = y then { s with pinf := true } else { s with ninf := true }
  | .inf x, .fin y m _ => if m = 0 then { s with nan := true } else if x = y then { s with pinf := true } else { s with ninf := true }
  | .fin y m _, .inf x => if m = 0 then { s with nan := true } else if x = y then { s with pinf := true } else { s with ninf := true }
  | .fin n1 m1 e1, .fin n2 m2 e2 =>
    let e := min s.e (e1 + e2)
    { s with m := s.m * (2 ^ (s.e - e).toNat : Nat) + alignTo (n1 != n2) (m1 * m2) (e1 + e2) e, e := e }

/-- An element times its block scale, exact (R206). -/
def scaled (x : Fp) (bs : Nat) : Fp :=
  match x with
  | .fin s m e => .fin s m (e + bs - 127)
  | y => y

/-- Contrib and the fused accumulation of R206 and R207: the new accumulator and the flags. -/
def accumulate (ent : Nat) (acc : Nat) (s : GSum) (sc : Fp) : Res :=
  let c : Fp :=
    if s.nan ∨ (s.pinf ∧ s.ninf) then .nan
    else match sc with
    | .nan => .nan
    | .inf z =>
      if s.pinf then .inf z else if s.ninf then .inf (!z)
      else if s.m = 0 then .fin false 0 0 else .inf (decide (s.m < 0) != z)
    | .fin z m e =>
      if s.pinf ∨ s.ninf then (if m = 0 then .nan else .inf (s.ninf != z))
      else if s.m = 0 then .fin false 0 0
      else .fin (decide (s.m < 0) != z) (s.m.natAbs * m) (s.e + e)
  match decodeF fFP32 acc, c with
  | .nan, _ => invalid fFP32
  | _, .nan => invalid fFP32
  | .inf x, .inf y => if x = y then (encInf fFP32 x, 0) else invalid fFP32
  | .inf x, _ => (encInf fFP32 x, 0)
  | _, .inf y => (encInf fFP32 y, 0)
  | .fin n1 m1 e1, .fin n2 m2 e2 =>
    let e0 := min e1 e2
    roundInt2 fFP32 ent 0 false (alignTo n1 m1 e1 e0 + alignTo n2 m2 e2 e0) e0

/-- The scale product S of one row and segment, overflow always IEEE. -/
def scaleProduct (a b : Nat) : Res := mulF fFP32 0 0 (decodeF fFP32 a) (decodeF fFP32 b)

/-- One group of one tile element: float operands (R206, R207) or integer operands (R208). -/
def mmaElem (oa ob : Opnd) (ra rb : Nat → Nat) (ent i j g acc : Nat) : Res :=
  let n := groupLen oa.k g
  let as := denseElems oa ra i (48 * g) n
  let bs := denseElems ob rb j (48 * g) n
  match oa.ty, ob.ty with
  | .int w1 s1, .int w2 s2 =>
    let t := (List.zipWith (fun x y => intVal w1 s1 x * intVal w2 s2 y) as bs).foldl (· + ·) 0
    (wrapInt 32 ((acc : Int) + t), 0)
  | ta, tb =>
    let sa := blockScale oa ra i g
    let sb := blockScale ob rb j g
    let sum := (List.zip as bs).foldl
      (fun s p => s.add (scaled (fpOf ta p.1) sa) (scaled (fpOf tb p.2) sb)) ({} : GSum)
    let sum := if sa = 255 ∨ sb = 255 then { sum with nan := true } else sum
    let sp := scaleProduct (tensorScale oa ra true i g) (tensorScale ob rb false j g)
    let r := accumulate ent acc sum (decodeF fFP32 sp.1)
    (r.1, r.2 ||| sp.2)

/-- Position of element (row, column) in a tile kept as a list of rows. -/
def tilePos (i j : Nat) : Nat := 32 * i + j

/-- Rows r to m-1 of group g, n columns: the tile is a function of its positions, updated row by row. -/
def mmaRow (oa ob : Opnd) (ra rb : Nat → Nat) (ent i g n : Nat) (tile : List Nat) : List Nat × Nat :=
  let row := (List.range n).map (fun j => mmaElem oa ob ra rb ent i j g (tile.getD (tilePos i j) 0))
  let r := gather row
  (tile.take (32 * i) ++ r.1 ++ tile.drop (32 * i + n), r.2)

/-- The (group, row) positions of a command from a start position on, in the order of R308. -/
def mmaOrder (m gs : Nat) : List (Nat × Nat) := (List.range gs).flatMap (fun g => (List.range m).map (fun r => (g, r)))

/-- The tile after the positions of a list. -/
def mmaRun (oa ob : Opnd) (ra rb : Nat → Nat) (ent n : Nat) : List (Nat × Nat) → List Nat × Nat → List Nat × Nat
  | [], t => t
  | (g, r) :: l, (t, fl) =>
    let x := mmaRow oa ob ra rb ent r g n t
    mmaRun oa ob ra rb ent n l (x.1, fl ||| x.2)

/-- The first illegal metadata code among rows 0 to m-1: its row and quad (R211). -/
def firstIllegal (o : Opnd) (rd : Nat → Nat) (m : Nat) : Option (Nat × Nat) :=
  ((List.range m).flatMap (fun i => (List.range (o.k / 4)).map (fun h => (i, h)))).find?
    (fun p => !metaLegal (metaCode o rd p.1 p.2))

/-- Format pairs and scalar fields that R307 refuses; k, m and n come from the shape scalar. -/
def mmaShape (sk : Nat) : Option (Nat × Nat × Nat) :=
  let k := sk % 2 ^ 16
  let ms := sk / 2 ^ 16 % 2 ^ 6
  let ns := sk / 2 ^ 24 % 2 ^ 6
  if sk / 2 ^ 22 % 4 ≠ 0 ∨ sk / 2 ^ 30 ≠ 0 ∨ 32 < ms ∨ 32 < ns then none else some (k, 32 - ms, 32 - ns)

/-- The two operands of a matrix multiply when its shape and formats are well formed (R307). -/
def mmaOperands (sparse : Bool) (fa fb sk : Nat) : Option (Opnd × Opnd × Nat × Nat) :=
  match mmaShape sk with
  | none => none
  | some (k, m, n) =>
    let oa : Opnd := ⟨fa, k, sparse⟩
    let ob : Opnd := ⟨fb, k, false⟩
    if oa.ty.isFloat ≠ ob.ty.isFloat ∨ oa.rowBits % 8 ≠ 0 ∨ ob.rowBits % 8 ≠ 0 ∨ (sparse ∧ k % 8 ≠ 0) then none
    else some (oa, ob, m, n)

end Sys2Proof.Machine
end

