-- ==== Sys2Proof/Machine/VecRun.lean ====
section
/-!
DEFINITION. Running the commands of the vector engine (spec 12, R281 to R302): memory commands, lane-private access,
gather and scatter, vector atomics, register commands, tile slices.
-/
namespace Sys2Proof.Machine

/-- A vector register of a context, as a number. -/
def Ctx.vreg (c : Ctx) (n : Nat) : Nat := (mget 0 c.v n).toNat
def Ctx.setV (c : Ctx) (n x : Nat) : Ctx := { c with v := mset c.v n (BitVec.ofNat 4096 x) }
def State.vrd (s : State) (core : Nat) (m : Cmd) (n : Nat) : Nat := (s.ctx core m.ctx).vreg n
def State.vwr (s : State) (core : Nat) (m : Cmd) (n x : Nat) : State := s.modCtx core m.ctx (·.setV n x)

def Cmd.ty (m : Cmd) : Ty := Ty.ofVec (field m.esp 6 4)
def Cmd.spc (m : Cmd) : Nat := field m.esp 4 2

/-! ### Elements of a memory command -/

/-- Everything that the elements of a command translate to: the first fault and the first WBLK wait by element. -/
structure Places where
  xs : List (Nat × Xl) := []
  busy : Bool := false
  flt : Option Flt := none
  wait : Option Nat := none
  deriving Repr

/-- Translate every element, of n bytes each (R32, R287). -/
def State.placeAll (s : State) (w : Who) (sp : Space) (kind : Nat) (home : Bool) (spc n : Nat) : List Nat → Places × State
  | [] => ({}, s)
  | va :: l =>
    let (x, s1) := s.locate w sp kind home spc va n
    let (r, s2) := s1.placeAll w sp kind home spc n l
    ({ xs := (va, x) :: r.xs, busy := x.busy || r.busy, flt := if x.flt.isSome then x.flt else r.flt,
       wait := if x.wait.isSome then x.wait else r.wait }, s2)

/-- The lines of the elements of one access, each once, however many elements touch it (R37); `seen` are those counted. -/
def warmLines : List (Nat × Xl) → List Nat → List Warm
  | [], _ => []
  | e :: l, seen =>
    let on := (e.2.pieces e.1).filter warmPiece
    let lines := fun (p : Nat × Nat × Nat × Nat) => (List.range (linesOf p.2.2.1 p.2.1)).map (p.2.2.1 / 64 + ·)
    on.map (fun p => ⟨p.1, p.2.2.2, ((lines p).filter (fun x => !seen.contains x)).length⟩) ++ warmLines l (seen ++ on.flatMap lines)

/-- Heat and purity of a command's elements (R37, R181): each element an access of its own, or all of them one. -/
def State.markAll (s : State) (w : Who) (sp : Space) (how : Pure) (kind n : Nat) (each : Bool) (es : List (Nat × Xl)) : State :=
  let s1 := if each then es.foldl (fun s e => s.heatAll w sp e.1 e.2) s else s.heatWarm w sp (warmLines es [])
  es.foldl (fun s e => s.purity w sp how kind e.1 n (e.2.leafs e.1)) s1

/-- Alignment of every element, before any is translated (spec 12; R332): the first misaligned address. -/
def misaligned (al : Nat) (vas : List Nat) : Option Nat := vas.find? (fun a => a % al != 0)

/-- A command's accesses: elements of n bytes of a space at addresses; the whole command is one access, or each element is its own
(R45, R47, R121, R287) (DEDUCED, assumption 65). -/
structure VAcc where
  each : Bool
  spc : Nat
  n : Nat
  vas : List Nat
  deriving Repr

/-- Length of the access that an element is part of, and its last byte when the byte at an address faults. -/
def VAcc.len (v : VAcc) : Nat := if v.each then v.n else v.vas.length * v.n
def VAcc.hi (v : VAcc) (addr : Nat) : Nat := if v.each then addr + v.n - 1 else v.vas.foldl (fun h a => max h (a + v.n - 1)) 0

/-- What placing a command's elements comes to. -/
inductive Placed where
  | ok (s : State) (m : Cmd)
  | stop (e : Eff)

/-- Every element is translated before any is accessed; the command keeps what it found while it goes on, and the space it found it
in (R32, R34). -/
def State.vplace (s : State) (core : Nat) (m : Cmd) (kind : Nat) (home : Bool) (how : Pure) (v : VAcc) : Placed :=
  if !m.places.isEmpty then .ok s m
  else
    let w := s.whoCmd core 2 m
    let sp := s.cmdSpace core m
    let (p, s1) := s.placeAll w sp kind home v.spc v.n v.vas
    if p.busy then .stop (.wait s1 m)
    else match p.flt, p.wait with
      | some f, _ => .stop (.fault s1 m f kind 0 v.len (v.hi f.addr))
      | none, some va => .stop (s1.stallCmd core m (some va) kind v.len 0 (v.hi va))
      | none, none => .ok (if v.spc = 0 ∧ m.units.isEmpty then s1.markAll w sp how kind v.n v.each p.xs else s1)
          { m with places := p.xs.map (fun e => ⟨e.1, e.2.segs, e.2.leaf⟩), spaceid := sp.spaceid }

/-- WATCH, ATTR and ENC of the leaves of all its elements. -/
def Cmd.leaf (m : Cmd) : Nat := m.places.foldl (fun a p => a ||| p.leaf) 0

/-! ### Units (R84, R105) -/

/-- One single-copy atomic unit of an element's access: the element, its virtual and physical address, its bytes and where they lie in
the element, its leaf's bits. -/
structure VUnit where
  el : Nat
  va : Nat
  pa : Nat
  n : Nat
  off : Nat := 0
  leaf : Nat := 0
  deriving DecidableEq, Repr

/-- The aligned 8-byte units that n bytes at an address cover. -/
def cut8 : Nat → Nat → Nat → List (Nat × Nat)
  | 0, _, _ => []
  | fuel + 1, a, n => if n = 0 then [] else let k := min n (8 - a % 8); (a, k) :: cut8 fuel (a + k) (n - k)

def Place.units (p : Place) (el : Nat) : List VUnit :=
  ((p.segs.flatMap (fun g => cut8 (g.2 / 8 + 2) g.1 g.2)).foldl (fun (r : Nat × List VUnit) g =>
    (r.1 + g.2, r.2 ++ [{ el := el, va := p.va + r.1, pa := g.1, n := g.2, off := r.1, leaf := p.leaf }])) (0, [])).2

/-- A command's units, numbered in order of element and address. -/
def Cmd.vunits (m : Cmd) : List (Nat × VUnit) :=
  let us := ((List.range m.places.length).zip m.places).flatMap (fun x => x.2.units x.1)
  (List.range us.length).zip us

/-- Its elements as units, which home slices operate on whole. -/
def Cmd.elUnits (m : Cmd) : List (Nat × VUnit) := ((List.range m.places.length).zip m.places).flatMap (fun x =>
  (x.2.segs.take 1).map (fun g => (x.1, { el := x.1, va := x.2.va, pa := g.1, n := g.2, leaf := x.2.leaf })))

/-- Units of one access at one home controller (R121). -/
def partUnits (each : Bool) : List (Nat × VUnit) → List (List (Nat × VUnit))
  | [] => []
  | u :: l => match partUnits each l with
    | (v :: p) :: ps =>
      if targetOf u.2.pa = targetOf v.2.pa ∧ (!each ∨ u.2.el = v.2.el) then (u :: v :: p) :: ps else [u] :: (v :: p) :: ps
    | ps => [u] :: ps

/-- What the target of a part answers: none, or the first refused byte and the class. `whole` are segments that a store writes whole. -/
def State.partRefused (s : State) (core : Nat) (write : Bool) (whole : List (Nat × Nat)) (p : List (Nat × VUnit)) : Option (Nat × Nat) :=
  if p.any (fun u => !s.routed (dieOf core) (homeDie u.2.pa)) then some ((p.head?.map (fun u => u.2.va)).getD 0, 0x24)
  else if !s.grantedAll (shedOf core) (p.map (fun u => (u.2.pa, u.2.n))) write then
    some ((p.findSome? (fun u => firstByte (fun pa => !s.granted (shedOf core) pa 1 write) u.2.va [(u.2.pa, u.2.n)])).getD
      ((p.head?.map (fun u => u.2.va)).getD 0), 0x07)
  else
    (p.find? (fun u => s.badAt u.2.pa u.2.n && !coversLine whole (u.2.pa / 64))).map (fun u =>
      ((firstByte (fun pa => s.badAt pa 1) u.2.va [(u.2.pa, u.2.n)]).getD u.2.va, 0x32))

/-- The units this run performs of those left: all, or the one of a number (DESIGN CHOICE, assumption 12). -/
def Cmd.chosen (m : Cmd) (us : List (Nat × VUnit)) : List (Nat × VUnit) :=
  us.filter (fun u => !m.units.contains u.1 && (match m.budget with
    | none => true
    | some n => u.1 == n))

/-- Every one of some units has been performed. -/
def Cmd.through (m : Cmd) (us : List (Nat × VUnit)) : Bool := us.all (fun u => m.units.contains u.1)

/-- A higher element stores to the same bytes: this one never writes (R285, R287). Elements are aligned, so they coincide or are apart. -/
def Cmd.covered (m : Cmd) (el : Nat) : Bool := match m.places.drop el with
  | p :: l => l.any (fun q => q.segs == p.segs)
  | [] => false

/-- Every access that a memory command of the vector engine makes has been performed: its end is still to come. -/
def Cmd.performed (m : Cmd) : Bool := !m.places.isEmpty && m.through (if m.major = 0x43 then m.elUnits
  else if m.fn % 2 = 1 then m.vunits.filter (fun u => !m.covered u.2.el) else m.vunits)

/-- Bytes of the units performed. -/
def Cmd.unitBytes (m : Cmd) (us : List (Nat × VUnit)) : Nat :=
  us.foldl (fun t u => if m.units.contains u.1 then t + u.2.n else t) 0

/-- Units of the parts that no target refuses. -/
def State.grantedUnits (s : State) (core : Nat) (write : Bool) (whole : List (Nat × Nat)) (each : Bool) (us : List (Nat × VUnit)) :
    List (Nat × VUnit) := ((partUnits each us).filter (fun p => (s.partRefused core write whole p).isNone)).flatten

/-- The value that what was read of an element makes. -/
def Cmd.value (m : Cmd) (us : List (Nat × VUnit)) (el : Nat) : Nat :=
  us.foldl (fun v u => if u.2.el = el then v + mget 0 m.got u.1 * 2 ^ (8 * u.2.off) else v) 0

/-- A load: what to do with the values of its elements, lowest index first, in a turn that runs all that is left of it. A load that meets a refusal reads again when it goes on;
the part that was not refused may have been read (R121). -/
def State.vload (s : State) (core : Nat) (m : Cmd) (al : Nat) (v : VAcc) (k : List Nat → State → State) : Eff :=
  match misaligned al v.vas with
  | some a => .refuse s ⟨0x29, a, 7⟩ kRead 0 v.len
  | none => match s.vplace core m kRead false .load v with
    | .stop e => e
    | .ok s1 m =>
      let us := m.vunits
      let direct := v.spc = 0 ∧ field m.leaf 8 2 ≠ 0
      match if direct then s1.held core m.ctx m.key else .ok with
      | .ok =>
        (match if v.spc = 0 then (partUnits v.each us).findSome? (s1.partRefused core false []) else none with
         | some (a, cls) =>
           let (x, s2) := s1.draw
           let good := s2.grantedUnits core false [] v.each us
           let done := if v.each ∨ x % 2 = 0 ∨ cls ≠ 0x07 then 0 else good.foldl (fun t u => t + u.2.n) 0
           .fault s2 { m with places := [], units := [], got := [] } ⟨cls, a, 7⟩ kRead done (v.len - done) (v.hi a)
         | none =>
           let s2 := if direct then s1.commit core m.ctx m.key else s1
           let now := m.chosen us
           let m1 := { m with units := m.units ++ now.map Prod.fst,
                              got := m.got ++ now.map (fun (u : Nat × VUnit) => (u.1, s2.rdAny core (shedOf core) v.spc [(u.2.pa, u.2.n)] (s2.cmdSpace core m).sys)) }
           if m1.through us ∧ m.budget.isNone then .done (k ((List.range v.vas.length).map (m1.value us)) s2) 0 0 none else .wait s2 m1)
      | _ => .wait s1 m

/-- What performing units of a store comes to. -/
inductive Ran where
  | ok (s : State) (m : Cmd)
  | wait (s : State) (m : Cmd)
  | fault (f : Flt) (s : State) (m : Cmd)

/-- Store units of elements with their values, one after another; their lines have been logged. -/
def storeUnits (w : Who) (sp : Space) (spc : Nat) (vals : List Nat) : List (Nat × VUnit) → State → Cmd → Ran
  | [], s, m => .ok s m
  | (i, u) :: l, s, m =>
    match s.laySegs w sp spc u.va u.leaf [(u.pa, u.n)] (vals.getD u.el 0 / 2 ^ (8 * u.off) % 2 ^ (8 * u.n)) false with
    | .ok _ s1 => storeUnits w sp spc vals l s1 { m with units := m.units ++ [i] }
    | .wait _ s1 => .wait s1 m
    | .fault f s1 => .fault f s1 m

/-- A store of the values of elements. Every line is logged before any byte is written (R77, R149). Units performed before a refusal at
another target are not written again (R47, R121); of a scatter none is performed, since a fault leaves memory unchanged: its targets answer
once, before its first element is written (R287). -/
def State.vstore (s : State) (core : Nat) (m : Cmd) (al : Nat) (v : VAcc) (vals : List Nat) : Eff :=
  match misaligned al v.vas with
  | some a => .refuse s ⟨0x29, a, 7⟩ kWrite 0 v.len
  | none => match s.vplace core m kWrite false .store v with
    | .stop e => e
    | .ok s1 m =>
      let w := s1.whoCmd core 2 m
      let sp := s1.cmdSpace core m
      let all := m.vunits
      let us := all.filter (fun u => !m.covered u.2.el)
      let whole := m.places.flatMap Place.segs
      let logged := fun (s : State) (m : Cmd) =>
        if v.spc = 0 ∧ field m.leaf 8 2 ≠ 0 then Grant.ok s else s.logWrite core w.ctx v.spc w.inst w.key whole
      let fault := fun (s : State) (m : Cmd) (f : Flt) =>
        let done := if v.each ∨ f.cls ≠ 0x07 then 0 else m.unitBytes us
        Eff.fault s { m with places := [] } f kWrite done (v.len - done) (v.hi f.addr)
      match if v.spc = 0 ∧ field m.leaf 8 2 ≠ 0 then s1.held core m.ctx m.key else .ok with
      | .ok =>
        (match if v.spc = 0 ∧ (!v.each ∨ m.units.isEmpty) then (partUnits v.each all).findSome? (s1.partRefused core true whole) else none with
         | some (a, cls) =>
           let (x, s2) := s1.draw
           let good := (s2.grantedUnits core true whole v.each us).filter (fun u => !m.units.contains u.1)
           if v.each ∨ x % 2 = 0 ∨ cls ≠ 0x07 then fault s2 m ⟨cls, a, 7⟩
           else (match logged s2 m with
             | .ok s3 => (match storeUnits w sp v.spc vals good s3 m with
               | .ok s4 m4 => fault s4 m4 ⟨cls, a, 7⟩
               | .wait s4 m4 => fault s4 m4 ⟨cls, a, 7⟩
               | .fault _ s4 m4 => fault s4 m4 ⟨cls, a, 7⟩)
             | _ => fault s2 m ⟨cls, a, 7⟩)
         | none => match logged s1 m with
           | .stall => .wait s1 m
           | .full l => fault s1 m ⟨0x2F, (all.findSome? (fun u => firstByte (fun pa => pa / 64 * 64 == l) u.2.va [(u.2.pa, u.2.n)])).getD (v.vas.headD 0), 7⟩
           | .ok s2 => match storeUnits w sp v.spc vals (m.chosen us) s2 m with
             | .wait s3 m3 => .wait s3 m3
             | .fault f s3 m3 => fault s3 m3 f
             | .ok s3 m3 => if m3.through us ∧ m.budget.isNone then .done (if v.spc = 0 then s3.clearBad whole else s3) 0 0 none else .wait s3 m3)
      | _ => .wait s1 m

/-! ### Major 0x40: loads and stores (R285) -/

/-- Reserved ESP bits of a memory command are zero (R284). -/
def memEsp (m : Cmd) : Bool := field m.esp 0 4 == 0

/-- Strided element addresses. -/
def strided (a n : Nat) (stride : Int) : List Nat := (List.range n).map (fun (i : Nat) => wrapInt 64 ((a : Int) + (i : Int) * stride))

def State.runVmem (s : State) (core : Nat) (m : Cmd) : Eff :=
  let w := m.ty.width
  let n := 4096 / w
  if 3 < m.fn ∨ !memEsp m ∨ m.fbSel ≠ 0 ∨ (m.fn < 2 ∧ !m.noC) then .bad s
  else if m.fn < 2 then
    if field m.esp 6 4 ≠ 0 then .bad s
    else if m.fn = 0 then s.vload core m 8 ⟨false, m.spc, 512, [m.opa]⟩ (fun l s => s.vwr core m m.sb (l.headD 0))
    else s.vstore core m 8 ⟨false, m.spc, 512, [m.opa]⟩ [s.vrd core m m.sb]
  else if w < 8 then .bad s
  else
    let vas := strided m.opa n (signed 64 m.opc)
    if m.fn = 2 then s.vload core m (w / 8) ⟨false, m.spc, w / 8, vas⟩ (fun l s => s.vwr core m m.sb (packElems w l))
    else s.vstore core m (w / 8) ⟨false, m.spc, w / 8, vas⟩ (elems w n (s.vrd core m m.sb))

/-! ### Major 0x41: lane-private slices (R286) -/

/-- The 16 offsets of a lane-private command. -/
def State.laneOffs (s : State) (core : Nat) (m : Cmd) : List Nat :=
  (List.range 16).map (fun l =>
    (m.opa + (if 2 ≤ m.fn then s.vrd core m m.sc / 2 ^ (32 * 8 * l) % 2 ^ 32 else 0)) % 2 ^ 32)

/-- Byte of the lane memory at an offset of a lane's slice of 16 KiB. -/
def laneAt (l o : Nat) : Nat := 0x4000 * l + o

/-- The record of a lane-private range fault gives the last byte of the faulting lane's access as REMHI, which the spec leaves open for
a command of sixteen accesses (DESIGN CHOICE, assumption 96). -/
def State.runLanes (s : State) (core : Nat) (m : Cmd) : Eff :=
  let offs := s.laneOffs core m
  let write := m.fn % 2 = 1
  let kind := if write then kWrite else kRead
  if 3 < m.fn ∨ m.esp ≠ 0 ∨ m.fbSel ≠ 0 ∨ m.fcSel ≠ 0 ∨ (m.fn < 2 ∧ !m.noC) then .bad s
  else match misaligned 32 offs, offs.find? (fun o => decide (0x3FE0 < o)) with
    | some a, _ => .refuse s ⟨0x29, a, 7⟩ kind 0 512
    | none, some a => .fault s m ⟨0x06, a, 7⟩ kind 0 512 (a + 31)
    | none, none =>
      let lanes := (List.range 16).zip offs
      if write then
        let v := s.vrd core m m.sb
        let put := fun (mem : Mem) => lanes.foldl (fun mem x => writeLE mem (laneAt x.1 x.2) 32 (v / 2 ^ (256 * x.1))) mem
        .done (s.modCore core (fun c => { c with lanes := put c.lanes })) 0 0 none
      else
        .done (s.vwr core m m.sb (packElems 256 (lanes.map (fun x => readLE (s.core core).lanes (laneAt x.1 x.2) 32)))) 0 0 none

/-! ### Majors 0x42 and 0x43: gather, scatter, atomics (R287, R288) -/

/-- Element addresses from an index vector: the base plus each signed word. -/
def indexed (a v : Nat) : List Nat := (elems 32 128 v).map (fun x => wrapInt 64 ((a : Int) + signed 32 x))

def State.runGather (s : State) (core : Nat) (m : Cmd) : Eff :=
  let w := m.ty.width
  let n := 4096 / w
  let vas := indexed m.opa (s.vrd core m m.sc)
  if 1 < m.fn ∨ !memEsp m ∨ m.fbSel ≠ 0 ∨ m.fcSel ≠ 0 ∨ w < 8 then .bad s
  else if m.fn = 0 then s.vload core m (w / 8) ⟨true, m.spc, w / 8, vas⟩ (fun l s => s.vwr core m m.sb (packElems w l))
  else s.vstore core m (w / 8) ⟨true, m.spc, w / 8, vas⟩ ((elems w n (s.vrd core m m.sb)).take 128)

/-- The atomic code of Perform.amoNew for a vector operation on 32-bit elements. -/
def vamoOp (fn : Nat) (sgn : Bool) : Nat := match fn with
  | 0 => 0
  | 1 => if sgn then 4 else 6
  | 2 => if sgn then 5 else 7
  | 3 => 1
  | 4 => 2
  | 5 => 3
  | _ => 8

/-- Elements' operations at their home slices, in any order (R288); the command notes each, with the old value. -/
def vamoUnits (w : Who) (sp : Space) (op : Nat → Nat → Nat) (vals : List Nat) : List (Nat × VUnit) → State → Cmd → State × Cmd
  | [], s, m => (s, m)
  | (i, u) :: l, s, m =>
    let old := readLE s.mem u.pa u.n
    let s1 := ({ s with mem := writeLE s.mem u.pa u.n (op old (vals.getD i 0)) } : State).sliceCount u.pa 64
    vamoUnits w sp op vals l ((s1.wrote w.core sp u.leaf u.va u.n [(u.pa, u.n)]).commit w.core w.ctx w.key)
      { m with units := m.units ++ [i], got := m.got ++ [(i, old)] }

def State.runVamo (s : State) (core : Nat) (m : Cmd) : Eff :=
  let op := m.fn % 8
  let ret := decide (8 ≤ m.fn)
  let ty := field m.esp 6 4
  let xs := decide (op = 7)
  let n := if xs then 64 else 4
  let v : VAcc := ⟨true, 0, n, indexed m.opa (s.vrd core m m.sb)⟩
  if !memEsp m ∨ m.spc ≠ 0 ∨ m.fbSel ≠ 0 ∨ m.fcSel ≠ 0 ∨ (xs ∧ (ret ∨ ty < 13)) ∨ (!xs ∧ ty ≠ 3 ∧ ty ≠ 7) then .bad s
  else match misaligned n v.vas with
    | some a => .refuse s ⟨0x29, a, 7⟩ kRmw 0 n
    | none => match s.vplace core m kRmw true .never v with
      | .stop e => e
      | .ok s1 m =>
        let w := s1.whoCmd core 2 m
        let sp := s1.cmdSpace core m
        let us := m.elUnits
        let vals := elems m.ty.width (4096 / m.ty.width) (s1.vrd core m m.sc)
        let new := if xs then fun old b => (match m.ty with
            | .flt f => cellAdd old (decodeF f b)
            | .int _ _ => old)
          else amoNewOf op
        match s1.held core m.ctx m.key with
        | .ok =>
          (match us.findSome? (fun u => s1.partRefused core true [] [u]) with
           | some (a, cls) =>
             let (x, s2) := s1.draw
             let good := (s2.grantedUnits core true [] true us).filter (fun u => !m.units.contains u.1)
             let (s3, m3) := if x % 2 = 0 ∨ cls ≠ 0x07 then (s2, m) else vamoUnits w sp new vals good s2 m
             .fault s3 { m3 with places := [] } ⟨cls, a, 7⟩ kRmw 0 n (a + n - 1)
           | none =>
             let (s2, m2) := vamoUnits w sp new vals (m.chosen us) s1 m
             if !m2.through us ∨ m.budget.isSome then .wait s2 m2
             else .done (if ret then s2.vwr core m m.sc (packElems 32 ((List.range us.length).map (mget 0 m2.got))) else s2) 0 0 none)
        | _ => .wait s1 m
where
  /-- The new value of a 32-bit element. -/
  amoNewOf (op old b : Nat) : Nat := amoNew (vamoOp op (field m.esp 6 4 == 3)) 32 old b 0

/-! ### Register commands and tile slices (R289 to R301) -/

def State.applyV (s : State) (core : Nat) (m : Cmd) (o : Option VOut) (dx : Nat) : Eff := match o with
  | none => .bad s
  | some v => .done (v.regs.foldl (fun s r => s.vwr core m r.1 r.2) s) v.flags 0 (v.scalar.map (fun x => (dx, x)))

def State.runEV (s : State) (core : Nat) (m : Cmd) : Eff :=
  s.applyV core m (evalEV m.major (field m.word 0 7) m.sa (field m.word 12 5) (field m.word 7 5) m.esp (s.ctx core m.ctx).ovftab (s.vrd core m)) m.sa

def State.runEVs (s : State) (core : Nat) (m : Cmd) : Eff :=
  if m.faSel ≠ 0 ∨ m.fbSel ≠ 0 ∨ (m.major = 0x45 ∧ (m.fn = 12 ∨ m.fn = 13)) ∨ (m.major = 0x47 ∧ 5 < m.fn) then .bad s
  else s.applyV core m (evalScalarForm m.major m.fn m.sa m.sb m.esp (dw m.opc) (s.ctx core m.ctx).ovftab (s.vrd core m)) m.sa

/-- Number of element j of a slice: of row x or of column x of a tile. -/
def sliceAt (tile : Nat) (col : Bool) (x j : Nat) : Nat := 1024 * tile + (if col then tilePos j x else tilePos x j)

def Core.tile (c : Core) (n : Nat) : Nat := (mget 0 c.tiles n).toNat
def Core.setTile (c : Core) (n x : Nat) : Core := { c with tiles := mset c.tiles n (BitVec.ofNat 32 x) }

def State.runSlice (s : State) (core : Nat) (m : Cmd) : Eff :=
  let fn := field m.word 0 2
  let ty := field m.esp 6 4
  let q := field m.esp 4 2
  let rnd := field m.esp 0 3
  let at_ := sliceAt (field m.word 8 3) (field m.word 7 1 == 1) m.opa
  let acc := fn = 2 ∧ ty = 15
  if fn = 3 ∨ (ty ≠ 3 ∧ ty ≠ 7 ∧ ty ≠ 15) ∨ field m.esp 3 1 ≠ 0 ∨ 5 < rnd ∨ (¬ acc ∧ rnd ≠ 0) ∨ 31 < m.opa then .bad s
  else
    let v := s.vrd core m m.sa
    let part := v / 2 ^ (1024 * q) % 2 ^ 1024
    let c := s.core core
    let now := (List.range 32).filter (fun j => !m.units.contains j && (match m.budget with
      | none => true
      | some n => j == n))
    let m1 := { m with units := m.units ++ now }
    if fn = 0 then
      let m2 := { m1 with got := m.got ++ now.map (fun j => (j, c.tile (at_ j))) }
      let new := packElems 32 ((List.range 32).map (mget 0 m2.got))
      if m2.units.length < 32 then .wait s m2
      else .done (s.vwr core m m.sa (v - part * 2 ^ (1024 * q) + new * 2 ^ (1024 * q))) 0 0 none
    else
      let f := fun (j w : Nat) => if fn = 1 then (w, 0) else if acc
        then addF fFP32 (ovfEnt (s.ctx core m.ctx).ovftab fFP32) rnd (decodeF fFP32 (c.tile (at_ j))) (decodeF fFP32 w)
        else ((c.tile (at_ j) + w) % 2 ^ 32, 0)
      let rs := now.map (fun j => (j, f j (part / 2 ^ (32 * j) % 2 ^ 32)))
      let s1 := s.setCore core (rs.foldl (fun c r => c.setTile (at_ r.1) r.2.1) c)
      let flags := rs.foldl (fun a r => a ||| r.2.2) m.flags
      if m1.units.length < 32 then .wait s1 { m1 with flags := flags } else .done s1 flags 0 none

/-- Run a command of the vector engine. -/
def State.runV (s : State) (core : Nat) (m : Cmd) : Eff := match m.major with
  | 0x40 => s.runVmem core m
  | 0x41 => s.runLanes core m
  | 0x42 => s.runGather core m
  | 0x43 => s.runVamo core m
  | 0x45 => s.runEVs core m
  | 0x47 => s.runEVs core m
  | 0x4F => s.runSlice core m
  | _ => s.runEV core m

end Sys2Proof.Machine
end

