-- ==== Sys2Proof/Machine/MatRun.lean ====
section
/-!
DEFINITION. Running the commands of the matrix engine (spec 13, R304 to R311; spec 05 R137, R138): multiplies with their
resumption point, tile load, store and zero, operand streams.
-/
namespace Sys2Proof.Machine

/-! ### Streams (R137, R138, R311) -/

def State.stream (s : State) (shed n : Nat) : Stream := (s.shed shed).stream n

def State.setStream (s : State) (shed n : Nat) (x : Stream) : State :=
  let h := s.shed shed
  s.setShed shed { h with streams := mset h.streams n x }

def Stream.sub? (x : Stream) (core : Nat) : Option Sub := x.subs.find? (fun b => b.core == core)

/-- Chunks move to subscribers whose windows have room; a chunk that every subscriber has consumed is freed. -/
def Stream.flow (x : Stream) : Stream :=
  let subs := x.subs.map (fun (b : Sub) =>
    let k := b.w - b.given.length
    { b with given := b.given ++ b.todo.take k, todo := b.todo.drop k })
  { x with subs := subs, chunks := x.chunks.filter (fun c => subs.any (fun b => b.todo.contains c.id || b.given.contains c.id)) }

/-- A chunk is published: to the subscribers of this moment. -/
def Stream.publish (x : Stream) (bytes : List (BitVec 8)) (inst : Nat) (key : Coord) : Stream :=
  ({ x with next := x.next + 1, chunks := x.chunks ++ [⟨x.next, bytes, inst, key⟩],
            subs := x.subs.map (fun (b : Sub) => { b with todo := b.todo ++ [x.next] }) } : Stream).flow

/-- The oldest chunk delivered to a core's engine. -/
def Stream.oldest (x : Stream) (core : Nat) : Option Chunk :=
  (x.sub? core).bind (fun b => b.given.head?.bind (fun i => x.chunks.find? (fun c => c.id == i)))

/-- The engine consumes its oldest chunk. -/
def Stream.consume (x : Stream) (core : Nat) : Stream :=
  ({ x with subs := x.subs.map (fun (b : Sub) => if b.core = core then { b with given := b.given.drop 1 } else b) } : Stream).flow

/-- A subscription that passes its checks (R311). -/
def Cmd.subOk (m : Cmd) (x : Stream) (core : Nat) : Bool :=
  m.ce && decide (m.ctr ≤ 15) && m.noA && m.noB && m.noC && field m.esp 4 6 == 0 && (x.sub? core).isNone

/-- A subscription takes effect when it starts (R311); the command notes it. -/
def State.subscribe (s : State) (core : Nat) (m : Cmd) : Cmd × State :=
  let x := s.stream (shedOf core) m.ctr
  if m.major = 0x65 ∧ m.fn = 1 ∧ m.subOk x core then
    ({ m with ok := true }, s.setStream (shedOf core) m.ctr { x with subs := x.subs ++ [{ core := core, w := field m.esp 0 4 + 1 }] })
  else (m, s)

/-- Read a publish's source bytes, in aligned units from its base on: so many more, or all that are left (DESIGN CHOICE, assumption 12).
The value of what is read so far stands in the command. -/
def State.publishRead (s : State) (core spc : Nat) : Nat → Cmd → Ran
  | 0, m => .ok s m
  | fuel + 1, m =>
    let n := min (8 - (m.opa + m.done) % 8) (m.opb - m.done)
    if n = 0 then .ok s m
    else match s.eread (s.whoCmd core 1 m) (s.cmdSpace core m) spc (m.opa + m.done) n with
      | .ok v s1 => s1.publishRead core spc fuel { m with done := m.done + n, val := m.val + v * 2 ^ (8 * m.done) }
      | .fault f s1 => .fault f s1 m
      | .wait _ s1 => .wait s1 m

/-- Major 0x65. -/
def State.runStream (s : State) (core : Nat) (m : Cmd) : Eff :=
  let sh := shedOf core
  let x := s.stream sh m.ctr
  if !m.ce ∨ 15 < m.ctr ∨ !m.noC then .bad s
  else if m.fn = 0 then
    let spc := field m.esp 8 2
    if field m.esp 0 8 ≠ 0 ∨ (spc ≠ 1 ∧ spc ≠ 2) ∨ m.opb = 0 ∨ 16384 < m.opb then .bad s
    else match s.publishRead core spc (m.budget.getD (m.opb / 8 + 2)) m with
      | .ok s1 m1 =>
        if m1.done < m.opb ∨ m.budget.isSome then .wait s1 m1
        else .done (s1.setStream sh m.ctr (x.publish ((bytesOf m.opb m1.val).map (BitVec.ofNat 8)) m.inst m.key)) 0 0 none
      | .fault f s1 m1 =>
        let done := max m1.done (f.addr - m.opa)
        .fault s1 m1 f kRead done (m.opb - done) (m.opa + m.opb - 1)
      | .wait s1 m1 => .wait s1 m1
  else if !m.noA ∨ !m.noB then .bad s
  else if m.fn = 1 then (if m.ok then .done s 0 0 none else .bad s)
  else if m.fn = 2 then
    if m.esp ≠ 0 ∨ (x.sub? core).isNone then .bad s
    else .done (s.setStream sh m.ctr ({ x with subs := x.subs.filter (fun b => b.core != core) } : Stream).flow) 0 0 none
  else .bad s

/-! ### Operand blocks (R305, R306, R308) -/

/-- Byte ranges (offset, length) of a block that group g needs of row or column i. -/
def Opnd.ranges (o : Opnd) (isA : Bool) (i g : Nat) : List (Nat × Nat) :=
  let n := groupLen o.k g
  let w := o.ty.width
  let first := if o.sparse then 24 * g else 48 * g
  let count := if o.sparse then n / 2 else n
  let lo := o.rowBytes * i + w * first / 8
  let hi := o.rowBytes * i + ceilDiv (w * (first + count)) 8
  [(lo, hi - lo)] ++
    (if o.sparse then [(32 * o.rowBytes + o.k / 8 * i + 6 * g, ceilDiv (n / 4) 2)] else []) ++
    (if isScaled o.code then
      [(o.scaleAt + groups o.k * i + g, 1), (o.tensorAt + 128 * (48 * g / 192) + (if isA then 4 * i else 0), 4)] else [])

/-- Bytes that have been read: (offset, length, value). -/
abbrev Pieces := List (Nat × Nat × Nat)

/-- The byte of a block at an offset, from the pieces read. -/
def pieceByte (ps : Pieces) (off : Nat) : Nat :=
  match ps.find? (fun p => decide (p.1 ≤ off ∧ off < p.1 + p.2.1)) with
  | some p => p.2.2 / 2 ^ (8 * (off - p.1)) % 256
  | none => 0

/-- What reading ranges of a block gives. -/
inductive Blk where
  | ok (ps : Pieces) (s : State)
  | fault (f : Flt) (s : State)
  | wait (va : Option Nat) (s : State)
  deriving Repr

/-- Where an operand lies: in a space at a base, or in a stream's chunk. -/
inductive Src where
  | mem (spc base : Nat)
  | chunk (c : Chunk)
  deriving DecidableEq, Repr

def Chunk.value (c : Chunk) (off n : Nat) : Nat := (c.bytes.drop off |>.take n).foldr (fun b a => b.toNat + 256 * a) 0

/-- A unit of an operand that a command has read, by side (A 0, B 1) and address. -/
def unitKey (side va : Nat) : Nat := va / 8 * 2 + side

/-- The n bytes at an address, with those of the units that the command has read before (R84, R105). -/
def withUnits (us : SMap Nat) (side va n v : Nat) : Nat :=
  if us.isEmpty then v
  else (List.range n).foldl (fun a j => a + (match us.find? (fun p => p.1 == unitKey side (va + j)) with
    | some p => p.2 / 2 ^ (8 * ((va + j) % 8)) % 256
    | none => v / 2 ^ (8 * j) % 256) * 2 ^ (8 * j)) 0

/-- Read ranges of an operand, of a side, of which the command has read units before. While one of them waits, none has been read: all are
read when it goes on, and count heat then (R37). -/
def State.readBlk (s : State) (w : Who) (sp : Space) (src : Src) (side : Nat) (us : SMap Nat) : List (Nat × Nat) → Blk
  | [] => .ok [] s
  | (off, n) :: l =>
    match src with
    | .chunk c => (match s.readBlk w sp src side us l with
      | .ok ps s1 => .ok ((off, n, c.value off n) :: ps) s1
      | r => r)
    | .mem spc base => (match s.eread w sp spc ((base + off) % 2 ^ 64) n with
      | .ok v s1 => (match s1.readBlk w sp src side us l with
        | .ok ps s2 => .ok ((off, n, withUnits us side ((base + off) % 2 ^ 64) n v) :: ps) s2
        | .fault f s2 => .fault f s2
        | .wait va s2 => .wait va (s.keepWalks s2))
      | .fault f s1 => .fault f s1
      | .wait va s1 => .wait va (s.keepWalks s1))

/-- A matrix multiply that has passed its checks. -/
structure Mul where
  oa : Opnd
  ob : Opnd
  a : Src
  b : Src
  m : Nat
  n : Nat
  tile : Nat
  fresh : Bool
  /-- units of its operands that it has read before their turn -/
  us : SMap Nat := []
  /-- it goes on in the midst of a group, whose part of B it has read -/
  again : Bool := false
  deriving DecidableEq, Repr

def Mul.gs (u : Mul) : Nat := groups u.oa.k

/-- Highest operand address that the rows from a group and row on still read (R308). -/
def Mul.remhi (u : Mul) (g r : Nat) (bToo : Bool) : Nat :=
  let top := fun (src : Src) (rs : List (Nat × Nat)) => match src with
    | .mem spc base => if spc = 0 then rs.foldl (fun h x => max h (base + x.1 + x.2 - 1)) 0 else 0
    | .chunk _ => 0
  (List.range u.gs).foldl (fun h i =>
    if i < g then h
    else
      let ra := (List.range u.m).flatMap (fun j => if i = g ∧ j < r then [] else u.oa.ranges true j i)
      let rb := if i = g ∧ !bToo then [] else (List.range u.n).flatMap (fun j => u.ob.ranges false j i)
      max h (max (top u.a ra) (top u.b rb))) 0

/-- Where a run of the positions stops. -/
inductive Stop where
  | none
  | fault (f : Flt) (g r : Nat) (bToo : Bool)
  | wait (va : Option Nat) (g r : Nat) (mid : Bool)
  deriving Repr

/-- Row i of a tile with its first n elements zero: where an overwriting command starts to accumulate (R206). -/
def zeroRow (i n : Nat) (tile : List Nat) : List Nat := tile.take (32 * i) ++ List.replicate n 0 ++ tile.drop (32 * i + n)

/-- Rows of one group, from row r on (fuel rows): the tile, the flags, and where it stopped. -/
def State.mulRows (s : State) (w : Who) (sp : Space) (ent : Nat) (u : Mul) (g : Nat) (rb : Pieces) :
    Nat → Nat → List Nat × Nat → (List Nat × Nat) × Stop × State
  | 0, _, t => (t, .none, s)
  | fuel + 1, r, t =>
    match s.readBlk w sp u.a 0 u.us (u.oa.ranges true r g) with
    | .fault f s1 => (t, .fault f g r false, s1)
    | .wait va s1 => (t, .wait va g r true, s1)
    | .ok pa s1 =>
      let x := mmaRow u.oa u.ob (pieceByte pa) (pieceByte rb) ent r g u.n (if g = 0 ∧ u.fresh then zeroRow r u.n t.1 else t.1)
      s1.mulRows w sp ent u g rb fuel (r + 1) (x.1, t.2 ||| x.2)

/-- Groups from g on (fuel of them), the first from row r. One that waits in its midst keeps B as read: read over, it counts no heat and
writes no record again. -/
def State.mulGroups (s : State) (w : Who) (sp : Space) (ent : Nat) (u : Mul) :
    Nat → Nat → Nat → List Nat × Nat → (List Nat × Nat) × Stop × State
  | 0, _, _, t => (t, .none, s)
  | fuel + 1, g, r, t =>
    match s.readBlk w sp u.b 1 u.us ((List.range u.n).flatMap (fun j => u.ob.ranges false j g)) with
    | .fault f s1 => (t, .fault f g r true, s1)
    | .wait va s1 => (t, .wait va g r u.again, s1)
    | .ok pb s1 =>
      match (if u.again then s.keepWalks s1 else s1).mulRows w sp ent u g pb (u.m - r) r t with
      | (t1, .none, s2) => s2.mulGroups w sp ent { u with again := false } fuel (g + 1) 0 t1
      | x => x

/-- MROWP's position (R308). -/
def mrowpOf (tile g r : Nat) : Dword := dw (r % 32 + g % 2 ^ 16 * 2 ^ 16 + tile % 8 * 2 ^ 32)

/-- A tile's 1,024 elements, row by row; and put back. -/
def Core.tileList (c : Core) (t : Nat) : List Nat := (List.range 1024).map (fun i => c.tile (1024 * t + i))
def Core.putTile (c : Core) (t : Nat) (l : List Nat) : Core :=
  ((List.range 1024).zip l).foldl (fun c x => c.setTile (1024 * t + x.1) x.2) c

/-- The M×N region of a tile set to zero: an overwriting command with K of 0 (R209). -/
def zeroRegion (m n : Nat) (t : List Nat) : List Nat :=
  (List.range 1024).zip t |>.map (fun x => if x.1 / 32 < m ∧ x.1 % 32 < n then 0 else x.2)

/-- Block lies wholly within its local space, or the fault of R307. -/
def State.blkFault (s : State) (core : Nat) (o : Opnd) (src : Src) : Option Flt := match src with
  | .mem spc base => if spc = 0 then none else s.localFault core spc base o.size
  | .chunk _ => none

/-- A base that is not a multiple of 64; a chunk shorter than its block (R305, R307). -/
def srcBad (o : Opnd) (src : Src) : Bool := match src with
  | .mem _ base => base % 64 != 0
  | .chunk c => decide (c.bytes.length < o.size)

/-- Some group from g0 on needs a byte of the unit at an offset of a side's block. -/
def Mul.needs (u : Mul) (g0 side off : Nat) : Bool := (List.range u.gs).any (fun g => decide (g0 ≤ g) &&
  if side = 0 then (List.range u.m).any (fun i => (u.oa.ranges true i g).any (fun r => overlaps r.1 r.2 off 8))
  else (List.range u.n).any (fun i => (u.ob.ranges false i g).any (fun r => overlaps r.1 r.2 off 8)))

/-- One unit of an operand is read ahead of its group: number j / 2 of A's block for an even j, of B's for an odd one (R94, R105)
(DESIGN CHOICE, assumption 12). Its heat is counted with its group. Nothing is kept of one that cannot be read now. -/
def State.readAhead (s : State) (core : Nat) (m : Cmd) (u : Mul) (j : Nat) : Eff :=
  match if j % 2 = 0 then u.a else u.b with
  | .chunk _ => .wait s m
  | .mem spc base =>
    let w := s.whoCmd core 1 m
    let sp := s.cmdSpace core m
    let va := (base + 8 * (j / 2)) % 2 ^ 64
    if !u.needs m.mg (j % 2) (8 * (j / 2)) || m.got.any (fun p => p.1 == unitKey (j % 2) va) then .wait s m
    else
      let (x, s1) := s.locate w sp kRead false spc va 8
      match s1.preAccess w x false with
      | .ok _ s2 => (match s2.takeSegs w sp.sys spc va x with
        | .ok v s3 => .wait s3 { m with got := m.got ++ [(unitKey (j % 2) va, v)] }
        | _ => .wait s m)
      | _ => .wait s m

/-- The elements that the next group starts from: each as it stands, or, where a vector command has written it meanwhile, perhaps as the
command left it (R106) (DESIGN CHOICE, assumption 12). -/
def State.accFrom (s : State) (m : Cmd) (u : Mul) (now : List Nat) : List Nat × State :=
  if m.acc.isEmpty || m.acc == now then (now, s)
  else
    let (x, s1) := s.draw
    ((List.range 1024).map (fun i => if i / 32 < u.m ∧ i % 32 < u.n ∧ x / 2 ^ i % 2 = 1 then m.acc.getD i 0 else now.getD i 0), s1)

/-- Run the groups of a multiply from its resumption point (R206 to R209, R308): so many more, or all. -/
def State.mulPart (s : State) (core : Nat) (m : Cmd) (u : Mul) (k : Option Nat) (finish : State → Nat → Eff) : Eff :=
  let w := s.whoCmd core 1 m
  let sp := s.cmdSpace core m
  let ent := ovfEnt (s.ctx core m.ctx).ovftab fFP32
  let (t0, s0) := s.accFrom m u ((s.core core).tileList u.tile)
  let (t, stop, s1) := s0.mulGroups w sp ent u (min (u.gs - m.mg) (k.getD u.gs)) m.mg m.mr (t0, m.flags)
  let l := if u.gs = 0 ∧ u.fresh then zeroRegion u.m u.n t.1 else t.1
  let s2 := s1.modCore core (·.putTile u.tile l)
  let at_ := fun (g r : Nat) (mid : Bool) => { m with shape := [if mid then 2 else 1], mg := g, mr := r, flags := t.2, acc := l }
  match stop, k with
  | .none, none => finish s2 t.2
  | .none, some k => .wait s2 (if k = 0 then at_ m.mg m.mr u.again else at_ (min u.gs (m.mg + k)) 0 false)
  | .wait _ g r mid, _ => .wait s2 (at_ g r mid)
  | .fault f g r bToo, _ =>
    let done := u.m * g + r
    .fault s2 { at_ g r false with done := 1, acc := [], got := [] } f kRead done (u.m * u.gs - done) (u.remhi g r bToo)

/-- Run a multiply: so many groups more, or all, or one unit read ahead, by the number of the turn (DESIGN CHOICE, assumption 12). One
with a zero extent waits for its chunk and consumes it (R209; DEDUCED, assumption 48). -/
def State.mulRun (s : State) (core : Nat) (m : Cmd) (u : Mul) (streamed : Bool) : Eff :=
  let finish := fun (s : State) (fl : Nat) =>
    Eff.done (if streamed then s.setStream (shedOf core) m.ctr ((s.stream (shedOf core) m.ctr).consume core) else s) fl 0 none
  if u.m = 0 ∨ u.n = 0 then finish s 0
  else match m.budget with
    | none => s.mulPart core m u none finish
    | some k => if k % 2 = 1 then s.readAhead core m u (k / 2) else s.mulPart core m u (some (k / 2)) finish

/-- The multiply that a command's fields give, with the chunk it may stream. -/
def Cmd.mul (m : Cmd) (oa ob : Opnd) (mm nn : Nat) (c : Chunk) : Mul :=
  let srcCode := field m.esp 0 2
  let spc := if srcCode = 1 then 0 else 1
  { oa := oa, ob := ob, a := if srcCode = 3 then .chunk c else .mem spc m.opa, b := if srcCode = 2 then .chunk c else .mem spc m.opb,
    m := mm, n := nn, tile := field m.esp 3 3, fresh := field m.esp 2 1 == 1, us := m.got, again := m.shape == [2] }

/-- Majors 0x60 and 0x61 (R304, R307). Units of a sparse multiply's metadata may have been read ahead, one by one, before all of them are
looked at (R105). The checks of bases and chunks come before the no-op of a zero extent, those of block ranges
and metadata after it (DEDUCED, assumption 48). -/
def State.runMma (s : State) (core : Nat) (m : Cmd) : Eff :=
  let sparse := decide (m.major = 0x61)
  let srcCode := field m.esp 0 2
  let streamed := decide (2 ≤ srcCode)
  let sub := (s.stream (shedOf core) m.ctr).sub? core
  match mmaOperands sparse (field m.esp 6 4) m.fn m.opc with
  | none => .bad s
  | some (oa, ob, mm, nn) =>
    if streamed ∧ (!m.ce ∨ 15 < m.ctr ∨ sub.isNone) ∨ (srcCode = 2 ∧ !m.noB) ∨ (srcCode = 3 ∧ !m.noA) then .bad s
    else match if streamed then (s.stream (shedOf core) m.ctr).oldest core else some ⟨0, [], 0, {}⟩ with
      | none => .wait s m
      | some c =>
        let m := { m with done := 0 }
        let u := m.mul oa ob mm nn c
        if srcBad oa u.a ∨ srcBad ob u.b then .bad s
        else match if mm = 0 ∨ nn = 0 then none else s.blkFault core oa u.a, if mm = 0 ∨ nn = 0 then none else s.blkFault core ob u.b with
          | some f, _ => .fault s { m with done := 1 } f kRead 0 (mm * u.gs) (m.opa + oa.size - 1)
          | none, some f => .fault s { m with done := 1 } f kRead 0 (mm * u.gs) (m.opb + ob.size - 1)
          | none, none =>
            if !sparse ∨ !m.shape.isEmpty ∨ mm = 0 ∨ nn = 0 ∨ m.budget.any (· % 2 == 1) then s.mulRun core m u streamed
            else match s.readBlk (s.whoCmd core 1 m) (s.cmdSpace core m) u.a 0 u.us [(32 * oa.rowBytes, oa.k / 8 * mm)] with
              | .fault f s1 => .fault s1 { m with done := 1 } f kRead 0 (mm * u.gs) (u.remhi 0 0 true)
              | .wait _ s1 => .wait s1 m
              | .ok ps s1 => (match firstIllegal oa (pieceByte ps) mm with
                | some (row, quad) => .refuse s1 ⟨0x23, 0, 7⟩ kRead row quad
                | none => s1.mulRun core { m with shape := [1] } u streamed)

/-! ### Majors 0x62 to 0x64: tile load, store, zero (R310) -/

/-- Row bytes of a tile load or store (R310). -/
def Cmd.rowBytes (m : Cmd) : Nat := if field m.esp 3 2 < 2 then 128 else 64

/-- Address of a tile row. -/
def tileRow (a r : Nat) (stride : Int) : Nat := wrapInt 64 ((a : Int) + (r : Int) * stride)

/-- Highest address that rows from r on touch. -/
def rowsHi (a n : Nat) (stride : Int) (r : Nat) : Nat :=
  ((List.range 32).filter (fun i => decide (r ≤ i))).foldl (fun h i => max h (tileRow a i stride + n - 1)) 0

/-- One row of a tile store: its bytes and the flags of its conversions (DEDUCED, assumption 49). -/
def storeRow (c : Core) (ovf : Dword) (tile ty rnd r : Nat) : Nat × Nat :=
  let l := (List.range 32).map (fun j => c.tile (1024 * tile + tilePos r j))
  if ty < 2 then (packElems 32 l, 0)
  else
    let x := gather (l.map (cvt (.flt fFP32) (.flt (if ty = 2 then fBF16 else fFP16)) ovf rnd false))
    (packElems 16 x.1, x.2)

/-- A unit of a tile load is read ahead of its turn, by its number in the tile (R94, R105). Nothing is kept of one that cannot be read
now. -/
def State.tileAhead (s : State) (core : Nat) (m : Cmd) (j : Nat) : Eff :=
  let n := m.rowBytes
  if 4 * n ≤ j ∨ 8 * j < m.done ∨ m.got.any (fun p => p.1 == j) then .wait s m
  else match s.eread (s.whoCmd core 1 m) (s.cmdSpace core m) (field m.esp 5 2)
      ((tileRow m.opa (8 * j / n) (signed 64 m.opb) + 8 * j % n) % 2 ^ 64) 8 with
    | .ok v s1 => .wait s1 { m with got := m.got ++ [(j, v)] }
    | _ => .wait s m

/-- A tile load or store from a byte on, in aligned units of 8 along its rows of n bytes; `fuel` units, of which a load may have read some
before. The bytes before a fault are done and are not moved again (R15, R32, R47, R310). A turn with a budget does not end it. -/
def State.tileUnits (s : State) (core : Nat) (m : Cmd) (store : Bool) (n : Nat) : Nat → Nat → Nat → Eff
  | 0, d, fl => if 32 * n ≤ d ∧ m.budget.isNone then .done s fl 0 none else .wait s { m with done := d, flags := fl }
  | fuel + 1, d, fl =>
    let w := s.whoCmd core 1 m
    let sp := s.cmdSpace core m
    let spc := field m.esp 5 2
    let stride := signed 64 m.opb
    let r := d / n
    let va := (tileRow m.opa r stride + d % n) % 2 ^ 64
    let here := { m with done := d, flags := fl }
    let fault := fun (s : State) (f : Flt) =>
      Eff.fault s here f (if store then kWrite else kRead) d (32 * n - d) (rowsHi m.opa n stride r)
    if 32 * n ≤ d then (if m.budget.isSome then .wait s here else .done s fl 0 none)
    else if store then
      let (v, f1) := storeRow (s.core core) (s.ctx core m.ctx).ovftab (field m.esp 7 3) (field m.esp 3 2) (field m.esp 0 3) r
      (match s.ewrite w sp spc va 8 (v / 2 ^ (8 * (d % n)) % 2 ^ 64) with
       | .ok _ s1 => s1.tileUnits core m store n fuel (d + 8) (fl ||| f1)
       | .fault f s1 => fault s1 f
       | .wait a s1 => s1.stallCmd core here a kWrite (32 * n - d) d (rowsHi m.opa n stride r))
    else
      (match (match m.got.find? (fun p => p.1 == d / 8) with
         | some p => Got.ok p.2 s
         | none => s.eread w sp spc va 8) with
       | .ok v s1 =>
         let at_ := 1024 * field m.esp 7 3 + tilePos r (d % n / 4)
         (s1.modCore core (fun c => (c.setTile at_ (v % 2 ^ 32)).setTile (at_ + 1) (v / 2 ^ 32))).tileUnits core m store n fuel (d + 8) fl
       | .fault f s1 => fault s1 f
       | .wait _ s1 => .wait s1 here)

/-- Bytes of memory that a command of the matrix engine reads or writes, as (space, address, length): both blocks of a multiply, the rows of
a tile load or store, a publish's source. -/
def Cmd.tileBytes (m : Cmd) : List (Nat × Nat × Nat) := match m.major with
  | 0x64 => []
  | 0x65 => if m.fn = 0 then [(field m.esp 8 2, m.opa, m.opb)] else []
  | 0x62 | 0x63 => (List.range 32).map (fun r => (field m.esp 5 2, tileRow m.opa r (signed 64 m.opb), m.rowBytes))
  | _ => (match mmaOperands (m.major == 0x61) (field m.esp 6 4) m.fn m.opc with
    | none => []
    | some (oa, ob, mm, nn) =>
      let u := m.mul oa ob mm nn ⟨0, [], 0, {}⟩
      [(u.a, oa.size), (u.b, ob.size)].filterMap (fun x => match x.1 with
        | .mem spc base => some (spc, base, x.2)
        | .chunk _ => none))

/-- A multiply has read, in turns before, all that its groups to come need (R94). -/
def Cmd.mulRead (m : Cmd) : Bool := match mmaOperands (m.major == 0x61) (field m.esp 6 4) m.fn m.opc with
  | none => false
  | some (oa, ob, mm, nn) =>
    let u := m.mul oa ob mm nn ⟨0, [], 0, {}⟩
    [(0, u.a, oa.size), (1, u.b, ob.size)].all (fun x => match x.2.1 with
      | .chunk _ => true
      | .mem _ base => (List.range (x.2.2 / 8 + 1)).all (fun k => !u.needs m.mg x.1 (8 * k) ||
          m.got.any (fun p => p.1 == unitKey x.1 ((base + 8 * k) % 2 ^ 64))))

/-- A tile load has read all its units (R94). -/
def Cmd.tileRead (m : Cmd) : Bool := (List.range (4 * m.rowBytes)).all (fun i => decide (8 * i < m.done) || m.got.any (fun p => p.1 == i))

/-- `tzero`, so many elements more or all, and the rest with their rows and units; a load may read one unit ahead, by the number of the
turn (DESIGN CHOICE, assumption 12). -/
def State.runTile (s : State) (core : Nat) (m : Cmd) : Eff :=
  let ty := field m.esp 3 2
  let rnd := field m.esp 0 3
  if m.fn ≠ 0 ∨ !m.noC then .bad s
  else if m.major = 0x64 then
    if !m.noA ∨ !m.noB ∨ field m.esp 0 7 ≠ 0 then .bad s
    else
      let n := min (1024 - m.done) (m.budget.getD 1024)
      let s1 := s.modCore core (fun c => (List.range n).foldl (fun c i => c.setTile (1024 * field m.esp 7 3 + m.done + i) 0) c)
      if m.budget.isSome then .wait s1 { m with done := m.done + n } else .done s1 0 0 none
  else
    let store := decide (m.major = 0x63)
    if m.opa % 8 ≠ 0 ∨ m.opb % 8 ≠ 0 ∨ (!store ∧ 2 ≤ ty) ∨ (ty < 2 ∧ rnd ≠ 0) ∨ 5 < rnd then .bad s
    else match m.budget, store with
      | some k, false => if k % 2 = 1 then s.tileAhead core m (k / 2) else s.tileUnits core m store m.rowBytes (k / 2) m.done m.flags
      | _, _ => s.tileUnits core m store m.rowBytes (m.budget.getD (4 * m.rowBytes)) m.done m.flags

/-- The tile of a matrix command. -/
def Cmd.tileOf (m : Cmd) : Nat := if m.major = 0x60 ∨ m.major = 0x61 then field m.esp 3 3 else if m.major = 0x65 then 0 else field m.esp 7 3

/-- The row at which a stopped matrix command resumes; a publish begins again. -/
def Cmd.row (m : Cmd) : Nat :=
  if m.major = 0x60 ∨ m.major = 0x61 then m.mr else if m.major = 0x65 then 0 else m.done / m.rowBytes

/-- Where a matrix command stands as MROWP records it: that of a tile load or store is group 0 and the row it is at (R308, R310, R348)
(DEDUCED, assumption 53). -/
def Cmd.mrowp (m : Cmd) : Dword := mrowpOf m.tileOf (if m.major = 0x60 ∨ m.major = 0x61 then m.mg else 0) m.row

/-- The engine records where a fault stops its command (R308); one that leaves the ring then stands nowhere. -/
def Eff.noteRow (core : Nat) : Eff → Eff
  | .fault s m f kind n rem hi =>
    .fault (if f.cls = 0x29 ∨ f.cls = 0x24 then s else s.modCore core (fun c => { c with mrowp := m.mrowp })) m f kind n rem hi
  | e => e

/-- Run a command of the matrix engine. -/
def State.runM (s : State) (core : Nat) (m : Cmd) : Eff := (match m.major with
  | 0x60 => s.runMma core m
  | 0x61 => s.runMma core m
  | 0x65 => s.runStream core m
  | _ => s.runTile core m).noteRow core

end Sys2Proof.Machine
end

