-- ==== Sys2Proof/Machine/CopyRun.lean ====
section
/-!
DEFINITION. Running the commands of the copy engine (spec 13, R312 to R317; spec 05 R135, R136, R139): shape records,
copies in traversal order, fills, conversions, multicasts.
-/
namespace Sys2Proof.Machine

/-! ### Shape records (R312, R313) -/

structure Shape where
  base : Nat
  fmt : Nat
  pad : Nat
  ndim : Nat
  ext : List Nat
  str : List Int
  scale : Nat
  deriving DecidableEq, Repr

/-- A record from its eight dwords; an unused dimension counts as extent 1. -/
def Shape.of (r : List Nat) : Shape :=
  let d := fun i => r.getD i 0
  let nd := field (d 1) 6 2 + 1
  { base := d 0, fmt := field (d 1) 0 4, pad := field (d 1) 4 2, ndim := nd,
    ext := (List.range 4).map (fun i => if i < nd then field (d (2 + i / 2)) (32 * (i % 2)) 32 else 1),
    str := (List.range 4).map (fun i => signed 32 (field (d (4 + i / 2)) (32 * (i % 2)) 32)), scale := d 6 }

def Shape.w (x : Shape) : Nat := (Ty.ofFmt x.fmt).width
def Shape.ext0 (x : Shape) : Nat := x.ext.getD 0 1
def Shape.rows (x : Shape) : Nat := x.ext.getD 1 1 * x.ext.getD 2 1 * x.ext.getD 3 1

/-- Row bytes on the dense side for elements of width w, and the pitch that PAD gives. -/
def Shape.rb (x : Shape) (w : Nat) : Nat := x.ext0 * w / 8
def Shape.pitch (x : Shape) (w : Nat) : Nat := if x.pad = 1 then roundUp (x.rb w) 64 else if x.pad = 2 then roundUp (x.rb w) 128 else x.rb w

/-- The record is malformed (R313); `total` is its destination bytes. -/
def Shape.bad (r : List Nat) (total : Nat) : Bool :=
  let x := Shape.of r
  let d := fun i => r.getD i 0
  x.pad == 3 || field (d 1) 8 56 != 0 || d 7 != 0 ||
    (List.range 4).any (fun i => decide (x.ndim ≤ i) && (field (d (2 + i / 2)) (32 * (i % 2)) 32 != 0 || field (d (4 + i / 2)) (32 * (i % 2)) 32 != 0)) ||
    (decide (x.w < 8) && x.str.getD 0 0 != 1) ||
    [1, 2, 3].any (fun i => ((x.w : Int) * x.str.getD i 0) % 8 != 0) || x.ext0 * x.w % 8 != 0 ||
    (x.scale != 0 && !isScaled x.fmt) || decide (2 ^ 31 < total)

/-- Bit address of an element of row q, relative to the byte address base + offset. -/
def Shape.bitOf (x : Shape) (q i0 : Nat) : Int :=
  let e1 := x.ext.getD 1 1
  let e2 := x.ext.getD 2 1
  (x.w : Int) * ((i0 : Int) * x.str.getD 0 0 + (q % e1 : Nat) * x.str.getD 1 0 + (q / e1 % e2 : Nat) * x.str.getD 2 0 +
    (q / e1 / e2 : Nat) * x.str.getD 3 0)

/-- Byte address of an element, and the bit within that byte. -/
def Shape.addr (x : Shape) (off : Int) (q i0 : Nat) : Nat × Nat :=
  let b := x.bitOf q i0
  (wrapInt 64 ((x.base : Int) + off + b / 8), (b % 8).toNat)

/-! ### Moves -/

/-- Where a move's bytes come from. -/
inductive From where
  | zero
  | pattern (p : Nat)
  | copy (spc va : Nat)
  /-- elements at (byte address, bit), each with its block-scale byte's address -/
  | conv (els : List (Nat × Nat × Option Nat))
  deriving DecidableEq, Repr

/-- One piece of a command, in its order; `skip` bytes of a converted value stand before it. -/
structure Move where
  dst : Nat
  len : Nat
  src : From
  skip : Nat := 0
  deriving DecidableEq, Repr

/-- Cut a contiguous run at multiples of 8 of an address (R135): (offset, length) pairs. -/
def unitsOf : Nat → Nat → Nat → Nat → List (Nat × Nat)
  | 0, _, _, _ => []
  | fuel + 1, va, n, off =>
    if n = 0 then [] else
      let k := min n (8 - va % 8)
      (off, k) :: unitsOf fuel (va + k) (n - k) (off + k)

/-- Moves that clear, or fill with a pattern, n bytes at an address. -/
def clearMoves (src : From) (a n : Nat) : List Move :=
  (unitsOf (n / 8 + 2) a n 0).map (fun u => { dst := (a + u.1) % 2 ^ 64, len := u.2, src := src })

/-- Moves of a row between the shape side and the dense side (R314). -/
def rowMoves (x : Shape) (toShape : Bool) (spc opa : Nat) (off : Int) (q : Nat) : List Move :=
  let dense := opa + q * x.pitch x.w
  let mv := fun (i0 o n : Nat) =>
    let sh := ((x.addr off q i0).1 + o) % 2 ^ 64
    let de := (dense + i0 * x.w / 8 + o) % 2 ^ 64
    if toShape then { dst := sh, len := n, src := .copy spc de : Move } else { dst := de, len := n, src := .copy 0 sh }
  if x.str.getD 0 0 = 1 then
    (unitsOf (x.rb x.w / 8 + 2) (if toShape then dense else (x.addr off q 0).1) (x.rb x.w) 0).map (fun u => mv 0 u.1 u.2)
  else (List.range x.ext0).map (fun i0 => mv i0 0 (x.w / 8))

/-- Every move of a copy, pads included (R314). -/
def copyMoves (x : Shape) (toShape : Bool) (spc opa : Nat) (off : Int) : List Move :=
  (List.range x.rows).flatMap (fun q =>
    rowMoves x toShape spc opa off q ++
      (if toShape then [] else clearMoves .zero ((opa + q * x.pitch x.w + x.rb x.w) % 2 ^ 64) (x.pitch x.w - x.rb x.w)))

/-- Moves of a converting copy (R317): as many elements as make whole bytes of the destination format. -/
def convMoves (x : Shape) (dt : Nat) (opa : Nat) : List Move :=
  let dw_ := (Ty.ofFmt dt).width
  let per := if dw_ < 8 then 8 / dw_ else 1
  let len := if dw_ < 8 then 1 else dw_ / 8
  (List.range x.rows).flatMap (fun q =>
    (List.range (x.ext0 / per)).map (fun c =>
      { dst := (opa + q * x.pitch dw_ + c * len) % 2 ^ 64, len := len, src := .conv ((List.range per).map (fun j =>
        let i0 := c * per + j
        let a := x.addr 0 q i0
        (a.1, a.2, if x.scale = 0 then none else some ((x.scale + q * ceilDiv x.ext0 48 + i0 / 48) % 2 ^ 64)))) : Move }) ++
      clearMoves .zero ((opa + q * x.pitch dw_ + x.rb dw_) % 2 ^ 64) (x.pitch dw_ - x.rb dw_))

/-- The byte offset of a converting copy moves its base. -/
def Shape.shift (x : Shape) (off : Int) : Shape := { x with base := wrapInt 64 ((x.base : Int) + off) }

/-! ### Running moves -/

/-- What a copy command needs at each move. -/
structure CopyEnv where
  core : Nat
  w : Who
  sp : Space
  spc : Nat
  /-- multicast: destination cores -/
  cores : Option (List Nat) := none
  st : Ty := .int 8 false
  dt : Ty := .int 8 false
  rnd : Nat := 0
  ovf : Dword := 0
  deriving Repr

/-- The source units a command has read, by number, with their values: each is read once (R135). -/
abbrev Units := SMap Nat

/-- What reading for a move gives: the value and the flags of its conversion, with the units read. -/
structure In where
  got : Got
  flags : Nat := 0
  units : Units

/-- Read n bytes that lie in one aligned unit of 8 of the source: from the unit as it was first read (R135). For heat, each unit of a
copy or tile command is an access, counted when it is read, which R37 leaves open (DESIGN CHOICE, assumption 93). -/
def State.unitRead (s : State) (v : CopyEnv) (spc va n : Nat) (us : Units) : In :=
  let (x, s1) := s.locate v.w v.sp kRead false spc va n
  match s1.preAccess v.w x false with
  | .ok _ s2 => (match s2.takeSegs v.w v.sp.sys spc va x with
    | .ok y s3 =>
      let note := fun (s : State) => if spc = 0 then s.purity v.w v.sp .load kRead va n (x.leafs va) else s
      let heat := fun (s : State) => if spc = 0 then s.heatAll v.w v.sp va x else s
      let at_ := (x.segs.headD (0, 0)).1
      if spc = 0 ∧ tierOf at_ = .regs then { got := .ok y (note s3), units := us }
      else match us.find? (fun p => p.1 == va / 8) with
        | some p => { got := .ok (p.2 / 2 ^ (8 * (va % 8)) % 2 ^ (8 * n)) (note s3), units := us }
        | none =>
          let u := s3.rdSpc v.core spc (at_ / 8 * 8) 8
          { got := .ok (u / 2 ^ (8 * (va % 8)) % 2 ^ (8 * n)) (note (heat s3)), units := us ++ [(va / 8, u)] }
    | g => { got := g, units := us })
  | g => { got := g, units := us }

/-- Read n bytes of the source, unit by unit. -/
def State.srcRead (v : CopyEnv) (spc : Nat) : Nat → Nat → Nat → State → Units → In
  | 0, _, _, s, us => { got := .ok 0 s, units := us }
  | fuel + 1, va, n, s, us =>
    let k := min n (8 - va % 8)
    if k = 0 then { got := .ok 0 s, units := us }
    else match s.unitRead v spc va k us with
      | ⟨.ok x s1, _, us1⟩ => (match State.srcRead v spc fuel ((va + k) % 2 ^ 64) (n - k) s1 us1 with
        | ⟨.ok y s2, _, us2⟩ => { got := .ok (x + y * 2 ^ (8 * k)) s2, units := us2 }
        | r => r)
      | r => r

/-- Convert elements, each read with its scale byte (R317): the encodings packed low element first, and the flags. -/
def State.convAll (s : State) (v : CopyEnv) (us : Units) : List (Nat × Nat × Option Nat) → In
  | [] => { got := .ok 0 s, units := us }
  | (a, bit, sc) :: l =>
    match State.srcRead v 0 9 a (ceilDiv v.st.width 8) s us with
    | ⟨.ok x s1, _, us1⟩ =>
      (match (match sc with
        | none => ({ got := .ok 127 s1, units := us1 } : In)
        | some b => State.srcRead v 0 1 b 1 s1 us1) with
       | ⟨.ok e s2, _, us2⟩ =>
         let el := x / 2 ^ bit % 2 ^ v.st.width
         let r := (match sc with
           | none => cvt v.st v.dt v.ovf v.rnd false el
           | some _ => cvtFp v.dt v.ovf v.rnd (if e = 255 then .nan else scaled (fpOf v.st el) e))
         (match s2.convAll v us2 l with
          | ⟨.ok rest s3, fl, us3⟩ => { got := .ok (r.1 % 2 ^ v.dt.width + rest * 2 ^ v.dt.width) s3, flags := r.2 ||| fl, units := us3 }
          | g => g)
       | g => g)
    | g => g

/-- The bytes of a move, and the flags of its conversion. -/
def State.moveIn (s : State) (v : CopyEnv) (mv : Move) (us : Units) : In := match mv.src with
  | .zero => { got := .ok 0 s, units := us }
  | .pattern p => { got := .ok ((List.range mv.len).foldl (fun a j => a + p / 2 ^ (8 * ((mv.dst + j) % 8)) % 256 * 2 ^ (8 * j)) 0) s, units := us }
  | .copy spc va => State.srcRead v spc 9 va mv.len s us
  | .conv els => (match s.convAll v us els with
    | ⟨.ok x s1, fl, us1⟩ => { got := .ok (x / 2 ^ (8 * mv.skip)) s1, flags := fl, units := us1 }
    | g => g)

/-- Write a move's bytes: to its space, or to each destination core's scratchpad (R136, R315). -/
def State.moveOut (s : State) (v : CopyEnv) (va n x : Nat) : Got := match v.cores with
  | none => s.ewrite v.w v.sp v.spc va n x
  | some cs => (match s.localFault v.core 1 va n with
    | some f => .fault f s
    | none => .ok 0 (cs.foldl (fun s c => s.wrSpc c 1 va n x) s))

/-- One attempt of a move: what became of it, and the side that faulted (true: the destination). -/
def State.tryMove (s : State) (v : CopyEnv) (mv : Move) (us : Units) : In × Bool := match s.moveIn v mv us with
  | ⟨.ok x s1, fl, us1⟩ => ({ got := s1.moveOut v mv.dst mv.len (x % 2 ^ (8 * mv.len)), flags := fl, units := us1 }, true)
  | g => (g, false)

/-- Bytes of a move before the faulting one, which are done (R32, R317): of a converted element, the bytes of its destination. -/
def Move.before (mv : Move) (f : Flt) (dstSide : Bool) : Nat :=
  let at_ := if dstSide then mv.dst else match mv.src with
    | .copy _ va => va
    | _ => f.addr
  if at_ < f.addr ∧ f.addr < at_ + mv.len then f.addr - at_ else 0

/-- A move's first n bytes, and the rest after n bytes. -/
def Move.take (mv : Move) (n : Nat) : Move := { mv with len := n }
def Move.drop (mv : Move) (n : Nat) : Move :=
  { mv with dst := (mv.dst + n) % 2 ^ 64, len := mv.len - n, skip := mv.skip + n, src := match mv.src with
      | .copy spc va => .copy spc ((va + n) % 2 ^ 64)
      | x => x }

/-- The moves left after so many bytes. -/
def dropMoves : Nat → List Move → List Move
  | 0, l => l
  | _, [] => []
  | n, mv :: l => if mv.len ≤ n then dropMoves (n - mv.len) l else mv.drop n :: l

/-- What a run of moves has come to: bytes done, flags raised, units read, the moves left. -/
structure Moved where
  done : Nat
  flags : Nat
  units : Units
  left : List Move := []

/-- Why a run of moves stopped short, and on which side (true: the destination). -/
inductive MoveStop where
  | none
  | fault (f : Flt) (dstSide : Bool)
  | wait (va : Option Nat) (dstSide : Bool)
  deriving Repr

/-- Run moves in order (DESIGN CHOICE, assumption 13). -/
def State.runMoves (s : State) (v : CopyEnv) : List Move → Moved → MoveStop × Moved × State
  | [], r => (.none, r, s)
  | mv :: l, r =>
    let (x, d) := s.tryMove v mv r.units
    match x.got with
    | .ok _ s1 => s1.runMoves v l { r with done := r.done + mv.len, flags := r.flags ||| x.flags, units := x.units }
    | .wait va s1 => (.wait va d, { r with units := x.units, left := mv :: l }, s1)
    | .fault f s1 =>
      let k := mv.before f d
      let r1 := { r with units := x.units, left := mv :: l }
      if k = 0 then (.fault f d, r1, s1)
      else match s1.tryMove v (mv.take k) x.units with
        | (⟨.ok _ s2, fl, us⟩, _) => (.fault f d, { done := r.done + k, flags := r.flags ||| fl, units := us, left := mv.drop k :: l }, s2)
        | _ => (.fault f d, r1, s1)

/-- Highest address that the moves left touch on a side (R47); a converted element is read as `eb` bytes, and its scale byte
stands on the same side (DEDUCED, assumption 65). -/
def movesHi (eb : Nat) (dstSide : Bool) (l : List Move) : Nat :=
  l.foldl (fun h mv => if dstSide then max h (mv.dst + mv.len - 1) else match mv.src with
    | .copy _ va => max h (va + mv.len - 1)
    | .conv els => els.foldl (fun h e => max h (max (e.1 + eb - 1) (e.2.2.getD 0))) h
    | _ => h) 0

def moveBytes (l : List Move) : Nat := l.foldl (fun n mv => n + mv.len) 0

/-- Addresses in the source units of a move: (space, address), one byte for each unit. -/
def Move.reads (mv : Move) : List (Nat × Nat) := match mv.src with
  | .copy spc va => [(spc, va), (spc, (va + mv.len - 1) % 2 ^ 64)]
  | .conv els => els.flatMap (fun e => (0, e.1) :: (match e.2.2 with
    | some b => [(0, b)]
    | none => []))
  | _ => []

/-- One source unit is read ahead of its move (R94, R105, R135). Nothing is kept of one that cannot be read now. -/
def State.unitAhead (s : State) (v : CopyEnv) (m : Cmd) (at_ : Option (Nat × Nat)) : Eff := match at_ with
  | none => .wait s m
  | some (spc, va) => (match s.unitRead v spc va 1 m.got with
    | ⟨.ok _ s1, _, us⟩ => if us.length = m.got.length then .wait s m else .wait s1 { m with got := us }
    | _ => .wait s m)

/-- Run the moves of a command from the bytes it has done: so many more, or all, or one source unit read ahead, by the number of the
turn; one with a budget ends no command (DESIGN CHOICE, assumption 12). -/
def State.copyRun (s : State) (core : Nat) (m : Cmd) (v : CopyEnv) (moves : List Move) (finish : State → Nat → Nat → Eff) : Eff :=
  let total := moveBytes moves
  let todo := dropMoves m.done moves
  let now := match m.budget with
    | none => todo
    | some k => todo.take (k / 2)
  let (stop, r, s1) := s.runMoves v now { done := m.done, flags := m.flags, units := m.got }
  let m1 := { m with done := r.done, flags := r.flags, got := r.units }
  let left := r.left ++ todo.drop now.length
  let hi := fun d => movesHi (ceilDiv v.st.width 8) d left
  if m.budget.any (· % 2 == 1) then s.unitAhead v m ((todo.flatMap Move.reads)[m.budget.getD 0 / 2]?)
  else match stop with
  | .none => if r.done < total ∨ (m.budget.isSome ∧ v.cores.isNone) then .wait s1 m1 else finish s1 r.flags total
  | .wait va d => s1.stallCmd core m1 va (if d then kWrite else kRead) (total - r.done) r.done (hi d)
  | .fault f d => .fault s1 m1 f (if d then kWrite else kRead) r.done (total - r.done) (hi d)

/-! ### The commands -/

/-- What reading fields of a shape record comes to. -/
inductive Shaped where
  | ok (s : State) (m : Cmd)
  | fault (f : Flt) (s : State)
  | wait (s : State)

/-- Read fields of a command's shape record, each once, as single-copy atomic loads (R139): those of the numbers that a test picks
among the ones not yet read. The first that is read counts the record's heat (R37); with the last, the command has its shape. -/
def State.readShape (s : State) (core : Nat) (m : Cmd) (now : Nat → Bool) : Shaped :=
  let w := s.whoCmd core 3 m
  let sp := s.cmdSpace core m
  let (x, s1) := s.locate w sp kRead false 0 m.opb 64
  match s1.preAccess w x false with
  | .ok _ s2 => (match s2.takeSegs w sp.sys 0 m.opb x with
    | .ok v s3 =>
      let first := m.got.isEmpty && (List.range 8).any now
      let s4 := if first then (s3.heatAll w sp m.opb x).purity w sp .load kRead m.opb 64 (x.leafs m.opb) else s3
      let got := m.got ++ ((List.range 8).filter (fun i => now i && !m.got.any (fun p => p.1 == i))).map (fun i => (i, field v (64 * i) 64))
      .ok s4 (if 8 ≤ got.length then { m with shape := (List.range 8).map (mget 0 got), got := [] } else { m with got := got })
    | .fault f s3 => .fault f s3
    | .wait _ s3 => .wait s3)
  | .fault f s2 => .fault f s2
  | .wait _ s2 => .wait s2

/-- The destination bytes of a command with a shape. -/
def shapeTotal (m : Cmd) (x : Shape) : Nat :=
  if m.major = 0x68 ∧ m.fn = 1 then x.rb x.w * x.rows
  else if m.major = 0x6B then x.pitch (Ty.ofFmt (field m.esp 4 4)).width * x.rows
  else x.pitch x.w * x.rows

/-- Operand checks of a command with a shape, the record apart (R314 to R317, R326). -/
def shapeCmdBad (m : Cmd) : Bool :=
  m.opb % 64 != 0 || (match m.major with
    | 0x68 => decide (1 < m.fn) || field m.esp 0 8 != 0
    | 0x69 => m.fn != 0 || m.esp != 0 || field m.opc 12 4 != 0
    | _ => m.fn != 0 || field m.esp 3 1 != 0 || decide (5 < field m.esp 0 3))

/-- Cores that a multicast's mask selects. -/
def mcastCores (core mask : Nat) : List Nat := ((List.range 12).filter (fun c => mask / 2 ^ c % 2 == 1)).map (12 * shedOf core + ·)

/-- The moves of a command with a shape, in the order of R314. -/
def Cmd.moves (m : Cmd) (x : Shape) : List Move := match m.major with
  | 0x68 => copyMoves x (m.fn == 1) (field m.esp 8 2) m.opa (signed 64 m.opc)
  | 0x69 => copyMoves x false 1 m.opa (signed 48 (m.opc / 2 ^ 16))
  | _ => convMoves (x.shift (signed 64 m.opc)) (field m.esp 4 4) m.opa

/-- The moves that a command has still to make. -/
def Cmd.movesLeft (m : Cmd) : List Move :=
  if m.sent then []
  else dropMoves m.done (if m.major = 0x6A then clearMoves (.pattern m.opb) m.opa m.opc else m.moves (Shape.of m.shape))

/-- Where the moves of a command write: its space, a multicast's core scratchpads. -/
def Cmd.movesTo (m : Cmd) : Nat := if m.major = 0x69 then 1 else if m.major = 0x68 ∧ m.fn = 1 then 0 else field m.esp 8 2

/-- A command with its shape record read (DESIGN CHOICE, assumption 45). -/
def State.runShaped (s : State) (core : Nat) (m : Cmd) : Eff :=
  let x := Shape.of m.shape
  let v : CopyEnv := { core := core, w := s.whoCmd core 3 m, sp := s.cmdSpace core m, spc := field m.esp 8 2, st := Ty.ofFmt x.fmt }
  if Shape.bad m.shape (shapeTotal m x) then .bad s
  else match m.major with
    | 0x68 => s.copyRun core m (if m.fn = 1 then { v with spc := 0 } else v)
        (m.moves x) (fun s fl n => .done s fl n none)
    | 0x69 =>
      let cs := mcastCores core m.opc
      if m.sent then (if m.dests.isEmpty then .done s 0 0 none else .wait s m)
      else if cs.isEmpty then .done s 0 0 none
      else s.copyRun core m { v with cores := some cs } (m.moves x)
        (fun s _ n => .wait s { m with sent := true, dests := cs, out := n })
    | _ =>
      let dt := field m.esp 4 4
      if x.ext0 * (Ty.ofFmt dt).width % 8 ≠ 0 then .bad s
      else s.copyRun core m { v with dt := Ty.ofFmt dt, rnd := field m.esp 0 3, ovf := (s.ctx core m.ctx).ovftab }
        (m.moves x) (fun s fl n => .done s fl n none)

/-- `fill` (R316). -/
def State.runFill (s : State) (core : Nat) (m : Cmd) : Eff :=
  if m.fn ≠ 0 ∨ field m.esp 0 8 ≠ 0 ∨ 2 ^ 32 ≤ m.opc then .bad s
  else s.copyRun core m { core := core, w := s.whoCmd core 3 m, sp := s.cmdSpace core m, spc := field m.esp 8 2 }
    (clearMoves (.pattern m.opb) m.opa m.opc) (fun s fl n => .done s fl n none)

/-- Run a command of the copy engine; fields of its record that the start has not read are read first. A fault in reading the record
counts the record's 64 bytes as those done and to do, since the command's own are not known before (DESIGN CHOICE, assumption 95). -/
def State.runX (s : State) (core : Nat) (m : Cmd) : Eff :=
  if m.major = 0x6A then s.runFill core m
  else if shapeCmdBad m then .bad s
  else if !m.shape.isEmpty then s.runShaped core m
  else match s.readShape core m (fun i => m.budget.all (· == i)) with
    | .ok s1 m1 => if m1.shape.isEmpty then .wait s1 m1 else s1.runShaped core m1
    | .fault f s1 => .fault s1 m f kRead (f.addr - m.opb) (64 - (f.addr - m.opb)) (m.opb + 63)
    | .wait s1 => .wait s1 m

/-- MULTICAST_DEST_COMPLETE (R136): the multicast has completed at a destination core, and delivers its counter there. -/
def multicastDest (core dest : Nat) (s : State) : State :=
  match (s.eng core 3).cmds.find? (fun m => !m.ended) with
  | none => s
  | some m =>
    if m.major = 0x69 ∧ m.sent ∧ m.dests.contains dest then
      let s1 := s.setCmd core 3 { m with dests := m.dests.filter (· != dest) }
      if m.ce then s1.deliverTo dest core 3 m m.out else s1
    else s

def execMulticastDestComplete (core dest : Nat) (s : State) : Host.Outcome State Fault Refusal := .next (multicastDest core dest s)

end Sys2Proof.Machine
end

