-- ==== Sys2Proof/Machine/System.lean ====
section
/-!
DEFINITION. The system instructions (spec 14 R327 to R340): system registers, `setovf`, `trap`, `tret`, `cresume`,
translation and reflection invalidation; and the window instructions of the control subset (spec 13 R319).
-/
namespace Sys2Proof.Machine

/-! ### System registers (R328 to R330) -/

/-- The context whose registers XC and CX name. -/
def State.srCtx (s : State) (xc : BitVec 1) (cx : BitVec 2) : Nat := if sel xc then cx.toNat else s.curCtx

/-- Registers that are written only (R328). -/
def writeOnly (r : Nat) : Bool := decide (r = 0x26 ∨ r = 0x27)

/-- `mfsr` (R330). A register that is written only gives a free value (DESIGN CHOICE, assumption 33). -/
def execMfsr (f : FMf) (s : State) : Host.Outcome State Fault Refusal :=
  let r := f.srn.toNat
  guard { p := f.p.toNat, undef := srnBad r, sys := !progReads r, dst := [f.reg.toNat] } s (fun s =>
    if sel f.xc && !(s.curCtx == 3 && s.cur.sys) then trapCur 0x27 s
    else if writeOnly r then let (x, s1) := s.draw; setS f.reg.toNat (fun _ => dw x) s1
    else setS f.reg.toNat (fun _ => dw (s.readSrn s.curCore (s.srCtx f.xc f.cx) r)) s)

/-- `mtsr` (R330). -/
def execMtsr (f : FMt) (s : State) : Host.Outcome State Fault Refusal :=
  let r := f.srn.toNat
  guard { p := f.p.toNat, undef := srnBad r, sys := !progReads r || (sysWrites r && !progWrites r), src := [(f.reg.toNat, sel f.fr)] } s
    (fun s =>
      let x := s.srCtx f.xc f.cx
      let st := (s.ctx s.curCore x).state
      if sel f.xc && !(s.curCtx == 3 && s.cur.sys && (st == .idle || st == .stopped)) then trapCur 0x27 s
      else if !sysWrites r then trapCur 0x27 s
      else match s.writeSrn s.curCore x r (s.cur.rd f.reg.toNat).toNat with
        | .ok s1 => fall 1 s1
        | .illegal => trapCur 0x27 s
        | .wait => blockCur s)

/-- An overflow table is legal: bits 63:32 are zero and no entry is 3 (R337). -/
def ovfLegal (v : Nat) : Bool := decide (v < 2 ^ 32) && (List.range 16).all (fun i => field v (2 * i) 2 != 3)

/-- `setovf` (R337). -/
def execSetovf (f : FJ) (s : State) : Host.Outcome State Fault Refusal :=
  guard { p := f.p.toNat, sys := true, src := [(f.a.toNat, sel f.fa)] } s (fun s =>
    let v := s.cur.rd f.a.toNat
    if !ovfLegal v.toNat then trapCur 0x27 s
    else if !(s.core s.curCore).engDone s.curCtx then blockCur s
    else fall 1 (s.onCur (fun c => { c with ovftab := v })))

/-! ### Traps (R335 to R337) -/

/-- `trap code` (R333, R337): TPC names the instruction after it. -/
def execTrap (f : FTrap) (s : State) : Host.Outcome State Fault Refusal :=
  guard { p := f.p.toNat } s (fun s =>
    let r := s.plainRec 0x33 f.code.toNat
    let next := s.cur.pc + 4
    ((s.onCur (fun c => { c with pc := next, pfx := {}, st := .running })).ownTrap s.curCore s.curCtx r next).onCur
      (fun c => { c with trapAt := s.cur.group }))

/-- Commands of a context that stand stopped on a fault go on (R47, R335). -/
def State.resumeCmds (s : State) (core ctx : Nat) : State :=
  s.modCore core (fun c => { c with engs := c.engs.map (fun e =>
    (e.1, { e.2 with cmds := e.2.cmds.map (fun m => if field (m.entry.getD 6 0) 0 2 = ctx then { m with fault := false } else m) })) })

/-- `tret` (R335). -/
def execTret (f : FN0) (s : State) : Host.Outcome State Fault Refusal :=
  guard { p := f.p.toNat, sys := true } s (fun s =>
    if !s.cur.intrap then trapCur 0x27 s
    else ((s.onCur (fun c => s.pastTrap c.ret)).resumeHeld s.curCore s.curCtx).resumeCmds s.curCore s.curCtx)

/-- `cresume` (R336): c3 only; not for a context stopped by a double trap or by a halt at a cut (DEDUCED, assumption 72).
The turn-back of a word the context trapped on is examined as it resumes past it (R252), and a watermark as in R75. -/
def execCresume (f : FCr) (s : State) : Host.Outcome State Fault Refusal :=
  guard { p := f.p.toNat, sys := true } s (fun s =>
    let x := f.cn.toNat
    let c := s.ctx s.curCore x
    if s.curCtx ≠ 3 ∨ c.state ≠ .stopped ∨ c.why = .double ∨ c.why = .cut then trapCur 0x27 s
    else if !s.cur.drained then blockCur s
    else
      let s1 := s.modCtx s.curCore x (fun c =>
        if c.st = .stopped then s.pastTrap { c with st := c.preSt, why := .none } else { c with landed := none })
      fall 1 ((s1.resumeHeld s.curCore x).resumeCmds s.curCore x))

/-! ### Invalidation of translations (R34, R339) -/

/-- What a `tinval` names. -/
inductive Inval where
  | page (va : Nat) (spaceid : BitVec 16)
  | space (spaceid : BitVec 16)
  | all
  deriving DecidableEq, Repr

/-- A translation is one an invalidation discards. -/
def Inval.hits (i : Inval) (pen : Nat) (t : Tlb) : Bool := t.pen == pen &&
  match i with
  | .page va sp => (t.glob || t.spaceid == sp) && decide (t.vbase ≤ va ∧ va < t.vbase + t.size)
  | .space sp => !t.glob && t.spaceid == sp
  | .all => true

/-- A translation serves n bytes at an address of a space. -/
def Tlb.serves (t : Tlb) (spaceid : BitVec 16) (va n : Nat) : Bool := (t.glob || t.spaceid == spaceid) && overlaps va (max n 1) t.vbase t.size

/-- An access was made through a translation: in the space it was issued in, and by an exact-sum merge of its source too. -/
def Acc.through (a : Acc) (t : Tlb) : Bool :=
  a.spc == 0 && !a.isOrder && (t.serves a.spaceid a.va a.len || (a.op == .xmerge && a.phase == 0 && t.serves a.spaceid a.data2 64))

/-- A context's chain stands parked on a write-blocked page: it has no translation, and makes one again when it wakes (R42). -/
def State.chainParked (s : State) (core ctx : Nat) (a : Acc) : Bool :=
  s.fchains.any (fun c => c.isCtx && c.core == core && c.ctx == ctx && c.seq == a.seq && c.wblk.isSome)

/-- Every access of the pen that used a discarded translation has completed (R34): of its contexts, and of vector commands that have
translated their elements, in the space that they translated them in. A parked writer waits for none of it. -/
def State.invalDone (s : State) (pen : Nat) (ts : List Tlb) : Bool :=
  s.cores.all (fun c => (s.penOf c.1).getD 16 != pen ||
    (c.2.ctxs.all (fun x => x.2.pend.all (fun a => a.performed || !ts.any a.through || s.chainParked c.1 x.1 a)) &&
     c.2.engs.all (fun e => e.2.cmds.all (fun m => m.places.all (fun p =>
       !ts.any (fun t => t.serves m.spaceid p.va (segBytes p.segs)))))))

/-- A parked writer's address lies in the range an invalidation covers (R42). The page that `tinval.pg` names is the one that holds the
address as its entries stand now, and one of 4 KiB where they hold no leaf any more, which the spec leaves open (DESIGN CHOICE,
assumption 94). -/
def Inval.covers (i : Inval) (s : State) (sp : Space) (p : Park) : Bool := match i with
  | .all => true
  | .space x => sp.spaceid == x
  | .page va x => (match s.walk sp p.va with
    | .leaf e _ _ =>
      let n := pageBytes (field e 10 2)
      (sp.spaceid == x || field e 4 1 == 1) && va / n == p.va / n
    | .bad _ _ => sp.spaceid == x && va / 4096 == p.va / 4096)

/-- Wake the parked writers of a pen: each translates again when its turn comes. They are contexts, engine commands, chains, arrivals,
writes of save areas and the distributor's (R42). -/
def State.wakeParked (s : State) (pen : Nat) (i : Inval) : State :=
  let wake := fun (sp : Space) (w : Option Park) => w.map (fun p => if p.parked && i.covers s sp p then { p with parked := false, woken := true } else p)
  { s with
    cores := s.cores.map (fun c =>
      if (s.penOf c.1).getD 16 ≠ pen then c
      else (c.1, { c.2 with
        pre := c.2.pre.map (fun p => { p with wblk := wake (s.preSpace c.1 p) p.wblk }),
        ctxs := c.2.ctxs.map (fun x => (x.1, { x.2 with wblk := wake x.2.space x.2.wblk })),
        engs := c.2.engs.map (fun e => (e.1, { e.2 with cmds := e.2.cmds.map (fun m =>
          { m with wblk := wake (c.2.ctx (field (m.entry.getD 6 0) 0 2)).space m.wblk }) })) }))
    fchains := s.fchains.map (fun c =>
      if (s.penOf c.core).getD 16 ≠ pen then c else { c with wblk := wake (s.ctx c.core c.ctx).space c.wblk })
    arrs := s.arrs.map (fun a => if (s.penOf a.pkt.target.1).getD 16 ≠ pen then a else { a with wblk := wake (s.arrSpace a.pkt) a.wblk })
    insts := s.insts.map (fun i => if i.pen ≠ pen then i else { i with wblk := wake (i.space (s.pen pen).conf) i.wblk })
    pens := s.pens.map (fun p => if p.1 ≠ pen then p else
      (p.1, { p.2 with refusing := p.2.refusing.map (fun r => (r.1, r.2.1, (wake p.2.hostSpace (some r.2.2)).getD r.2.2)) })) }

/-- An invalidation: after the context's earlier accesses, and once every access that used a discarded translation is
complete, the pen's translations go on every die, its walks under way begin again, results that no access has used yet are dropped, and
the parked writers it covers wake. -/
def invalCur (i : Inval) (s : State) : State :=
  let pen := (s.penOf s.curCore).getD 16
  let ts := s.tlb.filter (i.hits pen)
  if !s.cur.drained || !s.invalDone pen ts then blockCur s
  else fall 1 (({ s with tlb := s.tlb.filter (fun t => !i.hits pen t),
                         walks := dropWalks pen s.walks } : State).wakeParked pen i)

/-- `tinval.pg` (R339). -/
def execTinvalPg (f : FAB) (s : State) : Host.Outcome State Fault Refusal :=
  guard { p := f.p.toNat, sys := true, src := [(f.a.toNat, sel f.fa), (f.b.toNat, sel f.fb)] } s (fun s =>
    invalCur (.page (s.cur.rd f.a.toNat).toNat ((s.cur.rd f.b.toNat).setWidth 16)) s)

/-- `tinval.sp` (R339). -/
def execTinvalSp (f : FB1) (s : State) : Host.Outcome State Fault Refusal :=
  guard { p := f.p.toNat, sys := true, src := [(f.b.toNat, sel f.fb)] } s (fun s =>
    invalCur (.space ((s.cur.rd f.b.toNat).setWidth 16)) s)

/-- `tinval.all` (R339). -/
def execTinvalAll (f : FN0) (s : State) : Host.Outcome State Fault Refusal :=
  guard { p := f.p.toNat, sys := true } s (invalCur .all)

/-! ### Invalidation of reflections (R340) -/

/-- Entries of the pen that a test picks go, and its running pure instances that the test picks make none: one runs from the assignment of
its first step, unless a breakpoint holds it (R341, R393). -/
def State.rfDrop (s : State) (core : Nat) (hit : List (Nat × Nat) → Bool) : State :=
  match s.penOf core with
  | none => s
  | some pn =>
    let p := s.pen pn
    let s1 := s.setPen pn { p with refl := p.refl.filter (fun e => !hit (e.ins ++ e.watch)) }
    { s1 with insts := s1.insts.map (fun i => if i.pen = pn ∧ i.pure ∧ i.assigned ∧ !i.brkHeld ∧ hit (i.ins ++ i.watch) then { i with spoiled := true } else i) }

/-- `rfinv` (R340). -/
def execRfinv (f : FAB) (s : State) : Host.Outcome State Fault Refusal :=
  guard { p := f.p.toNat, src := [(f.a.toNat, sel f.fa), (f.b.toNat, sel f.fb)] } s (fun s =>
    let a := (s.cur.rd f.a.toNat).toNat
    let n := (s.cur.rd f.b.toNat).toNat
    fall 1 (s.rfDrop s.curCore (fun rs => n != 0 && rs.any (fun r => overlaps a n r.1 r.2))))

/-- `rfclr` (R340). -/
def execRfclr (f : FN0) (s : State) : Host.Outcome State Fault Refusal :=
  guard { p := f.p.toNat } s (fun s => fall 1 (s.rfDrop s.curCore (fun _ => true)))

/-! ### Windows (R319, R126) -/

/-- Counters of a window (R122); a window never registered counts 0. -/
def Core.wseen (c : Core) (n : Nat) : Dword := (mget ⟨0, 0, 0, 0, 0, false⟩ c.iwin n).seen
def Core.wsent (c : Core) (n : Nat) : Dword := (mget ⟨0, 0, 0, 0, 0, false⟩ c.iwin n).sent
def Core.wland (c : Core) (n : Nat) : Dword := (mget ⟨0, 0, 0, 0, 0, 0, 0, false⟩ c.twin n).land

/-- A wait on a counter: it passes at or above the operand; beyond a decided L it has no effect (R153). -/
def wwaitCur (count op : Dword) (s : State) : State :=
  if op ≤ count ∨ s.cutDrops s.curCore s.curCtx s.cur.k then fall 1 s else blockCur s

/-- `wwait.seen` (R319). -/
def execWwaitSeen (f : FWw) (s : State) : Host.Outcome State Fault Refusal :=
  guard { p := f.p.toNat, src := [(f.a.toNat, sel f.fa)] } s (fun s =>
    wwaitCur ((s.core s.curCore).wseen f.win.toNat) (s.cur.rd f.a.toNat) s)

/-- `wwait.land` (R319). -/
def execWwaitLand (f : FWw) (s : State) : Host.Outcome State Fault Refusal :=
  guard { p := f.p.toNat, src := [(f.a.toNat, sel f.fa)] } s (fun s =>
    wwaitCur ((s.core s.curCore).wland f.win.toNat) (s.cur.rd f.a.toNat) s)

/-- `wread.sent` (R319) (DEDUCED, assumption 44). -/
def execWreadSent (f : FWr) (s : State) : Host.Outcome State Fault Refusal :=
  guard { p := f.p.toNat, dst := [f.d.toNat] } s (setS f.d.toNat (fun _ => (s.core s.curCore).wsent f.win.toNat))

/-- `wread.seen` (R319). -/
def execWreadSeen (f : FWr) (s : State) : Host.Outcome State Fault Refusal :=
  guard { p := f.p.toNat, dst := [f.d.toNat] } s (setS f.d.toNat (fun _ => (s.core s.curCore).wseen f.win.toNat))

/-- `wread.land` (R319). -/
def execWreadLand (f : FWr) (s : State) : Host.Outcome State Fault Refusal :=
  guard { p := f.p.toNat, dst := [f.d.toNat] } s (setS f.d.toNat (fun _ => (s.core s.curCore).wland f.win.toNat))

end Sys2Proof.Machine
end

