-- ==== Sys2Proof/Machine/FabRun.lean ====
section
/-!
DEFINITION. Running the commands of the fabric engine (spec 13, R318 to R325; spec 04 R122 to R128; spec 05 R140 to R143):
windows, puts, gets, remote atomics, chained loads into memory, collectives, and the events of their packets (spec 21 R403,
R404; spec 15 R367). A packet is named by its place in the list of packets in flight.
-/
namespace Sys2Proof.Machine

def winMask : Nat := 64
def Cmd.win (m : Cmd) : Nat := field m.esp 4 6

def Core.iwin? (c : Core) (n : Nat) : Option IWin :=
  match c.iwin.find? (fun p => p.1 == n) with
  | some p => if p.2.opened then some p.2 else none
  | none => none

/-- An unfinished fabric command names a window (R318). -/
def Eng.usesWin (g : Eng) (before n : Nat) : Bool :=
  g.sent.any (fun m => m.win == n) ||
    g.cmds.any (fun m => !m.ended && decide (m.idx < before) && decide (0x70 ≤ m.major ∧ m.major ≤ 0x72) && m.win == n)

/-! ### Local sides and their order (R94) -/

/-- Local bytes a command reads: (space, address, length). -/
def Cmd.localIn (m : Cmd) : Option (Nat × Nat × Nat) :=
  if m.major = 0x70 ∧ m.fn = 0 then some (field m.esp 2 2, m.opb, m.opc)
  else if m.major = 0x74 then some (0, m.opb, m.opc % 2 ^ 52) else none

/-- Local bytes a command writes. -/
def Cmd.localOut (m : Cmd) : Option (Nat × Nat × Nat) :=
  if m.major = 0x70 ∧ m.fn = 1 then some (field m.esp 2 2, m.opa, m.opc)
  else if m.major = 0x71 ∧ field m.esp 0 1 = 1 then some (field m.esp 2 2, m.opa, if field m.esp 1 1 = 1 then 8 else 4)
  else if m.major = 0x73 then some (field m.esp 8 2, m.opa, field m.esp 0 6 + 1)
  else if m.major = 0x74 then some (0, m.opa, m.opc % 2 ^ 52) else none

/-- A command reads locally, and has read all that it reads: a chain when its value is there. -/
def Cmd.reads (m : Cmd) : Bool := m.localIn.isSome || m.major == 0x73
def Cmd.readDone (m : Cmd) : Bool := if m.major = 0x73 then m.ok else m.sent

/-- Local bytes of one command meet those of another of the same engine: of one space, and in the global space as they are mapped. -/
def State.meet (s : State) (core : Nat) (m : Cmd) (x : Option (Nat × Nat × Nat)) (b : Cmd) (y : Option (Nat × Nat × Nat)) : Bool :=
  match x, y with
  | some (i, a, n), some (j, c, k) =>
    i == j && (if i = 0 then (s.peekSegs (s.cmdSpace core m) a n).any (fun g =>
        (s.peekSegs (s.cmdSpace core b) c k).any (fun h => overlaps g.1 g.2 h.1 h.2))
      else overlaps a n c k)
  | _, _ => false

/-- A command may take its next part: its reads follow the reads of the commands before it, its writes their writes, and
common bytes keep ring order (R85, R86, R94). A chain's bytes are known as it goes: its steps see to the writes before it, and global
writes after it wait for its end. -/
def State.mayGo (s : State) (core : Nat) (m : Cmd) (before : List Cmd) : Bool :=
  before.all (fun b => b.ended ||
    (if !m.sent then !(m.reads && b.reads && !b.readDone) && !s.meet core m m.localIn b b.localOut
     else !(m.localOut.isSome && b.localOut.isSome) &&
       (b.readDone || !(s.meet core m m.localOut b b.localIn || (b.major == 0x73 && m.localOut.any (fun o => o.1 == 0))))))

/-! ### Sending -/

def State.send (s : State) (p : Pkt) : State := { s with net := s.net ++ [p] }

/-- Advance WSENT, or WSEEN, of a window (R122). -/
def State.addSent (s : State) (core win n : Nat) : State :=
  s.modCore core (fun c => match c.iwin? win with
    | some w => { c with iwin := mset c.iwin win { w with sent := w.sent + dw n } }
    | none => c)
def State.addSeen (s : State) (core win n : Nat) : State :=
  s.modCore core (fun c => match c.iwin? win with
    | some w => { c with iwin := mset c.iwin win { w with seen := w.seen + dw n } }
    | none => c)
def State.addLand (s : State) (core win n : Nat) : State :=
  s.modCore core (fun c => match c.twin? win with
    | some w => { c with twin := mset c.twin win { w with land := w.land + dw n } }
    | none => c)

/-- A put, or a part of one, waits to be counted by WSEEN. -/
def State.noteSent (s : State) (core : Nat) (m : Cmd) : State :=
  let g := s.eng core 4
  s.setEng core 4 { g with sent := g.sent ++ [m] }

/-- Read n bytes as far as they can be read: the value, how many bytes, and what stopped it. -/
def State.readSome (s : State) (w : Who) (sp : Space) (spc va n : Nat) : Nat × Nat × Got :=
  if n = 0 then (0, 0, .ok 0 s)
  else match s.eread w sp spc va n with
    | .ok v s1 => (v, n, .ok v s1)
    | .fault f s1 =>
      let k := if va < f.addr ∧ f.addr < va + n then f.addr - va else 0
      if k = 0 then (0, 0, .fault f s1)
      else (match s1.eread w sp spc va k with
        | .ok v s2 => (v, k, .fault f s2)
        | _ => (0, 0, .fault f s1))
    | .wait a s1 => (0, 0, .wait a s1)

/-- Read what is left of a command's local source, each unit once, as far as this run goes (R105, R320). What a fault leaves behind is
`short`'s: the bytes before it have been read (R15, R32). -/
def State.source (s : State) (core : Nat) (m : Cmd) (spc va n : Nat) (short : State → Cmd → State × Cmd) (k : State → Nat → Eff) : Eff :=
  let a := (va + m.done) % 2 ^ 64
  let rest := n - m.done
  let part := match m.budget with
    | none => rest
    | some j => min rest (8 * (a / 8 + j) - a)
  let (v, j, r) := s.readSome (s.whoCmd core 4 m) (s.cmdSpace core m) spc a part
  let all := m.shape.headD 0 + v * 2 ^ (8 * m.done)
  let m1 := { m with done := m.done + j, shape := [all] }
  match r with
  | .ok _ s1 => if m1.done < n then .wait s1 m1 else k s1 all
  | .fault f s1 => let (s2, m2) := short s1 m1; .fault s2 m2 f kRead m1.done (n - m1.done) (va + n - 1)
  | .wait x s1 => s1.stallCmd core m1 x kRead (n - m1.done) m1.done (va + n - 1)

/-- A put, a remote atomic or a collective is a held effect; its step is committed when it is sent (R146, R147). -/
def State.fabHeld (s : State) (core : Nat) (m : Cmd) : Bool := s.held core m.ctx m.key != .ok

/-- Bytes of a put's source go to its window, from those that have gone before on (`out`). Its counters count the whole put, with the last of
its bytes (R122). The put is committed as the first of them go (R146, R147). -/
def State.sendPut (s : State) (core : Nat) (m : Cmd) (iw : IWin) (upto : Nat) : State × Cmd :=
  if upto ≤ m.out then (s, m)
  else
    let bytes := ((bytesOf upto (m.shape.headD 0)).drop m.out).map (BitVec.ofNat 8)
    let s1 := s.purity (s.whoCmd core 4 m) (s.cmdSpace core m) .never kRead (m.opb + m.out) (upto - m.out) []
    let cnt := if upto < m.opc then 0 else m.opc
    let s2 := (s1.commit core m.ctx m.key).send (.put s.nextPkt core m.idx iw.pkg iw.core iw.win (m.opa + m.out) bytes cnt)
    ((({ s2 with nextPkt := s2.nextPkt + 1 } : State).addSent core m.win cnt).noteSent core { m with val := cnt }, { m with out := upto })

/-- `put` (R320): the source is read once, then the packet goes; WSENT counts it and the gate is raised. The bytes before a fault of the
source are transferred, and the rest go when the command is resumed (R15, R32, R47); the counters count none of them before the rest. -/
def State.runPut (s : State) (core : Nat) (m : Cmd) : Eff :=
  let n := m.opc
  let spc := field m.esp 2 2
  match (s.core core).iwin? m.win with
  | none => .bad s
  | some iw =>
    if field m.esp 0 2 ≠ 0 ∨ 2 ^ 24 < n then .bad s
    else if n = 0 then .done s 0 0 none
    else if !s.reachable (dieOf core) iw.pkg then .refuse s ⟨0x24, 0, 7⟩ kRead 0 n
    else if s.fabHeld core m then .wait s m
    else s.source core m spc m.opb n (fun s m => s.sendPut core m iw m.done)
      (fun s all => .done (s.sendPut core { m with shape := [all] } iw n).1 0 0 none)

/-- Units to write: (address, bytes, bytes of the value before them). -/
abbrev Outs := List (Nat × Nat × Nat)

/-- Write units locally, in turn: the bytes done, and what stopped it. -/
def State.writeUnits (s : State) (w : Who) (sp : Space) (spc v : Nat) (log : Bool) : Outs → Nat → Nat × Got
  | [], done => (done, .ok 0 s)
  | (a, n, off) :: l, done =>
    match s.ewrite w sp spc a n (v / 2 ^ (8 * off) % 2 ^ (8 * n)) log with
    | .ok _ s1 => s1.writeUnits w sp spc v log l (done + n)
    | .fault f s1 =>
      let k := if a < f.addr ∧ f.addr < a + n then f.addr - a else 0
      if k = 0 then (done, .fault f s1)
      else (match s1.ewrite w sp spc a k (v / 2 ^ (8 * off) % 2 ^ (8 * k)) log with
        | .ok _ s2 => (done + k, .fault f s2)
        | _ => (done, .fault f s1))
    | g => (done, g)

/-- Write bytes locally from those already written on, as far as this run goes; the command's end is `fin`. -/
def State.writeLocal (s : State) (core : Nat) (m : Cmd) (spc va n v : Nat) (log : Bool) (fin : State → Eff) : Eff :=
  let a := va + m.done
  let todo : Outs := (unitsOf (n / 8 + 2) a (n - m.done) 0).map (fun u => ((a + u.1) % 2 ^ 64, u.2, m.done + u.1))
  let now := match m.budget with
    | none => todo
    | some k => todo.take k
  let (done, r) := s.writeUnits (s.whoCmd core 4 m) (s.cmdSpace core m) spc v log now m.done
  let m1 := { m with done := done }
  match r with
  | .ok _ s1 => if done < n then .wait s1 m1 else fin s1
  | .fault f s1 => .fault s1 m1 f kWrite done (n - done) (va + n - 1)
  | .wait x s1 => s1.stallCmd core m1 x kWrite (n - done) done (va + n - 1)

/-- `get` (R320): the request goes; the reply's bytes are written locally. -/
def State.runGet (s : State) (core : Nat) (m : Cmd) : Eff :=
  let n := m.opc
  match (s.core core).iwin? m.win with
  | none => .bad s
  | some iw =>
    if field m.esp 0 2 ≠ 0 ∨ 2 ^ 24 < n then .bad s
    else if n = 0 then .done s 0 0 none
    else if m.ok then s.writeLocal core m (field m.esp 2 2) m.opa n (m.shape.headD 0) true (fun s => .done s 0 n none)
    else if m.sent then .wait s m
    else if !s.reachable (dieOf core) iw.pkg then .refuse s ⟨0x24, 0, 7⟩ kRead 0 n
    else .wait { s with nextPkt := s.nextPkt + 1, net := s.net ++ [Pkt.getReq s.nextPkt core m.idx iw.pkg iw.core iw.win m.opb n] }
      { m with sent := true }

/-- Remote atomics (R321): both operands are sent; the reply carries the old value, whose write is part of the held effect and is not
logged (R146). -/
def State.runRamo (s : State) (core : Nat) (m : Cmd) : Eff :=
  let n := if field m.esp 1 1 = 1 then 8 else 4
  let ret := field m.esp 0 1 = 1
  match (s.core core).iwin? m.win with
  | none => .bad s
  | some iw =>
    if 8 < m.fn ∨ (ret ∧ m.sa = 0) ∨ (¬ ret ∧ !m.noA) then .bad s
    else if m.ok then
      if ret then s.writeLocal core m (field m.esp 2 2) m.opa n m.val false (fun s => .done s 0 0 none) else .done s 0 0 none
    else if m.sent then .wait s m
    else if !s.reachable (dieOf core) iw.pkg then .refuse s ⟨0x24, 0, 7⟩ kRmw 0 n
    else if s.fabHeld core m then .wait s m
    else
      let s1 := (s.purity (s.whoCmd core 4 m) (s.cmdSpace core m) .never kRmw m.opb n []).commit core m.ctx m.key
      let s2 := s1.send (.ramo core m.idx iw.pkg iw.core iw.win m.opb m.fn n (m.opc % 2 ^ (8 * n)))
      .wait (s2.addSent core m.win n) { m with sent := true }

/-- Window registration (R318). -/
def State.runWin (s : State) (core : Nat) (m : Cmd) : Eff :=
  let c := s.core core
  let sp := s.cmdSpace core m
  if field m.esp 0 4 ≠ 0 ∨ !m.noC then .bad s
  else match m.fn with
    | 0 => if m.opb = 0 ∨ 2 ^ 40 < m.opb then .bad s
      else .done (s.setCore core { c with twin := mset c.twin m.win ⟨m.opa, m.opb, sp.spaceid, sp.wb0, sp.wb1, m.ctx, 0, true⟩ }) 0 0 none
    | 1 => if !m.noB ∨ m.opa / 2 ^ 32 ≠ 0 then .bad s
      else .done (s.setCore core { c with iwin := mset c.iwin m.win ⟨field m.opa 0 16, field m.opa 16 10, field m.opa 26 6, 0, 0, true⟩ }) 0 0 none
    | 2 => if !m.noA ∨ !m.noB then .bad s
      else .done (s.setCore core { c with
          twin := c.twin.map (fun p => if p.1 = m.win then (p.1, { p.2 with opened := false }) else p),
          iwin := c.iwin.map (fun p => if p.1 = m.win then (p.1, { p.2 with opened := false }) else p) }) 0 0 none
    | _ => .bad s

/-! ### Chained loads (R129 to R134, R323) -/

/-- All of n bytes can be written locally: the fault that stops one of them, or what they wait for (R32, R133). -/
def State.mayWrite (s : State) (w : Who) (sp : Space) (spc va n : Nat) : Got :=
  let (x, s1) := s.locate w sp kWrite false spc va n
  match s1.preAccess w x false with
  | .ok _ s2 => (match if spc = 0 then s2.refusal w.core true (partsOf x.segs) va else none with
    | some (a, cls) => .fault ⟨cls, a, 7⟩ s2
    | none => if spc = 0 ∧ field x.leaf 8 2 ≠ 0 then .ok 0 s2 else match s2.logWrite w.core w.ctx spc w.inst w.key x.segs with
      | .ok s3 => .ok 0 s3
      | .stall => .wait none s2
      | .full l => .fault ⟨0x2F, fullAt va x.segs l, 7⟩ s2)
  | g => g

/-- `fchain`: the chain starts on the requester's die; its reply is written locally in units, of which none is written where one of them
cannot be (R84, R133, R323). -/
def State.runFchain (s : State) (core : Nat) (m : Cmd) : Eff :=
  let n := field m.esp 0 6 + 1
  if m.fn ≠ 0 then .bad s
  else if m.ok then
    match if m.done = 0 then s.mayWrite (s.whoCmd core 4 m) (s.cmdSpace core m) (field m.esp 8 2) m.opa n else .ok 0 s with
    | .ok _ s1 => s1.writeLocal core m (field m.esp 8 2) m.opa n m.val true (fun s => .done s 0 n none)
    | .fault f s1 => .fault s1 m f kWrite 0 n (m.opa + n - 1)
    | .wait x s1 => s1.stallCmd core m x kWrite n 0 (m.opa + n - 1)
  else if m.sent then .wait s m
  else
    let c : FChain := { id := s.nextPkt, core := core, isCtx := false, ctx := m.ctx, seq := m.idx, step := 0, addr := m.opb, die := dieOf core }
    .wait { s with nextPkt := s.nextPkt + 1, fchains := s.fchains ++ [c] } { m with sent := true }

/-- What a chain is: its agent, space, steps less one, offsets, its final step and the operand. -/
structure ChainEnv where
  w : Who
  sp : Space
  ns : Nat
  offs : Nat
  fin : Nat
  len : Nat
  opnd : Nat
  deriving DecidableEq, Repr

def State.chainEnv (s : State) (c : FChain) : Option ChainEnv :=
  if c.isCtx then (findAcc c.seq (s.ctx c.core c.ctx).pend).bind (fun r => match r.2.op with
    | .chain fin ns =>
      let w := { s.whoCtx c.core c.ctx r.2.pc.toNat with eng := 5, letter := 61, inst := r.2.inst, key := r.2.key, die := some c.die }
      some ⟨w, s.accSpace c.core c.ctx r.2, ns, r.2.data, fin, r.2.len, r.2.data2⟩
    | _ => none)
  else ((s.eng c.core 4).cmds.find? (fun m => m.idx == c.seq)).map (fun m =>
    ⟨{ s.whoCmd c.core 4 m with eng := 5, letter := 61, die := some c.die }, s.cmdSpace c.core m, field m.esp 6 2, m.opc, 3, field m.esp 0 6 + 1, 0⟩)

def State.dropChain (s : State) (id : Nat) : State := { s with fchains := s.fchains.filter (fun c => c.id != id) }

/-- A chain as it goes on. -/
def State.putChain (s : State) (c : FChain) : State := { s with fchains := s.fchains.map (fun d => if d.id = c.id then c else d) }

/-- A step faults: the chain ends with one record, and the destination is full with its old value (R133). -/
def State.chainFault (s : State) (c : FChain) (v : ChainEnv) (kind n : Nat) (f : Flt) : State :=
  let r := { v.w.frec v.sp kind n f with chainstep := c.step, remhi := c.addr + n - 1 }
  let s1 := s.dropChain c.id
  if c.isCtx then (match findAcc c.seq (s.ctx c.core c.ctx).pend with
    | some (_, a) => s1.accTrap c.core c.ctx a r
    | none => s1)
  else match (s.eng c.core 4).cmds.find? (fun m => m.idx == c.seq) with
    | some m => (s1.pendTrap c.core m.ctx r).leaveRing c.core 4 m
    | none => s1

/-- The chain's final value reaches its requester. -/
def State.chainEnd (s : State) (c : FChain) (x : Nat) : State :=
  let s1 := s.dropChain c.id
  if c.isCtx then (match findAcc c.seq (s.ctx c.core c.ctx).pend with
    | some (_, a) => s1.reply c.core c.ctx a x
    | none => s1)
  else s1.modCore c.core (fun k =>
    let g := k.eng 4
    k.setEng 4 { g with cmds := g.cmds.map (fun m => if m.idx = c.seq then { m with ok := true, val := x } else m) })

/-- A chain ends without a result, for a step beyond a decided L (R153). -/
def State.chainLost (s : State) (c : FChain) : State :=
  let s1 := s.dropChain c.id
  if c.isCtx then (match findAcc c.seq (s.ctx c.core c.ctx).pend with
    | some (_, a) => s1.endAcc c.core c.ctx a
    | none => s1)
  else match (s.eng c.core 4).cmds.find? (fun m => m.idx == c.seq) with
    | some m => s1.leaveRing c.core 4 m
    | none => s1

/-- An access of a chain step on the die it stands on: translation, a route for the last step's reply, the table of the requester's
master, errors (R79, R130, R132, R404). -/
def State.chainAt (s : State) (v : ChainEnv) (kind n va : Nat) (last : Bool) : Xl × Option Flt × State :=
  let (x, s1) := s.xlate v.sp v.w kind (kind == kRmw) va n
  if x.busy then (x, none, s1)
  else match x.flt with
  | some f => (x, some f, s1)
  | none =>
    if last && x.segs.any (fun g => !s1.routed (homeDie g.1) (dieOf v.w.core)) then (x, some ⟨0x24, va, 7⟩, s1)
    else match x.segs.findSome? (fun g => s1.targetCheck v.w.core g.1 g.2 (kind == kRmw)) with
    | some cls => (x, some ⟨cls, va, 7⟩, s1)
    | none => (x, if x.segs.any (fun g => s1.badAt g.1 g.2) then some ⟨0x32, va, 7⟩ else none, s1)

/-- An older access of the requester to bytes of a step, which writes or not, is not yet performed: of its context, or a write of a command
of its engine (R86, R94). -/
def State.chainWaits (s : State) (c : FChain) (writes : Bool) (segs : List (Nat × Nat)) : Bool :=
  let on := fun (l : List (Nat × Nat)) => l.any (fun x => segs.any (fun y => overlaps x.1 x.2 y.1 y.2))
  if c.isCtx then (match findAcc c.seq (s.ctx c.core c.ctx).pend with
    | some (older, _) => older.any (fun b => !b.performed && b.spc == 0 && (on (b.segs ++ b.segs2) || s.chainMeets c.core c.ctx b writes segs))
    | none => false)
  else (s.eng c.core 4).cmds.any (fun b => !b.ended && decide (b.idx < c.seq) && (match b.localOut with
    | some (0, va, n) => on (s.peekSegs (s.cmdSpace c.core b) va n)
    | _ => false))

/-- The final atomic of a chain is performed (R131, R278). -/
def State.chainAmo (s : State) (c : FChain) (v : ChainEnv) (x : Xl) (old : Nat) : State :=
  ((s.wrSegs v.w.core 0 x.segs (amoNew (if v.fin = 4 then 0 else 8) 64 old v.opnd 0)).commit c.core v.w.ctx v.w.key).wrote
    v.w.core v.sp x.leaf c.addr 8 x.segs

/-- A chain's final load at a physical address: the whole of it where it is single-copy atomic, else some of the units that are left, as
they come; a context's are its bytes, an engine's its aligned units of 8 (R84, R105). With the last of them the value goes back. -/
def State.chainLoad (s : State) (c : FChain) (v : ChainEnv) (pa : Nat) : State :=
  let atoms := if c.isCtx then atomsOf [(pa, v.len)] else (unitsOf (v.len / 8 + 2) pa v.len 0).map (fun u => [(pa + u.1, u.2)])
  let left := (List.range atoms.length).filter (fun i => !c.units.contains i)
  let (x, s1) := if atoms.length ≤ 1 then (1, s) else s.draw
  let now := left.filter (fun i => x / 2 ^ i % 2 == 1)
  if now.any (fun i => (atoms.getD i []).any (fun g => s1.badAt g.1 g.2)) then s1.chainFault c v kRead v.len ⟨0x32, c.addr, 7⟩
  else
    let got := c.got ++ now.map (fun i => (i, s1.rdSegs v.w.core 0 (atoms.getD i [])))
    if now.length < left.length then s1.putChain { c with pa := some pa, units := c.units ++ now, got := got }
    else s1.chainEnd c ((List.range atoms.length).foldl (fun a i => a + mget 0 got i * 2 ^ (8 * segBytes (atoms.take i).flatten)) 0)

/-- One step of a chain (R129 to R134). A final atomic that meets WBLK parks on the die it stands on (R42). -/
def State.chainStep (s : State) (c : FChain) (v : ChainEnv) : State :=
  let last := decide (c.step = v.ns)
  let atomic := last && decide (4 ≤ v.fin)
  let n := if !last then 8 else if atomic then 8 else v.len
  let kind := if atomic then kRmw else kRead
  let bad := if !last ∨ atomic then c.addr % 8 ≠ 0 else c.addr % 64 + n > 64
  if c.pa.isSome then s.chainLoad c v (c.pa.getD 0)
  else if bad then s.chainFault c v kind n ⟨0x29, c.addr, 7⟩
  else match s.chainAt v kind n c.addr last with
    | (_, some f, s1) => s1.chainFault c v kind n f
    | (x, none, s1) =>
      if x.busy then s1
      else if x.wait.isSome then s1.putChain { c with wblk := some (s1.newPark c.die c.addr kind n 0 (c.addr + n - 1)) }
      else if s1.chainWaits c atomic x.segs then s1
      else match if atomic ∨ field x.leaf 8 2 ≠ 0 then s1.held c.core v.w.ctx v.w.key else .ok with
        | .stall => s1
        | .drop => s1.chainLost c
        | .ok =>
          let s2 := (s1.heatAll v.w v.sp c.addr x).purity v.w v.sp (if atomic then .never else .load) kind c.addr n (x.leafs c.addr)
          let s3 := if !atomic ∧ field x.leaf 8 2 ≠ 0 then s2.commit c.core v.w.ctx v.w.key else s2
          let pa := (x.segs.headD (0, 0)).1
          let old := s3.rdSegs v.w.core 0 x.segs
          if last && !atomic then s3.chainLoad c v pa
          else if last then ((s3.chainAmo c v x old).sliceCount pa 64).chainEnd c old
          else (s3.sliceCount pa 64).putChain { c with step := c.step + 1, die := homeDie pa, addr := wrapInt 64 ((old : Int) + chainOff v.offs (c.step + 1)) }

/-- CHAIN_STEP (R131): a context's chain starts once nothing older holds its entry back. -/
def chainStepEv (id : Nat) (s : State) : State :=
  match s.fchains.find? (fun c => c.id == id) with
  | none => s
  | some c =>
    if c.wblk.isSome ∨ (c.isCtx ∧ (s.mayPerform c.core c.ctx c.seq).isNone) then s
    else match s.chainEnv c with
      | none => s
      | some v => s.chainStep c v

def execChainStep (id : Nat) (s : State) : Host.Outcome State Fault Refusal := .next (chainStepEv id s)

/-! ### Collectives (R140 to R143, R324, R325) -/

def collBytes (ty : Nat) : Nat := if ty = 1 ∨ ty = 2 then 2 else 4

/-- What an element has gathered once one more input is added: an exact-sum cell, an integer sum, or the extreme. -/
def collAdd (op ty : Nat) (acc : Option Nat) (x : Nat) : Nat :=
  if ty = 3 then (match op, acc with
    | 0, a => (a.getD 0 + x) % 2 ^ 32
    | _, none => x
    | o, some a => pick 32 true (o == 1) a x)
  else
    let f := xsumFmt ty
    match op, acc with
    | 0, a => cellAdd (a.getD 0) (decodeF f x)
    | _, none => canonElem (.flt f) x
    | 1, some a => (minF f a x).1
    | _, some a => (maxF f a x).1

/-- A member's inputs added to a collective. -/
def Coll.add (c : Coll) (m : Nat) (xs : List Nat) : Coll :=
  { c with parts := if c.froms.isEmpty then xs.map (collAdd c.op c.ty none)
                    else (c.parts.zip xs).map (fun p => collAdd c.op c.ty (some p.1) p.2), froms := c.froms ++ [m] }

/-- What a contribution meets at the group's home: a mismatch, a wait for the next generation, or its place. -/
inductive Contrib where
  | bad | wait
  | ok (g : Grp)
  deriving Repr

/-- A member has contributed to the generation, so that its next collective is one of the next generation. -/
def Grp.gathered (g : Grp) (m : Nat) : Bool := g.coll.any (fun c => c.froms.contains m) || (g.arrived.contains m && !g.plain)

/-- A member contributes: its inputs count, and it arrives; a collective issued in a generation that holds a plain `arrive`, its own too,
fails (R325). -/
def Grp.contribute (g : Grp) (m op ty len : Nat) (xs : List Nat) : Contrib :=
  if !g.members.contains m then .bad
  else if g.gathered m then .wait
  else if g.plain then .bad
  else
    let c := g.coll.getD { op := op, ty := ty, len := len }
    if c.op ≠ op ∨ c.ty ≠ ty ∨ c.len ≠ len then .bad
    else .ok { g with coll := some (c.add m xs), arrived := g.arrived ++ [m] }

/-- The group state after a contribution, and the generation's completion with it. -/
def State.putContrib (s : State) (n : Nat) (g : Grp) : State :=
  let s1 := s.setGrp n g
  s1.putGrp n g.complete

/-- An element of the output (R325): the encoding and its flags. -/
def collOut (op ty rnd : Nat) (ovf : Dword) (x : Nat) : Res :=
  if ty ≠ 3 ∧ op = 0 then cellRead (xsumFmt ty) (ovfEnt ovf (xsumFmt ty)) rnd x else (x, 0)

def State.runColl (s : State) (core : Nat) (m : Cmd) : Eff :=
  let op := m.fn % 4
  let ty := m.fn / 4
  let rnd := field m.esp 0 3
  let len := m.opc % 2 ^ 52
  let n := field m.opc 52 12
  let eb := collBytes ty
  let me := s.member core m.ctx
  if op = 3 ∨ field m.esp 3 1 ≠ 0 ∨ 5 < rnd ∨ ((op ≠ 0 ∨ ty = 3) ∧ rnd ≠ 0) ∨ len % eb ≠ 0 ∨ 2 ^ 20 ≤ len then .bad s
  else if m.ok then
    let r := gather (m.shape.map (collOut op ty rnd (s.ctx core m.ctx).ovftab))
    s.writeLocal core m 0 m.opa len (packElems (8 * eb) r.1) false (fun s => .done s r.2 0 none)
  else if m.sent then .wait s m
  else if !s.reachable (dieOf core) (s.groupHome core n) then .refuse s ⟨0x24, 0, 7⟩ kRead 0 len
  else if s.fabHeld core m ∨ (!s.remoteGroup core n ∧ (s.grp n).gathered me) then .wait s m
  else s.source core m 0 m.opb len Prod.mk (fun s all =>
    let s1 := s.purity (s.whoCmd core 4 m) (s.cmdSpace core m) .never kRead m.opb len []
    let made := fun (s : State) => s.commit core m.ctx m.key
    let sent := { m with sent := true, done := 0, shape := [] }
    if s1.remoteGroup core n then
      (if !(s1.grp n).isMember me then .refuse s1 ⟨0x26, 0, 7⟩ kRead 0 len
       else .wait ((made s1).send (.collMsg n me op ty len all)) sent)
    else match (s1.grp n).contribute me op ty len (elems (8 * eb) (len / eb) all) with
      | .bad => .refuse s1 ⟨0x26, 0, 7⟩ kRead 0 len
      | .wait => .wait s1 { m with done := len, shape := [all] }
      | .ok g => .wait (((made s1).setCmd core 4 sent).putContrib n g) sent)

/-- The command as it stands in the ring, where the generation's completion may have answered it. -/
def State.cmdNow (s : State) (core : Nat) (m : Cmd) : Cmd := ((s.eng core 4).cmds.find? (fun x => x.idx == m.idx)).getD m

/-- Run a command of the fabric engine. -/
def State.runF (s : State) (core : Nat) (m : Cmd) : Eff := match m.major with
  | 0x70 => if m.fn = 0 then s.runPut core m else if m.fn = 1 then s.runGet core m else .bad s
  | 0x71 => s.runRamo core m
  | 0x72 => s.runWin core m
  | 0x73 => s.runFchain core m
  | _ => (match s.runColl core m with
    | .wait s1 m1 => if m1.sent then .wait s1 (s1.cmdNow core m1) else .wait s1 m1
    | r => r)

/-! ### Packets at the target (R122, R123, R320 to R322) -/

def State.takePkt (s : State) (i : Nat) : State := { s with net := s.net.eraseIdx i }

/-- A request of a command of this package, as it goes out. -/
def Pkt.asks (core cmd : Nat) : Pkt → Bool
  | .put _ c m _ _ _ _ _ _ => c == core && m == cmd
  | .getReq _ c m _ _ _ _ _ => c == core && m == cmd
  | .ramo c m _ _ _ _ _ _ _ => c == core && m == cmd
  | _ => false

/-- An answer has come: the request it answers, where it left for another package, is under way no more. -/
def State.takeAnswer (s : State) (i core cmd : Nat) : State :=
  let net := s.net.eraseIdx i
  { s with net := (dropFirst (fun p => p.asks core cmd) net).getD net }

/-- An answer to an initiator of this package; one of another package gets it through the fabric. -/
def State.answer (s : State) (core : Nat) (p : Pkt) : State := if core < 65536 then s.send p else s

/-- The agent and space of an arrival into a window. -/
def TWin.who (w : TWin) (core : Nat) : Who := { core := core, ctx := w.ctx, eng := 4, letter := 60 }

/-- Master number of the gateway of a core's die (R35). -/
def gateway (core : Nat) : Nat := 72 + dieOf core

/-- An access of an arrival: its segments and leaf, or why it is refused; it waits for a walk, or on WBLK at an address (R42). -/
inductive Arr where
  | ok (x : Xl) (s : State)
  | refused (cls : Nat) (s : State)
  | busy (s : State)
  | wait (va : Nat) (s : State)
  deriving Repr

/-- Translate an access of an arrival and ask its target: a home that no link reaches fails it with 0x24 (R404), every other refusal
with 0x25 (R322). -/
def State.arrive (s : State) (w : TWin) (core kind va n : Nat) : Arr :=
  let (x, s1) := s.xlate (s.winSpace w core) (w.who core) kind (kind == kRmw) va n
  if x.busy then .busy s1
  else match x.flt, x.regFault va, x.wait with
    | some f, _, _ => .refused (if f.cls = 0x24 then 0x24 else 0x25) s1
    | none, some _, _ => .refused 0x25 (s.untouched s1)
    | none, none, some wva => .wait wva s1
    | none, none, none =>
      if !x.segs.all (fun g => s1.granted (gateway core) g.1 g.2 (kind != kRead)) then .refused 0x25 s1
      else if if kind = kWrite then s1.badWrite x.segs else x.segs.any (fun g => s1.badAt g.1 g.2) then .refused 0x32 s1
      else .ok x (s1.heatAll (w.who core) (s.winSpace w core) va x)

/-- Store an arrival's bytes. -/
def State.arrStore (s : State) (w : TWin) (core va n : Nat) (x : Xl) (v : Nat) : State :=
  let put := fun (_ : Unit) => (s.wrSegs core 0 x.segs v).wrote core (s.winSpace w core) x.leaf va n x.segs
  match x.segs with
  | [(pa, k)] => if tierOf pa = Tier.regs then s.regWrite (gateway core) pa k v false else put ()
  | _ => put ()

def State.arrLoad (s : State) (core : Nat) (x : Xl) : Nat := s.rdAny core (gateway core) 0 x.segs false

/-- Units of n bytes at an address, cut at multiples of 8, and of an arrival at a window. -/
def unitAddrs (va n : Nat) : List (Nat × Nat) := (unitsOf (n / 8 + 2) va n 0).map (fun u => ((va + u.1) % 2 ^ 64, u.2))
def TWin.units (w : TWin) (off n : Nat) : List (Nat × Nat) := unitAddrs ((w.base + off) % 2 ^ 64) (min n (w.len - off))

/-- Bytes before unit j. -/
def unitOff (us : List (Nat × Nat)) (j : Nat) : Nat := segBytes (us.take j)

/-- An arrival under way for a packet, or one that begins (R123). -/
def State.arr (s : State) (p : Pkt) : Arrival := (s.arrs.find? (fun a => a.pkt == p)).getD { pkt := p }

def State.putArr (s : State) (a : Arrival) : State := { s with arrs := s.arrs.filter (fun b => b.pkt != a.pkt) ++ [a] }

/-- The packet of an arrival is done with: it leaves the list, and its initiator gets an answer. -/
def State.arrEnd (s : State) (i core : Nat) (p ans : Pkt) : State :=
  ({ s with arrs := s.arrs.filter (fun b => b.pkt != p) }.takePkt i).answer core ans

/-- What one unit of an arrival comes to. -/
inductive ArrUnit where
  | ok (a : Arrival) (s : State)
  | refused (cls : Nat) (s : State)
  | stop (s : State)
  deriving Repr

/-- A unit's access: a put's is written, a get's read into the arrival. One that meets WBLK parks the arrival (R42). -/
def State.arrUnit (s : State) (w : TWin) (tcore : Nat) (a : Arrival) (us : List (Nat × Nat)) (put : Option Nat) (j : Nat) : ArrUnit :=
  let (va, n) := us.getD j (0, 0)
  let kind := if put.isSome then kWrite else kRead
  let left := ((List.range us.length).filter (fun i => !a.units.contains i)).map (fun i => us.getD i (0, 0))
  match s.arrive w tcore kind va n with
  | .busy s1 => .stop (s.untouched s1)
  | .wait wva s1 =>
    .stop ((s.untouched s1).putArr { a with wblk := some (s1.newPark (dieOf tcore) wva kWrite (segBytes left) (unitOff us us.length - segBytes left)
      ((left.map (fun u => u.1 + u.2)).foldl max 0 - 1)) })
  | .refused c s1 => .refused c s1
  | .ok x s1 => match put with
    | some v => .ok { a with units := a.units ++ [j] } (s1.arrStore w tcore va n x (v / 2 ^ (8 * unitOff us j) % 2 ^ (8 * n)))
    | none => .ok { a with units := a.units ++ [j], got := a.got ++ [(j, s1.arrLoad tcore x)] } s1

/-- What performing the units of numbers, in turn, comes to; a refusal names the unit. -/
inductive ArrRun where
  | done (a : Arrival) (s : State)
  | refused (cls j : Nat) (s : State)
  | stop (s : State)
  deriving Repr

def State.arrUnits (w : TWin) (tcore : Nat) (us : List (Nat × Nat)) (put : Option Nat) : List Nat → Arrival → State → ArrRun
  | [], a, s => .done a s
  | j :: l, a, s =>
    if a.units.contains j then State.arrUnits w tcore us put l a s
    else match s.arrUnit w tcore a us put j with
      | .ok a1 s1 => State.arrUnits w tcore us put l a1 (s1.putArr a1)
      | .refused c s1 => .refused c j s1
      | .stop s1 => .stop s1

/-- The value of a put's bytes. -/
def bytesVal (bytes : List (BitVec 8)) : Nat := bytes.foldr (fun b a => b.toNat + 256 * a) 0

/-- What a packet of the network is as an arrival of units: its target, the window offset, its length, and a put's value. -/
def Pkt.unitsOf? : Pkt → Option (Nat × Nat × Nat × Nat × Option Nat)
  | .put _ _ _ pkg tcore win off bytes _ => some (pkg, tcore, win, off, some (bytesVal bytes))
  | .getReq _ _ _ pkg tcore win off _ => some (pkg, tcore, win, off, none)
  | _ => none

def Pkt.len : Pkt → Nat
  | .put _ _ _ _ _ _ _ bytes _ => bytes.length
  | .getReq _ _ _ _ _ _ _ len => len
  | _ => 0

/-- Turn.unit: one unit of a put or a get is performed at its target, in any order with the others (R123) (DESIGN CHOICE, assumption 99).
One that would be refused is left for the arrival's end. -/
def arrivalUnit (i j : Nat) (s : State) : State := match s.net[i]? with
  | some p => (match p.unitsOf? with
    | some (pkg, tcore, win, off, put) => (match (s.core tcore).twin? win with
      | some w =>
        let us := w.units off p.len
        let a := s.arr p
        if pkg ≠ s.fabid ∨ us.length ≤ j ∨ a.units.contains j ∨ a.wblk.isSome then s
        else (match s.arrUnit w tcore a us put j with
          | .ok a1 s1 => s1.putArr a1
          | .stop s1 => s1
          | .refused _ _ => s)
      | none => s)
    | none => s)
  | none => s

/-- Packets of an initiator find no way to the core of their window, or back (R404); its command fails with class 0x24. The way of an
answer is asked for with the request's: one that has been sent arrives, so that what a window has counted never fails (DEDUCED, assumption 71). -/
def State.cutOff (s : State) (core tcore : Nat) : Bool :=
  if core < 65536 then !s.routed (dieOf core) (dieOf tcore) else !s.fabricFrom (dieOf tcore)

/-- A part of a command's put, or another one of it, is under way. -/
def Pkt.partOf (core cmd : Nat) (last : Bool) : Pkt → Bool
  | .put _ c m _ _ _ _ _ cnt => c == core && m == cmd && (last || cnt == 0)
  | _ => false

/-- A put that has failed has no other parts under way: none of it is counted (R404). -/
def State.dropPuts (s : State) (core cmd : Nat) : State :=
  { s with net := s.net.filter (fun p => !p.partOf core cmd true), arrs := s.arrs.filter (fun a => !a.pkt.partOf core cmd true) }

/-- PUT_ARRIVAL (R122, R320, R322): the units left are performed, and the put ends at its target. WLAND counts a put with its last part, which
ends behind the others. -/
def putArrival (i : Nat) (s : State) : State :=
  match s.net[i]? with
  | some (.put id core cmd pkg tcore win off bytes cnt) =>
    let p : Pkt := .put id core cmd pkg tcore win off bytes cnt
    let a := s.arr p
    let fail := fun (s : State) (cls o : Nat) => (s.arrEnd i core p (.refusal core cmd cls o)).dropPuts core cmd
    if pkg ≠ s.fabid ∨ a.wblk.isSome then s
    else if s.cutOff core tcore then fail s 0x24 off
    else
      let n := bytes.length
      (match (s.core tcore).twin? win with
       | none => fail s 0x25 off
       | some w =>
         if w.len ≤ off then fail s 0x25 off
         else
           let us := w.units off n
           (match State.arrUnits w tcore us (some (bytesVal bytes)) (List.range us.length) a s with
            | .stop s1 => s1
            | .refused cls j s1 => fail s1 cls (off + unitOff us j)
            | .done a1 s1 =>
              if w.len - off < n then fail s1 0x25 w.len
              else if cnt ≠ 0 ∧ s1.net.any (fun q => q.partOf core cmd false) then s1.putArr a1
              else (s1.addLand tcore win cnt).arrEnd i core p (.putAck core win n cmd)))
  | _ => s

def execPutArrival (pkt : Nat) (s : State) : Host.Outcome State Fault Refusal := .next (putArrival pkt s)

/-- A put that WSEEN has counted, or that has failed, is no longer outstanding. -/
def State.clearSent (s : State) (core cmd : Nat) : State :=
  let g := s.eng core 4
  s.setEng core 4 { g with sent := (dropFirst (fun (m : Cmd) => m.idx == cmd) g.sent).getD g.sent }

/-- Nothing of a command of an initiator waits for WSEEN any more: it has failed. -/
def State.dropSent (s : State) (core cmd : Nat) : State :=
  let g := s.eng core 4
  s.setEng core 4 { g with sent := g.sent.filter (fun m => m.idx != cmd) }

/-- A reply from a window of this package finds no way back to its initiator (R404): the window is the command's. -/
def State.noWay (s : State) (core win : Nat) : Bool :=
  let w := mget ⟨0, 0, 0, 0, 0, false⟩ (s.core core).iwin win
  w.pkg == s.fabid && !s.routed (dieOf core) (dieOf w.core)

/-- A packet without a route fails its command with class 0x24 (R404). -/
def State.strayed (s : State) (i core cmd : Nat) : State := (s.takeAnswer i core cmd).send (.refusal core cmd 0x24 0)

/-- PUT_ACK_ARRIVAL (R122): WSEEN of the window that the put named counts its bytes. -/
def putAckArrival (i : Nat) (s : State) : State :=
  match s.net[i]? with
  | some (.putAck core _ _ cmd) =>
    let s1 := s.takeAnswer i core cmd
    (match (s.eng core 4).sent.find? (fun m => m.idx == cmd) with
     | some m => (s1.addSeen core m.win m.val).clearSent core cmd
     | none => s1)
  | _ => s

def execPutAckArrival (pkt : Nat) (s : State) : Host.Outcome State Fault Refusal := .next (putAckArrival pkt s)

/-- GET_REQUEST_ARRIVAL (R123, R320, R322): the units left are read, and the reply goes. The first refused byte is one that the leaf or
the table refuses, or the window's end. -/
def getRequestArrival (i : Nat) (s : State) : State :=
  match s.net[i]? with
  | some (.getReq id core cmd pkg tcore win off len) =>
    let p : Pkt := .getReq id core cmd pkg tcore win off len
    if pkg ≠ s.fabid then s
    else if s.cutOff core tcore then s.arrEnd i core p (.refusal core cmd 0x24 off)
    else (match (s.core tcore).twin? win with
      | none => s.arrEnd i core p (.refusal core cmd 0x25 off)
      | some w =>
        let us := w.units off len
        (match State.arrUnits w tcore us none (List.range us.length) (s.arr p) s with
         | .stop s1 => s1
         | .refused c j s1 => s1.arrEnd i core p (.refusal core cmd c (off + unitOff us j))
         | .done a s1 =>
           if w.len - off < len then s1.arrEnd i core p (.refusal core cmd 0x25 (max off w.len))
           else
             let bs := (List.range us.length).flatMap (fun j => (bytesOf (us.getD j (0, 0)).2 (mget 0 a.got j)).map (BitVec.ofNat 8))
             s1.arrEnd i core p (.getReply core cmd bs)))
  | _ => s

def execGetRequestArrival (pkt : Nat) (s : State) : Host.Outcome State Fault Refusal := .next (getRequestArrival pkt s)

/-- A reply reaches its command in the ring. -/
def State.answered (s : State) (core cmd : Nat) (f : Cmd → Cmd) : State :=
  let g := s.eng core 4
  s.setEng core 4 { g with cmds := g.cmds.map (fun (m : Cmd) => if m.idx = cmd then f m else m) }

/-- GET_REPLY_ARRIVAL (R124): the bytes are here; the command writes them. -/
def getReplyArrival (i : Nat) (s : State) : State :=
  match s.net[i]? with
  | some (.getReply core cmd bs) =>
    if ((s.eng core 4).cmds.find? (fun m => m.idx == cmd)).any (fun m => s.noWay core m.win) then s.strayed i core cmd
    else (s.takeAnswer i core cmd).answered core cmd (fun m => { m with ok := true, shape := [bytesVal bs] })
  | _ => s

def execGetReplyArrival (pkt : Nat) (s : State) : Host.Outcome State Fault Refusal := .next (getReplyArrival pkt s)

/-- REMOTE_ATOMIC_ARRIVAL (R115, R321): at the target the operation, at the initiator its reply. -/
def remoteAtomicArrival (i : Nat) (s : State) : State :=
  match s.net[i]? with
  | some (.ramo core cmd pkg tcore win off op n opnd) =>
    let p : Pkt := .ramo core cmd pkg tcore win off op n opnd
    let refuse := fun (s : State) (cls o : Nat) => s.arrEnd i core p (.refusal core cmd cls o)
    if pkg ≠ s.fabid ∨ (s.arr p).wblk.isSome then s
    else if s.cutOff core tcore then refuse s 0x24 off
    else (match (s.core tcore).twin? win with
      | none => refuse s 0x25 off
      | some w =>
        if w.len < off + n then refuse s 0x25 (max off w.len)
        else if off % n ≠ 0 ∨ (w.base + off) % n ≠ 0 then refuse s 0x25 off
        else
          let va := (w.base + off) % 2 ^ 64
          (match s.arrive w tcore kRmw va n with
           | .busy s1 => s1
           | .wait wva s1 => s1.putArr { s.arr p with wblk := some (s1.newPark (dieOf tcore) wva kRmw n 0 (va + n - 1)) }
           | .refused cls s1 => refuse s1 cls off
           | .ok x s1 =>
             let old := s1.rdSegs tcore 0 x.segs
             let s2 := s1.arrStore w tcore va n x (amoNew op (8 * n) old opnd 0)
             let s3 := (match x.segs with
               | (pa, _) :: _ => s2.sliceCount pa 64
               | [] => s2)
             (s3.addLand tcore win n).arrEnd i core p (.ramoReply core win cmd old n)))
  | some (.ramoReply core _ cmd old n) =>
    let s1 := s.takeAnswer i core cmd
    (match (s.eng core 4).cmds.find? (fun m => m.idx == cmd) with
     | some m => (s1.addSeen core m.win n).answered core cmd (fun m => { m with ok := true, val := old })
     | none => s1)
  | _ => s

def execRemoteAtomicArrival (pkt : Nat) (s : State) : Host.Outcome State Fault Refusal := .next (remoteAtomicArrival pkt s)

/-- FABRIC_REFUSAL (R322): the command ends with a record; its gate is not raised by it (DEDUCED, assumption 46). -/
def fabricRefusal (i : Nat) (s : State) : State :=
  match s.net[i]? with
  | some (.refusal core cmd cls off) =>
    let g := s.eng core 4
    let s1 := s.takeAnswer i core cmd
    (match g.cmds.find? (fun m => m.idx == cmd && !m.ended), g.sent.find? (fun m => m.idx == cmd) with
     | some m, _ => (s1.refuseCmd core 4 m ⟨cls, off, 7⟩ (if m.major = 0x71 then kRmw else kRead) 0 0).dropSent core cmd
     | none, some m => (s1.pendTrap core m.ctx (s1.engRec core 4 m ⟨cls, off, 7⟩ kWrite 0 0 0)).dropSent core cmd
     | none, none => s1)
  | _ => s

def execFabricRefusal (pkt : Nat) (s : State) : Host.Outcome State Fault Refusal := .next (fabricRefusal pkt s)

/-! ### Spanning groups (R367) -/

/-- A group's home is this package. -/
def State.homeHere (s : State) (n : Nat) : Bool :=
  s.pens.any (fun p => p.2.spans.any (fun x => decide (x.1 ≤ n ∧ n ≤ x.2.1) && x.2.2 == s.fabid))

/-- SPANNING_GROUP_MESSAGE (R177, R178, R367): a member of another package joins, leaves, arrives or contributes here, or one of its
contexts asks for the generation. -/
def spanningGroupMessage (i : Nat) (s : State) : State :=
  match s.net[i]? with
  | some (.groupMsg n m what) =>
    let g := s.grp n
    if !s.homeHere n then s
    else if what = 0 then
      (if g.isMember m ∨ g.joins.contains m then s.takePkt i
       else
         let g' := g.join m
         let s1 := (s.takePkt i).setGrp n g'
         if g'.isMember m then s1.send (.groupDone n g'.gen m 0) else s1)
    else if what = askGen then (s.takePkt i).send (.groupDone n g.gen m askGen)
    else if !g.isMember m then s.takePkt i
    else if what = 1 then (s.takePkt i).putGrp n (g.leave m)
    else if g.arrived.contains m then s
    else ((s.takePkt i).send (.groupDone n g.gen m 2)).putGrp n (g.arrive m)
  | some (.collMsg n m op ty len data) =>
    if !s.homeHere n then s
    else (match (s.grp n).contribute m op ty len (elems (8 * collBytes ty) (len / collBytes ty) data) with
      | .wait => s
      | .bad => (s.takePkt i).send (.collDone n m none)
      | .ok g => (s.takePkt i).putContrib n g)
  | _ => s

def execSpanningGroupMessage (pkt : Nat) (s : State) : Host.Outcome State Fault Refusal := .next (spanningGroupMessage pkt s)

/-- SPANNING_GROUP_COMPLETION (R367): an answer or a completed generation comes back to a member of this package. -/
def spanningGroupCompletion (i : Nat) (s : State) : State :=
  match s.net[i]? with
  | some (.groupDone n gen m what) =>
    if s.foreign m then s
    else
      let core := m % 4096 / 4
      let ctx := m % 4
      let g := s.grp n
      let g1 : Grp := { g with members := if what = 0 ∧ !g.members.contains m then g.members ++ [m] else if what = 1 then g.members.filter (· != m)
                                          else g.members }
      let s1 := (s.takePkt i).setGrp n g1
      if what = 1 ∨ what = 3 then s1
      else s1.modCtx core ctx (fun c => if c.req = some (what, 0) then { c with req := some (what, gen + 1) } else c)
  | some (.collDone n m parts) =>
    if s.foreign m then s
    else
      let core := m % 4096 / 4
      (match parts, (s.eng core 4).cmds.find? (fun x => x.gathers n (m % 4)) with
       | some ps, _ => (s.takePkt i).giveColl n m ps
       | none, some x => (s.takePkt i).refuseCmd core 4 x ⟨0x26, 0, 7⟩ kRead 0 (x.opc % 2 ^ 52)
       | none, none => s.takePkt i)
  | _ => s

def execSpanningGroupCompletion (pkt : Nat) (s : State) : Host.Outcome State Fault Refusal := .next (spanningGroupCompletion pkt s)

end Sys2Proof.Machine
end

