-- ==== Sys2Proof/Machine/Engines.lean ====
section
/-!
DEFINITION. When the commands of the engines start and complete (spec 03 R94, R96, R98 to R103; spec 05 R137 to R139; spec 06
R163 to R165; spec 13 R318). Engines: 1 M, 2 V, 3 X, 4 F.
-/
namespace Sys2Proof.Machine

/-! ### Starting -/

/-- A command's major lies in its engine's range and is assigned there (R225, R229). -/
def Cmd.mine (m : Cmd) (e : Nat) : Bool := match e with
  | 1 => decide (0x60 ≤ m.major ∧ m.major ≤ 0x65)
  | 2 => decide (0x40 ≤ m.major ∧ m.major ≤ 0x5F)
  | 3 => decide (0x68 ≤ m.major ∧ m.major ≤ 0x6B)
  | 4 => decide (0x70 ≤ m.major ∧ m.major ≤ 0x74)
  | _ => false

/-- The counter field of a command names an operand stream (R304, R311). -/
def Cmd.streams (m : Cmd) : Bool := m.major == 0x65 || ((m.major == 0x60 || m.major == 0x61) && decide (2 ≤ field m.esp 0 2))

/-- The wait for a counter to reach zero, of a command that names one and delivers nothing (R102). -/
def Core.countWait (c : Core) (m : Cmd) : Bool := m.ce && !delivers m && !m.streams && mget 0 c.ctrs m.ctr != 0

/-- Commands of an engine that have started and not yet ended. -/
def Eng.running (g : Eng) : List Cmd := g.cmds.filter (fun m => m.started && !m.ended)

/-- Chunks a stream holds or is about to hold (R138): those that publishes of the shed which have started will add. -/
def State.streamLoad (s : State) (shed n : Nat) : Nat :=
  (s.stream shed n).chunks.length +
    ((List.range 12).map (fun i => (((s.eng (12 * shed + i) 1).running).filter (fun m =>
      m.major == 0x65 && m.fn == 0 && m.ctr == n)).length)).foldl (· + ·) 0

/-- A wait that a command's entry places before its start (R98): a publish on a full stream, a streamed multiply without a
chunk of its own, a registration behind earlier commands on its window. -/
def State.entryWait (s : State) (core e : Nat) (m : Cmd) : Bool :=
  let sh := shedOf core
  if m.major = 0x65 ∧ m.fn = 0 ∧ m.ctr ≤ 15 then decide (16 ≤ s.streamLoad sh m.ctr)
  else if m.major ≠ 0x65 ∧ m.streams ∧ m.ctr ≤ 15 then
    (match (s.stream sh m.ctr).sub? core with
     | none => false
     | some b => decide (b.given.length ≤ ((s.eng core 1).running.filter (fun (x : Cmd) => x.major != 0x65 && x.streams && x.ctr == m.ctr)).length))
  else m.major == 0x72 && (s.eng core e).usesWin m.idx m.win

/-- One dword of an entry as the engine reads it (R165): the appended value, or what a plain store has put there (DEDUCED, assumption 77). -/
def readUnits (sp : Mem) (at_ : Nat) : Nat → List Nat → State → List Nat × State
  | _, [], s => ([], s)
  | i, x :: l, s =>
    let y := readLE sp (at_ + 8 * i) 8
    let (v, s1) := if y = x then (x, s) else (let (r, s1) := s.draw; (if r % 2 = 0 then x else y, s1))
    let (rest, s2) := readUnits sp at_ (i + 1) l s1
    (v :: rest, s2)

/-- The engine reads the entry at the front of its ring, once; what it has read stands with the append. -/
def State.readEntry (s : State) (core e : Nat) (a : App) : App × State :=
  if a.read then (a, s)
  else
    let (entry, s1) := readUnits (s.core core).sp ((s.eng core e).slotAt a.idx) 0 a.entry s
    let a1 := { a with entry := entry, read := true }
    let g := s1.eng core e
    (a1, s1.setEng core e { g with apps := a1 :: g.apps.drop 1 })

/-- A command takes its place among those that have started. -/
def State.placeCmd (s : State) (core e : Nat) (m : Cmd) : State :=
  let g := s.eng core e
  s.setEng core e { g with
    apps := g.apps.drop 1,
    cmds := g.cmds.filter (fun c => decide (c.idx < m.idx)) ++ [m] ++ g.cmds.filter (fun c => decide (m.idx < c.idx)) }

/-- A copy engine's command has a shape record to read. -/
def Cmd.shaped (m : Cmd) : Bool := decide (0x68 ≤ m.major ∧ m.major ≤ 0x6B) && m.major != 0x6A && !shapeCmdBad m

/-- The command starts (R98, R139, R311): its unit of the gate is taken already. A subscription takes effect; fields of a shape record
are read, any of them now and the others later, in no order (DEDUCED, assumption 77). -/
def State.begin (s : State) (core e : Nat) (m : Cmd) : State :=
  let (m1, s1) := if e = 1 then s.subscribe core m else (m, s)
  let s2 := s1.placeCmd core e m1
  let s3 := if e = 3 ∧ m.shaped then
      let (x, s3) := s2.draw
      (match s3.readShape core m (fun i => x / 2 ^ i % 2 == 1) with
       | .ok s4 m4 => s4.setCmd core e m4
       | .fault _ s4 => s3.untouched s4
       | .wait s4 => s3.untouched s4)
    else s2
  s3.settleCtx core m.ctx

/-- A command before the next one is still reading its shape record, so that it has not started (R94, R139). -/
def Eng.starting (g : Eng) : Bool := g.cmds.any (fun m => !m.ended && m.shaped && m.shape.isEmpty)

/-- ENGINE_COMMAND_START (R94, R96, R98, R102, R165, R225): the engine reads the next entry of its ring and starts the command once
the accesses before its append are performed, its counter reads zero, its entry's own waits are over and its gate has a
unit. The counter is asked at each try, so that one armed again while the command waits on its gate holds it back, with its place on the
gate (DESIGN CHOICE, assumption 98). A command that its engine's first checks refuse leaves the ring, with no access made: what a store has made of its
entry is looked at as it is read, before its gate and its counter are awaited, so that it takes no unit (DESIGN CHOICE, assumption 123). -/
def engineStart (core e : Nat) (s : State) : State :=
  match (s.eng core e).apps with
  | [] => s
  | a0 :: _ =>
    if !(s.ctx core a0.ctx).drainedBefore a0.seq || (s.eng core e).starting then s
    else
      let (a, s1) := s.readEntry core e a0
      let m : Cmd := { idx := a.idx, entry := a.entry, started := true }
      if m.tailBad || !m.mine e then (s1.placeCmd core e m).refuseCmd core e m ⟨0x22, 0, 7⟩ kRead 0 0
      else if (s1.core core).countWait m || s1.entryWait core e m then s1
      else if m.ae then
        (match (s1.core core).awaitGate m.ag (3 + e) s1.tick with
         | (true, c) => (s1.setCore core c).begin core e m
         | (false, c) => s1.setCore core c)
      else s1.begin core e m

/-- ENGINE_COMMAND_START. -/
def execEngineCommandStart (core eng : Nat) (s : State) : Host.Outcome State Fault Refusal := .next (engineStart core eng s)

/-! ### Completing -/

/-- Run a command of an engine. -/
def State.run (s : State) (core e : Nat) (m : Cmd) : Eff := match e with
  | 1 => s.runM core m
  | 2 => s.runV core m
  | 3 => s.runX core m
  | _ => s.runF core m

/-- A command that neither a fault nor a write-blocked page holds. -/
def Cmd.free (m : Cmd) : Bool := m.started && !m.ended && !m.fault && m.wblk.isNone

/-- The fabric commands that can go on now (R94). -/
def State.ableF (s : State) (core : Nat) : List Cmd → List Cmd → List Cmd
  | _, [] => []
  | before, m :: l => (if m.free && !(m.sent && !m.ok) && s.mayGo core m before then [m] else []) ++ s.ableF core (before ++ [m]) l

/-- The engines of a core quiesce for a pre-emption at safe points: every role context has landed, or has run its last iteration (R345). -/
def State.quiescing (s : State) (core : Nat) : Bool :=
  (s.core core).pre.any Pre.safe && [0, 1, 2].all (fun x => (s.ctx core x).landed.isSome || (s.ctx core x).st == .idle)

/-- The command of an engine that its next turn runs: of the fabric engine, any that can go on, by a free value where there are several
(DESIGN CHOICE, assumption 12). When the engines quiesce, a started command of M or V runs to its end behind one
that stands on a fault (R309, R345) (DEDUCED, assumption 110). -/
def State.pick (s : State) (core e : Nat) : Option Cmd × State :=
  let g := s.eng core e
  if e = 4 then match s.ableF core [] g.cmds with
    | [] => (none, s)
    | [m] => (some m, s)
    | l => let (x, s1) := s.draw; (l[x % l.length]?, s1)
  else match g.cmds.find? (fun m => !m.ended && !(m.fault && e != 3 && s.quiescing core)) with
    | some m => (if m.free then some m else none, s)
    | none => (none, s)

/-- The engine's command runs: so many of its units, moves or rows more, or as far as it can. -/
def engineRun (core e : Nat) (budget : Option Nat) (s : State) : State :=
  match s.pick core e with
  | (none, _) => s
  | (some m, s1) => settleEff core e m (s1.run core e { m with budget := budget })

/-- ENGINE_COMMAND_COMPLETE (R99, R102, R103, R165): the command runs as far as it can, and completes, faults or waits. -/
def engineComplete (core e : Nat) (s : State) : State := engineRun core e none s

/-! ### Accesses before an earlier command's end (R85, R86, R94) -/

/-- A command reads no memory any more: it never does, or has read all in turns before. -/
def Cmd.readsDone (m : Cmd) (e : Nat) : Bool := match e with
  | 1 => (match m.major with
    | 0x62 => m.tileRead
    | 0x65 => m.fn != 0 || decide (m.opb ≤ m.done)
    | 0x63 | 0x64 => true
    | _ => (m.major == 0x60 || !m.shape.isEmpty) && m.mulRead)
  | 2 => ((m.major == 0x40 || m.major == 0x42) && m.fn % 2 == 1) || m.major == 0x41 || decide (0x44 ≤ m.major) || m.performed
  | _ => m.major == 0x6A ||
      (!m.shape.isEmpty && m.movesLeft.all (fun mv => mv.reads.all (fun a => m.got.any (fun p => p.1 == a.2 / 8))))

/-- A command writes no memory any more: it never does, as a multiply, a load or a register command, or has written all. -/
def Cmd.noStores (m : Cmd) (e : Nat) : Bool := match e with
  | 1 => m.major != 0x63 || decide (32 * m.rowBytes ≤ m.done)
  | 2 => ((m.major == 0x40 || m.major == 0x42) && m.fn % 2 == 0) || m.major == 0x41 || decide (0x44 ≤ m.major) || m.performed
  | _ => (m.major == 0x6A || !m.shape.isEmpty) && m.movesLeft.isEmpty

/-- Vector registers that a command of the vector engine may write: all those that some form of its major writes. -/
def Cmd.vdests (m : Cmd) : List Nat := match m.major with
  | 0x40 | 0x41 | 0x42 => if m.fn % 2 = 0 then [m.sb] else []
  | 0x43 => if 8 ≤ m.fn then [m.sc] else []
  | _ => [m.sa, m.sa + 1, m.sa + 2, m.sa + 3]

/-- The commands before it leave a vector register as it is. -/
def keeps (before : List Cmd) (v : Nat) : Bool := before.all (fun b => !b.vdests.contains v)

/-- With this number of a turn the command only reads memory, and writes nothing that the commands before it may use: units of a
multiply's operands or of a tile load, a publish's source, units of a copy's source, of a vector load. -/
def Cmd.onlyReads (m : Cmd) (e n : Nat) (before : List Cmd) : Bool := match e with
  | 1 => ((m.major == 0x60 || m.major == 0x61 || m.major == 0x62) && n % 2 == 1) || (m.major == 0x65 && m.fn == 0)
  | 2 => (m.major == 0x40 && m.fn % 2 == 0) || (m.major == 0x42 && m.fn == 0 && keeps before m.sc)
  | 3 => m.major != 0x6A && !m.shape.isEmpty && n % 2 == 1
  | _ => false

/-- The command only writes memory, and uses no register or tile that the commands before it still change: a vector or tile store. -/
def Cmd.onlyStores (m : Cmd) (e : Nat) (before : List Cmd) : Bool := match e with
  | 1 => m.major == 0x63 && before.all (fun b => b.major == 0x65 || b.tileOf != m.tileOf)
  | 2 => (m.major == 0x40 || m.major == 0x42) && m.fn % 2 == 1 && keeps before m.sb && (m.major == 0x40 || keeps before m.sc)
  | _ => false

/-- The command reads and writes memory, behind commands that do neither any more: vector atomics whose registers stand, copies. -/
def Cmd.readsWrites (m : Cmd) (e n : Nat) (before : List Cmd) : Bool := match e with
  | 2 => m.major == 0x43 && keeps before m.sb && keeps before m.sc
  | 3 => (m.major == 0x6A || !m.shape.isEmpty) && n % 2 == 0
  | _ => false

/-- Bytes of a range of a space: as they are mapped, in the global space. -/
def State.rangeSegs (s : State) (sp : Space) (spc va n : Nat) : List (Nat × Nat) := if spc = 0 then s.peekSegs sp va n else [(va, n)]

/-- Bytes of memory, by space, that a command reads or writes; of the copy engine, that it has still to write. -/
def State.cmdBytes (s : State) (core e : Nat) (m : Cmd) : List (Nat × Nat × Nat) :=
  let sp := s.cmdSpace core m
  let at_ := fun (spc va n : Nat) => (s.rangeSegs sp spc va n).map (spc, ·)
  match e with
  | 1 => m.tileBytes.flatMap (fun x => at_ x.1 x.2.1 x.2.2)
  | 2 =>
    let w := m.ty.width
    let vas := if m.major = 0x42 then (indexed m.opa (s.vrd core m m.sc)).map (·, w / 8)
      else if m.major = 0x43 then (indexed m.opa (s.vrd core m m.sb)).map (·, if m.fn % 8 = 7 then 64 else 4)
      else if m.fn < 2 then [(m.opa, 512)] else (strided m.opa (4096 / w) (signed 64 m.opc)).map (·, w / 8)
    if m.major = 0x41 ∨ 0x44 ≤ m.major then [] else vas.flatMap (fun a => at_ m.spc a.1 a.2)
  | _ => m.movesLeft.flatMap (fun mv => at_ m.movesTo mv.dst mv.len)

/-- Bytes that a command's turn has read ahead. -/
def State.readTo (s : State) (core e : Nat) (m m1 : Cmd) : List (Nat × Nat × Nat) :=
  let sp := s.cmdSpace core m
  let at_ := fun (spc va n : Nat) => (s.rangeSegs sp spc va n).map (spc, ·)
  let fresh := m1.got.filter (fun p => !m.got.any (fun q => q.1 == p.1))
  match e with
  | 1 => (match m.major with
    | 0x62 => fresh.flatMap (fun p => at_ (field m.esp 5 2)
        ((tileRow m.opa (8 * p.1 / m.rowBytes) (signed 64 m.opb) + 8 * p.1 % m.rowBytes) % 2 ^ 64) 8)
    | 0x65 => at_ (field m.esp 8 2) (m.opa + m.done) (m1.done - m.done)
    | _ => fresh.flatMap (fun p => at_ (if field m.esp 0 2 = 1 then 0 else 1) (8 * (p.1 / 2)) 8))
  | 2 => (m1.vunits.filter (fun u => fresh.any (fun p => p.1 == u.1))).map (fun u => (m.spc, u.2.pa, u.2.n))
  | _ => fresh.flatMap (fun p => at_ (if m.major = 0x68 ∧ m.fn = 1 then field m.esp 8 2 else 0) (8 * p.1) 8)

/-- Bytes of two lists in a common space have one in common. -/
def meetBytes (l r : List (Nat × Nat × Nat)) : Bool := l.any (fun x => r.any (fun y => x.1 == y.1 && overlaps x.2.1 x.2.2 y.2.1 y.2.2))

/-- A command may make its accesses of a turn of a number before those that stand before it have ended: the order of loads and of stores is
kept (R85). It reads while none of them reads memory any more, writes while none of them writes any, or does both while they do neither. -/
def Cmd.mayOvertake (m : Cmd) (e n : Nat) (before : List Cmd) : Bool :=
  let noReads := before.all (·.readsDone e)
  let noWrites := before.all (·.noStores e)
  (noReads && m.onlyReads e n before) || (noWrites && m.onlyStores e before) || (noReads && noWrites && m.readsWrites e n before)

/-- Commands of an engine that may make accesses in a turn of a number before those that stand before them have ended, each with these:
all are started and stand on no fault. -/
def aheads (e n : Nat) : List Cmd → List Cmd → List (Cmd × List Cmd)
  | _, [] => []
  | before, m :: l =>
    (if !before.isEmpty && m.free && before.all (fun b => b.started && !b.fault) && m.mayOvertake e n before then [(m, before)] else []) ++
      aheads e n (before ++ [m]) l

/-- A later command makes accesses: it reads bytes that no command before it has still to write, or writes when none of them uses a byte of
it any more (R86). Its end comes in ring order (DESIGN CHOICE, assumption 12). -/
def State.runAhead (s : State) (core e n : Nat) (m : Cmd) (before : List Cmd) : State :=
  match s.run core e { m with budget := some n } with
  | .wait s1 m1 =>
    let reads := m.onlyReads e n before
    let mine := if reads then s1.readTo core e m m1 else s.cmdBytes core e m
    let clear := before.all (fun b => (b.noStores e && (reads || b.readsDone e)) || !meetBytes (s1.cmdBytes core e b) mine)
    if clear && m1.wblk.isNone then s1.setCmd core e { m1 with budget := none } else s
  | _ => s

/-- Turn.part: the first command that has not ended runs in part (R105), or a later one makes accesses before its end (R94). -/
def enginePart (core e n : Nat) (s : State) : State :=
  match aheads e n [] ((s.eng core e).cmds.filter (fun m => !m.ended)) with
  | [] => engineRun core e (some n) s
  | l =>
    let (x, s1) := s.draw
    match l[x % (l.length + 1)]? with
    | some (m, before) => s1.runAhead core e n m before
    | none => engineRun core e (some n) s1

/-- ENGINE_COMMAND_COMPLETE. -/
def execEngineCommandComplete (core eng : Nat) (s : State) : Host.Outcome State Fault Refusal := .next (engineComplete core eng s)

end Sys2Proof.Machine
end

