-- ==== Sys2Proof/Machine/Area.lean ====
section
/-!
DEFINITION. The core save area (spec 14 R343, R346 to R348): live maps, the area's layout as bytes by offset, its parts read
back, and the accesses that write and read it.
-/
namespace Sys2Proof.Machine

/-! ### Parts of memory -/

/-- The listed bytes of a range, by offset in it. -/
def memCut (m : Mem) (a n : Nat) : Mem := (m.filter (fun c => decide (a ≤ c.1 ∧ c.1 < a + n))).map (fun c => (c.1 - a, c.2))

/-- Memory with a range replaced by listed bytes of another memory's first n bytes. -/
def memPut (m : Mem) (a n : Nat) (x : Mem) : Mem :=
  (x.filter (fun c => decide (c.1 < n))).foldl (fun m c => setByte m (a + c.1) c.2) (m.filter (fun c => !decide (a ≤ c.1 ∧ c.1 < a + n)))

/-! ### Live maps (R343) -/

/-- What a map marks live. -/
structure Live where
  scal : Nat := 2 ^ 32 - 1
  vecs : Nat := 2 ^ 32 - 1
  tiles : Nat := 255
  lane : Bool := true
  ranges : List (Nat × Nat) := [(0, 0x200000)]
  deriving DecidableEq, Repr

/-- A map entry: none when it is malformed. -/
def liveOf (e : Nat) : Option Live :=
  let n := field e 72 4
  let rs := (List.range n).map (fun i => (field e (128 + 64 * i) 32, field e (160 + 64 * i) 32))
  if 4 < n ∨ field e 77 51 ≠ 0 ∨ field e 384 128 ≠ 0 ∨ rs.any (fun r => decide (0x200000 < r.1 + r.2)) then none
  else some { scal := field e 0 32, vecs := field e 32 32, tiles := field e 64 8, lane := field e 76 1 == 1,
              ranges := rs.filter (fun r => r.2 != 0) }

/-- The live map m of a context: everything for map 0, for an entry that cannot be read, and for a malformed one. -/
def State.liveMap (s : State) (core ctx m : Nat) : Rd Live :=
  if m = 0 then .ok {} s
  else
    let base := (s.pen ((s.penOf core).getD 16)).lmapbase.toNat
    match s.readSpace (s.ctx core ctx).space (s.whoCtx core ctx 0) ((base + 64 * (m - 1)) % 2 ^ 64) 64 with
    | .ok e s1 => .ok ((liveOf e).getD {}) s1
    | .bad s1 => .ok {} s1
    | .wait s1 => .wait s1

/-- The live maps of contexts in turn. -/
def State.liveMaps (s : State) (core : Nat) : List Nat → Rd (List Live)
  | [] => .ok [] s
  | x :: l => match s.liveMap core x (((s.ctx core x).landed.map Landing.map).getD 0) with
    | .ok m s1 => (match s1.liveMaps core l with
      | .ok ms s2 => .ok (m :: ms) s2
      | r => r)
    | .bad s1 => .bad s1
    | .wait s1 => .wait s1

/-- Insert a range in rising order of its offset. -/
def insertRange (r : Nat × Nat) : List (Nat × Nat) → List (Nat × Nat)
  | [] => [r]
  | x :: l => if r.1 ≤ x.1 then r :: x :: l else x :: insertRange r l

/-- Ranges in rising order, merged where they overlap (R346). -/
def mergeRanges : List (Nat × Nat) → List (Nat × Nat)
  | [] => []
  | r :: l => match mergeRanges l with
    | [] => [r]
    | x :: m => if x.1 < r.1 + r.2 then (r.1, max (r.1 + r.2) (x.1 + x.2) - r.1) :: m else r :: x :: m

/-- Merging leaves overlaps only where an early range covers several later ones: once per range suffices. -/
def mergeAll (l : List (Nat × Nat)) : List (Nat × Nat) :=
  let sorted := l.foldl (fun m r => insertRange r m) []
  sorted.foldl (fun m _ => mergeRanges m) sorted

/-! ### The area's parts -/

def secAt (x : Nat) : Nat := 0x1000 + 0x4800 * x
def tilesAt : Nat := 0xE800
def recsAt : Nat := 0x16800
def pad64 (n : Nat) : Nat := (n + 63) / 64 * 64

/-- A list of dwords at an offset. -/
def putDwords (m : Mem) (a : Nat) (l : List Nat) : Mem := ((List.range l.length).zip l).foldl (fun m x => writeLE m (a + 8 * x.1) 8 x.2) m

/-- Bits of a list of Booleans, the first lowest. -/
def bitsOf (l : List Bool) : Nat := l.foldr (fun b n => (if b then 1 else 0) + 2 * n) 0

/-- Withdrawn futures of a context (R344, R347): address, destination, consuming. -/
def Ctx.futures (c : Ctx) : List (Nat × Nat × Bool) := c.pend.filterMap (fun a => match a.op with
  | .fld take => some (a.va, a.dst.getD 0, take)
  | _ => none)

/-- A context section (R347): `iter` and n count from the core's first saved step. -/
def Ctx.section (c : Ctx) (m : Mem) (at_ num iter n : Nat) (live : Live) : Mem :=
  let l := c.landed.getD { pc := 0, st := .idle }
  let futures := c.futures
  let head := field l.pc.toNat 0 64 * 2 ^ 448 + iter % 2 ^ 64 * 2 ^ 384 + n % 2 ^ 64 * 2 ^ 320 + c.ovftab.toNat * 2 ^ 256
    + bitsOf ((List.range 32).map (fun j => !c.full j)) * 2 ^ 224 + bitsOf ((List.range 8).map (fun j => !c.fullP j)) * 2 ^ 216
    + bitsOf ((List.range 8).map c.rdP) * 2 ^ 208 + c.spaceid.toNat * 2 ^ 192 + num % 2 ^ 12 * 2 ^ 180 + l.repk % 64 * 2 ^ 174
    + (if l.repv then 2 ^ 173 else 0) + (if c.sys then 2 ^ 172 else 0) + c.genprof % 16 * 2 ^ 168 + c.aflags.toNat % 32 * 2 ^ 163
    + ctxCode l.st * 2 ^ 160 + l.ord % 2 ^ 16 * 2 ^ 144 + l.map % 64 * 2 ^ 138 + futures.length % 2 ^ 10 * 2 ^ 128
  let m := writeLE m at_ 64 head
  let m := putDwords m (at_ + 0x40) ((List.range 3).map c.hl0.dword ++ (List.range 3).map c.hl1.dword)
  let m := putDwords m (at_ + 0x80) ((List.range 32).map (fun j => if live.scal.testBit j then (c.rd j).toNat else 0))
  let m := putDwords m (at_ + 0x180) ([c.tvec.toNat, c.tpc.toNat, c.tstat.toNat, c.tctl.toNat] ++ (List.range 4).map (fun j => (mget 0 c.tscr j).toNat))
  let m := putDwords m (at_ + 0x1C0) [c.wb0.toNat, c.wb1.toNat]
  let m := putDwords m (at_ + 0x200) (futures.flatMap (fun f => [f.1, f.2.1 + (if f.2.2 then 32 else 0)]))
  (List.range 32).foldl (fun m j => if live.vecs.testBit j then writeLE m (at_ + 0x800 + 512 * j) 512 (mget 0 c.v j).toNat else m) m

/-- Kind of an engine record (R348): none for a command that has ended or that c3 appended. The engines have quiesced: a matrix command in
its ring stands on a fault, or lies beyond the bound of a stop (DEDUCED, assumption 53). -/
def Cmd.kind (m : Cmd) (e : Nat) : Option Nat :=
  if m.ended || m.ctx == 3 then none
  else if e = 1 then some 3
  else if e = 4 && m.major == 0x74 && m.sent && !m.ok then some 2
  else some 1

/-- An engine record: the ring entry with what R348 adds. A tile load or store that stands on a fault keeps its row. -/
def engineRec (entry : List Nat) (e kind g r : Nat) : List Nat :=
  entry.take 6 ++ [entry.getD 6 0 % 4, e % 16 * 2 ^ 60 + kind % 4 * 2 ^ 58 + g % 2 ^ 16 * 2 ^ 42 + r % 32 * 2 ^ 37]

/-- Records of a core's engines, in ring order within each, M first. -/
def Core.records (c : Core) : List (List Nat) :=
  [1, 2, 3, 4].flatMap (fun e =>
    (c.eng e).cmds.filterMap (fun m => (m.kind e).map (fun k => engineRec m.entry e k (if k = 3 then m.mg else 0) (if k = 3 then m.row else 0)))
      ++ ((c.eng e).apps.filter (fun a => a.ctx != 3)).map (fun a => engineRec a.entry e 0 0 0))

/-- Gates as saved: one more unit for each abandoned command that awaited (R348). -/
def Core.savedGate (c : Core) (g : Nat) : Nat :=
  mget 0 c.gates g + ([1, 2, 3, 4].map (fun e => ((c.eng e).cmds.filter (fun m => m.kind e == some 1 && m.ae && m.ag == g)).length)).foldl (· + ·) 0

/-- A shadow-store entry as a save area holds it. -/
def Shadow.put (m : Mem) (a : Nat) (e : Shadow) : Mem :=
  writeLE (writeLE (writeLE (writeLE m a 8 e.where_) (a + 8) 4 e.inst) (a + 12) 12 e.key.pack) (a + 32) 64 e.pre

/-- Scratchpad ranges from an offset on, each with its header, and the offset after them. -/
def putRanges (sp : Mem) : Mem → Nat → List (Nat × Nat) → Mem × Nat
  | m, a, [] => (m, a)
  | m, a, r :: l => putRanges sp (memPut (writeLE (writeLE m a 4 r.1) (a + 4) 4 r.2) (a + 8) r.2 (memCut sp r.1 r.2)) (a + pad64 (8 + r.2)) l

/-- The whole area of a core: its bytes by offset, and its length. `n0` is N before the pre-emption, none when it had not been
reported (R347); `lives` are the contexts' maps; a context that has run its last iteration is saved with ITER = N + D, where the
pre-emption ended the walk at the begun steps (R371) (DEDUCED, assumption 51). -/
def Core.area (c : Core) (b : Bind) (n0 : Option Nat) (core num0 : Nat) (conf : Bool) (lives : List Live) : Mem × Nat :=
  let saved := b.steps.filter (fun t => !t.retired)
  let first := ((b.steps.drop b.base).filter Step.retired).length
  let last := (b.steps.drop b.base).length - first
  let n := (n0.map (· - first)).getD (2 ^ 64 - 1)
  let part := (List.range 3).filter (fun x => (c.ctx x).landed.isSome)
  let live := part.map (fun x => lives.getD x {})
  let tiles := live.foldl (fun t l => t ||| l.tiles) 0
  let lane := live.any Live.lane
  let ranges := mergeAll (live.flatMap Live.ranges)
  let recs := c.records
  let shadow := c.shadow.filter (fun e => e.inst == b.inst && saved.any (fun t => t.key == e.key))
  let sec := fun (m : Mem) (x : Nat) =>
    let t := c.ctx x
    if t.landed.isSome then t.section m (secAt x) (num0 + x) (t.iter - first) n (lives.getD x {})
    else t.section m (secAt x) (num0 + x) (last + b.depth) n {}
  let m := (List.range 3).foldl sec []
  let m := ((List.range saved.length).zip saved).foldl (fun m t =>
    writeLE m (0x180 + 16 * t.1) 16 (t.2.key.pack + ((if t.2.committed then 1 else 0) + 2) * 2 ^ 96)) m
  let m := (List.range 32).foldl (fun m g => writeLE m (0x40 + 2 * g) 2 (c.savedGate g)) m
  let m := (List.range 64).foldl (fun m i => writeLE m (0x80 + 4 * i) 4 (wrapInt 32 (mget 0 c.ctrs i))) m
  let m := (List.range 8192).foldl (fun m i => if tiles.testBit (i / 1024) then writeLE m (tilesAt + 4 * i) 4 (c.tile i) else m) m
  let m := ((List.range recs.length).zip recs).foldl (fun m r => putDwords m (recsAt + 64 * r.1) r.2) m
  let sh0 := recsAt + 64 * recs.length
  let m := ((List.range shadow.length).zip shadow).foldl (fun m e => e.2.put m (sh0 + 96 * e.1)) m
  let (m, end_) := putRanges c.sp m (sh0 + 96 * shadow.length) ranges
  let m := if lane then memPut m end_ 0x40000 (memCut c.lanes 0 0x40000) else m
  let len := end_ + (if lane then 0x40000 else 0)
  let head := 0x0300 + (if conf then 2 ^ 50 else 0) + (if tiles = 0 then 0 else 2 ^ 51) + (if lane then 2 ^ 52 else 0)
    + (b.depth - 1) % 8 * 2 ^ 53 + saved.length % 256 * 2 ^ 56 + len % 2 ^ 64 * 2 ^ 256 + core % 2 ^ 32 * 2 ^ 320
    + (ranges.foldl (fun a r => a + r.2) 0) % 2 ^ 32 * 2 ^ 384 + shadow.length % 2 ^ 32 * 2 ^ 416 + recs.length % 2 ^ 32 * 2 ^ 448
    + b.inst % 2 ^ 32 * 2 ^ 480
  (writeLE m 0 64 head, len)

/-! ### Accesses to an area -/

/-- What an access to an area meets: `wait` for a walk, `blocked` on WBLK, at an address. -/
inductive AreaIo where
  | ok (x : Mem) (s : State)
  | wait (s : State)
  | blocked (va : Nat) (s : State)
  | bad (f : Flt) (s : State)
  deriving Repr

/-- Why a translated range of an area cannot be accessed: a register block is none, and its targets must grant it (R35, R79, R396). -/
def State.areaFault (s : State) (w : Who) (write : Bool) (va : Nat) (x : Xl) : Option Flt := match x.flt with
  | some f => some f
  | none => match firstByte (fun pa => tierOf pa == .regs) va x.segs, s.refusal w.core write (partsOf x.segs) va with
    | some a, _ => some ⟨0x29, a, 7⟩
    | none, some (a, cls) => some ⟨cls, a, 7⟩
    | none, none => none

/-- Write the first n bytes of an image. -/
def putImage (img : Mem) : Mem → Nat → List (Nat × Nat) → Mem
  | m, _, [] => m
  | m, off, (pa, n) :: l => putImage img (memPut m pa n (memCut img off n)) (off + n) l

/-- Read segments as an image. -/
def getImage (m : Mem) : Nat → List (Nat × Nat) → Mem
  | _, [] => []
  | off, (pa, n) :: l => (memCut m pa n).map (fun c => (c.1 + off, c.2)) ++ getImage m (off + n) l

/-- Write an area (R345). -/
def State.areaWrite (s : State) (sp : Space) (w : Who) (va n : Nat) (img : Mem) : AreaIo :=
  let (x, s1) := s.xlate sp w kWrite false va n
  if x.busy then .wait s1
  else match s1.areaFault w true va x with
    | some f => .bad f s1
    | none => match x.wait with
      | some wva => .blocked wva s1
      | none => .ok [] (({ s1.heatAll w sp va x with mem := putImage img s1.mem 0 x.segs } : State).wrote w.core sp x.leaf va n x.segs)

/-- Read a range of an area. -/
def State.areaRead (s : State) (sp : Space) (w : Who) (va n : Nat) : AreaIo :=
  let (x, s1) := s.xlate sp w kRead false va n
  if x.busy then .wait s1
  else match s1.areaFault w false va x with
    | some f => .bad f s1
    | none => .ok (getImage s1.mem 0 x.segs) (s1.heatAll w sp va x)

end Sys2Proof.Machine
end

