-- ==== Sys2Proof/Machine/Preempt.lean ====
section
/-!
DEFINITION. Pre-emption, restoring a save area, and the halt at a cut (spec 14 R344, R345, R349, R350; spec 15 R365; spec 05
R153, R157, R159; spec 06 R172; spec 17 R371).
-/
namespace Sys2Proof.Machine

/-- Role contexts of a core that are held on a queue (R75): context, shed, queue. -/
def State.heldRole (s : State) (core : Nat) : List (Nat × Nat × Nat) :=
  s.sheds.flatMap (fun h => h.2.queues.flatMap (fun q => (q.2.held.filter (fun x => x.1 == core && x.2 != 3)).map (fun x => (x.2, h.1, q.1))))

/-- The role contexts of a core are held on no queue any more. -/
def State.unholdRole (s : State) (core : Nat) : State :=
  { s with sheds := s.sheds.map (fun h => (h.1, { h.2 with queues := h.2.queues.map (fun (q : Nat × HQ) =>
    (q.1, { q.2 with held := q.2.held.filter (fun x => !(x.1 == core && x.2 != 3)) })) })) }

/-! ### Landing (R344) -/

/-- Begun and unretired steps of a binding. -/
def Bind.open_ (b : Bind) : Nat := (b.steps.filter (fun t => t.begun && !t.retired)).length

/-- Where a context lands now, if it stands at a landing point: a repeat boundary, a blocked point, or an `spt`. One that has run its
last iteration stands Idle and has none (R371). -/
def State.landingOf (s : State) (core ctx : Nat) : Option Landing :=
  let c := s.ctx core ctx
  let here : Landing := { pc := c.group, st := c.state }
  if c.st = .idle then none
  else if s.atRep c then some { here with repv := true, repk := c.pfx.k }
  else if c.state = .blocked ∨ c.state = .held then some here
  else if c.st = .running ∧ !c.pfx.active then
    (match s.peek c c.pc.toNat with
     | some w => if field w 25 7 = 0x17 ∧ field w 22 3 = 0 ∧ field w 6 16 ≠ 0xFFFF then some { here with ord := field w 6 16, map := field w 0 6 } else none
     | none => none)
  else none

/-- A role context of a core that is pre-empted at safe points lands once at most 8 begun steps are unretired (R344, R345). A context in
a handler, or with a trap to take, goes on first, and so does one whose request has been served. -/
def State.landed? (s : State) (core ctx : Nat) : Option State :=
  let c := s.ctx core ctx
  let ready := (s.core core).pre.any Pre.safe && (s.core core).bind.any (fun b => decide (b.open_ ≤ 8))
  if !ready || decide (3 ≤ ctx) || c.landed.isSome || c.intrap || !c.traps.isEmpty then none
  else match s.landingOf core ctx, s.withdrawReq core ctx with
    | some l, some s1 =>
      let w := s1.whoCtx core ctx 0
      let s2 := (s1.modCore core (·.dropWait ctx)).modCtx core ctx (fun c => { c with landed := some l, wblk := none })
      some (s2.traceCtx core ctx w.inst w.key l.ord (ctxCode l.st) 5)
    | _, _ => none

/-- PREEMPT_LANDING (R344): the context lands where it stands; it issues nothing at a landing point. -/
def preemptLanding (core ctx : Nat) (s : State) : State := (s.landed? core ctx).getD s

def execPreemptLanding (core ctx : Nat) (s : State) : Host.Outcome State Fault Refusal := .next (preemptLanding core ctx s)

/-! ### Beginning a pre-emption -/

/-- The core's walker begins no new step: its unbegun steps of the bound instance go back to the distributor, in the order they
stood (R172, R345). -/
def State.startPre (s : State) (core : Nat) (p : Pre) : State :=
  let c := s.core core
  match c.bind with
  | none => s
  | some b =>
    let gone := b.steps.filter (fun t => !t.begun && !t.retired)
    let back := gone.map (fun t => (t.key, t.prio)) ++ (c.stepq.filter (fun q => q.1 == b.inst)).map Prod.snd
    let kept := b.steps.filter (fun t => t.begun || t.retired)
    let s1 := s.setCore core { c with pre := some { p with back := back, n0 := b.n, noNew0 := b.noNew, gone := gone },
                                      stepq := c.stepq.filter (fun q => q.1 != b.inst),
                                      bind := some { b with steps := kept, n := some (kept.length - b.base), noNew := true } }
    s1.giveBack b.inst (back.map Prod.fst)

/-- No role context of a core has entered an iteration past its kept steps, so that the walk can go on with more. -/
def Core.walksOn (c : Core) (b : Bind) : Bool :=
  [0, 1, 2].all (fun x => !(c.ctx x).finished && decide ((c.ctx x).iter < b.steps.length - b.base))

/-- No context of a core stands at a landing any more: those that run on do so, and those that are Idle stay so. -/
def Core.unland (c : Core) : Core := { c with ctxs := [0, 1, 2].foldl (fun m x => mset m x { c.ctx x with landed := none }) c.ctxs }

/-- A pre-emption is abandoned (R350): the core is as before. The returned steps that stand unplaced come back, ahead of any other: to
the binding, where the walk has not passed them, else to the step queue (DEDUCED, assumption 51), with the priority they were last
selected under (R361). N was reported without the steps that another core took meanwhile, and is reported again when it is due (R359). -/
def State.dropPre (s : State) (core : Nat) : State :=
  let c := s.core core
  match c.pre, c.bind with
  | some p, some b =>
    let unplaced := ((s.inst? b.inst).map Inst.back).getD []
    let mine := p.back.filterMap (fun k => match c.stepq.find? (fun q => q.1 == b.inst && q.2.1 == k.1) with
      | some q => some q.2
      | none => if unplaced.contains k.1 then some k else none)
    let keys := mine.map Prod.fst
    let on := c.walksOn b
    let again := if on then p.gone.filterMap (fun t => (mine.find? (fun k => k.1 == t.key)).map (fun k => { t with prio := k.2 })) else []
    let queued := mine.filter (fun k => !again.any (fun t => t.key == k.1))
    let q := queued.map (fun k => (b.inst, k)) ++ c.stepq.filter (fun x => !(x.1 == b.inst && keys.contains x.2.1))
    let bind := if on then { b with steps := b.steps ++ again, n := p.n0.map (· - (p.gone.length - again.length)), noNew := p.noNew0 } else b
    (((s.setCore core { c.unland with pre := none, stepq := q, bind := some bind }).modInst b.inst
      (fun i => { i with back := i.back.filter (fun k => !keys.contains k) })).reportN b.inst).cutN ((s.penOf core).getD 16)
  | _, _ => s.setCore core { c.unland with pre := none }

/-! ### Saving -/

/-- A role context has landed, or has run its last iteration (R371). -/
def Ctx.parked (c : Ctx) : Bool := c.landed.isSome || (c.st == .idle && c.finished)

/-- A pending trap came from a command that stands faulted, and is met again when the command is reissued. -/
def Core.explains (c : Core) (t : PTrap) : Bool :=
  [1, 2, 3, 4].any (fun e => (c.eng e).cmds.any (fun m => !m.ended && m.fault && decide (t.image / 2 ^ 52 % 16 = e ∧ t.image / 2 ^ 16 % 2 ^ 16 = m.idx % 2 ^ 16)))

/-- A future load that has not been served. -/
def Acc.isFuture (a : Acc) : Bool := (match a.op with
  | .fld _ => true
  | _ => false) && a.phase != 3

/-- A context has nothing outstanding but future loads, which are withdrawn (R344), and marks and fences that only these hold back. -/
def Ctx.quiet (c : Ctx) (unsent : Nat → Bool) : Bool := c.pend.all (fun a => a.isFuture || (a.isOrder && a.sentOk unsent))

/-- A command of a step beyond the core's bound in the second phase of a stop, which is abandoned (R153). -/
def Core.cutOff (c : Core) (m : Cmd) : Bool := m.ctx != 3 && decide (2 ≤ c.cut.phase) && beyond c.cut.l m.key

/-- The engines are quiesced (R345 step 3), and hold no command of c3 (R160). A multicast whose bytes are all written is in no beat any
more that could be abandoned: it delivers at its destinations and ends. -/
def Core.quiesced (c : Core) : Bool :=
  [1, 2, 3, 4].all (fun e =>
    let g := c.eng e
    g.apps.all (fun a => a.ctx != 3) && g.cmds.all (fun m => m.ended ||
      (m.ctx != 3 && (m.fault || c.cutOff m || (e == 3 && !m.sent) || (e == 4 && m.kind e == some 2)))))

/-- What a pre-emption comes to. -/
inductive Saved where
  /-- saved: the area's length, 0 when nothing was to be saved -/
  | done (n : Nat) (s : State)
  | wait (s : State)
  | bad (f : Flt) (n : Nat) (s : State)
  deriving Repr

/-- The core after its area is written (R345 step 4): rings empty, gates, counters and tiles zero, role contexts Idle. -/
def Core.saved (c : Core) : Core :=
  let c := [1, 2, 3, 4].foldl (fun (c : Core) e => let g := c.eng e; c.setEng e { g with head := g.tail, apps := [], cmds := [] }) c
  let c : Core := { c with gates := [], ctrs := [], tiles := [], pre := none }
  { c with gwait := c.gwait.filter (fun w => w.2.1 == 3),
           ctxs := [0, 1, 2].foldl (fun m x =>
             mset m x { c.ctx x with st := .idle, why := .none, pend := [], traps := [], pfx := {}, landed := none, req := none, wblk := none,
                                      atIter := false }) c.ctxs }

/-- What a save keeps for its contexts beside the area: the flags that a stopped matrix command's groups have raised (R204), and the
queues its contexts are held on (R75). -/
def State.keepFor (s : State) (core : Nat) : State :=
  let flags := ((s.eng core 1).cmds.filter (fun m => m.kind 1 == some 3 && m.flags != 0)).map (fun m => (s.member core m.ctx, m.inst, m.key, m.word, m.flags))
  { s with flagKept := s.flagKept ++ flags, heldKept := s.heldKept ++ (s.heldRole core).map (fun x => (s.member core x.1, x.2.1, x.2.2)) }

/-- Finish a pre-emption at safe points: nothing is saved when the binding's steps have all retired before every context
landed; otherwise the area is written once everything is quiet (DEDUCED, assumptions 51, 52), and, as an access of c3's `cpre`, behind
what c3 has issued before: acquires, fences, deferred futures (R111, R113, R118). A write that meets WBLK parks (R42). -/
def State.savePre (s : State) (core : Nat) (sp : Space) (w : Who) : Saved :=
  let c := s.core core
  match c.pre, c.bind with
  | some p, some b =>
    let role := [0, 1, 2].map c.ctx
    if p.wblk.isSome then .wait s
    else if b.steps.all Step.retired && !(role.all Ctx.parked && role.any (fun t => t.landed.isSome)) then
      .done 0 ((s.setCore core { c.unland with pre := none }).endBinding core)
    else if [0, 1, 2].any (fun x => !((c.ctx x).parked && (c.ctx x).quiet (c.unsent x) && (c.ctx x).traps.all c.explains)) || !c.quiesced then .wait s
    else if p.byC3 ∧ !(c.ctx 3).drained then .wait s
    else match s.liveMaps core [0, 1, 2] with
    | .wait s1 => .wait (s.keepWalks s1)
    | .bad s1 => .wait s1
    | .ok lives s1 =>
      let s2 := [0, 1, 2].foldl (fun s x => (s.ctx core x).pend.foldl (fun s a => s.withdraw core x a) s) s1
      let conf := (s2.pen ((s2.penOf core).getD 16)).conf
      let (img, len) := (s2.core core).area b p.n0 core (4 * core) conf lives
      if [0, 1, 2].any (fun x => !(s2.ctx core x).traps.all c.explains) then .wait s2
      else (match s2.areaWrite sp w p.area len img with
       | .wait s3 => .wait (s.keepWalks s3)
       | .blocked wva s3 => .wait ((s.keepWalks s3).modCore core (fun c => { c with pre := c.pre.map (fun q =>
           { q with wblk := some (s3.newPark (dieOf core) wva kWrite len 0 (p.area + len - 1)) }) }))
       | .bad f s3 => .bad f len (s3.dropPre core)
       | .ok _ s3 =>
         let unheld := (s3.keepFor core).unholdRole core
         let traced := [0, 1, 2].foldl (fun s x => if (c.ctx x).landed.isSome then s else
           s.traceCtx core x b.inst (c.ctx x).k 0xFFFF 0 5) unheld
         let s4 := (traced.modCore core Core.saved).endBinding core
         let steps := (b.steps.filter (fun t => !t.retired)).map Step.key
         let pn := (s4.penOf core).getD 16
         .done len (if p.byC3 then s4 else s4.setPen pn { s4.pen pn with areas := (s4.pen pn).areas ++ [⟨p.area, b.inst, core, steps⟩] }))
  | _, _ => .done 0 (s.setCore core { c.unland with pre := none })

/-- `cpre` of c3 (R345): it begins the pre-emption and waits until the area is written (DEDUCED, assumption 50). -/
def cpreCur (d va : Nat) (s : State) : State :=
  let core := s.curCore
  let c := s.core core
  let out := fun (n : Nat) (s : State) => fall 1 (s.onCur (fun c => c.wr d (dw n)))
  match c.pre with
  | some p =>
    if !p.byC3 then blockCur s
    else (match s.savePre core (s.preSpace core p) (s.whoCtx core 3 s.cur.group.toNat) with
      | .done n s1 => out n s1
      | .wait s1 => blockCur s1
      | .bad f n s1 => trapAccess kWrite f.addr n f s1)
  | none =>
    if (s.pen ((s.penOf core).getD 16)).cutBusy then blockCur s
    else if c.bind.isNone then out 0 s
    else blockCur (s.startPre core { area := va, byC3 := true, safe := true })

/-- `cpre` (R345): c3 only, while no role context is Stopped or in a handler, with a 4 KiB-aligned area (the order of R332). -/
def execCpre (f : FU) (s : State) : Host.Outcome State Fault Refusal :=
  guard { p := f.p.toNat, sys := true, src := [(f.a.toNat, sel f.fa)], dst := [f.d.toNat] } s (fun s =>
    let va := (s.cur.rd f.a.toNat).toNat
    let c := s.core s.curCore
    if s.curCtx ≠ 3 then trapCur 0x27 s
    else if c.pre.isNone && [0, 1, 2].any (fun x => (c.ctx x).st == .stopped || (c.ctx x).intrap) then trapCur 0x27 s
    else if va % 4096 ≠ 0 then trapAccess kWrite va 4096 ⟨0x29, va, 7⟩ s
    else cpreCur f.d.toNat va s)

/-! ### Pre-emption by the distributor (R365) -/

/-- Instances with a step selected for a core under a higher priority than an instance has (R361, R365) (DEDUCED, assumption 55). -/
def State.outranks (s : State) (core : Nat) (i : Inst) : List Nat :=
  let queued := ((s.core core).stepq.map (fun q => (q.1, q.2.2))) ++ s.insts.filterMap (fun j => match j.pending with
    | some (c, _, p) => if c = core then some (j.num, p) else none
    | none => none)
  ((queued.filter (fun q => q.1 != i.num && decide (s.prioOf i < q.2))).map Prod.fst).eraseDups

/-- A step-boundary pre-emption is over once every begun step has retired: the binding ends, and the steps that outrank its
instance are bound first. -/
def State.finishBoundary (s : State) (core : Nat) : State :=
  let c := s.core core
  match c.bind with
  | none => s.setCore core { c with pre := none }
  | some b =>
    if !b.steps.all Step.retired then s
    else
      let first := ((s.inst? b.inst).map (s.outranks core)).getD []
      let q := c.stepq.filter (fun x => first.contains x.1) ++ c.stepq.filter (fun x => !first.contains x.1)
      (s.setCore core { c with pre := none, stepq := q }).endBinding core

/-- PRIORITY_PREEMPT (R365): begins a pre-emption of a core that a step of higher priority has been selected for, or carries one
on (DEDUCED, assumptions 38, 54). A core whose steps have all retired is pre-empted too while its contexts wait for more: they are told N,
and end. -/
def priorityPreempt (core : Nat) (s : State) : State :=
  let c := s.core core
  let pn := (s.penOf core).getD 16
  let p := s.pen pn
  match c.pre, c.bind with
  | some q, some b =>
    if q.byC3 then s
    else if !q.safe then s.finishBoundary core
    else
      let first := ((s.inst? b.inst).map (s.outranks core)).getD []
      (match s.savePre core (s.preSpace core q) { core := core, ctx := 3 } with
       | .done _ s1 => s1.modCore core (fun c => { c with stepq := c.stepq.filter (fun x => first.contains x.1) ++ c.stepq.filter (fun x => !first.contains x.1) })
       | .wait s1 => s1
       | .bad _ _ s1 => s1)
  | some q, none => if q.byC3 then s else s.setCore core { c.unland with pre := none }
  | none, some b => (match s.inst? b.inst with
    | none => s
    | some i =>
      let waits := s.raised i.num || [0, 1, 2, 3].any (fun x => (c.ctx x).intrap) || p.cutBusy || p.cutDone
      let rests := c.atRest
      if waits || rests || (s.outranks core i).isEmpty then s
      else if !p.premode then s.startPre core { area := 0, byC3 := false, safe := false }
      else if c.psave.toNat % 4096 ≠ 0 ∨ [0, 1, 2].any (fun x => (c.ctx x).st == .stopped) then s
      else s.startPre core { area := c.psave.toNat, byC3 := false, safe := true })
  | none, none => s

def execPriorityPreempt (core : Nat) (s : State) : Host.Outcome State Fault Refusal := .next (priorityPreempt core s)

/-! ### Restoring an area (R349) -/

/-- A save area as read: its header, the part of fixed layout with records and shadow entries, its ranges and lane slices. -/
structure AreaIn where
  head : Nat
  fixed : Mem
  ranges : List (Nat × Nat × Mem)
  lanes : Mem
  deriving Repr

def hInst (h : Nat) : Nat := field h 480 32
def hCmds (h : Nat) : Nat := field h 448 32
def hShadow (h : Nat) : Nat := field h 416 32
def hBytes (h : Nat) : Nat := field h 384 32
def hSteps (h : Nat) : Nat := field h 56 8
def hStages (h : Nat) : Nat := field h 53 3
def hFixed (h : Nat) : Nat := recsAt + 64 * hCmds h + 96 * hShadow h

/-- The header's own checks: VERSION, NSTEP, reserved fields. -/
def headBad (h : Nat) : Bool := field h 0 16 != 0x0300 || decide (8 < hSteps h) || field h 352 32 != 0 || field h 64 192 != 0 || field h 16 34 != 0

/-- What reading an area comes to; `refused` for a header that R349 refuses. -/
inductive Loaded (α : Type) where
  | ok (a : α) (s : State)
  | refused (s : State)
  | fault (f : Flt) (s : State)
  | wait (s : State)

/-- Read a range of an area, and go on with its bytes. -/
def State.areaThen {α : Type} (s : State) (sp : Space) (w : Who) (va n : Nat) (k : Mem → State → Loaded α) : Loaded α :=
  match s.areaRead sp w va n with
  | .ok m s1 => k m s1
  | .bad f s1 => .fault f s1
  | .wait s1 => .wait s1
  | .blocked _ s1 => .wait s1

/-- Read the scratchpad ranges of an area until their bytes are all there: the ranges, and the offset after them. -/
def State.readArea (s : State) (sp : Space) (w : Who) (va : Nat) : Nat → Nat → Nat → Loaded (List (Nat × Nat × Mem) × Nat)
  | 0, off, _ => .ok ([], off) s
  | fuel + 1, off, left =>
    if left = 0 then .ok ([], off) s
    else s.areaThen sp w (va + off) 8 (fun h s1 =>
      let n := readLE h 4 4
      s1.areaThen sp w (va + off + 8) n (fun m s2 =>
        match s2.readArea sp w va fuel (off + pad64 (8 + n)) (left - n) with
        | .ok (rs, e) s3 => .ok ((readLE h 0 4, n, m) :: rs, e) s3
        | r => r))

/-- Read a whole area. -/
def State.loadArea (s : State) (sp : Space) (w : Who) (va : Nat) : Loaded AreaIn :=
  s.areaThen sp w va 64 (fun x s1 =>
    let h := readLE x 0 64
    if headBad h then .refused s1
    else s1.areaThen sp w va (hFixed h) (fun m s2 =>
      match s2.readArea sp w va 16 (hFixed h) (hBytes h) with
      | .ok (rs, e) s3 =>
        if field h 52 1 = 0 then .ok ⟨h, m, rs, []⟩ s3
        else s3.areaThen sp w (va + e) 0x40000 (fun l s4 => .ok ⟨h, m, rs, l⟩ s4)
      | .refused s3 => .refused s3
      | .fault f s3 => .fault f s3
      | .wait s3 => .wait s3))

/-- The VALID saved steps of an area. -/
def AreaIn.steps (a : AreaIn) : List Step :=
  (List.range (hSteps a.head)).filterMap (fun i =>
    let x := readLE a.fixed (0x180 + 16 * i) 16
    if field x 97 1 = 1 then some { key := Coord.ofNat x, begun := true, committed := field x 96 1 == 1 } else none)

/-- Its shadow-store entries. -/
def AreaIn.shadow (a : AreaIn) : List Shadow :=
  (List.range (hShadow a.head)).map (fun i =>
    let at_ := recsAt + 64 * hCmds a.head + 96 * i
    ⟨readLE a.fixed at_ 8, readLE a.fixed (at_ + 8) 4, Coord.ofNat (readLE a.fixed (at_ + 12) 12), readLE a.fixed (at_ + 32) 64⟩)

/-- Its engine records, as eight dwords each. -/
def AreaIn.records (a : AreaIn) : List (List Nat) :=
  (List.range (hCmds a.head)).map (fun i => (List.range 8).map (fun j => readLE a.fixed (recsAt + 64 * i + 8 * j) 8))

/-- Header of a context section. -/
def AreaIn.sec (a : AreaIn) (x : Nat) : Nat := readLE a.fixed (secAt x) 64

/-- A context section holds a reserved field that is not zero (R18, R250, R334, R347, R349), a reserved overflow entry (R201), or a
reserved GENPROF, which the area is refused for as a write of it is (R5; DESIGN CHOICE, assumption 90). -/
def AreaIn.secBad (a : AreaIn) (x : Nat) : Bool :=
  let h := a.sec x
  let d := fun (o : Nat) => readLE a.fixed (secAt x + o) 8
  field h 0 128 != 0 || decide (31 < field h 128 10) || !ovfLegal (field h 256 64) || field h 168 4 == 0 || decide (3 < field h 168 4)
    || [0x40, 0x58].any (fun o => field (d o) 57 6 != 0 || field (d (o + 8)) 57 7 != 0)
    || field (d 0x190) 0 36 != 0 || field (d 0x198) 5 3 != 0 || field (d 0x198) 9 55 != 0
    || [0x1C0, 0x1C8].any (fun o => field (d o) 0 12 != 0 || field (d o) 52 12 != 0)
    || (List.range (field h 128 10)).any (fun i => field (d (0x208 + 16 * i)) 6 58 != 0)

/-- A reserved field of the area is not zero, or a shadow entry matches no VALID saved step (R349) (DEDUCED, assumption 56). -/
def AreaIn.bad (a : AreaIn) : Bool :=
  (List.range (hSteps a.head)).any (fun i => field (readLE a.fixed (0x180 + 16 * i) 16) 98 30 != 0)
    || [0, 1, 2].any a.secBad
    || a.records.any (fun r => field (r.getD 7 0) 0 37 != 0 || decide (4 ≤ r.getD 6 0) || decide (field (r.getD 7 0) 60 4 = 0 ∨ 4 < field (r.getD 7 0) 60 4))
    || (List.range (hShadow a.head)).any (fun i => readLE a.fixed (recsAt + 64 * hCmds a.head + 96 * i + 24) 8 != 0)
    || a.shadow.any (fun e => field e.where_ 46 9 != 0 || field e.where_ 62 2 == 1 || e.inst != hInst a.head || !a.steps.any (fun t => t.key == e.key))
    || a.ranges.any (fun r => decide (0x200000 < r.1 + r.2.1))

/-- A record enters its engine's ring (R349 step 2). -/
def State.reenter (s : State) (core : Nat) (num : Nat) (r : List Nat) : State :=
  let top := r.getD 7 0
  let e := field top 60 4
  let kind := field top 58 2
  let ctx := r.getD 6 0 % 4
  let entry := r.take 6 ++ [ctx, 0]
  let c := s.core core
  let g := c.eng e
  let mine := fun (k : Nat × Nat × Coord × Nat × Nat) (m : Cmd) => k.1 == num + ctx && k.2.1 == m.inst && k.2.2.1 == m.key && k.2.2.2.1 == m.word
  if kind < 2 then s.setCore core (c.append e ctx s.tick entry)
  else
    let m : Cmd := { idx := g.tail, entry := entry, started := true }
    let m := (if kind = 2 then
        (match s.collKept.find? (fun k => k.1 == num + ctx && k.2.1 == field m.opc 52 12) with
         | some k => { m with sent := true, ok := true, shape := k.2.2 }
         | none => { m with sent := true })
      else if m.major = 0x60 ∨ m.major = 0x61 then
        { m with mg := field top 42 16, mr := field top 37 5, shape := if m.major = 0x61 ∧ field top 37 21 = 0 then [] else [1], done := 1 }
      else if m.major = 0x65 then m
      else { m with done := field top 37 5 * m.rowBytes })
    let m := if kind = 3 then { m with flags := ((s.flagKept.find? (mine · m)).map (fun k => k.2.2.2.2)).getD 0 } else m
    let flags := if kind = 3 then (dropFirst (mine · m) s.flagKept).getD s.flagKept else s.flagKept
    let c1 := c.setEng e { g with tail := g.tail + 1, cmds := g.cmds ++ [m] }
    let rest := s.collKept.filter (fun k => !(kind == 2 && k.1 == num + ctx && k.2.1 == field m.opc 52 12))
    let row := if kind = 3 then m.mrowp else c1.mrowp
    let c2 : Core := { c1 with sp := writeLE c1.sp (g.slotAt g.tail) 64 (listVal entry), mrowp := row }
    ({ s with collKept := rest, flagKept := flags } : State).setCore core c2

/-- A context as its section gives it (R347, R349 steps 4 and 5). Its STATE is Running, but for one that had run its last
iteration (R371) (DEDUCED, assumption 57). -/
def AreaIn.ctx (a : AreaIn) (c : Ctx) (x home : Nat) (b : Bind) (conf : Bool) : Ctx :=
  let h := a.sec x
  let at_ := secAt x
  let dwd := fun (o : Nat) => dw (readLE a.fixed (at_ + o) 8)
  let idle := decide (field h 160 3 = 0)
  let i := field h 384 64
  let bit := fun (lo j : Nat) => field h (lo + j) 1 == 1
  let loopOf := fun (o : Nat) => (((({} : HLoop).put 0 (readLE a.fixed (at_ + o) 8)).put 1 (readLE a.fixed (at_ + o + 8) 8)).put 2 (readLE a.fixed (at_ + o + 16) 8))
  let base := { c with
    s := (List.range 31).map (fun j => (j + 1, dwd (0x80 + 8 * (j + 1)))), sE := (List.range 31).map (fun j => (j + 1, bit 224 (j + 1))),
    p := (List.range 7).map (fun j => (j + 1, bit 208 (j + 1))), pE := (List.range 7).map (fun j => (j + 1, bit 216 (j + 1))),
    v := (List.range 32).map (fun j => (j, BitVec.ofNat 4096 (readLE a.fixed (at_ + 0x800 + 512 * j) 512))),
    hl0 := loopOf 0x40, hl1 := loopOf 0x58, genprof := field h 168 4, ovftab := dw (field h 256 64), aflags := dw (field h 163 5),
    sys := field h 172 1 == 1, conf := conf, spaceid := BitVec.ofNat 16 (field h 192 16), wb0 := dwd 0x1C0, wb1 := dwd 0x1C8 }
  let base := { base with
    tvec := dwd 0x180, tpc := dwd 0x188, tstat := dwd 0x190, tctl := dwd 0x198, tscr := (List.range 4).map (fun j => (j, dwd (0x1A0 + 8 * j))),
    pc := dw (field h 448 64), st := if idle then .idle else .running, why := .none, finished := idle, home := home, pend := [], traps := [],
    pfx := { k := if field h 173 1 = 1 then field h 174 6 else 0 }, req := none, wblk := none, landed := none, own := false }
  base.startIter b i

/-- Withdrawn futures of a section: address, destination, consuming. -/
def AreaIn.futures (a : AreaIn) (x : Nat) : List (Nat × Nat × Bool) :=
  (List.range (field (a.sec x) 128 10)).map (fun i =>
    let o := secAt x + 0x200 + 16 * i
    (readLE a.fixed o 8, readLE a.fixed (o + 8) 8 % 32, readLE a.fixed (o + 8) 8 / 32 % 2 == 1))

/-- A withdrawn future load is issued again as the context's own access (R349 step 4): a fault is its trap at its first
boundary, and the destination is full with its old value. False while it waits for a walk, or on WBLK (R42). -/
def State.reissue (s : State) (core ctx : Nat) (f : Nat × Nat × Bool) : Bool × State :=
  let w := s.whoCtx core ctx (s.ctx core ctx).group.toNat
  let sp := (s.ctx core ctx).space
  let kind := if f.2.2 then kRmw else kRead
  let (x, s1) := if f.1 % 16 = 0 then s.xlate sp w kind true f.1 16 else ({ flt := some ⟨0x29, f.1, 7⟩ }, s)
  match x.flt with
  | some e => (true, (s1.modCtx core ctx (·.mark f.2.1 false)).pendTrap core ctx { w.frec sp kind 16 e with remhi := f.1 + 15 })
  | none => if x.busy ∨ x.wait.isSome then (false, s1) else
    let acc : Acc := { seq := 0, op := .fld f.2.2, dst := some f.2.1, cls := if f.2.2 then 12 else 4, acq := some 3, va := f.1, segs := x.segs,
                       len := 16, leaf := x.leaf, pc := w.cmdaddr, inst := w.inst, key := w.key }
    (true, (s1.heatAll w sp f.1 x).modCtx core ctx (·.issueAcc acc))

/-- A restored context that was held on queues is held again on one whose depth is not below LOWM (R75). -/
def State.holdAgain (s : State) (core ctx m : Nat) : State :=
  let mine := s.heldKept.filter (fun k => k.1 == m)
  let s1 := { s with heldKept := s.heldKept.filter (fun k => k.1 != m) }
  mine.foldl (fun s k =>
    let q := s.hq k.2.1 k.2.2
    if q.depth < q.low then s
    else (s.setHq k.2.1 k.2.2 { q with held := q.held ++ [(core, ctx)] }).modCtx core ctx (fun c => { c with st := .held })) s1

/-- A context number moves in every group (R273). -/
def State.moveMember (s : State) (m m' : Nat) : State :=
  if m = m' then s
  else
    let f := fun (x : Nat) => if x = m then m' else x
    let ren := fun (g : Grp) => ({ g with members := g.members.map f, arrived := g.arrived.map f, joins := g.joins.map f,
                                          leaves := g.leaves.map f,
                                          coll := g.coll.map (fun (c : Coll) => { c with froms := c.froms.map f }) } : Grp)
    { s with groups := s.groups.map (fun (g : Nat × Grp) => (g.1, ren g.2)) }

/-- Restore an area into a core, in the order of R349. None while a reissued future waits: the walks under way are then kept. -/
def State.restore (s : State) (core : Nat) (a : AreaIn) : Bool × State :=
  let r := ((s.inst? (hInst a.head)).map Inst.record).getD 0
  let conf := (s.pen ((s.penOf core).getD 16)).conf
  let num := fun (x : Nat) => s.fabid * 4096 + field (a.sec x) 180 12
  let steps := a.steps
  let b : Bind := { inst := hInst a.head, steps := steps, depth := hStages a.head + 1, n := some (hSteps a.head), noNew := true }
  let c := s.core core
  let sp := a.ranges.foldl (fun m x => memPut m x.1 x.2.1 x.2.2) c.sp
  let c1 := { c with
    sp := sp, lanes := if field a.head 52 1 = 1 then a.lanes else c.lanes,
    tiles := if field a.head 51 1 = 1 then (List.range 8192).map (fun i => (i, BitVec.ofNat 32 (readLE a.fixed (tilesAt + 4 * i) 4))) else [],
    gates := (List.range 32).map (fun g => (g, readLE a.fixed (0x40 + 2 * g) 2)),
    ctrs := (List.range 64).map (fun i => (i, signed 32 (readLE a.fixed (0x80 + 4 * i) 4))),
    shadow := c.shadow ++ a.shadow }
  let s1 := s.setCore core c1
  let s2 := a.records.foldl (fun s x => s.reenter core (num (x.getD 6 0 % 4) - x.getD 6 0 % 4) x) s1
  let ctxsOf := fun (c : Core) => [0, 1, 2].foldl (fun m x => mset m x (a.ctx (c.ctx x) x (opHome r x) b conf)) c.ctxs
  let s3 := s2.modCore core (fun c => { c with bind := some b, frInst := 0, frKey := {}, ctxs := ctxsOf c })
  let (ok, s4) := [0, 1, 2].foldl (fun r x => (a.futures x).foldl (fun (r : Bool × State) f =>
    if r.1 then r.2.reissue core x f else r) r) (true, s3)
  if !ok then (false, s.keepWalks s4)
  else (true, [0, 1, 2].foldl (fun s x => (s.holdAgain core x (num x)).moveMember (num x) (s.member core x)) s4)

/-- The area may be restored into a core: the role contexts are Idle and nothing is bound, its instance is one the pen has
accepted and not completed, and the area is well formed. -/
def State.mayRestore (s : State) (core : Nat) (a : AreaIn) : Bool :=
  let c := s.core core
  [0, 1, 2].all (fun x => (c.ctx x).st == .idle) && c.bind.isNone &&
    (s.inst? (hInst a.head)).any (fun i => decide (some i.pen = s.penOf core)) && !a.bad

/-- Shadow entries of the area fit. -/
def Core.shadowRoom (c : Core) (a : AreaIn) : Bool := decide (c.shadow.length + hShadow a.head ≤ 2048)

/-- `cres` (R349): c3 only, into an idle core, from a 4 KiB-aligned area (the order of R332). -/
def execCres (f : FJ) (s : State) : Host.Outcome State Fault Refusal :=
  guard { p := f.p.toNat, sys := true, src := [(f.a.toNat, sel f.fa)] } s (fun s =>
    let va := (s.cur.rd f.a.toNat).toNat
    let c := s.core s.curCore
    if s.curCtx ≠ 3 then trapCur 0x27 s
    else if [0, 1, 2].any (fun x => (c.ctx x).st != .idle) || c.bind.isSome then trapCur 0x27 s
    else if va % 4096 ≠ 0 then trapAccess kRead va 4096 ⟨0x29, va, 7⟩ s
    else if !s.cur.drained then blockCur s
    else match s.loadArea s.cur.space (s.whoCtx s.curCore 3 s.cur.group.toNat) va with
      | .fault e s1 => trapAccess kRead e.addr 64 e s1
      | .refused s1 => trapCur 0x27 s1
      | .wait s1 => blockCur (s.keepWalks s1)
      | .ok a s1 =>
        if !s1.mayRestore s1.curCore a then trapCur 0x27 s1
        else if !(s1.core s1.curCore).shadowRoom a then blockCur (s.keepWalks s1)
        else match s1.restore s1.curCore a with
          | (true, s2) => fall 1 s2
          | (false, s2) => blockCur (s.keepWalks s2))

/-! ### The halt (R153) -/

/-- Every step at or below its bound that a core is bound to has retired. -/
def Core.doneBelow (c : Core) : Bool := c.bind.all (fun b => b.steps.all (fun t => t.retired || beyond c.cut.l t.key))

/-- A step of the named instance at or below L waits in a core's step queue. -/
def Core.owes (c : Core) (p : Pen) : Bool :=
  !p.cutNoinst && c.stepq.any (fun q => decide (q.1 = p.cutreq.toNat / 2 ^ 96) && !beyond (some p.cutL) q.2.1)

/-- The distributor has no step of the named instance at or below L left to place, and no area of it to restore. -/
def State.allPlaced (s : State) (p : Pen) : Bool :=
  let num := p.cutreq.toNat / 2 ^ 96
  p.cutNoinst || ((s.inst? num).all (fun i => i.pending.all (fun q => beyond (some p.cutL) q.2.1) && (match i.head with
    | some (k, _) => beyond (some p.cutL) k
    | none => true)) && !p.areas.any (fun a => a.inst == num && a.steps.any (fun k => !beyond (some p.cutL) k)))

/-- Insert a shadow entry in descending order of its step. -/
def insertShadow (e : Shadow) : List Shadow → List Shadow
  | [] => [e]
  | x :: l => if x.key.rank < e.key.rank then e :: x :: l else x :: insertShadow e l

/-- Restore the pre-images of entries, the highest coordinates first, and tell the watched ranges (R153, R182). -/
def State.undo (s : State) (pen : Nat) (es : List Shadow) : State :=
  let s1 := (es.foldl (fun l e => insertShadow e l) []).foldl (fun s e => s.restoreLine pen e) s
  if es.isEmpty then s1 else s1.watchRestore

/-- An engine without the commands that role contexts appended. -/
def Eng.dropRole (g : Eng) : Eng :=
  ({ g with apps := g.apps.filter (fun a => a.ctx == 3),
            cmds := g.cmds.map (fun m => if m.ctx = 3 then m else { m with ended := true }) } : Eng).advance

/-- A role context halts: its waiting requests are withdrawn, and what it still had outstanding has no effect (R153, R157). It stands at
a step boundary, at its body's entry (R156) (DEDUCED, assumption 86). INTRAP, the traps of steps beyond L that it has still to take and the
trap registers stand through the halt and after (DESIGN CHOICE, assumption 122). -/
def State.haltCtx (s : State) (core x : Nat) : State :=
  let entry := ((s.core core).bind.bind (fun b => s.inst? b.inst)).map (fun i => dw (opEntry i.record x))
  let s1 := (s.ctx core x).pend.foldl (fun s a => s.withdraw core x a) s
  let s2 := (s1.withdrawReq core x).getD s1
  s2.modCtx core x (fun c =>
    let c := c.pend.foldl Ctx.release c
    if c.st = .idle then { c with pend := [], req := none, wblk := none, landed := none }
    else { c with pend := [], st := .stopped, why := .cut, preSt := c.st, pc := entry.getD c.pc, hl0 := {}, hl1 := {}, pfx := {}, req := none,
                  wblk := none, landed := none })

/-- Undo the steps beyond L that areas hold, each from its shadow entries; none while an area waits to be read. -/
def State.undoAreas (s : State) (pen : Nat) : List Area → Option State × State
  | [] => (some s, s)
  | a :: l =>
    let p := s.pen pen
    let sp := ((s.inst? a.inst).map (fun i => i.space p.conf)).getD ⟨p.spaceid, p.wb0, p.wb1, false, p.conf⟩
    match s.loadArea sp { core := a.core, ctx := 3 } a.at_ with
    | .ok x s1 => (s1.undo pen x.shadow).undoAreas pen l
    | .wait s1 => (none, s1)
    | _ => s.undoAreas pen l

/-- The stop is complete once every core of the pen has halted: areas beyond L are undone and discarded, their steps stand
unplaced again, and DONE is set (R153, R154, R159) (DEDUCED, assumption 58). -/
def State.cutFinish (s : State) (pen : Nat) : State :=
  let p := s.pen pen
  if !p.cutBusy ∨ p.cores.any (fun c => (s.core c).cut.phase != 3) then s
  else
    let num := p.cutreq.toNat / 2 ^ 96
    let gone := p.areas.filter (fun a => !p.cutNoinst && a.inst == num)
    match s.undoAreas pen gone with
    | (none, s1) => s.keepWalks s1
    | (some s1, _) =>
      let s2 := gone.foldl (fun s a => s.giveBack a.inst a.steps) s1
      s2.setPen pen { s2.pen pen with areas := p.areas.filter (fun a => p.cutNoinst || a.inst != num), cutBusy := false, cutDone := true }

/-- The binding after the restores: its steps beyond L count as never run (R153, R375). -/
def Bind.cutBack (b : Bind) (l : Option Coord) : Bind :=
  { b with steps := b.steps.map (fun t => if beyond l t.key then { t with retired := false } else t) }

/-- A core in the second phase of a stop has run the steps at or below its bound that it is bound to, and has no chain in flight (R132) and
no trap for such a step to return from (R158, R159). A pre-emption under way has then nothing left to wait for or to save (DEDUCED,
assumption 109). -/
def State.ranBelow (s : State) (core : Nat) (p : Pen) : Bool :=
  let c := s.core core
  c.cut.phase == 2 && p.cutBusy && p.cutDecided && !s.fchains.any (fun x => x.core == core && x.ctx != 3) &&
    c.doneBelow && !c.faultsFor (fun k => !beyond c.cut.l k)

/-- Entries of a core's shadow store for the steps of its binding beyond its bound. -/
def Core.laterShadow (c : Core) : List Shadow := c.shadow.filter (fun e => c.bind.any (fun b => b.inst == e.inst) && beyond c.cut.l e.key)

/-- A core drops what it holds beyond its bound: contexts halt, the lines that later steps wrote are restored, commands are discarded and
abandoned, and its binding keeps the steps up to the bound as retired (R153). -/
def State.discardBeyond (s : State) (core pn : Nat) : State :=
  let c := s.core core
  let later := c.laterShadow
  let s2 := ([0, 1, 2].foldl (fun s x => s.haltCtx core x) s).undo pn later
  let heads := [1, 2, 3, 4].filter (fun e => ((c.eng e).apps.head?).any (fun a => a.ctx != 3))
  let s3 := s2.modCore core (fun c =>
    let c := [1, 2, 3, 4].foldl (fun (c : Core) e => c.setEng e (c.eng e).dropRole) c
    let bind := c.bind.map (fun b => b.cutBack c.cut.l)
    let last := bind.bind Bind.frontier
    { c with bind := bind, pre := none, shadow := c.shadow.filter (fun e => !later.contains e),
             gwait := c.gwait.filter (fun w => decide (w.2.1 = 3) || (decide (4 ≤ w.2.1) && !heads.contains (w.2.1 - 3))),
             frInst := if last.isSome then c.frInst else 0, frKey := last.getD {} })
  (c.bind.elim s3 (fun b => s3.modInst b.inst (fun i =>
    { i with retired := i.retired - (b.steps.filter (fun t => t.retired && beyond c.cut.l t.key)).length }))).unholdRole core

/-- In a stop, a core that has run its steps up to its bound gives up what it holds beyond it, so that a step at or below L that waits in
its queue, or in an area, can be bound. A binding of the named instance goes on with its retired steps; another instance counts as halted
there (R153, R159) (DEDUCED, assumption 109). -/
def State.evict (s : State) (core pn : Nat) : State := match (s.core core).bind with
  | none => s
  | some b =>
    let p := s.pen pn
    let named := !p.cutNoinst && decide (b.inst = p.cutreq.toNat / 2 ^ 96)
    let keeps := fun (q : Nat × Coord × Nat) => q.1 != b.inst || (named && !beyond (some p.cutL) q.2.1)
    let s1 := s.discardBeyond core pn
    let c := s1.core core
    let back := (c.bind.elim [] (fun b => (b.steps.filter (fun t => !t.retired)).map Step.key)) ++
      (c.stepq.filter (fun q => !keeps q)).map (fun q => q.2.1)
    let bind := c.bind.map (fun b =>
      let kept := b.steps.filter Step.retired
      { b with steps := kept, base := kept.length, n := none, noNew := false })
    let s2 := (s1.setCore core { c.unhalt with stepq := c.stepq.filter keeps, bind := bind }).giveBack b.inst back
    if named then s2 else (s2.modInst b.inst (fun i => { i with halted := true })).endBinding core

/-- CUT_HALT (R153): a core whose steps at or below L have all run discards and abandons the rest, restores the lines that later
steps wrote, and halts; every core traces its halt (R390). One whose queue holds a step at or below L of the named instance makes room for
it, and halts once it has run. -/
def cutHalt (core : Nat) (s : State) : State :=
  match s.penOf core with
  | none => s
  | some pn =>
    let p := s.pen pn
    let c := s.core core
    if c.cut.phase = 3 then s.cutFinish pn
    else if !s.ranBelow core p then s
    else if c.owes p then (if c.atRest then s else s.evict core pn)
    else if !s.allPlaced p then s
    else
      let s1 := (s.discardBeyond core pn).modCore core (fun c => { c with cut := { c.cut with phase := 3 } })
      (s1.traceShed core ((c.bind.map Bind.inst).getD 0) (s1.core core).frKey 0xFFFF 1 6 0).cutFinish pn

def execCutHalt (core : Nat) (s : State) : Host.Outcome State Fault Refusal := .next (cutHalt core s)

/-! ### The distributor restores an area (R365, R159) -/

/-- During a stop an area is restored only when it holds a step at or below the decided L of the named instance (R159). -/
def Pen.areaGo (p : Pen) (a : Area) : Bool :=
  if p.cutBusy then p.cutDecided && !p.cutNoinst && decide (a.inst = p.cutreq.toNat / 2 ^ 96) && a.steps.any (fun k => !beyond (some p.cutL) k)
  else !p.cutDone

/-- DISTRIBUTOR_RESTORE (R365, R159): the area with that place in the pen's list is restored into a core: its own under
PLACE = 0, any idle one under PLACE = 1. -/
def distributorRestore (core area : Nat) (s : State) : State :=
  let pn := (s.penOf core).getD 16
  let p := s.pen pn
  let c := s.core core
  match p.areas[area]? with
  | none => s
  | some x => match s.inst? x.inst with
    | none => s
    | some i =>
      let idle := c.atRest
      let home := decide (opPlace i.record ≠ 0) || decide (x.core = core)
      if !idle && home && p.cutBusy && p.areaGo x && s.ranBelow core p then s.evict core pn
      else if !idle || !home || !p.areaGo x || !(p.cutBusy || (p.enable && s.leads pn core x.inst)) then s
      else
        let s0 := s.endBinding core
        match s0.loadArea (i.space p.conf) { core := core, ctx := 3 } x.at_ with
        | .ok a s1 =>
          if !s1.mayRestore core a || !(s1.core core).shadowRoom a then s
          else (match s1.restore core a with
            | (false, s2) => s.keepWalks s2
            | (true, s2) =>
              let s3 := s2.setPen pn { s2.pen pn with areas := (s2.pen pn).areas.eraseIdx area }
              if (s3.core core).cut.phase ≥ 1 then
                s3.modCore core (fun c => { c with cut := { c.cut with named := true, l := some p.cutL } })
              else s3)
        | .wait s1 => s.keepWalks s1
        | _ => s

def execDistributorRestore (core area : Nat) (s : State) : Host.Outcome State Fault Refusal := .next (distributorRestore core area s)

end Sys2Proof.Machine
end

