-- ==== Sys2Proof/Machine/Beacon.lean ====
section
/-!
DEFINITION. Beacons, trace draining and power gating (spec 20 R383 to R392; spec 01 R39 to R41). Counters of ticks that the
model does not follow, since it gives instructions no duration (DESIGN CHOICE, assumption 15), are free values up to the interval's ticks.
-/
namespace Sys2Proof.Machine

/-! ### Records (R387 to R389) -/

/-- A free count of at most a bound: the i-th of a beacon (DESIGN CHOICE, assumption 60). -/
def State.freeCount (s : State) (i bound : Nat) : Nat := Config.free (s.free + i) % (bound + 1)

/-- The words of a shed's record: twelve core blocks, then the shed block. -/
def State.shedWords (s : State) (sh : Nat) : List Nat :=
  let h := s.shed sh
  let span := s.tick - s.bcnLast
  (List.range 192).map (fun i => s.freeCount (200 * sh + i) span)
    ++ (List.range 12).map (fun c => mget 0 h.fov c)
    ++ (List.range 16).map (fun q => (h.queue q).depth)
    ++ (List.range 16).map (fun n => (h.stream n).chunks.length)
    ++ [s.freeCount (200 * sh + 192) span, mget 0 h.cnt 45, 0, 0]

/-- The words of a die's record. -/
def State.dieWords (s : State) (d : Nat) : List Nat :=
  let die := s.die d
  let at_ := 14400 + 300 * d
  let span := s.tick - s.bcnLast
  (List.range 32).map (fun i => s.freeCount (at_ + i) span) ++ (List.range 32).map (fun i => s.freeCount (at_ + 32 + i) (2 ^ 32 - 1))
    ++ (List.range 96).map (fun i => mget 0 die.cnt (64 + i))
    ++ (List.range 16).map (fun i => mget 0 die.cnt (160 + i)) ++ (List.range 16).map (fun i => mget 0 die.cnt (176 + i))
    ++ (List.range 16).map (fun p => (s.walks.filter (fun k => k.at p d && k.holds)).length)
    ++ (List.range 4).map (fun i => if d = 4 then 0 else s.freeCount (at_ + 64 + i) (2 ^ 32 - 1)) ++ List.replicate 28 0

/-- Free values that one beacon uses at most. -/
def beaconFree : Nat := 17100

/-- A record: its header and its words. -/
structure BRec where
  kind : Nat
  partial_ : Bool
  gated : Bool := false
  conf : Bool := false
  pen : Nat := 0
  die : Nat := 0
  shed : Nat := 0
  words : List Nat
  deriving DecidableEq, Repr

def BRec.image (r : BRec) (tick k drops : Nat) : Nat :=
  r.shed % 8 * 2 ^ 368 + r.die % 16 * 2 ^ 376 + r.pen % 16 * 2 ^ 380 + (if r.conf then 2 ^ 384 else 0) + (if r.gated then 2 ^ 385 else 0)
    + (if r.partial_ then 2 ^ 386 else 0) + k % 32 * 2 ^ 387 + r.kind % 256 * 2 ^ 392 + drops % 2 ^ 32 * 2 ^ 400 + tick / 2 ^ k % 2 ^ 32 * 2 ^ 432
    + tick % 2 ^ 48 * 2 ^ 464 + r.words.foldr (fun w n => w % 2 ^ 32 + 2 ^ 32 * n) 0 * 2 ^ 512

/-- Write a record into a ring (R385, R386): a full ring drops and counts it. A confidential pen's own ring holds it encrypted. -/
def State.putBeacon (s : State) (b : BRing) (r : BRec) (key : Option Nat) : BRing × State :=
  let log := field b.ctl.toNat 52 4
  if field b.ctl.toNat 63 1 = 0 ∨ log < 4 then (b, s)
  else if 2 ^ log ≤ (b.tail + 2 ^ 32 - b.head) % 2 ^ 32 then ({ b with drops := b.drops + 1 }, s)
  else
    let a := field b.ctl.toNat 10 42 * 1024 + 1024 * (b.tail % 2 ^ log)
    ({ b with tail := (b.tail + 1) % 2 ^ 32, drops := 0 }, s.physWrite key a 1024 (r.image s.tick s.bcnK b.drops))

def State.adminRec (s : State) (r : BRec) : State :=
  let (b, s1) := s.putBeacon s.bcnr r none
  { s1 with bcnr := b }

def State.penRec (s : State) (p : Nat) (r : BRec) : State :=
  let (b, s1) := s.putBeacon (s.pen p).pbcn r (s.pen p).seals
  s1.setPen p { s1.pen p with pbcn := b }

/-- The record of a shed. -/
def State.shedRec (s : State) (p sh : Nat) (gated : Bool) : BRec :=
  { kind := 0, partial_ := s.bcnPartial || gated || (s.shed sh).gainedPower, gated := gated, conf := (s.pen p).conf, pen := p,
    die := dieOfShed sh, shed := sh % 8, words := s.shedWords sh }

/-- A shed record goes to its pen's ring, and to the administrator's unless the pen is confidential (R392). -/
def State.putShedRec (s : State) (p : Nat) (r : BRec) : State := (if r.conf then s else s.adminRec r).penRec p r

/-- A shed writes records: it has power, and no gating of it is under way (R391). -/
def Shed.records (h : Shed) : Bool := !h.off && h.draining.isNone

/-- The aggregate of a confidential pen: core block 0 and the shed block are sums, the rest zero (R392). -/
def aggregate (ws : List (List Nat)) : List Nat :=
  let sum := fun (f : List Nat → Nat) => ws.foldl (fun n w => n + f w) 0
  (List.range 16).map (fun i => sum (fun w => (List.range 12).foldl (fun n c => n + w.getD (16 * c + i) 0) 0)) ++ List.replicate 176 0
    ++ (List.range 48).map (fun i => sum (fun w => w.getD (192 + i) 0))

/-- A beacon falls on this tick, and has not come yet (R384). -/
def State.beaconDue (s : State) : Bool :=
  s.bcnEnable && decide (10 ≤ s.bcnK ∧ s.bcnK ≤ 24 ∧ s.tick % 2 ^ s.bcnK = 0 ∧ s.bcnLast < s.tick)

/-- BEACON (R383 to R388): on a tick that is a multiple of 2^K, every counter latches and the records are written: those of the
dies, then of the sheds in increasing number, then the aggregates (DEDUCED, assumption 61). -/
def beacon (s : State) : State :=
  if !s.beaconDue then s
  else
    let dies := (List.range 9).map (fun d => ({ kind := 1, partial_ := s.bcnPartial, die := d, words := s.dieWords d } : BRec))
    let sheds := (List.range 72).filterMap (fun sh => match s.penOfShed sh with
      | some p => if (s.shed sh).records then some (p, s.shedRec p sh false) else none
      | none => none)
    let aggs := (List.range 16).filterMap (fun p =>
      let mine := sheds.filter (fun r => r.1 == p)
      if (s.pen p).conf then
        some ({ kind := 2, partial_ := s.bcnPartial || mine.any (fun r => r.2.partial_), conf := true, pen := p, words := aggregate (mine.map (fun r => r.2.words)) } : BRec)
      else none)
    let s1 := dies.foldl State.adminRec s
    let s2 := sheds.foldl (fun s r => s.putShedRec r.1 r.2) s1
    let s3 := aggs.foldl State.adminRec s2
    let s4 := (List.range 72).foldl (fun s sh => if (s.shed sh).records then s.setShed sh (s.shed sh).restart else s) s3
    let s5 := (List.range 9).foldl (fun s d => s.setDie d { s.die d with cnt := [] }) s4
    { s5 with bcnPartial := false, bcnLast := s.tick, free := s.free + beaconFree }

def execBeacon (s : State) : Host.Outcome State Fault Refusal := .next (beacon s)

/-! ### Trace (R390, R391) -/

/-- A pen's trace ring has room: what stands buffered drains whether or not records are emitted. -/
def Pen.trcRoom (p : Pen) : Bool :=
  let log := field p.trcctl.toNat 24 4
  decide (4 ≤ log) && decide ((p.trctail + 2 ^ 32 - p.trchead) % 2 ^ 32 < 2 ^ log)

/-- A drained shed loses its power. -/
def Shed.settleOff (h : Shed) : Shed := if h.draining.isSome && h.trace.isEmpty then { h with off := true, draining := none } else h

/-- The time in which a shed that is gated drains its buffer (R391). -/
def drainTicks : Nat := 65536

/-- A shed may drain its buffer now. -/
def Shed.mayDrain (h : Shed) (tick : Nat) : Bool := !h.trace.isEmpty && h.draining.all (fun t => decide (tick < t + drainTicks))

/-- TRACE_DRAIN (R390): a shed of the die moves its oldest record to its pen's ring, when that has room. Which shed of several is
open. -/
def traceDrain (die : Nat) (s : State) : State :=
  let ready := ((List.range 8).map (8 * die + ·)).filter (fun sh => (s.shed sh).mayDrain s.tick && (s.penOfShed sh).any (fun p => (s.pen p).trcRoom))
  let (x, s1) := if 2 ≤ ready.length then s.draw else (0, s)
  match ready[x % ready.length]? with
  | none => s
  | some sh => match (s1.shed sh).trace, s1.penOfShed sh with
    | r :: _, some p => (s1.setShed sh ((s1.shed sh).popTrace sh s1.tick).settleOff).ringTrace p r
    | _, _ => s

def execTraceDrain (die : Nat) (s : State) : Host.Outcome State Fault Refusal := .next (traceDrain die s)

/-- No instance is bound in a pen and no c3 of its cores is Running (R351). -/
def State.penIdle (s : State) (p : Nat) : Bool :=
  (s.pen p).cores.all (fun c => (s.core c).bind.isNone && (s.ctx c 3).st != .running)

/-- SHED_POWER_GATE (R391): the shed of an idle pen writes its final record, emits no more trace records and drains its buffer. -/
def shedPowerGate (sh : Nat) (s : State) : State :=
  let h := s.shed sh
  let idle := (s.penOfShed sh).all s.penIdle
  if 72 ≤ sh ∨ h.off ∨ h.draining.isSome ∨ !idle then s
  else
    let s1 := (match s.penOfShed sh with
      | some p => s.putShedRec p (s.shedRec p sh true)
      | none => s)
    { s1.setShed sh (Shed.settleOff { (s1.shed sh).restart with draining := some s.tick }) with free := s.free + beaconFree }

def execShedPowerGate (shed : Nat) (s : State) : Host.Outcome State Fault Refusal := .next (shedPowerGate shed s)

/-- TRACE_DRAIN_TIMEOUT (R391): after 65,536 ticks what stands in the buffer is discarded, and the die holds a kind-14 record. -/
def traceDrainTimeout (sh : Nat) (s : State) : State :=
  let h := s.shed sh
  match h.draining with
  | none => s
  | some t =>
    if s.tick < t + drainTicks ∨ h.trace.isEmpty then s
    else
      let d := s.die (dieOfShed sh)
      let was := (mget (0, 0, 0, 0) d.lost sh).2.2.1
      let lost := ((s.penOfShed sh).getD 0, (h.traceSeq + 2 ^ 16 - 1) % 2 ^ 16, was + h.trace.length, s.tick)
      (s.setShed sh { h with trace := [], off := true, draining := none }).setDie (dieOfShed sh) { d with lost := mset d.lost sh lost }

def execTraceDrainTimeout (shed : Nat) (s : State) : Host.Outcome State Fault Refusal := .next (traceDrainTimeout shed s)

/-- LOST_RECORD_WRITE (R391): a kind-14 record goes to its pen's ring once that has room, with the tick of the loss. -/
def lostRecordWrite (die : Nat) (s : State) : State :=
  let d := s.die die
  match d.lost.find? (fun x => (s.pen x.2.1).trcRoom) with
  | none => s
  | some (sh, p, seq, n, t) =>
    (s.setDie die { d with lost := merase d.lost sh }).ringTrace p (traceImage t seq 0 {} 0xFFFF n 14 0 (12 * sh))

def execLostRecordWrite (die : Nat) (s : State) : Host.Outcome State Fault Refusal := .next (lostRecordWrite die s)

/-- SHED_POWER_RESTORE (R391): the shed's first record will be marked PARTIAL; what lost its power stands as after reset
(DEDUCED, assumption 41). -/
def shedPowerRestore (sh : Nat) (s : State) : State :=
  if !(s.shed sh).off then s
  else
    let s1 := s.setShed sh { traceSeq := (s.shed sh).traceSeq, gainedPower := true }
    (List.range 12).foldl (fun s c => s.setCore (12 * sh + c) {}) s1

def execShedPowerRestore (shed : Nat) (s : State) : Host.Outcome State Fault Refusal := .next (shedPowerRestore shed s)

/-! ### Heat notifications (R39 to R41) -/

/-- A notification record's image (R41). -/
def heatImage (seq tick die : Nat) (h : Heat) (pen : Nat) : Nat :=
  h.page % 2 ^ 57 + pen % 2 ^ 16 * 2 ^ 84 + h.spaceid.toNat * 2 ^ 100 + die % 16 * 2 ^ 116 + h.size % 4 * 2 ^ 120
    + tick % 2 ^ 48 * 2 ^ 128 + seq % 2 ^ 16 * 2 ^ 176

/-- The entry that has waited longest to be told of, and the lowest of several (DESIGN CHOICE, assumption 87). -/
def firstHot (pen : Nat) (l : SMap Heat) : Option (Nat × Heat) :=
  (l.filter (fun p => p.2.pen == pen && decide (256 ≤ p.2.count) && !p.2.told)).foldl (fun (b : Option (Nat × Heat)) p => match b with
    | none => some p
    | some q => if p.2.tick < q.2.tick then some p else b) none

/-- HEAT_NOTIFICATION_APPEND (R39): one waiting entry's record goes into the pen's ring, and its gate is raised. A ring that lies past
the pen's window takes none: the record waits. -/
def heatNotify (die pen : Nat) (s : State) : State :=
  let d := s.die die
  let r := s.heatReg die pen
  let win := s.chipWin pen die
  let ok := r.enable && decide (4 ≤ r.logsize ∧ r.logsize ≤ 12) && (s.pen pen).cores.contains r.core
    && decide ((r.tail + 2 ^ 32 - r.head) % 2 ^ 32 < 2 ^ r.logsize ∧ r.base.toNat + 32 * (r.tail % 2 ^ r.logsize) + 32 ≤ win.2)
  match if ok then firstHot pen d.heat else none with
  | none => s
  | some (i, h) =>
    let csp := writeLE d.csp (win.1 + r.base.toNat + 32 * (r.tail % 2 ^ r.logsize)) 32 (heatImage d.heatSeq h.tick die h pen)
    let d1 := { d with heat := mset d.heat i { h with told := true }, heatSeq := (d.heatSeq + 1) % 2 ^ 16, csp := csp }
    let s1 := (s.setDie die d1).setHeatReg die pen { r with tail := (r.tail + 1) % 2 ^ 32 }
    s1.modCore r.core (fun c => (c.raiseGate r.gate).2)

def execHeatNotificationAppend (die pen : Nat) (s : State) : Host.Outcome State Fault Refusal := .next (heatNotify die pen s)

end Sys2Proof.Machine
end

