-- ==== Sys2Proof/Machine/EngCmds.lean ====
section
/-!
DEFINITION. The commands of the matrix, copy and fabric engines at issue (spec 13).
-/
namespace Sys2Proof.Machine

/-- MMA: appended to the ring of its engine (R95, R164). -/
def execMma (fmtb : BitVec 4) (f : FES) (t : Tail) (s : State) : Host.Outcome State Fault Refusal :=
  appendES 0x60 fmtb.toNat .scalar .scalar .scalar f t s

/-- MMAS: appended to the ring of its engine (R95, R164). -/
def execMmas (fmtb : BitVec 4) (f : FES) (t : Tail) (s : State) : Host.Outcome State Fault Refusal :=
  appendES 0x61 fmtb.toNat .scalar .scalar .scalar f t s

/-- TLD: appended to the ring of its engine (R95, R164). -/
def execTld (f : FES) (t : Tail) (s : State) : Host.Outcome State Fault Refusal := appendES 0x62 0 .scalar .scalar .none f t s

/-- TST: appended to the ring of its engine (R95, R164). -/
def execTst (f : FES) (t : Tail) (s : State) : Host.Outcome State Fault Refusal := appendES 0x63 0 .scalar .scalar .none f t s

/-- TZERO: appended to the ring of its engine (R95, R164). -/
def execTzero (f : FES) (t : Tail) (s : State) : Host.Outcome State Fault Refusal := appendES 0x64 0 .none .none .none f t s

/-- SPUB: appended to the ring of its engine (R95, R164). -/
def execSpub (f : FES) (t : Tail) (s : State) : Host.Outcome State Fault Refusal := appendES 0x65 0 .scalar .scalar .none f t s

/-- SSUB: appended to the ring of its engine (R95, R164). -/
def execSsub (f : FES) (t : Tail) (s : State) : Host.Outcome State Fault Refusal := appendES 0x65 1 .none .none .none f t s

/-- SUNSUB: appended to the ring of its engine (R95, R164). -/
def execSunsub (f : FES) (t : Tail) (s : State) : Host.Outcome State Fault Refusal := appendES 0x65 2 .none .none .none f t s

/-- COPY: appended to the ring of its engine (R95, R164). -/
def execCopy (f : FES) (t : Tail) (s : State) : Host.Outcome State Fault Refusal := appendES 0x68 0 .scalar .scalar .scalar f t s

/-- COPY_ST: appended to the ring of its engine (R95, R164). -/
def execCopySt (f : FES) (t : Tail) (s : State) : Host.Outcome State Fault Refusal := appendES 0x68 1 .scalar .scalar .scalar f t s

/-- MCAST: appended to the ring of its engine (R95, R164). -/
def execMcast (f : FES) (t : Tail) (s : State) : Host.Outcome State Fault Refusal := appendES 0x69 0 .scalar .scalar .scalar f t s

/-- FILL: appended to the ring of its engine (R95, R164). -/
def execFill (f : FES) (t : Tail) (s : State) : Host.Outcome State Fault Refusal := appendES 0x6A 0 .scalar .scalar .scalar f t s

/-- CVCOPY: appended to the ring of its engine (R95, R164). -/
def execCvcopy (f : FES) (t : Tail) (s : State) : Host.Outcome State Fault Refusal := appendES 0x6B 0 .scalar .scalar .scalar f t s

/-- WTGT: appended to the ring of its engine (R95, R164). -/
def execWtgt (f : FES) (t : Tail) (s : State) : Host.Outcome State Fault Refusal := appendES 0x72 0 .scalar .scalar .none f t s

/-- WINI: appended to the ring of its engine (R95, R164). -/
def execWini (f : FES) (t : Tail) (s : State) : Host.Outcome State Fault Refusal := appendES 0x72 1 .scalar .none .none f t s

/-- WCLOSE: appended to the ring of its engine (R95, R164). -/
def execWclose (f : FES) (t : Tail) (s : State) : Host.Outcome State Fault Refusal := appendES 0x72 2 .none .none .none f t s

/-- PUT: appended to the ring of its engine (R95, R164). -/
def execPut (f : FES) (t : Tail) (s : State) : Host.Outcome State Fault Refusal := appendES 0x70 0 .scalar .scalar .scalar f t s

/-- GET: appended to the ring of its engine (R95, R164). -/
def execGet (f : FES) (t : Tail) (s : State) : Host.Outcome State Fault Refusal := appendES 0x70 1 .scalar .scalar .scalar f t s

/-- RAMO_ADD: appended to the ring of its engine (R95, R164). -/
def execRamoAdd (f : FES) (t : Tail) (s : State) : Host.Outcome State Fault Refusal := appendES 0x71 0 .scalar .scalar .scalar f t s

/-- RAMO_AND: appended to the ring of its engine (R95, R164). -/
def execRamoAnd (f : FES) (t : Tail) (s : State) : Host.Outcome State Fault Refusal := appendES 0x71 1 .scalar .scalar .scalar f t s

/-- RAMO_OR: appended to the ring of its engine (R95, R164). -/
def execRamoOr (f : FES) (t : Tail) (s : State) : Host.Outcome State Fault Refusal := appendES 0x71 2 .scalar .scalar .scalar f t s

/-- RAMO_XOR: appended to the ring of its engine (R95, R164). -/
def execRamoXor (f : FES) (t : Tail) (s : State) : Host.Outcome State Fault Refusal := appendES 0x71 3 .scalar .scalar .scalar f t s

/-- RAMO_MIN: appended to the ring of its engine (R95, R164). -/
def execRamoMin (f : FES) (t : Tail) (s : State) : Host.Outcome State Fault Refusal := appendES 0x71 4 .scalar .scalar .scalar f t s

/-- RAMO_MAX: appended to the ring of its engine (R95, R164). -/
def execRamoMax (f : FES) (t : Tail) (s : State) : Host.Outcome State Fault Refusal := appendES 0x71 5 .scalar .scalar .scalar f t s

/-- RAMO_MINU: appended to the ring of its engine (R95, R164). -/
def execRamoMinu (f : FES) (t : Tail) (s : State) : Host.Outcome State Fault Refusal := appendES 0x71 6 .scalar .scalar .scalar f t s

/-- RAMO_MAXU: appended to the ring of its engine (R95, R164). -/
def execRamoMaxu (f : FES) (t : Tail) (s : State) : Host.Outcome State Fault Refusal := appendES 0x71 7 .scalar .scalar .scalar f t s

/-- RAMO_SWAP: appended to the ring of its engine (R95, R164). -/
def execRamoSwap (f : FES) (t : Tail) (s : State) : Host.Outcome State Fault Refusal := appendES 0x71 8 .scalar .scalar .scalar f t s

/-- FCHAIN: appended to the ring of its engine (R95, R164). -/
def execFchain (f : FES) (t : Tail) (s : State) : Host.Outcome State Fault Refusal := appendES 0x73 0 .scalar .scalar .scalar f t s

/-- COLL_SUM: appended to the ring of its engine (R95, R164). -/
def execCollSum (ty : BitVec 2) (f : FES) (t : Tail) (s : State) : Host.Outcome State Fault Refusal := appendColl (0 + 4 * ty.toNat) f t s

/-- COLL_MIN: appended to the ring of its engine (R95, R164). -/
def execCollMin (ty : BitVec 2) (f : FES) (t : Tail) (s : State) : Host.Outcome State Fault Refusal := appendColl (1 + 4 * ty.toNat) f t s

/-- COLL_MAX: appended to the ring of its engine (R95, R164). -/
def execCollMax (ty : BitVec 2) (f : FES) (t : Tail) (s : State) : Host.Outcome State Fault Refusal := appendColl (2 + 4 * ty.toNat) f t s

end Sys2Proof.Machine
end

