-- ==== Sys2Proof/Machine/Admission.lean ====
section
/-!
DEFINITION. The admission service (spec 06 R173): the instructions of an image, its control-flow graph, the checks, and what
becomes of the image.
-/
namespace Sys2Proof.Machine

/-- An instruction of an image: its first and last word, its main word and prefixes, and 64 under `rep`, else 1. -/
structure Node where
  at_ : Nat
  main : Nat
  last : Nat
  word : Nat
  xims : List (BitVec 25)
  weight : Nat
  deriving DecidableEq, Repr

def Node.major (n : Node) : Nat := field n.word 25 7
def Node.next (n : Node) : Nat := n.last + 4
def Node.cond (n : Node) : Bool := field n.word 22 3 != 0
def Node.isSpt (n : Node) : Bool := n.major == 0x17
def Node.ord (n : Node) : Nat := field n.word 6 16
def Node.isCall (n : Node) : Bool := n.major == 0x11 || (n.major == 0x12 && n.word % 2 == 1)
def Node.isLoop (n : Node) : Bool := n.major == 0x13 && field n.word 21 1 == 0

/-- A return or an exit: any `jmp`, an `iter`, a `tret`. -/
def Node.leaves (n : Node) : Bool := (n.major == 0x12 && n.word % 2 == 0) || n.major == 0x14 || (n.major == 0x3F && field n.word 0 5 == 4)

/-- The target of a direct transfer (R247). -/
def Node.target (n : Node) : Nat := wrapInt 64 ((n.main : Int) + 4 * immS 22 (field n.word 0 22) n.xims)

/-- Read words, in address order, into instructions (DEDUCED, assumption 62). -/
def readNodes : List (Nat × Nat) → Nat → List (BitVec 25) → Option Nat → Bool → List Node
  | [], _, _, _, _ => []
  | (a, w) :: l, skip, xs, start, rep =>
    let m := field w 25 7
    if skip ≠ 0 then readNodes l 0 [] none false
    else if m = 0x15 then readNodes l 0 xs (some (start.getD a)) true
    else if m = 0x16 then readNodes l 0 (xs ++ [BitVec.ofNat 25 w]) (some (start.getD a)) rep
    else
      let two := decide (0x40 ≤ m ∧ m ≤ 0x77)
      { at_ := start.getD a, main := a, last := if two then a + 4 else a, word := w, xims := xs, weight := if rep then 64 else 1 }
        :: readNodes l (if two then 1 else 0) [] none false

/-- Where control goes from an instruction, hardware loops included (R247, R252, R254): the loops whose last word it holds. -/
def succs (loops : List Node) (n : Node) : List Nat :=
  let fall := n.next :: (loops.filter (fun l => decide (l.main + 4 * field l.word 0 14 = n.last))).map (fun l => l.main + 4)
  if n.major = 0x10 ∨ n.major = 0x14 then n.target :: (if n.cond then fall else [])
  else if n.isCall || n.leaves then (if n.cond then fall else [])
  else if n.isLoop then fall ++ [n.main + 4 + 4 * field n.word 0 14]
  else fall

/-- One pass over instructions and their successors, highest address first: those with a successor that is still live. -/
def livePass (es : List (Nat × List Nat)) (old : List Nat) : List Nat :=
  es.foldr (fun e live => if e.2.any (fun a => if e.1 < a then live.contains a else old.contains a) then e.1 :: live else live) []

/-- Instructions from which a cycle can be reached: passes until nothing more falls away. -/
def live : Nat → List (Nat × List Nat) → List Nat → List Nat
  | 0, _, old => old
  | fuel + 1, es, old =>
    let new := livePass es old
    if new.length = old.length then new else live fuel (es.filter (fun e => new.contains e.1)) new

/-- Addresses that a list of them leads to, in so many rounds. -/
def reach (es : List (Nat × List Nat)) : Nat → List Nat → List Nat
  | 0, set => set
  | fuel + 1, set =>
    let new := ((es.filter (fun e => set.contains e.1)).flatMap (fun e => e.2)).filter (fun a => !set.contains a)
    if new.isEmpty then set else reach es fuel (set ++ new.eraseDups)

/-- Instructions on a cycle. -/
def onCycle (es : List (Nat × List Nat)) : List Nat :=
  let l := live es.length es (es.map Prod.fst)
  let es := es.filter (fun e => l.contains e.1)
  (es.filter (fun e => (reach es es.length e.2).contains e.1)).map Prod.fst

/-- The longest run that stands before each instruction, by relaxation over (address, weight, successors): runs by address. -/
def relax (es : List (Nat × Nat × List Nat)) : Nat → SMap Nat → SMap Nat
  | 0, m => m
  | fuel + 1, m =>
    let m' := es.foldl (fun m e =>
      let r := mget 0 m e.1 + e.2.1
      e.2.2.foldl (fun m a => if mget 0 m a < r then mset m a r else m) m) m
    if m' = m then m else relax es fuel m'

/-- A direct branch, call or `iter` into an image's instruction past its first word: to a tail, or to a word after a prefix (R231). -/
def Node.intoTail (ns : List Node) (n : Node) : Bool :=
  (n.major == 0x10 || n.major == 0x11 || n.major == 0x14) && ns.any (fun x => decide (x.at_ < n.target ∧ n.target ≤ x.last))

/-- Addresses that offend a check of R173 or R231, or carry the reserved ordinal (R342). -/
def offenders (ns : List Node) : List Nat :=
  let hw := ns.filter Node.isLoop
  let edges := (ns.filter (fun n => !n.isSpt)).map (fun n => (n.at_, succs hw n))
  let cyc := onCycle edges
  let inner := (ns.filter (fun n => !n.isSpt && !n.isCall && !n.leaves && !cyc.contains n.at_)).map (fun n => (n.at_, n.weight, succs hw n))
  let before := relax inner inner.length []
  let long := inner.filter (fun e => decide (4096 < mget 0 before e.1 + e.2.1))
  let sptAt := fun (a : Nat) => ns.any (fun n => n.at_ == a && n.isSpt)
  let calls := ns.filter (fun n => n.isCall && (!sptAt n.next || (n.major == 0x11 && !sptAt n.target)))
  let twice := ns.filter (fun n => n.isSpt && (n.ord == 0xFFFF || ns.any (fun x => x.isSpt && decide (x.at_ < n.at_) && x.ord == n.ord)))
  cyc ++ long.map Prod.fst ++ calls.map Node.at_ ++ twice.map Node.at_ ++ (ns.filter (Node.intoTail ns)).map Node.at_

/-- The lowest of a list of addresses. -/
def lowest : List Nat → Option Nat
  | [] => none
  | a :: l => some (match lowest l with
    | some b => min a b
    | none => a)

/-- The verdict on an image: none when admitted, otherwise the offset of the first offending instruction. -/
def ImageReq.verdict (r : ImageReq) : Option Nat :=
  let words := sortBy (fun x y => decide (x.1 ≤ y.1)) r.words
  let base := (lowest (r.ranges.map Prod.fst)).getD 0
  (lowest (offenders (readNodes words 0 [] none false))).map (· - base)

/-- IMAGE_ADMISSION (R173): the service checks the next image offered for a pen. An admitted one becomes code; one that is rejected
stays non-executable, and its offending offset is reported. -/
def imageAdmission (pen : Nat) (s : State) : State :=
  match s.images.find? (fun r => r.pen == pen) with
  | none => s
  | some r =>
    let p := s.pen pen
    let s1 := { s with images := s.images.erase r, verdicts := (pen, r.verdict) :: s.verdicts }
    s1.setPen pen (if r.verdict.isNone then { p with admitted := p.admitted ++ r.ranges } else { p with rejected := p.rejected ++ r.ranges })

end Sys2Proof.Machine
end

