-- ==== Sys2Proof/Machine/Slh.lean ====
section
/-!
DEFINITION. SLH-DSA-SHA2-128s (FIPS 205), the signature scheme that spec 00 R1 names and spec 21 R406 uses: verifying a signature, with
n = 16, h = 63, d = 7, h' = 9, a = 12, k = 14 and w = 16. A value of 16 bytes is a number, its first byte the most significant; a signature is
491 of them.
-/
namespace Sys2Proof.Machine

/-- Bytes of a number, the most significant first. -/
def bigBytes (n x : Nat) : List Nat := (bytesOf n x).reverse

/-- An address in its short form of 22 bytes: layer, tree, type and three words. -/
structure Adrs where
  layer : Nat := 0
  tree : Nat := 0
  kind : Nat := 0
  pair : Nat := 0
  high : Nat := 0
  low : Nat := 0
  deriving DecidableEq, Repr

def Adrs.bytes (a : Adrs) : List Nat :=
  bigBytes 1 a.layer ++ bigBytes 8 a.tree ++ bigBytes 1 a.kind ++ bigBytes 4 a.pair ++ bigBytes 4 a.high ++ bigBytes 4 a.low

/-- The tweakable hash of values of 16 bytes: F for one of them, H for two, T for more. -/
def slhHash (seed : Nat) (a : Adrs) (xs : List Nat) : Nat :=
  sha256 (bigBytes 16 seed ++ List.replicate 48 0 ++ a.bytes ++ xs.flatMap (bigBytes 16)) / 2 ^ 128

/-- The mask generation function over SHA-256, for at most 32 bytes. -/
def mgf (bytes : List Nat) (n : Nat) : Nat := sha256 (bytes ++ [0, 0, 0, 0]) / 2 ^ (256 - 8 * n)

/-- The digest of a message, 30 bytes. -/
def slhDigest (r seed root : Nat) (msg : List Nat) : Nat :=
  mgf (bigBytes 16 r ++ bigBytes 16 seed ++ bigBytes 32 (sha256 (bigBytes 16 r ++ bigBytes 16 seed ++ bigBytes 16 root ++ msg))) 30

/-- Digit i of n digits of b bits, the first the most significant. -/
def digit (b n x i : Nat) : Nat := x / 2 ^ (b * (n - 1 - i)) % 2 ^ b

/-- The root of a tree from the leaf of an index and the nodes beside its path, at the heights counted from j on. -/
def slhRoot (seed : Nat) (a : Adrs) : Nat → Nat → Nat → List Nat → Nat
  | _, _, node, [] => node
  | j, idx, node, x :: xs =>
    let at_ := { a with high := j + 1, low := idx / 2 }
    slhRoot seed a (j + 1) (idx / 2) (slhHash seed at_ (if idx % 2 = 0 then [node, x] else [x, node])) xs

/-- A chain of hashes: n of them from position i. -/
def slhChain (seed : Nat) (a : Adrs) : Nat → Nat → Nat → Nat
  | 0, _, x => x
  | n + 1, i, x => slhChain seed a n (i + 1) (slhHash seed { a with low := i } [x])

/-- The digits a one-time signature signs: 32 of the message, 3 of their checksum. -/
def wotsDigits (m : Nat) : List Nat :=
  let d := (List.range 32).map (digit 4 32 m)
  d ++ (List.range 3).map (digit 4 3 (d.foldl (fun n x => n + (15 - x)) 0))

/-- The one-time key that a signature of 35 values gives. -/
def wotsKey (seed : Nat) (a : Adrs) (m : Nat) (sig : List Nat) : Nat :=
  let ends := ((wotsDigits m).zip sig).zipIdx.map (fun x => slhChain seed { a with high := x.2 } (15 - x.1.1) x.1.1 x.1.2)
  slhHash seed { a with kind := 1, high := 0, low := 0 } ends

/-- The root of one layer: 35 values of a one-time signature and 9 nodes. -/
def xmssRoot (seed layer tree idx m : Nat) (sig : List Nat) : Nat :=
  let leaf := wotsKey seed { layer := layer, tree := tree, kind := 0, pair := idx } m (sig.take 35)
  slhRoot seed { layer := layer, tree := tree, kind := 2 } 0 idx leaf ((sig.drop 35).take 9)

/-- The root of the layers: n of them from a layer on. -/
def treeRoot (seed : Nat) : Nat → Nat → Nat → Nat → Nat → List Nat → Nat
  | 0, _, _, _, m, _ => m
  | n + 1, layer, tree, idx, m, sig =>
    treeRoot seed n (layer + 1) (tree / 2 ^ 9) (tree % 2 ^ 9) (xmssRoot seed layer tree idx m sig) (sig.drop 44)

/-- The few-time key that a signature of 14 groups of 13 values gives. -/
def forsKey (seed tree leaf md : Nat) (sig : List Nat) : Nat :=
  let a : Adrs := { tree := tree, kind := 3, pair := leaf }
  let roots := (List.range 14).map (fun i =>
    let part := (sig.drop (13 * i)).take 13
    let idx := 2 ^ 12 * i + digit 12 14 md i
    slhRoot seed a 0 idx (slhHash seed { a with low := idx } [part.headD 0]) part.tail)
  slhHash seed { a with kind := 4 } roots

/-- A signature of values verifies a message under a key. -/
def slhCheck (seed root : Nat) (msg sig : List Nat) : Bool :=
  let d := slhDigest (sig.headD 0) seed root msg
  let tree := d / 2 ^ 16 % 2 ^ 54
  let leaf := d % 2 ^ 9
  decide (treeRoot seed 7 0 tree leaf (forsKey seed tree leaf (d / 2 ^ 72) (sig.drop 1)) (sig.drop 183) = root)

/-- A key of 32 bytes and a signature of 7,856 bytes verify a message: the pure form of the scheme, with an empty context string
(DESIGN CHOICE, assumption 30). -/
def slhVerify (key msg sig : List Nat) : Bool :=
  decide (key.length = 32 ∧ sig.length = 7856) &&
    slhCheck (bigEnd (key.take 16)) (bigEnd (key.drop 16)) (0 :: 0 :: msg) ((List.range 491).map (fun i => bigEnd ((sig.drop (16 * i)).take 16)))

end Sys2Proof.Machine
end

