-- ==== Sys2Proof/Machine/Events.lean ====
section
/-!
DEFINITION. The other events of the table: traps at a boundary and register writes as events, page walks, scrubbing, the host link
and the board controller (spec 01 R22, R36, R39, R80; spec 14 R330, R332, R333; spec 15 R351, R353, R366; spec 20 R383, R393;
spec 21 R396 to R407).
-/
namespace Sys2Proof.Machine

/-- An event of the host, the board controller or a link: it happens only while the package has power (R407) (DESIGN CHOICE, assumption 75). -/
def withPower (s : State) (k : State → Host.Outcome State Fault Refusal) : Host.Outcome State Fault Refusal :=
  if s.powered then k s else .fault .noPower

/-! ### Contexts and cores -/

/-- TRAP_ENTRY (R332, R333): a context takes the trap that waits for its boundary. -/
def execTrapEntry (core ctx : Nat) (s : State) : Host.Outcome State Fault Refusal := .next ((s.takePending core ctx).getD s)

/-- A write of a register that meets the illegal-operand trap, in a context. -/
def State.illegalFor (s : State) (core ctx : Nat) : State :=
  let c := s.ctx core ctx
  s.ownTrap core ctx { cls := 0x27, cmdaddr := c.group.toNat, inst := (s.whoCtx core ctx 0).inst } c.group

/-- GENPROF_WRITE (R5, R202, R330): it waits for the context's engine commands; a reserved value traps. -/
def execGenprofWrite (core ctx value : Nat) (s : State) : Host.Outcome State Fault Refusal :=
  .next (match s.genprofWrite core ctx value with
    | .ok s1 => s1
    | .illegal => s.illegalFor core ctx
    | .wait => s)

/-- REWIND_WRITE (R148). -/
def execRewindWrite (core value : Nat) (s : State) : Host.Outcome State Fault Refusal := .next (s.rewindWrite core value)

/-- RING_REGISTER_WRITE (R163): a write while the ring holds commands, or of a ring beyond the scratchpad, traps in the writing
context. -/
def execRingRegisterWrite (core eng value : Nat) (s : State) : Host.Outcome State Fault Refusal :=
  .next (match (s.eng core eng).ringWrite value with
    | some g => s.setEng core eng g
    | none => s.illegalFor core (if s.curCore = core then s.curCtx else 3))

/-- HQCTL_WRITE (R71, R72). -/
def execHqctlWrite (shed q value : Nat) (s : State) : Host.Outcome State Fault Refusal := .next (s.hqWrite shed q 0 value)

/-- HEATCLR_WRITE (R39): the SPACEID dword frees the entry of the page whose address was written. -/
def execHeatclrWrite (die pen value : Nat) (s : State) : Host.Outcome State Fault Refusal :=
  .next (s.heatClear die pen (s.heatReg die pen).clr.toNat value)

/-- PAGE_WALK (R22, R27, R31, R33, R34): a walk for an access of a context reads the entries from level 4 down, or waits for a slot; a
leaf that passes its checks gets its bits and is cached, and a fault is left to the access that raises it (DEDUCED, assumption 69). -/
def pageWalk (core ctx va kind : Nat) (s : State) : State :=
  let sp := (s.ctx core ctx).space
  if !canonical va || (systemHalf va && !sp.sys) then s
  else match s.walkMiss sp (s.whoCtx core ctx 0) (kind % 4) false va with
    | (.ok _ _, s1) => s1
    | (.busy, s1) => s1
    | _ => s

def execPageWalk (core ctx va kind : Nat) (s : State) : Host.Outcome State Fault Refusal := .next (pageWalk core ctx va kind s)

/-- PATROL_SCRUB (R80): an uncorrectable line has no reader here; it is reported and stays as it is (DESIGN CHOICE, assumption 66). -/
def patrolScrub (line : Nat) (s : State) : State :=
  if s.bad.contains line then
    { s with hostRecs := ({ cls := 0x32, addr := 64 * line, tick := s.tick } : FRec).image :: s.hostRecs, msgs := (3, 0, 0) :: s.msgs }
  else s

def execPatrolScrub (line : Nat) (s : State) : Host.Outcome State Fault Refusal := .next (patrolScrub line s)

/-! ### Register blocks (R396, R397) -/

/-- The firmware has been accepted and the host link is up: until then the device is in reset, and neither the host nor the board
controller sets it up (R406, R407) (DEDUCED, assumption 16). -/
def State.up (s : State) : Bool := s.firmware == some true && s.hostLink

/-- The mailbox of the board controller, whose exchanges the spec does not give (DESIGN CHOICE, assumption 76). -/
def isMailbox (addr : Nat) : Bool := tierOf addr == .regs && (regBlock addr).any (fun b => b.1 == 26)

/-- The host and the board controller. -/
def outer (master : Nat) : Bool := master == hostMaster || master == 82

/-- The host link, which joins die 4, finds a way to the home of an address; a host access that has none does nothing (R20, R404) (DEDUCED,
assumption 71). -/
def State.hostWay (s : State) (addr : Nat) : Bool := s.routed 4 (homeDie addr)

/-- A master's write of 4 or 8 bytes to a register, checked against the block's access table (R35); a hole has no register. -/
def State.regPut (s : State) (master addr n value : Nat) : State :=
  if (outer master && !s.up) || (master == hostMaster && !s.hostWay addr) || tierOf addr != .regs || !regShape addr n || !regAt addr || !s.granted master addr n true then s
  else s.regWrite master addr n value false

/-- The host writes a register of a block. -/
def State.hostPut (s : State) (b off value : Nat) : State := s.regPut hostMaster (regAddr b off) 8 value

/-- The host writes a register of a pen's block. -/
def penPut (pen off value : Nat) (s : State) : Host.Outcome State Fault Refusal :=
  withPower s (fun s => .next (if pen < 16 then s.hostPut (10 + pen) off value else s))

/-- LQCTL_WRITE (R353). -/
def execLqctlWrite (pen q value : Nat) (s : State) : Host.Outcome State Fault Refusal :=
  if q < 8 then penPut pen (0x10 * q + 8) value s else withPower s .next

/-- PRIOSET_WRITE (R361). -/
def execPriosetWrite (pen value : Nat) (s : State) : Host.Outcome State Fault Refusal := penPut pen 0x80 value s

/-- PENCTL_ENABLE (R369). -/
def execPenctlEnable (pen value : Nat) (s : State) : Host.Outcome State Fault Refusal := penPut pen 0x88 value s

/-- PENCTL_RESUME (R363, R374). -/
def execPenctlResume (pen value : Nat) (s : State) : Host.Outcome State Fault Refusal := penPut pen 0x88 value s

/-- PENCTL_ABANDON (R363, R357). -/
def execPenctlAbandon (pen value : Nat) (s : State) : Host.Outcome State Fault Refusal := penPut pen 0x88 value s

/-- CUTREQ_WRITE (R151, R398): the low dword, then the high one, which submits the request. -/
def execCutreqWrite (pen value : Nat) (s : State) : Host.Outcome State Fault Refusal :=
  withPower s (fun s => .next (if pen < 16 then (s.hostPut (10 + pen) 0x90 (value % 2 ^ 64)).hostPut (10 + pen) 0x98 (value / 2 ^ 64) else s))

/-- C3START_WRITE (R366). -/
def execC3startWrite (core value : Nat) (s : State) : Host.Outcome State Fault Refusal :=
  withPower s (fun s => .next (if core < 864 then s.hostPut (1 + core / 96) (0x30000 + 0x10 * (core % 96)) value else s))

/-- BCNCTL_WRITE (R383). -/
def execBcnctlWrite (value : Nat) (s : State) : Host.Outcome State Fault Refusal :=
  withPower s (fun s => .next (s.hostPut 0 0x08 value))

/-- BRKCTL_GO (R393). A confidential pen's register ignores the host (R392). -/
def execBrkctlGo (pen value : Nat) (s : State) : Host.Outcome State Fault Refusal := penPut pen 0xE8 value s

/-- BRKCTL_ENABLE (R393). -/
def execBrkctlEnable (pen value : Nat) (s : State) : Host.Outcome State Fault Refusal := penPut pen 0xE8 value s

/-- A master's write of a register; the mailbox's exchanges are not given. -/
def blockWriteBy (master addr n value : Nat) (s : State) : Host.Outcome State Fault Refusal :=
  withPower s (fun s => if isMailbox addr && outer master then .refused .boardMailbox else .next (s.regPut master addr n value))

/-- REG_WRITE_LOW_HALF: the half is staged (R396). -/
def execRegWriteLowHalf (master addr value : Nat) (s : State) : Host.Outcome State Fault Refusal := blockWriteBy master (addr / 8 * 8) 4 value s

/-- REG_WRITE_HIGH_HALF: the whole register is written (R396). -/
def execRegWriteHighHalf (master addr value : Nat) (s : State) : Host.Outcome State Fault Refusal := blockWriteBy master (addr / 8 * 8 + 4) 4 value s

/-- REGISTER_WRITE: eight bytes at once (R396). -/
def execRegisterWrite (master addr value : Nat) (s : State) : Host.Outcome State Fault Refusal := blockWriteBy master (addr / 8 * 8) 8 value s

/-! ### The host link (R399, R400) -/

/-- Device memory that the host reaches: near or far, through its master number. -/
def State.hostMay (s : State) (addr len : Nat) (write : Bool) : Bool :=
  s.hostLink && tableOk addr && s.hostWay addr && s.granted 81 addr len write

/-- HOST_WRITE (R399): device memory or a register block. A partial write of a line with an uncorrectable error is not made, and is
reported (R80). -/
def execHostWrite (addr len value : Nat) (s : State) : Host.Outcome State Fault Refusal :=
  withPower s (fun s =>
    if isMailbox addr then .refused .boardMailbox
    else if tierOf addr = .regs then .next (s.regPut hostMaster addr len value)
    else if !s.hostMay addr len true then .next s
    else if s.badWrite [(addr, len)] then .next (patrolScrub (addr / 64) s)
    else .next (s.physWrite none addr len value))

/-- HOST_READ (R399): the value current now, and the stored ciphertext of what is held encrypted (R350). The spec gives a host's read of a line
with an uncorrectable error no context to stop: the bytes are returned as they stand, with no record (DESIGN CHOICE, assumption 121). -/
def execHostRead (addr len : Nat) (s : State) : Host.Outcome State Fault Refusal :=
  withPower s (fun s =>
    if isMailbox addr then .refused .boardMailbox
    else if tierOf addr = .regs then
      (if s.hostLink ∧ s.hostWay addr ∧ regShape addr len ∧ regAt addr ∧ s.granted 81 addr len false then
         .next { s with hostReads := (addr, s.regRead hostMaster addr len false) :: s.hostReads }
       else .next s)
    else if !s.hostMay addr len false then .next s
    else .next { s with hostReads := (addr, s.stored addr len) :: s.hostReads })

/-- HOST_PROCESSOR_WRITE (R400, R182): the host's own write to its memory; it goes through no device translation. -/
def execHostProcessorWrite (addr len value : Nat) (s : State) : Host.Outcome State Fault Refusal :=
  withPower s (fun s =>
    if tierOf addr = .host ∧ addr + len ≤ 2 ^ 52 then .next (s.physWrite none addr len value) else .next s)

/-! ### Links (R402 to R404) -/

/-- Port numbers (R397): fabric port i of die d, or the UCIe link between dies a < b. -/
def isLink (n : Nat) : Bool := decide (n < 36 ∧ n / 4 ≠ 9) || (decide (64 ≤ n ∧ n < 208) && decide ((n - 64) / 16 < (n - 64) % 16 ∧ (n - 64) % 16 < 9))

/-- FLIT_CRC_RETRY (R402): the flit is resent and delivered once. -/
def execFlitCrcRetry (link : Nat) (s : State) : Host.Outcome State Fault Refusal :=
  withPower s (fun s =>
    let l := mget {} s.links link
    if isLink link ∧ l.up then .next { s with links := mset s.links link { l with retries := l.retries + 1 } } else .next s)

/-- What becomes of a packet that can leave this package no more: its command fails (R404, R367). -/
def strand : Pkt → Pkt
  | .put _ core cmd _ _ _ _ _ _ => .refusal core cmd 0x24 0
  | .getReq _ core cmd _ _ _ _ _ => .refusal core cmd 0x24 0
  | .ramo core cmd _ _ _ _ _ _ _ => .refusal core cmd 0x24 0
  | p => p

/-- A core's packets reach no fabric port any more. -/
def State.islanded (s : State) (core : Nat) : Bool := !s.fabricFrom (dieOf core)

/-- A packet of this package for another one finds no port. -/
def State.outbound (s : State) : Pkt → Bool
  | .put _ core _ pkg _ _ _ _ _ => decide (core < 65536) && pkg != s.fabid && s.islanded core
  | .getReq _ core _ pkg _ _ _ _ => decide (core < 65536) && pkg != s.fabid && s.islanded core
  | .ramo core _ pkg _ _ _ _ _ _ => decide (core < 65536) && pkg != s.fabid && s.islanded core
  | _ => false

/-- A message of a member of this package to the home of its group finds none. -/
def State.toGroupHome (s : State) : Pkt → Bool
  | .groupMsg _ m _ => !s.foreign m && s.islanded (m % 4096 / 4)
  | .collMsg _ m _ _ _ _ => !s.foreign m && s.islanded (m % 4096 / 4)
  | _ => false

/-- Contexts that wait for the answer of a group's home at another package, and whose messages find no port. -/
def State.askers (s : State) : List (Nat × Nat) :=
  ((s.cores.map Prod.fst).filter s.islanded).flatMap (fun core => ([0, 1, 2, 3].filter (fun x =>
    [some (0, 0), some (2, 0), some (askGen, 0)].contains (s.ctx core x).req && !s.groups.any (fun g => g.2.joins.contains (s.member core x)))).map
      (fun x => (core, x)))

/-- A context's group operation fails with class 0x24: the one it waits at, or one that is behind it (R367). -/
def State.failAsk (s : State) (p : Nat × Nat) : State :=
  let c := s.ctx p.1 p.2
  (s.modCtx p.1 p.2 (fun c => { c with req := none })).ownTrap p.1 p.2
    { cls := 0x24, cmdaddr := c.group.toNat, inst := (s.whoCtx p.1 p.2 0).inst } c.group c.state
def State.failLeave (s : State) : Pkt → State
  | .groupMsg _ m 1 => if s.foreign m || !s.islanded (m % 4096 / 4) then s
    else s.pendTrap (m % 4096 / 4) (m % 4) { cls := 0x24, cmdaddr := (s.ctx (m % 4096 / 4) (m % 4)).group.toNat, inst := (s.whoCtx (m % 4096 / 4) (m % 4) 0).inst }
  | _ => s

/-- Collectives of a core that wait for a group's home at another package. -/
def State.remoteColls (s : State) (core : Nat) : List Cmd :=
  (s.eng core 4).cmds.filter (fun m => m.major == 0x74 && m.sent && !m.ended && !m.ok && s.remoteGroup core (field m.opc 52 12))

/-- Dies that reach no fabric port any more: their commands and group operations under way to other packages fail (R367, R404). -/
def State.stranded (s : State) : State :=
  let s1 : State := { s with net := (s.net.filter (fun p => !s.toGroupHome p)).map (fun p => if s.outbound p then strand p else p) }
  let s2 := s.net.foldl State.failLeave (s.askers.foldl State.failAsk s1)
  ((s.cores.map Prod.fst).filter s.islanded).foldl (fun s core => (s.remoteColls core).foldl (fun s m =>
    s.refuseCmd core 4 m ⟨0x24, 0, 7⟩ kRead 0 (m.opc % 2 ^ 52)) s) s2

/-- LINK_OUT_OF_SERVICE (R404): message 4; what is under way to other packages from a die that no fabric port remains for fails. What has
no way between dies any more fails where it is performed or arrives: there its route is asked for (`State.routed`). -/
def linkOut (link : Nat) (s : State) : State :=
  let l := mget {} s.links link
  if !isLink link ∨ !l.up then s
  else ({ s with links := mset s.links link { l with up := false, out := true }, msgs := (4, 0, link) :: s.msgs } : State).stranded

def execLinkOutOfService (link : Nat) (s : State) : Host.Outcome State Fault Refusal := withPower s (fun s => .next (linkOut link s))

/-- LINK_RETRAIN (R404). -/
def execLinkRetrain (link : Nat) (s : State) : Host.Outcome State Fault Refusal :=
  withPower s (fun s =>
    if isLink link then .next { s with links := mset s.links link { mget {} s.links link with up := true, out := false } } else .next s)

/-! ### The board controller (R35, R36, R351, R403, R406, R407) -/

/-- A die's CSPWIN and a root register as they are written: their reserved bits stay zero (R10, R14, R18). -/
def cspwinOf (x : Dword) : Dword := dw (field x.toNat 0 7 + field x.toNat 16 7 * 2 ^ 16)
def rootOf (x : Dword) : Dword := dw (field x.toNat 12 40 * 2 ^ 12)

/-- A shed's trace buffer drains to its pen's ring, so many records at most, as far as that has room. -/
def State.flushTrace (s : State) (pen sh : Nat) : Nat → State
  | 0 => s
  | fuel + 1 => match (s.shed sh).trace with
    | [] => s
    | r :: _ => if !(s.pen pen).trcRoom then s
      else ((s.setShed sh ((s.shed sh).popTrace sh s.tick)).ringTrace pen r).flushTrace pen sh fuel

/-- A shed leaves a pen's configuration: what its trace buffer holds goes to that pen's ring, and what has no room there is lost, since it
goes to no other pen's (R392) (DESIGN CHOICE, assumption 124). -/
def State.untraced (s : State) (pen sh : Nat) : State :=
  let s1 := s.flushTrace pen sh 513
  s1.setShed sh ({ s1.shed sh with trace := [], traceDrop := 0 } : Shed).settleOff

/-- PEN_CONFIGURE (R351): the next configuration for the pen, while it is idle; a shed belongs to at most one pen. Reflection entries
beyond a share that shrinks go as R341 replaces them. The spec does not say what becomes of what the pen has cached: its translations and walks
end with the old configuration (DESIGN CHOICE, assumption 9), its heat entries stand, whichever pen's share their numbers then belong to
(DESIGN CHOICE, assumption 120), and its sheds' trace buffers are emptied. -/
def penConfigure (pen : Nat) (s : State) : State :=
  match s.penCfgs.find? (fun c => c.pen == pen) with
  | none => s
  | some c =>
    let taken := c.sheds.any (fun sh => decide (72 ≤ sh) || (s.penOfShed sh).any (· != pen))
    if !s.up ∨ 16 ≤ pen ∨ !s.penIdle pen ∨ taken then s
    else
      let s1 := (s.pen pen).sheds.foldl (fun s sh => s.untraced pen sh) s
      let p := s1.pen pen
      let p1 : Pen := { p with sheds := c.sheds, conf := c.conf, tenant := c.tenant, spaceid := c.spaceid, wb0 := rootOf c.wb0, wb1 := rootOf c.wb1,
                               grpLo := c.grpLo, grpHi := c.grpHi, spans := c.spans, cspwin := c.cspwin.map (fun p => (p.1, cspwinOf p.2)),
                               walkSlots := c.walkSlots, heatShare := c.heatShare, ways := c.ways, chanShare := c.chanShare, vchan := c.vchan,
                               rfcap := c.rfcap, refl := trimRefl c.rfcap p.refl.length p.refl }
      ({ s1 with penCfgs := s.penCfgs.erase c, tlb := s.tlb.filter (fun t => t.pen != pen),
                 walks := s.walks.filter (fun k => k.pen != pen) } : State).setPen pen p1

def execPenConfigure (pen : Nat) (s : State) : Host.Outcome State Fault Refusal := withPower s (fun s => .next (penConfigure pen s))

/-- ACCESS_TABLE_WRITE (R35, R36): a slot of a master's table at a target. The event's value is the model's own form of an entry: base
and limit in units of 64 KiB in bits 35:0 and 72:36, bit 73 the right RW, bit 74 that the slot holds an entry (DESIGN CHOICE, assumption 67). -/
def accessTableWrite (target master slot value : Nat) (s : State) : State :=
  let rest := s.ranges.filter (fun r => !(r.target == target && r.master == master && r.slot == slot))
  if !s.up ∨ 64 ≤ slot ∨ 83 ≤ master then s
  else if field value 74 1 = 0 then { s with ranges := rest }
  else { s with ranges := rest ++ [⟨target, master, slot, field value 0 36 * 2 ^ 16, field value 36 37 * 2 ^ 16, field value 73 1 == 1⟩] }

def execAccessTableWrite (target master slot value : Nat) (s : State) : Host.Outcome State Fault Refusal :=
  withPower s (fun s => .next (accessTableWrite target master slot value s))

/-- FABID_WRITE (R403): by the board controller, before any pen is enabled; 0xFFFF is never assigned. -/
def execFabidWrite (value : Nat) (s : State) : Host.Outcome State Fault Refusal :=
  withPower s (fun s => .next (s.regPut 82 (regAddr 0 0) 8 value))

/-- Bytes of which an image's signature is one: its header's version in 8 bytes and its hash in 32, and its body. The spec gives the header no
layout (DESIGN CHOICE, assumption 30). -/
def State.fwSigned (s : State) : List Nat := bytesOf 8 s.fwVersion ++ bigBytes 32 s.fwHash ++ s.fwImage.map (· % 256)

/-- The board controller accepts an image (R406): its signature verifies under the public key whose hash is fused, and its version is at
least the fused rollback counter. -/
def State.fwAccepted (s : State) : Bool :=
  decide (s.fwRollback ≤ s.fwVersion) && decide (sha256 s.fwKey = s.fwKeyHash) && slhVerify s.fwKey s.fwSigned s.fwSig

/-- FIRMWARE_VERIFY (R406, R407): an accepted image lets the host link come up, with message 5; a rejected one keeps the device in
reset. -/
def firmwareVerify (s : State) : State :=
  if s.firmware.isSome then s
  else if s.fwAccepted then { s with firmware := some true, hostLink := true, msgs := (5, 0, 0) :: s.msgs }
  else { s with firmware := some false }

def execFirmwareVerify (s : State) : Host.Outcome State Fault Refusal := withPower s (fun s => .next (firmwareVerify s))

/-- POWER_UP (R407 steps 1 to 4): the tick counter is 0, the links train, everything else is at reset; the fuses, what the board
controller holds and what the host has received stay. -/
def powerUp (s : State) : State :=
  if s.powered then s
  else { State.reset with powered := true, fwVersion := s.fwVersion, fwHash := s.fwHash, fwSig := s.fwSig, fwImage := s.fwImage,
                          fwKey := s.fwKey, fwKeyHash := s.fwKeyHash, fwRollback := s.fwRollback, penCfgs := s.penCfgs,
                          images := s.images, msgs := s.msgs, hostReads := s.hostReads, hostRecs := s.hostRecs, verdicts := s.verdicts,
                          agenda := s.agenda, curCore := s.curCore, curCtx := s.curCtx, free := s.free, turns := s.turns, stamp := s.stamp }

def execPowerUp (s : State) : Host.Outcome State Fault Refusal := .next (powerUp s)

/-- OVER_TEMPERATURE (R407): reported to the host; at the shutdown limit the power goes and the link drops. The limits are open (DESIGN CHOICE, assumption 17). -/
def overTemperature (temp : Nat) (s : State) : State :=
  if Config.shutdownLimit ≤ temp then { s with overTemp := true, powered := false, hostLink := false }
  else if Config.warnLimit ≤ temp then { s with overTemp := true } else s

def execOverTemperature (temp : Nat) (s : State) : Host.Outcome State Fault Refusal := withPower s (fun s => .next (overTemperature temp s))

/-- IMAGE_ADMISSION (R173): a service of the device's firmware, which runs only once it is accepted (R406). -/
def execImageAdmission (pen : Nat) (s : State) : Host.Outcome State Fault Refusal :=
  withPower s (fun s => .next (if s.firmware = some true then imageAdmission pen s else s))

/-- HOST_LINK_RESET (R333): a c3 stopped by a double trap is reset, to Idle with its registers at their reset values. -/
def hostLinkReset (core : Nat) (s : State) : State :=
  let c := s.ctx core 3
  if c.st = .stopped ∧ c.why = .double then
    (c.pend.foldl (fun s a => s.withdraw core 3 a) s).modCore core (fun k => (k.dropWait 3).setCtx 3 { seq := c.seq })
  else s

def execHostLinkReset (core : Nat) (s : State) : Host.Outcome State Fault Refusal := withPower s (fun s => .next (hostLinkReset core s))

/-! ### Which events happen by themselves -/

/-- An event that the hardware, the host or the board controller brings about. The writes that only a program makes are none of
these: their meanings are what a program's own instruction does. An instruction is no event (DESIGN CHOICE, assumption 70). -/
def spontaneous (i : Instr) : Bool := match i with
  | .queueRefill _ _ => true
  | .queueWithdrawal _ _ => true
  | .chainStep _ => true
  | .engineCommandStart _ _ => true
  | .engineCommandComplete _ _ => true
  | .multicastDestComplete _ _ => true
  | .resultArrival _ _ _ => true
  | .pageWalk _ _ _ _ => true
  | .heatNotificationAppend _ _ => true
  | .writerRetry _ _ => true
  | .writeBlockTimeout _ _ => true
  | .homeSliceOperation _ _ _ => true
  | .futureReissue _ _ _ => true
  | .futureWithdrawal _ _ _ => true
  | .patrolScrub _ => true
  | .stepRetire _ => true
  | .stopArrival _ => true
  | .cutDecision _ => true
  | .cutHalt _ => true
  | .cutreqWrite _ _ => true
  | .trapEntry _ _ => true
  | .genprofWrite _ _ _ => false
  | .rewindWrite _ _ => false
  | .ringRegisterWrite _ _ _ => false
  | .hqctlWrite _ _ _ => false
  | .heatclrWrite _ _ _ => false
  | .launchAccept _ => true
  | .stepSelect _ => true
  | .coreBind _ => true
  | .instanceComplete _ _ => true
  | .priorityAgeing _ _ => true
  | .priosetWrite _ _ => true
  | .priorityPreempt _ => true
  | .preemptLanding _ _ => true
  | .distributorRestore _ _ => true
  | .penctlEnable _ _ => true
  | .penctlResume _ _ => true
  | .penctlAbandon _ _ => true
  | .lqctlWrite _ _ _ => true
  | .c3startWrite _ _ => true
  | .bcnctlWrite _ => true
  | .beacon => true
  | .traceDrain _ => true
  | .shedPowerGate _ => true
  | .traceDrainTimeout _ => true
  | .lostRecordWrite _ => true
  | .brkctlGo _ _ => true
  | .brkctlEnable _ _ => true
  | .regWriteLowHalf m _ _ => m == 81 || m == 82
  | .regWriteHighHalf m _ _ => m == 81 || m == 82
  | .registerWrite m _ _ => m == 81 || m == 82
  | .hostWrite _ _ _ => true
  | .hostRead _ _ => true
  | .hostProcessorWrite _ _ _ => true
  | .putArrival _ => true
  | .putAckArrival _ => true
  | .getRequestArrival _ => true
  | .getReplyArrival _ => true
  | .remoteAtomicArrival _ => true
  | .fabricRefusal _ => true
  | .spanningGroupMessage _ => true
  | .flitCrcRetry _ => true
  | .linkOutOfService _ => true
  | .linkRetrain _ => true
  | .penConfigure _ => true
  | .accessTableWrite _ _ _ _ => true
  | .fabidWrite _ => true
  | .firmwareVerify => true
  | .powerUp => true
  | .overTemperature _ => true
  | .imageAdmission _ => true
  | .hostLinkReset _ => true
  | .shedPowerRestore _ => true
  | .spanningGroupCompletion _ => true
  | _ => false

end Sys2Proof.Machine
end

