-- ==== Sys2Proof/Machine/Memory.lean ====
section
/-!
DEFINITION. The memory instructions (spec 11 R255 to R268, R277, R278): loads and stores of every space, ordered accesses,
atomics and reductions, exact sums, futures and chained loads. Each only issues its access; Perform.lean performs it.
-/
namespace Sys2Proof.Machine

/-- The address of an operand with a displacement (R255). -/
def Ctx.ea (c : Ctx) (a : Nat) (d : Int) : Nat := (c.rd a + dwordOfInt d).toNat

/-! ### Plain loads and stores (R258) -/

/-- A plain load. -/
def plainLoad (spc : Nat) (f : FM) (s : State) : Host.Outcome State Fault Refusal :=
  guard { p := f.p.toNat, undef := sel f.ft && f.sz == 3, xim := 2, rep := repI, src := [(f.a.toNat, sel f.fa)], dst := [f.t.toNat] } s
    (fun s => accessCur false spc (s.cur.ea f.a.toNat (immS 8 f.disp.toNat s.cur.pfx.xims)) (2 ^ f.sz.toNat)
      { seq := 0, op := .load (sel f.ft), dst := some f.t.toNat } s)

/-- A plain store. -/
def plainStore (spc : Nat) (f : FM) (s : State) : Host.Outcome State Fault Refusal :=
  guard { p := f.p.toNat, xim := 2, rep := repI, src := [(f.a.toNat, sel f.fa), (f.t.toNat, sel f.ft)] } s
    (fun s => accessCur true spc (s.cur.ea f.a.toNat (immS 8 f.disp.toNat s.cur.pfx.xims)) (2 ^ f.sz.toNat)
      { seq := 0, op := .store, data := (s.cur.rd f.t.toNat).toNat % 2 ^ (8 * 2 ^ f.sz.toNat) } s)

/-- `ld [sa+d]` (R258). -/
def execLdGlb (f : FM) (s : State) : Host.Outcome State Fault Refusal := plainLoad 0 f s
/-- `ld sp[sa+d]`. -/
def execLdSp (f : FM) (s : State) : Host.Outcome State Fault Refusal := plainLoad 1 f s
/-- `ld sh[sa+d]`. -/
def execLdSh (f : FM) (s : State) : Host.Outcome State Fault Refusal := plainLoad 2 f s
/-- `ld chip[sa+d]`. -/
def execLdChip (f : FM) (s : State) : Host.Outcome State Fault Refusal := plainLoad 3 f s
/-- `st [sa+d]`. -/
def execStGlb (f : FM) (s : State) : Host.Outcome State Fault Refusal := plainStore 0 f s
/-- `st sp[sa+d]`. -/
def execStSp (f : FM) (s : State) : Host.Outcome State Fault Refusal := plainStore 1 f s
/-- `st sh[sa+d]`. -/
def execStSh (f : FM) (s : State) : Host.Outcome State Fault Refusal := plainStore 2 f s
/-- `st chip[sa+d]`. -/
def execStChip (f : FM) (s : State) : Host.Outcome State Fault Refusal := plainStore 3 f s

/-! ### Ordered loads and stores (R259) -/

/-- An access that must be naturally aligned, checked before translation (R256). -/
def aligned (kind va n al : Nat) (s : State) (k : State → State) : State :=
  if va % al ≠ 0 then trapAccess kind va n ⟨0x29, va, 7⟩ s else k s

/-- `ld.acq` (R259). -/
def execLdAcq (f : FMO) (s : State) : Host.Outcome State Fault Refusal :=
  guard { p := f.p.toNat, src := [(f.a.toNat, sel f.fa)], dst := [f.t.toNat] } s (fun s =>
    let va := (s.cur.rd f.a.toNat).toNat
    let n := 2 ^ f.sz.toNat
    aligned kRead va n n s (accessCur false f.spc.toNat va n
      { seq := 0, op := .load (sel f.ft), dst := some f.t.toNat, acq := osAcq f.os.toNat }))

/-- `st.rel` (R259). -/
def execStRel (f : FMO) (s : State) : Host.Outcome State Fault Refusal :=
  guard { p := f.p.toNat, src := [(f.a.toNat, sel f.fa), (f.t.toNat, sel f.ft)] } s (fun s =>
    let va := (s.cur.rd f.a.toNat).toNat
    let n := 2 ^ f.sz.toNat
    aligned kWrite va n n s (accessCur true f.spc.toNat va n
      { seq := 0, op := .store, data := (s.cur.rd f.t.toNat).toNat % 2 ^ (8 * n), rel := osRel f.os.toNat }))

/-! ### Atomics and reductions (R261 to R263) -/

/-- Width in bytes of an atomic: `.w` or `.d`. -/
def amoBytes (sz : BitVec 1) : Nat := if sz = 0 then 4 else 8

/-- A value-returning atomic other than `cas`. -/
def amo (op : Nat) (f : FA) (s : State) : Host.Outcome State Fault Refusal :=
  guard { p := f.p.toNat, rep := repR, src := [(f.a.toNat, sel f.fa), (f.b.toNat, sel f.fb)], dst := [f.d.toNat] } s (fun s =>
    let va := (s.cur.rd f.a.toNat).toNat
    let n := amoBytes f.sz
    aligned kRmw va n n s (globalCur kRmw true true .never va n
      { seq := 0, op := .rmw op true, data := (s.cur.rd f.b.toNat).toNat % 2 ^ (8 * n), dst := some f.d.toNat, cls := 12,
        acq := osAcq f.os.toNat, rel := osRel f.os.toNat }))

/-- A reduction (R216, R263). -/
def red (op : Nat) (f : FRed) (s : State) : Host.Outcome State Fault Refusal :=
  guard { p := f.p.toNat, rep := repR, src := [(f.a.toNat, sel f.fa), (f.b.toNat, sel f.fb)] } s (fun s =>
    let va := (s.cur.rd f.a.toNat).toNat
    let n := amoBytes f.sz
    aligned kRmw va n n s (globalCur kRmw true true .never va n
      { seq := 0, op := .rmw op false, data := (s.cur.rd f.b.toNat).toNat % 2 ^ (8 * n), cls := 12, rel := osRel f.os.toNat }))

/-- `amo.add` (R261). -/
def execAmoAdd (f : FA) (s : State) : Host.Outcome State Fault Refusal := amo 0 f s
/-- `amo.and`. -/
def execAmoAnd (f : FA) (s : State) : Host.Outcome State Fault Refusal := amo 1 f s
/-- `amo.or`. -/
def execAmoOr (f : FA) (s : State) : Host.Outcome State Fault Refusal := amo 2 f s
/-- `amo.xor`. -/
def execAmoXor (f : FA) (s : State) : Host.Outcome State Fault Refusal := amo 3 f s
/-- `amo.min`. -/
def execAmoMin (f : FA) (s : State) : Host.Outcome State Fault Refusal := amo 4 f s
/-- `amo.max`. -/
def execAmoMax (f : FA) (s : State) : Host.Outcome State Fault Refusal := amo 5 f s
/-- `amo.minu`. -/
def execAmoMinu (f : FA) (s : State) : Host.Outcome State Fault Refusal := amo 6 f s
/-- `amo.maxu`. -/
def execAmoMaxu (f : FA) (s : State) : Host.Outcome State Fault Refusal := amo 7 f s
/-- `amo.swap`. -/
def execAmoSwap (f : FA) (s : State) : Host.Outcome State Fault Refusal := amo 8 f s
/-- `red.add` (R263). -/
def execRedAdd (f : FRed) (s : State) : Host.Outcome State Fault Refusal := red 0 f s
/-- `red.and`. -/
def execRedAnd (f : FRed) (s : State) : Host.Outcome State Fault Refusal := red 1 f s
/-- `red.or`. -/
def execRedOr (f : FRed) (s : State) : Host.Outcome State Fault Refusal := red 2 f s
/-- `red.xor`. -/
def execRedXor (f : FRed) (s : State) : Host.Outcome State Fault Refusal := red 3 f s
/-- `red.min`. -/
def execRedMin (f : FRed) (s : State) : Host.Outcome State Fault Refusal := red 4 f s
/-- `red.max`. -/
def execRedMax (f : FRed) (s : State) : Host.Outcome State Fault Refusal := red 5 f s
/-- `red.minu`. -/
def execRedMinu (f : FRed) (s : State) : Host.Outcome State Fault Refusal := red 6 f s
/-- `red.maxu`. -/
def execRedMaxu (f : FRed) (s : State) : Host.Outcome State Fault Refusal := red 7 f s

/-- `amo.cas` (R262): B and the next register; an odd B, which a `rep` may reach, is undefined. -/
def execAmoCas (f : FA) (s : State) : Host.Outcome State Fault Refusal :=
  guard { p := f.p.toNat, undef := decide (f.b.toNat % 2 = 1), rep := repR,
          src := [(f.a.toNat, sel f.fa), (f.b.toNat, sel f.fb), (f.b.toNat + 1, sel f.fb)], dst := [f.d.toNat] } s (fun s =>
    let va := (s.cur.rd f.a.toNat).toNat
    let n := amoBytes f.sz
    aligned kRmw va n n s (globalCur kRmw true true .never va n
      { seq := 0, op := .rmw 9 true, data := (s.cur.rd f.b.toNat).toNat % 2 ^ (8 * n),
        data2 := (s.cur.rd (f.b.toNat + 1)).toNat % 2 ^ (8 * n), dst := some f.d.toNat, cls := 12,
        acq := osAcq f.os.toNat, rel := osRel f.os.toNat }))

/-! ### Exact sums (R264 to R266) -/

/-- `xsum.add` (R264). -/
def execXsumAdd (f : FXa) (s : State) : Host.Outcome State Fault Refusal :=
  guard { p := f.p.toNat, src := [(f.a.toNat, sel f.fa), (f.b.toNat, sel f.fb)] } s (fun s =>
    let va := (s.cur.rd f.a.toNat).toNat
    aligned kRmw va 64 64 s (globalCur kRmw true true .never va 64
      { seq := 0, op := .xadd f.ty.toNat, data := (s.cur.rd f.b.toNat).toNat % 2 ^ (if f.ty = 0 then 32 else 16), cls := 12,
        rel := osRel f.os.toNat }))

/-- `xsum.merge` once its cells are known: the source is translated as a load, then the destination as a
read-modify-write. The source's heat is counted when the merge is issued (R37). -/
def mergeCur (dst src : Nat) (rel : Option Nat) (s : State) : State :=
  let w := s.whoAcc
  let sp := s.cur.space
  let (x, s1) := s.xlate sp w kRead true src 64
  if s.cur.acqHeld then blockCur s
  else if x.busy then blockCur s1
  else match x.flt with
  | some f => trapAccess kRead src 64 f s1
  | none =>
    let s2 := globalCur kRmw true true .never dst 64
      { seq := 0, op := .xmerge, segs2 := x.segs, data2 := src, val := x.leaf, cls := 12, rel := rel } s1
    if s2.cur.seq = s.cur.seq then s2 else s2.heatAll w sp src x

/-- `xsum.merge` (R265). -/
def execXsumMerge (f : FXm) (s : State) : Host.Outcome State Fault Refusal :=
  guard { p := f.p.toNat, src := [(f.a.toNat, sel f.fa), (f.b.toNat, sel f.fb)] } s (fun s =>
    let dst := (s.cur.rd f.a.toNat).toNat
    let src := (s.cur.rd f.b.toNat).toNat
    aligned kRead src 64 64 s (fun s => aligned kRmw dst 64 64 s (mergeCur dst src (osRel f.os.toNat))))

/-- `xsum.read` (R266). -/
def execXsumRead (f : FXr) (s : State) : Host.Outcome State Fault Refusal :=
  guard { p := f.p.toNat, src := [(f.a.toNat, sel f.fa)], dst := [f.d.toNat] } s (fun s =>
    let va := (s.cur.rd f.a.toNat).toNat
    aligned kRead va 64 64 s (globalCur kRead true false .load va 64
      { seq := 0, op := .xread f.ty.toNat f.rnd.toNat false, dst := some f.d.toNat, cls := 4, acq := osAcq f.os.toNat }))

/-- `xsum.read.clr` (R266). -/
def execXsumReadClr (f : FXr) (s : State) : Host.Outcome State Fault Refusal :=
  guard { p := f.p.toNat, src := [(f.a.toNat, sel f.fa)], dst := [f.d.toNat] } s (fun s =>
    let va := (s.cur.rd f.a.toNat).toNat
    aligned kRmw va 64 64 s (globalCur kRmw true true .never va 64
      { seq := 0, op := .xread f.ty.toNat f.rnd.toNat true, dst := some f.d.toNat, cls := 12, acq := osAcq f.os.toNat }))

/-! ### Futures (R267, R268) -/

/-- `fld` (R67 to R70, R118, R267): an acquire at package scope (DEDUCED, assumption 29). -/
def execFld (f : FU) (s : State) : Host.Outcome State Fault Refusal :=
  guard { p := f.p.toNat, src := [(f.a.toNat, sel f.fa)], dst := [f.d.toNat] } s (fun s =>
    let va := (s.cur.rd f.a.toNat).toNat
    aligned kRead va 16 16 s (globalCur kRead true false .load va 16
      { seq := 0, op := .fld false, dst := some f.d.toNat, cls := 4, acq := some 3 }))

/-- `fld.take` (R267): it clears FULL. -/
def execFldTake (f : FU) (s : State) : Host.Outcome State Fault Refusal :=
  guard { p := f.p.toNat, src := [(f.a.toNat, sel f.fa)], dst := [f.d.toNat] } s (fun s =>
    let va := (s.cur.rd f.a.toNat).toNat
    aligned kRmw va 16 16 s (globalCur kRmw true true .load va 16
      { seq := 0, op := .fld true, dst := some f.d.toNat, cls := 12, acq := some 3 }))

/-- `ffill` (R69, R118, R268): a release at package scope. -/
def execFfill (f : FAB) (s : State) : Host.Outcome State Fault Refusal :=
  guard { p := f.p.toNat, src := [(f.a.toNat, sel f.fa), (f.b.toNat, sel f.fb)] } s (fun s =>
    let va := (s.cur.rd f.a.toNat).toNat
    aligned kRmw va 16 16 s (globalCur kRmw true true .never va 16
      { seq := 0, op := .ffill, data := (s.cur.rd f.b.toNat).toNat, cls := 12, rel := some 3 }))

/-! ### Chained loads (R277, R278) -/

/-- A chain is issued, behind a pending acquire (R111): its entry takes its place, and the chain stands at step 0 (R129, R132). -/
def chainCur (d a fin ns os : Nat) (s : State) : State :=
  let w := s.whoCtx s.curCore s.curCtx s.cur.group.toNat
  let a0 := (s.cur.rd a).toNat
  let acc : Acc := { seq := 0, op := .chain fin ns, va := a0, len := if fin < 4 then 2 ^ fin else 8, data := (s.cur.rd (a + 1)).toNat,
                     data2 := (s.cur.rd (a + 2)).toNat, dst := some d, cls := if fin < 4 then 4 else 12, acq := osAcq os, pc := s.cur.group,
                     inst := w.inst, key := w.key }
  let chain : FChain := { id := s.nextPkt, core := s.curCore, isCtx := true, ctx := s.curCtx, seq := s.cur.seq, step := 0, addr := a0,
                          die := dieOf s.curCore }
  if s.cur.acqHeld then blockCur s
  else fall 1 ({ s with nextPkt := s.nextPkt + 1, fchains := s.fchains ++ [chain] }.onCur (·.issueAcc acc))

/-- A chain with a final atomic is a held effect, at which its context stalls for a later step, and which has no effect beyond a
decided L (R146, R147, R153) (DEDUCED, assumption 40). -/
def chainAtomic (d a fin ns os : Nat) (s : State) : State :=
  match s.held s.curCore s.curCtx s.cur.k with
  | .stall => holdCur s
  | .drop => fall 1 s
  | .ok => chainCur d a fin ns os s

/-- `chain.ld` (R278). -/
def execChainLd (f : FChL) (s : State) : Host.Outcome State Fault Refusal :=
  guard { p := f.p.toNat, undef := decide (f.a.toNat % 2 = 1), src := [(f.a.toNat, sel f.fa), (f.a.toNat + 1, sel f.fa)], dst := [f.d.toNat] } s
    (chainCur f.d.toNat f.a.toNat f.fin.toNat f.ns.toNat f.os.toNat)

/-- What a chain with a final atomic needs: three registers. -/
def chainNeed (f : FChA) : Need :=
  { p := f.p.toNat, undef := decide (f.a.toNat % 2 = 1 ∨ f.a.toNat = 30),
    src := [(f.a.toNat, sel f.fa), (f.a.toNat + 1, sel f.fa), (f.a.toNat + 2, sel f.fa)], dst := [f.d.toNat] }

/-- `chain.add` (R278). -/
def execChainAdd (f : FChA) (s : State) : Host.Outcome State Fault Refusal :=
  guard (chainNeed f) s (chainAtomic f.d.toNat f.a.toNat 4 f.ns.toNat f.os.toNat)

/-- `chain.swap` (R278). -/
def execChainSwap (f : FChA) (s : State) : Host.Outcome State Fault Refusal :=
  guard (chainNeed f) s (chainAtomic f.d.toNat f.a.toNat 5 f.ns.toNat f.os.toNat)

end Sys2Proof.Machine
end

