-- ==== Sys2Proof/Machine/Parks.lean ====
section
/-!
DEFINITION. Writers that wait on a write-blocked page (spec 01 R42, R43): where each agent's wait stands, its retry, and its timeout.
-/
namespace Sys2Proof.Machine

/-- The engine command of an agent 4 to 7 that waits on WBLK. -/
def State.parkedCmd (s : State) (core agent : Nat) : Option Cmd :=
  (s.eng core (agent - 3)).cmds.find? (fun m => m.wblk.isSome && !m.ended)

/-- The chain of the context of an agent 8 to 11 that waits on WBLK. -/
def State.parkedChain (s : State) (core agent : Nat) : Option FChain :=
  s.fchains.find? (fun c => c.core == core && c.isCtx && c.ctx == agent - 8 && c.wblk.isSome)

/-- A wait on WBLK, with the space its writer uses and the die it waits on. -/
structure Parked where
  park : Park
  sp : Space
  die : Nat
  deriving Repr

/-- What a wait of an agent is. Agents 0 to 3 are contexts of a core, 4 to 7 its engines M, V, X and F, 8 to 11 the final atomics of the
chains of its contexts c0 to c3, and 12 the write of its save area. For agents 13 to 15 the first number is no core: it is an instance
whose output or completion record the distributor writes, the place of an arrival in the list of arrivals, and a pen that writes the
completion record of a refused host launch. -/
def State.parkOf (s : State) (core agent : Nat) : Option Parked :=
  if agent < 4 then (s.ctx core agent).wblk.map (fun p => ⟨p, (s.ctx core agent).space, dieOf core⟩)
  else if agent < 8 then (s.parkedCmd core agent).bind (fun m => m.wblk.map (fun p => ⟨p, s.cmdSpace core m, dieOf core⟩))
  else if agent < 12 then (s.parkedChain core agent).bind (fun c => c.wblk.map (fun p => ⟨p, (s.ctx core c.ctx).space, c.die⟩))
  else match agent with
    | 12 => (s.core core).pre.bind (fun q => q.wblk.map (fun p => ⟨p, s.preSpace core q, dieOf core⟩))
    | 13 => (s.inst? core).bind (fun i => i.wblk.map (fun p => ⟨p, i.space (s.pen i.pen).conf, (s.pen i.pen).die⟩))
    | 14 => s.arrs[core]?.bind (fun a => a.wblk.map (fun p => ⟨p, s.arrSpace a.pkt, dieOf a.pkt.target.1⟩))
    | 15 => (s.pen core).refusing.map (fun r => ⟨r.2.2, (s.pen core).hostSpace, (s.pen core).die⟩)
    | _ => none

/-- Replace an agent's park. The record of a refused host launch stands until it is written, so that its wait, when it is over, is no
longer parked. -/
def State.setPark (s : State) (core agent : Nat) (p : Option Park) : State :=
  if agent < 4 then s.modCtx core agent (fun c => { c with wblk := p })
  else if agent < 8 then (match s.parkedCmd core agent with
    | some m => s.setCmd core (agent - 3) { m with wblk := p }
    | none => s)
  else if agent < 12 then (match s.parkedChain core agent with
    | some c => s.putChain { c with wblk := p }
    | none => s)
  else match agent with
    | 12 => s.modCore core (fun c => { c with pre := c.pre.map (fun q => { q with wblk := p }) })
    | 13 => s.modInst core (fun i => { i with wblk := p })
    | 14 => { s with arrs := s.arrs.modify core (fun a => { a with wblk := p }) }
    | 15 => s.setPen core { s.pen core with refusing := (s.pen core).refusing.map (fun r => (r.1, r.2.1, p.getD { r.2.2 with parked := false, woken := true })) }
    | _ => s

/-- The page of a parked writer is still write-blocked. -/
def State.stillBlocked (s : State) (sp : Space) (va : Nat) : Bool := match s.walk sp va with
  | .leaf e _ _ => field e 62 1 == 1
  | .bad _ _ => false

/-- WRITER_RETRY (R42): a writer that an invalidation woke, or that found the list full 64 ticks ago, translates again: it goes on, or
parks once more when the list has a place. A parked writer stays. -/
def writerRetry (core agent : Nat) (s : State) : State :=
  match s.parkOf core agent with
  | none => s
  | some w =>
    if !w.park.mayTry s.tick then s
    else if s.stillBlocked w.sp w.park.va then s.setPark core agent (some (s.parkAgain w.die w.park))
    else s.setPark core agent none

/-- WRITER_RETRY. -/
def execWriterRetry (core agent : Nat) (s : State) : Host.Outcome State Fault Refusal := .next (writerRetry core agent s)

/-! ### The timeout (R43) -/

/-- A context stops at its instruction. -/
def ctxTimeout (core ctx : Nat) (w : Parked) (s : State) : State :=
  let c := s.ctx core ctx
  let p := w.park
  let r := (s.whoCtx core ctx c.group.toNat).frec w.sp p.kind p.n ⟨0x09, p.va, 7⟩
  (s.setPark core ctx none).ownTrap core ctx { r with done := p.done, remhi := p.hi } c.group c.st

/-- The write of a save area: the pre-emption is abandoned, and c3's `cpre` traps (R45, R345, R350). -/
def areaTimeout (core : Nat) (w : Parked) (s : State) : State :=
  let s1 := s.dropPre core
  if (s.core core).pre.any Pre.byC3 then ctxTimeout core 3 w s1 else s1

/-- A write of the distributor: an output of a matched launch invalidates the entry (R379); a completion record is not written (R357). -/
def distTimeout (num : Nat) (s : State) : State := match s.inst? num with
  | none => s
  | some i => match i.serving with
    | some (_ :: _) => s.unserve i
    | _ => ((s.intr i.pen i.intr num).unbindAll num).dropInst num

/-- An arrival is refused at its target (DEDUCED, assumption 108). -/
def arrivalTimeout (i : Nat) (w : Parked) (s : State) : State := match s.arrs[i]? with
  | none => s
  | some a => match s.net.idxOf? a.pkt, (s.core a.pkt.target.1).twin? a.pkt.target.2 with
    | some j, some t =>
      let end_ := fun (core cmd : Nat) => s.arrEnd j core a.pkt (.refusal core cmd 0x09 ((w.park.va + 2 ^ 64 - t.base) % 2 ^ 64))
      (match a.pkt with
       | .put _ core cmd _ _ _ _ _ _ => (end_ core cmd).dropPuts core cmd
       | .ramo core cmd _ _ _ _ _ _ _ => end_ core cmd
       | _ => s)
    | _, _ => s

/-- WRITE_BLOCK_TIMEOUT (R43): a writer that has waited longer than WBTIME stops with class 0x09, at level 7, as no walk fails
(DESIGN CHOICE, assumption 91). A context takes the trap at its instruction, an engine's command stands faulted in its ring, a chain
ends (R133). -/
def writeBlockTimeout (core agent : Nat) (s : State) : State :=
  match s.parkOf core agent with
  | none => s
  | some w =>
    let p := w.park
    let limit := (s.die w.die).wbtime.toNat
    let f : Flt := ⟨0x09, p.va, 7⟩
    if limit = 0 ∨ s.tick ≤ p.since + limit then s
    else if agent < 4 then ctxTimeout core agent w s
    else if agent < 8 then (match s.parkedCmd core agent with
      | some m => settleEff core (agent - 3) m (.fault s { m with wblk := none } f p.kind p.done p.n p.hi)
      | none => s)
    else if agent < 12 then (match s.parkedChain core agent with
      | some c => (match s.chainEnv c with
        | some v => s.chainFault c v p.kind p.n f
        | none => s)
      | none => s)
    else match agent with
      | 12 => areaTimeout core w s
      | 13 => distTimeout core s
      | 14 => arrivalTimeout core w s
      | 15 => (s.setPen core { s.pen core with refusing := none }).intr core ((s.pen core).refusing.any (fun r => r.2.1)) 0
      | _ => s

/-- WRITE_BLOCK_TIMEOUT. -/
def execWriteBlockTimeout (core agent : Nat) (s : State) : Host.Outcome State Fault Refusal := .next (writeBlockTimeout core agent s)

end Sys2Proof.Machine
end

