-- ==== Sys2Proof/Machine/Scalar.lean ====
section
/-!
DEFINITION. Scalar arithmetic, immediates, walker reads, compares, predicate logic and bit fields (spec 10 R235 to R246).
-/
namespace Sys2Proof.Machine

/-- Signed and unsigned readings (spec 10). -/
def U (x : Dword) : Nat := x.toNat
def S (x : Dword) : Int := x.toInt

/-! ### The operations of R237 and R238 -/

def opMulh (a b : Dword) : Dword := dwordOfInt (S a * S b / 2 ^ 64)
def opMulhu (a b : Dword) : Dword := dw (U a * U b / 2 ^ 64)
def opDiv (a b : Dword) : Dword := if b = 0 then -1 else dwordOfInt (Int.tdiv (S a) (S b))
def opDivu (a b : Dword) : Dword := if b = 0 then -1 else dw (U a / U b)
def opRem (a b : Dword) : Dword := if b = 0 then a else dwordOfInt (S a - S b * Int.tdiv (S a) (S b))
def opRemu (a b : Dword) : Dword := if b = 0 then a else dw (U a % U b)
def opShl (a b : Dword) : Dword := a <<< (U b % 64)
def opShr (a b : Dword) : Dword := a >>> (U b % 64)
def opSra (a b : Dword) : Dword := a.sshiftRight (U b % 64)
def opRotr (a b : Dword) : Dword := a.rotateRight (U b % 64)
def opMin (a b : Dword) : Dword := if S a ≤ S b then a else b
def opMax (a b : Dword) : Dword := if S a ≤ S b then b else a
def opMinu (a b : Dword) : Dword := if U a ≤ U b then a else b
def opMaxu (a b : Dword) : Dword := if U a ≤ U b then b else a

/-- The condition codes of R242. -/
def cond (cc : Nat) (a b : Dword) : Bool := match cc with
  | 0 => a == b
  | 1 => a != b
  | 2 => decide (S a < S b)
  | 3 => decide (S b ≤ S a)
  | 4 => decide (U a < U b)
  | 5 => decide (U b ≤ U a)
  | 6 => (a &&& b) != 0
  | _ => (a &&& b) == 0

/-! ### Bit counts (R246) -/

def bitList (x : Dword) : List Bool := (List.range 64).map x.getLsbD
def opPopc (x : Dword) : Dword := dw ((bitList x).countP id)
def opClz (x : Dword) : Dword := dw ((bitList x).reverse.takeWhile not).length
def opCtz (x : Dword) : Dword := dw ((bitList x).takeWhile not).length
def opBrev (x : Dword) : Dword := x.reverse
def opBswap (x : Dword) : Dword :=
  dw ((List.range 8).foldl (fun a j => a + field x.toNat (8 * j) 8 * 2 ^ (8 * (7 - j))) 0)

/-! ### Bit fields (R244, R245) -/

def opExtract (v : Nat) (a : Dword) : Dword :=
  let l := field v 6 6 + 1
  let f := a.toNat / 2 ^ field v 0 6 % 2 ^ l
  if field v 12 1 = 1 then dwordOfInt (signed l f) else dw f

def opInsert (v : Nat) (old a : Dword) : Dword :=
  let l := field v 6 6 + 1
  let m := dw ((2 ^ l - 1) * 2 ^ field v 0 6)
  (old &&& ~~~m) ||| dw (a.toNat % 2 ^ l * 2 ^ field v 0 6)

/-- The cases of R244 that raise the undefined-instruction trap. -/
def bitFieldBad (v : Nat) (insert : Bool) : Bool :=
  decide (field v 0 6 + field v 6 6 + 1 > 64) || decide (v / 2 ^ 13 ≠ 0) || (insert && field v 12 1 == 1)

/-! ### Shapes of meaning -/

/-- Register form: op sd, sa, sb (R237). -/
def binR (f : FR) (op : Dword → Dword → Dword) (s : State) : Host.Outcome State Fault Refusal :=
  guard f.need s (setS f.d.toNat (fun c => op (c.rd f.a.toNat) (c.rd f.b.toNat)))

/-- A saturating register form. -/
def satR (f : FR) (op : Dword → Dword → Res) (s : State) : Host.Outcome State Fault Refusal :=
  guard f.need s (setSat f.d.toNat (fun c => op (c.rd f.a.toNat) (c.rd f.b.toNat)))

/-- Immediate form: b is the sign-extended immediate (R239). -/
def binI (f : FI) (op : Dword → Dword → Dword) (s : State) : Host.Outcome State Fault Refusal :=
  guard f.need s (setS f.d.toNat (fun c => op (c.rd f.a.toNat) (dwordOfInt (immS 11 f.imm.toNat c.pfx.xims))))

/-- Immediate shift: every bit a xim adds is reserved and zero (R240). -/
def shI (f : FSh) (op : Dword → Dword → Dword) (s : State) : Host.Outcome State Fault Refusal :=
  guard (f.need (s.cur.pfx.xims.any (· != 0))) s (setS f.d.toNat (fun c => op (c.rd f.a.toNat) (dw f.amt.toNat)))

/-- op sd, sa (R246). -/
def unR (f : FU) (op : Dword → Dword) (s : State) : Host.Outcome State Fault Refusal :=
  guard f.need s (setS f.d.toNat (fun c => op (c.rd f.a.toNat)))

/-- Predicate logic on two sources (R243). -/
def binP (f : FP) (op : Bool → Bool → Bool) (s : State) : Host.Outcome State Fault Refusal :=
  guard f.need s (setP f.pd.toNat (fun c => op (c.rdPQ f.pa.toNat) (c.rdPQ f.pb.toNat)))

/-- `add` (R237). -/
def execAdd (f : FR) (s : State) : Host.Outcome State Fault Refusal := binR f (· + ·) s
/-- `sub` (R237). -/
def execSub (f : FR) (s : State) : Host.Outcome State Fault Refusal := binR f (· - ·) s
/-- `mul` (R237). -/
def execMul (f : FR) (s : State) : Host.Outcome State Fault Refusal := binR f (· * ·) s
/-- `mulh` (R237). -/
def execMulh (f : FR) (s : State) : Host.Outcome State Fault Refusal := binR f opMulh s
/-- `mulhu` (R237). -/
def execMulhu (f : FR) (s : State) : Host.Outcome State Fault Refusal := binR f opMulhu s
/-- `div` (R237). -/
def execDiv (f : FR) (s : State) : Host.Outcome State Fault Refusal := binR f opDiv s
/-- `divu` (R237). -/
def execDivu (f : FR) (s : State) : Host.Outcome State Fault Refusal := binR f opDivu s
/-- `rem` (R237). -/
def execRem (f : FR) (s : State) : Host.Outcome State Fault Refusal := binR f opRem s
/-- `remu` (R237). -/
def execRemu (f : FR) (s : State) : Host.Outcome State Fault Refusal := binR f opRemu s
/-- `and` (R237). -/
def execAnd (f : FR) (s : State) : Host.Outcome State Fault Refusal := binR f (· &&& ·) s
/-- `or` (R237). -/
def execOr (f : FR) (s : State) : Host.Outcome State Fault Refusal := binR f (· ||| ·) s
/-- `xor` (R237). -/
def execXor (f : FR) (s : State) : Host.Outcome State Fault Refusal := binR f (· ^^^ ·) s
/-- `andn` (R237). -/
def execAndn (f : FR) (s : State) : Host.Outcome State Fault Refusal := binR f (fun a b => a &&& ~~~b) s
/-- `shl` (R237). -/
def execShl (f : FR) (s : State) : Host.Outcome State Fault Refusal := binR f opShl s
/-- `shr` (R237). -/
def execShr (f : FR) (s : State) : Host.Outcome State Fault Refusal := binR f opShr s
/-- `sra` (R237). -/
def execSra (f : FR) (s : State) : Host.Outcome State Fault Refusal := binR f opSra s
/-- `rotr` (R237). -/
def execRotr (f : FR) (s : State) : Host.Outcome State Fault Refusal := binR f opRotr s
/-- `min` (R237). -/
def execMin (f : FR) (s : State) : Host.Outcome State Fault Refusal := binR f opMin s
/-- `max` (R237). -/
def execMax (f : FR) (s : State) : Host.Outcome State Fault Refusal := binR f opMax s
/-- `minu` (R237). -/
def execMinu (f : FR) (s : State) : Host.Outcome State Fault Refusal := binR f opMinu s
/-- `maxu` (R237). -/
def execMaxu (f : FR) (s : State) : Host.Outcome State Fault Refusal := binR f opMaxu s
/-- `adds` (R237, Sat of R199). -/
def execAdds (f : FR) (s : State) : Host.Outcome State Fault Refusal := satR f (fun a b => satInt 64 true (S a + S b)) s
/-- `subs` (R237, Sat of R199). -/
def execSubs (f : FR) (s : State) : Host.Outcome State Fault Refusal := satR f (fun a b => satInt 64 true (S a - S b)) s
/-- `addsu` (R237, Sat of R199). -/
def execAddsu (f : FR) (s : State) : Host.Outcome State Fault Refusal := satR f (fun a b => satInt 64 false ((U a : Int) + U b)) s
/-- `subsu` (R237, Sat of R199). -/
def execSubsu (f : FR) (s : State) : Host.Outcome State Fault Refusal := satR f (fun a b => satInt 64 false ((U a : Int) - U b)) s
/-- `add` with an immediate (R239). -/
def execAddImm (f : FI) (s : State) : Host.Outcome State Fault Refusal := binI f (· + ·) s
/-- `mul` with an immediate (R239). -/
def execMulImm (f : FI) (s : State) : Host.Outcome State Fault Refusal := binI f (· * ·) s
/-- `and` with an immediate (R239). -/
def execAndImm (f : FI) (s : State) : Host.Outcome State Fault Refusal := binI f (· &&& ·) s
/-- `or` with an immediate (R239). -/
def execOrImm (f : FI) (s : State) : Host.Outcome State Fault Refusal := binI f (· ||| ·) s
/-- `xor` with an immediate (R239). -/
def execXorImm (f : FI) (s : State) : Host.Outcome State Fault Refusal := binI f (· ^^^ ·) s
/-- `shl` by an immediate (R240). -/
def execShlImm (f : FSh) (s : State) : Host.Outcome State Fault Refusal := shI f opShl s
/-- `shr` by an immediate (R240). -/
def execShrImm (f : FSh) (s : State) : Host.Outcome State Fault Refusal := shI f opShr s
/-- `sra` by an immediate (R240). -/
def execSraImm (f : FSh) (s : State) : Host.Outcome State Fault Refusal := shI f opSra s
/-- `rotr` by an immediate (R240). -/
def execRotrImm (f : FSh) (s : State) : Host.Outcome State Fault Refusal := shI f opRotr s

/-- Coordinate n of the current step. -/
def Coord.at (k : Coord) (n : Nat) : BitVec 16 := match n with
  | 0 => k.k0
  | 1 => k.k1
  | 2 => k.k2
  | 3 => k.k3
  | 4 => k.k4
  | _ => k.k5

/-- `mov sd, kn` (R241): 0 in c3. -/
def execMovK (f : FK) (s : State) : Host.Outcome State Fault Refusal :=
  guard { p := f.p.toNat, rep := repR, dst := [f.d.toNat] } s
    (setS f.d.toNat (fun c => if s.curCtx = 3 then 0 else dw (c.k.at f.k.toNat).toNat))

/-- `wpos` (R241): the iteration number, which `iter` has counted where a handler reads it before the next step comes; 0 in c3. -/
def execWpos (f : FD) (s : State) : Host.Outcome State Fault Refusal :=
  guard { p := f.p.toNat, rep := repR, dst := [f.d.toNat] } s
    (setS f.d.toNat (fun c => if s.curCtx = 3 then 0 else dw c.ended))

/-- `wnum` (R241): N, or all ones when it was not reported as the iteration began; 0 in c3. -/
def execWnum (f : FD) (s : State) : Host.Outcome State Fault Refusal :=
  guard { p := f.p.toNat, rep := repR, dst := [f.d.toNat] } s
    (setS f.d.toNat (fun c => if s.curCtx = 3 then 0 else match c.n with
      | some n => dw n
      | none => -1))

/-- `cmp.cc` (R242). -/
def execCmp (f : FC) (s : State) : Host.Outcome State Fault Refusal :=
  guard f.need s (setP f.pd.toNat (fun c => cond f.cc.toNat (c.rd f.a.toNat) (c.rd f.b.toNat)))

/-- `cmp.cc` with an immediate (R242). -/
def execCmpImm (f : FCI) (s : State) : Host.Outcome State Fault Refusal :=
  guard f.need s (setP f.pd.toNat
    (fun c => cond f.cc.toNat (c.rd f.a.toNat) (dwordOfInt (immS 10 f.imm.toNat c.pfx.xims))))

/-- `pand` (R243). -/
def execPand (f : FP) (s : State) : Host.Outcome State Fault Refusal := binP f (fun a b => a && b) s
/-- `por` (R243). -/
def execPor (f : FP) (s : State) : Host.Outcome State Fault Refusal := binP f (fun a b => a || b) s
/-- `pxor` (R243). -/
def execPxor (f : FP) (s : State) : Host.Outcome State Fault Refusal := binP f (fun a b => a != b) s
/-- `pandn` (R243). -/
def execPandn (f : FP) (s : State) : Host.Outcome State Fault Refusal := binP f (fun a b => a && !b) s
/-- `pnor` (R243). -/
def execPnor (f : FP) (s : State) : Host.Outcome State Fault Refusal := binP f (fun a b => !(a || b)) s
/-- `pnand` (R243). -/
def execPnand (f : FP) (s : State) : Host.Outcome State Fault Refusal := binP f (fun a b => !(a && b)) s
/-- `pmov` (R243). -/
def execPmov (f : FP1) (s : State) : Host.Outcome State Fault Refusal :=
  guard f.need s (setP f.pd.toNat (fun c => c.rdPQ f.pa.toNat))
/-- `pnot` (R243). -/
def execPnot (f : FP1) (s : State) : Host.Outcome State Fault Refusal :=
  guard f.need s (setP f.pd.toNat (fun c => !c.rdPQ f.pa.toNat))

/-- `extract` (R244, R245). -/
def execExtract (f : FI) (s : State) : Host.Outcome State Fault Refusal :=
  guard { f.need with undef := bitFieldBad (immCat 11 f.imm.toNat s.cur.pfx.xims) false } s
    (setS f.d.toNat (fun c => opExtract (immCat 11 f.imm.toNat c.pfx.xims) (c.rd f.a.toNat)))

/-- `insert` (R244, R245): sd is its third source. -/
def execInsert (f : FI) (s : State) : Host.Outcome State Fault Refusal :=
  guard { f.need with undef := bitFieldBad (immCat 11 f.imm.toNat s.cur.pfx.xims) true } s
    (setS f.d.toNat (fun c => opInsert (immCat 11 f.imm.toNat c.pfx.xims) (c.rd f.d.toNat) (c.rd f.a.toNat)))

/-- `popc` (R246). -/
def execPopc (f : FU) (s : State) : Host.Outcome State Fault Refusal := unR f opPopc s
/-- `clz` (R246). -/
def execClz (f : FU) (s : State) : Host.Outcome State Fault Refusal := unR f opClz s
/-- `ctz` (R246). -/
def execCtz (f : FU) (s : State) : Host.Outcome State Fault Refusal := unR f opCtz s
/-- `brev` (R246). -/
def execBrev (f : FU) (s : State) : Host.Outcome State Fault Refusal := unR f opBrev s
/-- `bswap` (R246). -/
def execBswap (f : FU) (s : State) : Host.Outcome State Fault Refusal := unR f opBswap s

end Sys2Proof.Machine
end

