-- ==== Sys2Proof/Machine/VecCmds.lean ====
section
/-!
DEFINITION. The commands of the vector engine at issue (spec 12): each is appended with its own major and function code.
-/
namespace Sys2Proof.Machine

/-- VLD: appended to the ring of its engine (R95, R164). -/
def execVld (f : FES) (t : Tail) (s : State) : Host.Outcome State Fault Refusal := appendES 0x40 0 .scalar .reg .none f t s

/-- VST: appended to the ring of its engine (R95, R164). -/
def execVst (f : FES) (t : Tail) (s : State) : Host.Outcome State Fault Refusal := appendES 0x40 1 .scalar .reg .none f t s

/-- VLD_STR: appended to the ring of its engine (R95, R164). -/
def execVldStr (f : FES) (t : Tail) (s : State) : Host.Outcome State Fault Refusal := appendES 0x40 2 .scalar .reg .scalar f t s

/-- VST_STR: appended to the ring of its engine (R95, R164). -/
def execVstStr (f : FES) (t : Tail) (s : State) : Host.Outcome State Fault Refusal := appendES 0x40 3 .scalar .reg .scalar f t s

/-- VLDL: appended to the ring of its engine (R95, R164). -/
def execVldl (f : FES) (t : Tail) (s : State) : Host.Outcome State Fault Refusal := appendES 0x41 0 .scalar .reg .none f t s

/-- VSTL: appended to the ring of its engine (R95, R164). -/
def execVstl (f : FES) (t : Tail) (s : State) : Host.Outcome State Fault Refusal := appendES 0x41 1 .scalar .reg .none f t s

/-- VLDL_X: appended to the ring of its engine (R95, R164). -/
def execVldlX (f : FES) (t : Tail) (s : State) : Host.Outcome State Fault Refusal := appendES 0x41 2 .scalar .reg .reg f t s

/-- VSTL_X: appended to the ring of its engine (R95, R164). -/
def execVstlX (f : FES) (t : Tail) (s : State) : Host.Outcome State Fault Refusal := appendES 0x41 3 .scalar .reg .reg f t s

/-- VGATHER: appended to the ring of its engine (R95, R164). -/
def execVgather (f : FES) (t : Tail) (s : State) : Host.Outcome State Fault Refusal := appendES 0x42 0 .scalar .reg .reg f t s

/-- VSCATTER: appended to the ring of its engine (R95, R164). -/
def execVscatter (f : FES) (t : Tail) (s : State) : Host.Outcome State Fault Refusal := appendES 0x42 1 .scalar .reg .reg f t s

/-- VAMO_ADD: appended to the ring of its engine (R95, R164). -/
def execVamoAdd (ret : BitVec 1) (f : FES) (t : Tail) (s : State) : Host.Outcome State Fault Refusal :=
  appendES 0x43 (0 + 8 * ret.toNat) .scalar .reg .reg f t s

/-- VAMO_MIN: appended to the ring of its engine (R95, R164). -/
def execVamoMin (ret : BitVec 1) (f : FES) (t : Tail) (s : State) : Host.Outcome State Fault Refusal :=
  appendES 0x43 (1 + 8 * ret.toNat) .scalar .reg .reg f t s

/-- VAMO_MAX: appended to the ring of its engine (R95, R164). -/
def execVamoMax (ret : BitVec 1) (f : FES) (t : Tail) (s : State) : Host.Outcome State Fault Refusal :=
  appendES 0x43 (2 + 8 * ret.toNat) .scalar .reg .reg f t s

/-- VAMO_AND: appended to the ring of its engine (R95, R164). -/
def execVamoAnd (ret : BitVec 1) (f : FES) (t : Tail) (s : State) : Host.Outcome State Fault Refusal :=
  appendES 0x43 (3 + 8 * ret.toNat) .scalar .reg .reg f t s

/-- VAMO_OR: appended to the ring of its engine (R95, R164). -/
def execVamoOr (ret : BitVec 1) (f : FES) (t : Tail) (s : State) : Host.Outcome State Fault Refusal :=
  appendES 0x43 (4 + 8 * ret.toNat) .scalar .reg .reg f t s

/-- VAMO_XOR: appended to the ring of its engine (R95, R164). -/
def execVamoXor (ret : BitVec 1) (f : FES) (t : Tail) (s : State) : Host.Outcome State Fault Refusal :=
  appendES 0x43 (5 + 8 * ret.toNat) .scalar .reg .reg f t s

/-- VAMO_SWAP: appended to the ring of its engine (R95, R164). -/
def execVamoSwap (ret : BitVec 1) (f : FES) (t : Tail) (s : State) : Host.Outcome State Fault Refusal :=
  appendES 0x43 (6 + 8 * ret.toNat) .scalar .reg .reg f t s

/-- VAMO_XSUM: appended to the ring of its engine (R95, R164). -/
def execVamoXsum (ret : BitVec 1) (f : FES) (t : Tail) (s : State) : Host.Outcome State Fault Refusal :=
  appendES 0x43 (7 + 8 * ret.toNat) .scalar .reg .reg f t s

/-- VADD: appended to the ring of its engine (R95, R164). -/
def execVadd (f : FEV) (t : Tail) (s : State) : Host.Outcome State Fault Refusal := appendEV 0x44 0 f t false s

/-- VSUB: appended to the ring of its engine (R95, R164). -/
def execVsub (f : FEV) (t : Tail) (s : State) : Host.Outcome State Fault Refusal := appendEV 0x44 1 f t false s

/-- VADDS: appended to the ring of its engine (R95, R164). -/
def execVadds (f : FEV) (t : Tail) (s : State) : Host.Outcome State Fault Refusal := appendEV 0x44 2 f t false s

/-- VSUBS: appended to the ring of its engine (R95, R164). -/
def execVsubs (f : FEV) (t : Tail) (s : State) : Host.Outcome State Fault Refusal := appendEV 0x44 3 f t false s

/-- VMUL: appended to the ring of its engine (R95, R164). -/
def execVmul (f : FEV) (t : Tail) (s : State) : Host.Outcome State Fault Refusal := appendEV 0x44 4 f t false s

/-- VMULH: appended to the ring of its engine (R95, R164). -/
def execVmulh (f : FEV) (t : Tail) (s : State) : Host.Outcome State Fault Refusal := appendEV 0x44 5 f t false s

/-- VMIN: appended to the ring of its engine (R95, R164). -/
def execVmin (f : FEV) (t : Tail) (s : State) : Host.Outcome State Fault Refusal := appendEV 0x44 6 f t false s

/-- VMAX: appended to the ring of its engine (R95, R164). -/
def execVmax (f : FEV) (t : Tail) (s : State) : Host.Outcome State Fault Refusal := appendEV 0x44 7 f t false s

/-- VAND: appended to the ring of its engine (R95, R164). -/
def execVand (f : FEV) (t : Tail) (s : State) : Host.Outcome State Fault Refusal := appendEV 0x44 8 f t false s

/-- VOR: appended to the ring of its engine (R95, R164). -/
def execVor (f : FEV) (t : Tail) (s : State) : Host.Outcome State Fault Refusal := appendEV 0x44 9 f t false s

/-- VXOR: appended to the ring of its engine (R95, R164). -/
def execVxor (f : FEV) (t : Tail) (s : State) : Host.Outcome State Fault Refusal := appendEV 0x44 10 f t false s

/-- VANDN: appended to the ring of its engine (R95, R164). -/
def execVandn (f : FEV) (t : Tail) (s : State) : Host.Outcome State Fault Refusal := appendEV 0x44 11 f t false s

/-- VABS: appended to the ring of its engine (R95, R164). -/
def execVabs (f : FEV) (t : Tail) (s : State) : Host.Outcome State Fault Refusal := appendEV 0x44 12 f t false s

/-- VNEG: appended to the ring of its engine (R95, R164). -/
def execVneg (f : FEV) (t : Tail) (s : State) : Host.Outcome State Fault Refusal := appendEV 0x44 13 f t false s

/-- VAVG: appended to the ring of its engine (R95, R164). -/
def execVavg (f : FEV) (t : Tail) (s : State) : Host.Outcome State Fault Refusal := appendEV 0x44 14 f t false s

/-- VABSD: appended to the ring of its engine (R95, R164). -/
def execVabsd (f : FEV) (t : Tail) (s : State) : Host.Outcome State Fault Refusal := appendEV 0x44 15 f t false s

/-- VADD_S: appended to the ring of its engine (R95, R164). -/
def execVaddS (f : FES) (t : Tail) (s : State) : Host.Outcome State Fault Refusal := appendES 0x45 0 .reg .reg .scalar f t s

/-- VSUB_S: appended to the ring of its engine (R95, R164). -/
def execVsubS (f : FES) (t : Tail) (s : State) : Host.Outcome State Fault Refusal := appendES 0x45 1 .reg .reg .scalar f t s

/-- VADDS_S: appended to the ring of its engine (R95, R164). -/
def execVaddsS (f : FES) (t : Tail) (s : State) : Host.Outcome State Fault Refusal := appendES 0x45 2 .reg .reg .scalar f t s

/-- VSUBS_S: appended to the ring of its engine (R95, R164). -/
def execVsubsS (f : FES) (t : Tail) (s : State) : Host.Outcome State Fault Refusal := appendES 0x45 3 .reg .reg .scalar f t s

/-- VMUL_S: appended to the ring of its engine (R95, R164). -/
def execVmulS (f : FES) (t : Tail) (s : State) : Host.Outcome State Fault Refusal := appendES 0x45 4 .reg .reg .scalar f t s

/-- VMULH_S: appended to the ring of its engine (R95, R164). -/
def execVmulhS (f : FES) (t : Tail) (s : State) : Host.Outcome State Fault Refusal := appendES 0x45 5 .reg .reg .scalar f t s

/-- VMIN_S: appended to the ring of its engine (R95, R164). -/
def execVminS (f : FES) (t : Tail) (s : State) : Host.Outcome State Fault Refusal := appendES 0x45 6 .reg .reg .scalar f t s

/-- VMAX_S: appended to the ring of its engine (R95, R164). -/
def execVmaxS (f : FES) (t : Tail) (s : State) : Host.Outcome State Fault Refusal := appendES 0x45 7 .reg .reg .scalar f t s

/-- VAND_S: appended to the ring of its engine (R95, R164). -/
def execVandS (f : FES) (t : Tail) (s : State) : Host.Outcome State Fault Refusal := appendES 0x45 8 .reg .reg .scalar f t s

/-- VOR_S: appended to the ring of its engine (R95, R164). -/
def execVorS (f : FES) (t : Tail) (s : State) : Host.Outcome State Fault Refusal := appendES 0x45 9 .reg .reg .scalar f t s

/-- VXOR_S: appended to the ring of its engine (R95, R164). -/
def execVxorS (f : FES) (t : Tail) (s : State) : Host.Outcome State Fault Refusal := appendES 0x45 10 .reg .reg .scalar f t s

/-- VANDN_S: appended to the ring of its engine (R95, R164). -/
def execVandnS (f : FES) (t : Tail) (s : State) : Host.Outcome State Fault Refusal := appendES 0x45 11 .reg .reg .scalar f t s

/-- VAVG_S: appended to the ring of its engine (R95, R164). -/
def execVavgS (f : FES) (t : Tail) (s : State) : Host.Outcome State Fault Refusal := appendES 0x45 14 .reg .reg .scalar f t s

/-- VABSD_S: appended to the ring of its engine (R95, R164). -/
def execVabsdS (f : FES) (t : Tail) (s : State) : Host.Outcome State Fault Refusal := appendES 0x45 15 .reg .reg .scalar f t s

/-- VFADD: appended to the ring of its engine (R95, R164). -/
def execVfadd (f : FEV) (t : Tail) (s : State) : Host.Outcome State Fault Refusal := appendEV 0x46 0 f t false s

/-- VFSUB: appended to the ring of its engine (R95, R164). -/
def execVfsub (f : FEV) (t : Tail) (s : State) : Host.Outcome State Fault Refusal := appendEV 0x46 1 f t false s

/-- VFMUL: appended to the ring of its engine (R95, R164). -/
def execVfmul (f : FEV) (t : Tail) (s : State) : Host.Outcome State Fault Refusal := appendEV 0x46 2 f t false s

/-- VFDIV: appended to the ring of its engine (R95, R164). -/
def execVfdiv (f : FEV) (t : Tail) (s : State) : Host.Outcome State Fault Refusal := appendEV 0x46 3 f t false s

/-- VFMIN: appended to the ring of its engine (R95, R164). -/
def execVfmin (f : FEV) (t : Tail) (s : State) : Host.Outcome State Fault Refusal := appendEV 0x46 4 f t false s

/-- VFMAX: appended to the ring of its engine (R95, R164). -/
def execVfmax (f : FEV) (t : Tail) (s : State) : Host.Outcome State Fault Refusal := appendEV 0x46 5 f t false s

/-- VFABS: appended to the ring of its engine (R95, R164). -/
def execVfabs (f : FEV) (t : Tail) (s : State) : Host.Outcome State Fault Refusal := appendEV 0x46 6 f t false s

/-- VFNEG: appended to the ring of its engine (R95, R164). -/
def execVfneg (f : FEV) (t : Tail) (s : State) : Host.Outcome State Fault Refusal := appendEV 0x46 7 f t false s

/-- VFADD_S: appended to the ring of its engine (R95, R164). -/
def execVfaddS (f : FES) (t : Tail) (s : State) : Host.Outcome State Fault Refusal := appendES 0x47 0 .reg .reg .scalar f t s

/-- VFSUB_S: appended to the ring of its engine (R95, R164). -/
def execVfsubS (f : FES) (t : Tail) (s : State) : Host.Outcome State Fault Refusal := appendES 0x47 1 .reg .reg .scalar f t s

/-- VFMUL_S: appended to the ring of its engine (R95, R164). -/
def execVfmulS (f : FES) (t : Tail) (s : State) : Host.Outcome State Fault Refusal := appendES 0x47 2 .reg .reg .scalar f t s

/-- VFDIV_S: appended to the ring of its engine (R95, R164). -/
def execVfdivS (f : FES) (t : Tail) (s : State) : Host.Outcome State Fault Refusal := appendES 0x47 3 .reg .reg .scalar f t s

/-- VFMIN_S: appended to the ring of its engine (R95, R164). -/
def execVfminS (f : FES) (t : Tail) (s : State) : Host.Outcome State Fault Refusal := appendES 0x47 4 .reg .reg .scalar f t s

/-- VFMAX_S: appended to the ring of its engine (R95, R164). -/
def execVfmaxS (f : FES) (t : Tail) (s : State) : Host.Outcome State Fault Refusal := appendES 0x47 5 .reg .reg .scalar f t s

/-- VFMA: appended to the ring of its engine (R95, R164). -/
def execVfma (f : FEV) (t : Tail) (s : State) : Host.Outcome State Fault Refusal := appendEV 0x48 0 f t false s

/-- VFMS: appended to the ring of its engine (R95, R164). -/
def execVfms (f : FEV) (t : Tail) (s : State) : Host.Outcome State Fault Refusal := appendEV 0x48 1 f t false s

/-- VFNMA: appended to the ring of its engine (R95, R164). -/
def execVfnma (f : FEV) (t : Tail) (s : State) : Host.Outcome State Fault Refusal := appendEV 0x48 2 f t false s

/-- VFNMS: appended to the ring of its engine (R95, R164). -/
def execVfnms (f : FEV) (t : Tail) (s : State) : Host.Outcome State Fault Refusal := appendEV 0x48 3 f t false s

/-- VMAC: appended to the ring of its engine (R95, R164). -/
def execVmac (f : FEV) (t : Tail) (s : State) : Host.Outcome State Fault Refusal := appendEV 0x48 4 f t false s

/-- VMACS: appended to the ring of its engine (R95, R164). -/
def execVmacs (f : FEV) (t : Tail) (s : State) : Host.Outcome State Fault Refusal := appendEV 0x48 5 f t false s

/-- VCMP_EQ: appended to the ring of its engine (R95, R164). -/
def execVcmpEq (f : FEV) (t : Tail) (s : State) : Host.Outcome State Fault Refusal := appendEV 0x49 0 f t false s

/-- VCMP_NE: appended to the ring of its engine (R95, R164). -/
def execVcmpNe (f : FEV) (t : Tail) (s : State) : Host.Outcome State Fault Refusal := appendEV 0x49 1 f t false s

/-- VCMP_LT: appended to the ring of its engine (R95, R164). -/
def execVcmpLt (f : FEV) (t : Tail) (s : State) : Host.Outcome State Fault Refusal := appendEV 0x49 2 f t false s

/-- VCMP_LE: appended to the ring of its engine (R95, R164). -/
def execVcmpLe (f : FEV) (t : Tail) (s : State) : Host.Outcome State Fault Refusal := appendEV 0x49 3 f t false s

/-- VCMP_GT: appended to the ring of its engine (R95, R164). -/
def execVcmpGt (f : FEV) (t : Tail) (s : State) : Host.Outcome State Fault Refusal := appendEV 0x49 4 f t false s

/-- VCMP_GE: appended to the ring of its engine (R95, R164). -/
def execVcmpGe (f : FEV) (t : Tail) (s : State) : Host.Outcome State Fault Refusal := appendEV 0x49 5 f t false s

/-- VCMP_UN: appended to the ring of its engine (R95, R164). -/
def execVcmpUn (f : FEV) (t : Tail) (s : State) : Host.Outcome State Fault Refusal := appendEV 0x49 6 f t false s

/-- VSEL: appended to the ring of its engine (R95, R164). -/
def execVsel (f : FEV) (t : Tail) (s : State) : Host.Outcome State Fault Refusal := appendEV 0x49 7 f t false s

/-- VSHL: appended to the ring of its engine (R95, R164). -/
def execVshl (f : FEV) (t : Tail) (s : State) : Host.Outcome State Fault Refusal := appendEV 0x4A 0 f t false s

/-- VSHR: appended to the ring of its engine (R95, R164). -/
def execVshr (f : FEV) (t : Tail) (s : State) : Host.Outcome State Fault Refusal := appendEV 0x4A 1 f t false s

/-- VSRA: appended to the ring of its engine (R95, R164). -/
def execVsra (f : FEV) (t : Tail) (s : State) : Host.Outcome State Fault Refusal := appendEV 0x4A 2 f t false s

/-- VROTR: appended to the ring of its engine (R95, R164). -/
def execVrotr (f : FEV) (t : Tail) (s : State) : Host.Outcome State Fault Refusal := appendEV 0x4A 3 f t false s

/-- VSHL_IMM: appended to the ring of its engine (R95, R164). -/
def execVshlImm (f : FEV) (t : Tail) (s : State) : Host.Outcome State Fault Refusal := appendEV 0x4A 4 f t false s

/-- VSHR_IMM: appended to the ring of its engine (R95, R164). -/
def execVshrImm (f : FEV) (t : Tail) (s : State) : Host.Outcome State Fault Refusal := appendEV 0x4A 5 f t false s

/-- VSRA_IMM: appended to the ring of its engine (R95, R164). -/
def execVsraImm (f : FEV) (t : Tail) (s : State) : Host.Outcome State Fault Refusal := appendEV 0x4A 6 f t false s

/-- VROTR_IMM: appended to the ring of its engine (R95, R164). -/
def execVrotrImm (f : FEV) (t : Tail) (s : State) : Host.Outcome State Fault Refusal := appendEV 0x4A 7 f t false s

/-- VCVT: appended to the ring of its engine (R95, R164). -/
def execVcvt (f : FEV) (t : Tail) (s : State) : Host.Outcome State Fault Refusal := appendEV 0x4B 0 f t false s

/-- VCVT_WRAP: appended to the ring of its engine (R95, R164). -/
def execVcvtWrap (f : FEV) (t : Tail) (s : State) : Host.Outcome State Fault Refusal := appendEV 0x4B 1 f t false s

/-- VWIDEN: appended to the ring of its engine (R95, R164). -/
def execVwiden (f : FEV) (t : Tail) (s : State) : Host.Outcome State Fault Refusal := appendEV 0x4C 0 f t false s

/-- VNARROW: appended to the ring of its engine (R95, R164). -/
def execVnarrow (f : FEV) (t : Tail) (s : State) : Host.Outcome State Fault Refusal := appendEV 0x4C 1 f t false s

/-- VNARROW_WRAP: appended to the ring of its engine (R95, R164). -/
def execVnarrowWrap (f : FEV) (t : Tail) (s : State) : Host.Outcome State Fault Refusal := appendEV 0x4C 2 f t false s

/-- VRSUM: appended to the ring of its engine (R95, R164). -/
def execVrsum (f : FEV) (t : Tail) (s : State) : Host.Outcome State Fault Refusal := appendEV 0x4D 0 f t true s

/-- VRMIN: appended to the ring of its engine (R95, R164). -/
def execVrmin (f : FEV) (t : Tail) (s : State) : Host.Outcome State Fault Refusal := appendEV 0x4D 1 f t true s

/-- VRMAX: appended to the ring of its engine (R95, R164). -/
def execVrmax (f : FEV) (t : Tail) (s : State) : Host.Outcome State Fault Refusal := appendEV 0x4D 2 f t true s

/-- VRAND: appended to the ring of its engine (R95, R164). -/
def execVrand (f : FEV) (t : Tail) (s : State) : Host.Outcome State Fault Refusal := appendEV 0x4D 3 f t true s

/-- VROR: appended to the ring of its engine (R95, R164). -/
def execVror (f : FEV) (t : Tail) (s : State) : Host.Outcome State Fault Refusal := appendEV 0x4D 4 f t true s

/-- VRXOR: appended to the ring of its engine (R95, R164). -/
def execVrxor (f : FEV) (t : Tail) (s : State) : Host.Outcome State Fault Refusal := appendEV 0x4D 5 f t true s

/-- VSCAN_SUM: appended to the ring of its engine (R95, R164). -/
def execVscanSum (f : FEV) (t : Tail) (s : State) : Host.Outcome State Fault Refusal := appendEV 0x4D 8 f t false s

/-- VSCAN_MIN: appended to the ring of its engine (R95, R164). -/
def execVscanMin (f : FEV) (t : Tail) (s : State) : Host.Outcome State Fault Refusal := appendEV 0x4D 9 f t false s

/-- VSCAN_MAX: appended to the ring of its engine (R95, R164). -/
def execVscanMax (f : FEV) (t : Tail) (s : State) : Host.Outcome State Fault Refusal := appendEV 0x4D 10 f t false s

/-- VPERM: appended to the ring of its engine (R95, R164). -/
def execVperm (f : FEV) (t : Tail) (s : State) : Host.Outcome State Fault Refusal := appendEV 0x4E 0 f t false s

/-- VZIP_LO: appended to the ring of its engine (R95, R164). -/
def execVzipLo (f : FEV) (t : Tail) (s : State) : Host.Outcome State Fault Refusal := appendEV 0x4E 1 f t false s

/-- VZIP_HI: appended to the ring of its engine (R95, R164). -/
def execVzipHi (f : FEV) (t : Tail) (s : State) : Host.Outcome State Fault Refusal := appendEV 0x4E 2 f t false s

/-- VUNZIP_EV: appended to the ring of its engine (R95, R164). -/
def execVunzipEv (f : FEV) (t : Tail) (s : State) : Host.Outcome State Fault Refusal := appendEV 0x4E 3 f t false s

/-- VUNZIP_OD: appended to the ring of its engine (R95, R164). -/
def execVunzipOd (f : FEV) (t : Tail) (s : State) : Host.Outcome State Fault Refusal := appendEV 0x4E 4 f t false s

/-- VREV: appended to the ring of its engine (R95, R164). -/
def execVrev (f : FEV) (t : Tail) (s : State) : Host.Outcome State Fault Refusal := appendEV 0x4E 5 f t false s

/-- VBCAST: appended to the ring of its engine (R95, R164). -/
def execVbcast (f : FEV) (t : Tail) (s : State) : Host.Outcome State Fault Refusal := appendEV 0x4E 6 f t false s

/-- VTRD: appended to the ring of its engine (R95, R164). -/
def execVtrd (f : FET) (t : Tail) (s : State) : Host.Outcome State Fault Refusal := appendET 0x4F 0 f t s

/-- VTWR: appended to the ring of its engine (R95, R164). -/
def execVtwr (f : FET) (t : Tail) (s : State) : Host.Outcome State Fault Refusal := appendET 0x4F 1 f t s

/-- VTACC: appended to the ring of its engine (R95, R164). -/
def execVtacc (f : FET) (t : Tail) (s : State) : Host.Outcome State Fault Refusal := appendET 0x4F 2 f t s

/-- VEXP2: appended to the ring of its engine (R95, R164). -/
def execVexp2 (f : FEV) (t : Tail) (s : State) : Host.Outcome State Fault Refusal := appendEV 0x50 0 f t false s

/-- VLOG2: appended to the ring of its engine (R95, R164). -/
def execVlog2 (f : FEV) (t : Tail) (s : State) : Host.Outcome State Fault Refusal := appendEV 0x50 1 f t false s

/-- VRCP: appended to the ring of its engine (R95, R164). -/
def execVrcp (f : FEV) (t : Tail) (s : State) : Host.Outcome State Fault Refusal := appendEV 0x50 2 f t false s

/-- VRSQRT: appended to the ring of its engine (R95, R164). -/
def execVrsqrt (f : FEV) (t : Tail) (s : State) : Host.Outcome State Fault Refusal := appendEV 0x50 3 f t false s

/-- VSQRT: appended to the ring of its engine (R95, R164). -/
def execVsqrt (f : FEV) (t : Tail) (s : State) : Host.Outcome State Fault Refusal := appendEV 0x50 4 f t false s

/-- VSINPI: appended to the ring of its engine (R95, R164). -/
def execVsinpi (f : FEV) (t : Tail) (s : State) : Host.Outcome State Fault Refusal := appendEV 0x50 5 f t false s

/-- VCOSPI: appended to the ring of its engine (R95, R164). -/
def execVcospi (f : FEV) (t : Tail) (s : State) : Host.Outcome State Fault Refusal := appendEV 0x50 6 f t false s

/-- VTANH: appended to the ring of its engine (R95, R164). -/
def execVtanh (f : FEV) (t : Tail) (s : State) : Host.Outcome State Fault Refusal := appendEV 0x50 7 f t false s

/-- VSIGM: appended to the ring of its engine (R95, R164). -/
def execVsigm (f : FEV) (t : Tail) (s : State) : Host.Outcome State Fault Refusal := appendEV 0x50 8 f t false s

/-- VEXP: appended to the ring of its engine (R95, R164). -/
def execVexp (f : FEV) (t : Tail) (s : State) : Host.Outcome State Fault Refusal := appendEV 0x50 9 f t false s

/-- VLOG: appended to the ring of its engine (R95, R164). -/
def execVlog (f : FEV) (t : Tail) (s : State) : Host.Outcome State Fault Refusal := appendEV 0x50 10 f t false s

end Sys2Proof.Machine
end

