-- ==== Sys2Proof/Machine/Dispatch.lean ====
section
/-!
DEFINITION. One arm per constructor of Instr, each a direct call of that instruction's meaning. An instruction acts for the
context State.cur names; an event names the part of the package it happens in.
-/
namespace Sys2Proof.Machine

/-- The meaning of an instruction or an event in a state. -/
def exec (i : Instr) (s : State) : Host.Outcome State Fault Refusal :=
  match i with
  | .add f => Sys2Proof.Machine.execAdd f s
  | .sub f => Sys2Proof.Machine.execSub f s
  | .mul f => Sys2Proof.Machine.execMul f s
  | .mulh f => Sys2Proof.Machine.execMulh f s
  | .mulhu f => Sys2Proof.Machine.execMulhu f s
  | .div f => Sys2Proof.Machine.execDiv f s
  | .divu f => Sys2Proof.Machine.execDivu f s
  | .rem f => Sys2Proof.Machine.execRem f s
  | .remu f => Sys2Proof.Machine.execRemu f s
  | .and f => Sys2Proof.Machine.execAnd f s
  | .or f => Sys2Proof.Machine.execOr f s
  | .xor f => Sys2Proof.Machine.execXor f s
  | .andn f => Sys2Proof.Machine.execAndn f s
  | .shl f => Sys2Proof.Machine.execShl f s
  | .shr f => Sys2Proof.Machine.execShr f s
  | .sra f => Sys2Proof.Machine.execSra f s
  | .rotr f => Sys2Proof.Machine.execRotr f s
  | .min f => Sys2Proof.Machine.execMin f s
  | .max f => Sys2Proof.Machine.execMax f s
  | .minu f => Sys2Proof.Machine.execMinu f s
  | .maxu f => Sys2Proof.Machine.execMaxu f s
  | .adds f => Sys2Proof.Machine.execAdds f s
  | .subs f => Sys2Proof.Machine.execSubs f s
  | .addsu f => Sys2Proof.Machine.execAddsu f s
  | .subsu f => Sys2Proof.Machine.execSubsu f s
  | .addImm f => Sys2Proof.Machine.execAddImm f s
  | .mulImm f => Sys2Proof.Machine.execMulImm f s
  | .andImm f => Sys2Proof.Machine.execAndImm f s
  | .orImm f => Sys2Proof.Machine.execOrImm f s
  | .xorImm f => Sys2Proof.Machine.execXorImm f s
  | .shlImm f => Sys2Proof.Machine.execShlImm f s
  | .shrImm f => Sys2Proof.Machine.execShrImm f s
  | .sraImm f => Sys2Proof.Machine.execSraImm f s
  | .rotrImm f => Sys2Proof.Machine.execRotrImm f s
  | .movK f => Sys2Proof.Machine.execMovK f s
  | .wpos f => Sys2Proof.Machine.execWpos f s
  | .wnum f => Sys2Proof.Machine.execWnum f s
  | .cmp f => Sys2Proof.Machine.execCmp f s
  | .cmpImm f => Sys2Proof.Machine.execCmpImm f s
  | .pand f => Sys2Proof.Machine.execPand f s
  | .por f => Sys2Proof.Machine.execPor f s
  | .pxor f => Sys2Proof.Machine.execPxor f s
  | .pandn f => Sys2Proof.Machine.execPandn f s
  | .pnor f => Sys2Proof.Machine.execPnor f s
  | .pnand f => Sys2Proof.Machine.execPnand f s
  | .pmov f => Sys2Proof.Machine.execPmov f s
  | .pnot f => Sys2Proof.Machine.execPnot f s
  | .extract f => Sys2Proof.Machine.execExtract f s
  | .insert f => Sys2Proof.Machine.execInsert f s
  | .popc f => Sys2Proof.Machine.execPopc f s
  | .clz f => Sys2Proof.Machine.execClz f s
  | .ctz f => Sys2Proof.Machine.execCtz f s
  | .brev f => Sys2Proof.Machine.execBrev f s
  | .bswap f => Sys2Proof.Machine.execBswap f s
  | .br f => Sys2Proof.Machine.execBr f s
  | .call f => Sys2Proof.Machine.execCall f s
  | .jmp f => Sys2Proof.Machine.execJmp f s
  | .callr f => Sys2Proof.Machine.execCallr f s
  | .loop f => Sys2Proof.Machine.execLoop f s
  | .lend f => Sys2Proof.Machine.execLend f s
  | .iter f => Sys2Proof.Machine.execIter f s
  | .rep f => Sys2Proof.Machine.execRep f s
  | .xim f => Sys2Proof.Machine.execXim f s
  | .spt f => Sys2Proof.Machine.execSpt f s
  | .gwait f => Sys2Proof.Machine.execGwait f s
  | .graise f => Sys2Proof.Machine.execGraise f s
  | .gread f => Sys2Proof.Machine.execGread f s
  | .barmImm f => Sys2Proof.Machine.execBarmImm f s
  | .barm f => Sys2Proof.Machine.execBarm f s
  | .bwait f => Sys2Proof.Machine.execBwait f s
  | .bread f => Sys2Proof.Machine.execBread f s
  | .join f => Sys2Proof.Machine.execJoin f s
  | .leave f => Sys2Proof.Machine.execLeave f s
  | .arrive f => Sys2Proof.Machine.execArrive f s
  | .wait f => Sys2Proof.Machine.execWait f s
  | .push f => Sys2Proof.Machine.execPush f s
  | .pop f => Sys2Proof.Machine.execPop f s
  | .pushTry f => Sys2Proof.Machine.execPushTry f s
  | .popTry f => Sys2Proof.Machine.execPopTry f s
  | .launch f => Sys2Proof.Machine.execLaunch f s
  | .chainLd f => Sys2Proof.Machine.execChainLd f s
  | .chainAdd f => Sys2Proof.Machine.execChainAdd f s
  | .chainSwap f => Sys2Proof.Machine.execChainSwap f s
  | .wwaitSeen f => Sys2Proof.Machine.execWwaitSeen f s
  | .wwaitLand f => Sys2Proof.Machine.execWwaitLand f s
  | .wreadSent f => Sys2Proof.Machine.execWreadSent f s
  | .wreadSeen f => Sys2Proof.Machine.execWreadSeen f s
  | .wreadLand f => Sys2Proof.Machine.execWreadLand f s
  | .ldGlb f => Sys2Proof.Machine.execLdGlb f s
  | .ldSp f => Sys2Proof.Machine.execLdSp f s
  | .ldSh f => Sys2Proof.Machine.execLdSh f s
  | .ldChip f => Sys2Proof.Machine.execLdChip f s
  | .stGlb f => Sys2Proof.Machine.execStGlb f s
  | .stSp f => Sys2Proof.Machine.execStSp f s
  | .stSh f => Sys2Proof.Machine.execStSh f s
  | .stChip f => Sys2Proof.Machine.execStChip f s
  | .ldAcq f => Sys2Proof.Machine.execLdAcq f s
  | .stRel f => Sys2Proof.Machine.execStRel f s
  | .fence f => Sys2Proof.Machine.execFence f s
  | .mark f => Sys2Proof.Machine.execMark f s
  | .amoAdd f => Sys2Proof.Machine.execAmoAdd f s
  | .amoAnd f => Sys2Proof.Machine.execAmoAnd f s
  | .amoOr f => Sys2Proof.Machine.execAmoOr f s
  | .amoXor f => Sys2Proof.Machine.execAmoXor f s
  | .amoMin f => Sys2Proof.Machine.execAmoMin f s
  | .amoMax f => Sys2Proof.Machine.execAmoMax f s
  | .amoMinu f => Sys2Proof.Machine.execAmoMinu f s
  | .amoMaxu f => Sys2Proof.Machine.execAmoMaxu f s
  | .amoSwap f => Sys2Proof.Machine.execAmoSwap f s
  | .amoCas f => Sys2Proof.Machine.execAmoCas f s
  | .redAdd f => Sys2Proof.Machine.execRedAdd f s
  | .redAnd f => Sys2Proof.Machine.execRedAnd f s
  | .redOr f => Sys2Proof.Machine.execRedOr f s
  | .redXor f => Sys2Proof.Machine.execRedXor f s
  | .redMin f => Sys2Proof.Machine.execRedMin f s
  | .redMax f => Sys2Proof.Machine.execRedMax f s
  | .redMinu f => Sys2Proof.Machine.execRedMinu f s
  | .redMaxu f => Sys2Proof.Machine.execRedMaxu f s
  | .fld f => Sys2Proof.Machine.execFld f s
  | .fldTake f => Sys2Proof.Machine.execFldTake f s
  | .ffill f => Sys2Proof.Machine.execFfill f s
  | .xsumAdd f => Sys2Proof.Machine.execXsumAdd f s
  | .xsumMerge f => Sys2Proof.Machine.execXsumMerge f s
  | .xsumRead f => Sys2Proof.Machine.execXsumRead f s
  | .xsumReadClr f => Sys2Proof.Machine.execXsumReadClr f s
  | .mfsr f => Sys2Proof.Machine.execMfsr f s
  | .mtsr f => Sys2Proof.Machine.execMtsr f s
  | .setovf f => Sys2Proof.Machine.execSetovf f s
  | .trap f => Sys2Proof.Machine.execTrap f s
  | .tret f => Sys2Proof.Machine.execTret f s
  | .stop f => Sys2Proof.Machine.execStop f s
  | .tinvalPg f => Sys2Proof.Machine.execTinvalPg f s
  | .tinvalSp f => Sys2Proof.Machine.execTinvalSp f s
  | .tinvalAll f => Sys2Proof.Machine.execTinvalAll f s
  | .rfinv f => Sys2Proof.Machine.execRfinv f s
  | .rfclr f => Sys2Proof.Machine.execRfclr f s
  | .cpre f => Sys2Proof.Machine.execCpre f s
  | .cres f => Sys2Proof.Machine.execCres f s
  | .cresume f => Sys2Proof.Machine.execCresume f s
  | .vld f t => Sys2Proof.Machine.execVld f t s
  | .vst f t => Sys2Proof.Machine.execVst f t s
  | .vldStr f t => Sys2Proof.Machine.execVldStr f t s
  | .vstStr f t => Sys2Proof.Machine.execVstStr f t s
  | .vldl f t => Sys2Proof.Machine.execVldl f t s
  | .vstl f t => Sys2Proof.Machine.execVstl f t s
  | .vldlX f t => Sys2Proof.Machine.execVldlX f t s
  | .vstlX f t => Sys2Proof.Machine.execVstlX f t s
  | .vgather f t => Sys2Proof.Machine.execVgather f t s
  | .vscatter f t => Sys2Proof.Machine.execVscatter f t s
  | .vamoAdd ret f t => Sys2Proof.Machine.execVamoAdd ret f t s
  | .vamoMin ret f t => Sys2Proof.Machine.execVamoMin ret f t s
  | .vamoMax ret f t => Sys2Proof.Machine.execVamoMax ret f t s
  | .vamoAnd ret f t => Sys2Proof.Machine.execVamoAnd ret f t s
  | .vamoOr ret f t => Sys2Proof.Machine.execVamoOr ret f t s
  | .vamoXor ret f t => Sys2Proof.Machine.execVamoXor ret f t s
  | .vamoSwap ret f t => Sys2Proof.Machine.execVamoSwap ret f t s
  | .vamoXsum ret f t => Sys2Proof.Machine.execVamoXsum ret f t s
  | .vadd f t => Sys2Proof.Machine.execVadd f t s
  | .vsub f t => Sys2Proof.Machine.execVsub f t s
  | .vadds f t => Sys2Proof.Machine.execVadds f t s
  | .vsubs f t => Sys2Proof.Machine.execVsubs f t s
  | .vmul f t => Sys2Proof.Machine.execVmul f t s
  | .vmulh f t => Sys2Proof.Machine.execVmulh f t s
  | .vmin f t => Sys2Proof.Machine.execVmin f t s
  | .vmax f t => Sys2Proof.Machine.execVmax f t s
  | .vand f t => Sys2Proof.Machine.execVand f t s
  | .vor f t => Sys2Proof.Machine.execVor f t s
  | .vxor f t => Sys2Proof.Machine.execVxor f t s
  | .vandn f t => Sys2Proof.Machine.execVandn f t s
  | .vabs f t => Sys2Proof.Machine.execVabs f t s
  | .vneg f t => Sys2Proof.Machine.execVneg f t s
  | .vavg f t => Sys2Proof.Machine.execVavg f t s
  | .vabsd f t => Sys2Proof.Machine.execVabsd f t s
  | .vaddS f t => Sys2Proof.Machine.execVaddS f t s
  | .vsubS f t => Sys2Proof.Machine.execVsubS f t s
  | .vaddsS f t => Sys2Proof.Machine.execVaddsS f t s
  | .vsubsS f t => Sys2Proof.Machine.execVsubsS f t s
  | .vmulS f t => Sys2Proof.Machine.execVmulS f t s
  | .vmulhS f t => Sys2Proof.Machine.execVmulhS f t s
  | .vminS f t => Sys2Proof.Machine.execVminS f t s
  | .vmaxS f t => Sys2Proof.Machine.execVmaxS f t s
  | .vandS f t => Sys2Proof.Machine.execVandS f t s
  | .vorS f t => Sys2Proof.Machine.execVorS f t s
  | .vxorS f t => Sys2Proof.Machine.execVxorS f t s
  | .vandnS f t => Sys2Proof.Machine.execVandnS f t s
  | .vavgS f t => Sys2Proof.Machine.execVavgS f t s
  | .vabsdS f t => Sys2Proof.Machine.execVabsdS f t s
  | .vfadd f t => Sys2Proof.Machine.execVfadd f t s
  | .vfsub f t => Sys2Proof.Machine.execVfsub f t s
  | .vfmul f t => Sys2Proof.Machine.execVfmul f t s
  | .vfdiv f t => Sys2Proof.Machine.execVfdiv f t s
  | .vfmin f t => Sys2Proof.Machine.execVfmin f t s
  | .vfmax f t => Sys2Proof.Machine.execVfmax f t s
  | .vfabs f t => Sys2Proof.Machine.execVfabs f t s
  | .vfneg f t => Sys2Proof.Machine.execVfneg f t s
  | .vfaddS f t => Sys2Proof.Machine.execVfaddS f t s
  | .vfsubS f t => Sys2Proof.Machine.execVfsubS f t s
  | .vfmulS f t => Sys2Proof.Machine.execVfmulS f t s
  | .vfdivS f t => Sys2Proof.Machine.execVfdivS f t s
  | .vfminS f t => Sys2Proof.Machine.execVfminS f t s
  | .vfmaxS f t => Sys2Proof.Machine.execVfmaxS f t s
  | .vfma f t => Sys2Proof.Machine.execVfma f t s
  | .vfms f t => Sys2Proof.Machine.execVfms f t s
  | .vfnma f t => Sys2Proof.Machine.execVfnma f t s
  | .vfnms f t => Sys2Proof.Machine.execVfnms f t s
  | .vmac f t => Sys2Proof.Machine.execVmac f t s
  | .vmacs f t => Sys2Proof.Machine.execVmacs f t s
  | .vcmpEq f t => Sys2Proof.Machine.execVcmpEq f t s
  | .vcmpNe f t => Sys2Proof.Machine.execVcmpNe f t s
  | .vcmpLt f t => Sys2Proof.Machine.execVcmpLt f t s
  | .vcmpLe f t => Sys2Proof.Machine.execVcmpLe f t s
  | .vcmpGt f t => Sys2Proof.Machine.execVcmpGt f t s
  | .vcmpGe f t => Sys2Proof.Machine.execVcmpGe f t s
  | .vcmpUn f t => Sys2Proof.Machine.execVcmpUn f t s
  | .vsel f t => Sys2Proof.Machine.execVsel f t s
  | .vshl f t => Sys2Proof.Machine.execVshl f t s
  | .vshr f t => Sys2Proof.Machine.execVshr f t s
  | .vsra f t => Sys2Proof.Machine.execVsra f t s
  | .vrotr f t => Sys2Proof.Machine.execVrotr f t s
  | .vshlImm f t => Sys2Proof.Machine.execVshlImm f t s
  | .vshrImm f t => Sys2Proof.Machine.execVshrImm f t s
  | .vsraImm f t => Sys2Proof.Machine.execVsraImm f t s
  | .vrotrImm f t => Sys2Proof.Machine.execVrotrImm f t s
  | .vcvt f t => Sys2Proof.Machine.execVcvt f t s
  | .vcvtWrap f t => Sys2Proof.Machine.execVcvtWrap f t s
  | .vwiden f t => Sys2Proof.Machine.execVwiden f t s
  | .vnarrow f t => Sys2Proof.Machine.execVnarrow f t s
  | .vnarrowWrap f t => Sys2Proof.Machine.execVnarrowWrap f t s
  | .vrsum f t => Sys2Proof.Machine.execVrsum f t s
  | .vrmin f t => Sys2Proof.Machine.execVrmin f t s
  | .vrmax f t => Sys2Proof.Machine.execVrmax f t s
  | .vrand f t => Sys2Proof.Machine.execVrand f t s
  | .vror f t => Sys2Proof.Machine.execVror f t s
  | .vrxor f t => Sys2Proof.Machine.execVrxor f t s
  | .vscanSum f t => Sys2Proof.Machine.execVscanSum f t s
  | .vscanMin f t => Sys2Proof.Machine.execVscanMin f t s
  | .vscanMax f t => Sys2Proof.Machine.execVscanMax f t s
  | .vperm f t => Sys2Proof.Machine.execVperm f t s
  | .vzipLo f t => Sys2Proof.Machine.execVzipLo f t s
  | .vzipHi f t => Sys2Proof.Machine.execVzipHi f t s
  | .vunzipEv f t => Sys2Proof.Machine.execVunzipEv f t s
  | .vunzipOd f t => Sys2Proof.Machine.execVunzipOd f t s
  | .vrev f t => Sys2Proof.Machine.execVrev f t s
  | .vbcast f t => Sys2Proof.Machine.execVbcast f t s
  | .vtrd f t => Sys2Proof.Machine.execVtrd f t s
  | .vtwr f t => Sys2Proof.Machine.execVtwr f t s
  | .vtacc f t => Sys2Proof.Machine.execVtacc f t s
  | .vexp2 f t => Sys2Proof.Machine.execVexp2 f t s
  | .vlog2 f t => Sys2Proof.Machine.execVlog2 f t s
  | .vrcp f t => Sys2Proof.Machine.execVrcp f t s
  | .vrsqrt f t => Sys2Proof.Machine.execVrsqrt f t s
  | .vsqrt f t => Sys2Proof.Machine.execVsqrt f t s
  | .vsinpi f t => Sys2Proof.Machine.execVsinpi f t s
  | .vcospi f t => Sys2Proof.Machine.execVcospi f t s
  | .vtanh f t => Sys2Proof.Machine.execVtanh f t s
  | .vsigm f t => Sys2Proof.Machine.execVsigm f t s
  | .vexp f t => Sys2Proof.Machine.execVexp f t s
  | .vlog f t => Sys2Proof.Machine.execVlog f t s
  | .mma fmtb f t => Sys2Proof.Machine.execMma fmtb f t s
  | .mmas fmtb f t => Sys2Proof.Machine.execMmas fmtb f t s
  | .tld f t => Sys2Proof.Machine.execTld f t s
  | .tst f t => Sys2Proof.Machine.execTst f t s
  | .tzero f t => Sys2Proof.Machine.execTzero f t s
  | .spub f t => Sys2Proof.Machine.execSpub f t s
  | .ssub f t => Sys2Proof.Machine.execSsub f t s
  | .sunsub f t => Sys2Proof.Machine.execSunsub f t s
  | .copy f t => Sys2Proof.Machine.execCopy f t s
  | .copySt f t => Sys2Proof.Machine.execCopySt f t s
  | .mcast f t => Sys2Proof.Machine.execMcast f t s
  | .fill f t => Sys2Proof.Machine.execFill f t s
  | .cvcopy f t => Sys2Proof.Machine.execCvcopy f t s
  | .wtgt f t => Sys2Proof.Machine.execWtgt f t s
  | .wini f t => Sys2Proof.Machine.execWini f t s
  | .wclose f t => Sys2Proof.Machine.execWclose f t s
  | .put f t => Sys2Proof.Machine.execPut f t s
  | .get f t => Sys2Proof.Machine.execGet f t s
  | .ramoAdd f t => Sys2Proof.Machine.execRamoAdd f t s
  | .ramoAnd f t => Sys2Proof.Machine.execRamoAnd f t s
  | .ramoOr f t => Sys2Proof.Machine.execRamoOr f t s
  | .ramoXor f t => Sys2Proof.Machine.execRamoXor f t s
  | .ramoMin f t => Sys2Proof.Machine.execRamoMin f t s
  | .ramoMax f t => Sys2Proof.Machine.execRamoMax f t s
  | .ramoMinu f t => Sys2Proof.Machine.execRamoMinu f t s
  | .ramoMaxu f t => Sys2Proof.Machine.execRamoMaxu f t s
  | .ramoSwap f t => Sys2Proof.Machine.execRamoSwap f t s
  | .fchain f t => Sys2Proof.Machine.execFchain f t s
  | .collSum ty f t => Sys2Proof.Machine.execCollSum ty f t s
  | .collMin ty f t => Sys2Proof.Machine.execCollMin ty f t s
  | .collMax ty f t => Sys2Proof.Machine.execCollMax ty f t s
  | .queueRefill shed q => Sys2Proof.Machine.execQueueRefill shed q s
  | .queueWithdrawal core ctx => Sys2Proof.Machine.execQueueWithdrawal core ctx s
  | .chainStep id => Sys2Proof.Machine.execChainStep id s
  | .engineCommandStart core eng => Sys2Proof.Machine.execEngineCommandStart core eng s
  | .engineCommandComplete core eng => Sys2Proof.Machine.execEngineCommandComplete core eng s
  | .multicastDestComplete core dest => Sys2Proof.Machine.execMulticastDestComplete core dest s
  | .resultArrival core ctx seq => Sys2Proof.Machine.execResultArrival core ctx seq s
  | .pageWalk core ctx va kind => Sys2Proof.Machine.execPageWalk core ctx va kind s
  | .heatNotificationAppend die pen => Sys2Proof.Machine.execHeatNotificationAppend die pen s
  | .writerRetry core agent => Sys2Proof.Machine.execWriterRetry core agent s
  | .writeBlockTimeout core agent => Sys2Proof.Machine.execWriteBlockTimeout core agent s
  | .homeSliceOperation core ctx seq => Sys2Proof.Machine.execHomeSliceOperation core ctx seq s
  | .futureReissue core ctx seq => Sys2Proof.Machine.execFutureReissue core ctx seq s
  | .futureWithdrawal core ctx seq => Sys2Proof.Machine.execFutureWithdrawal core ctx seq s
  | .patrolScrub line => Sys2Proof.Machine.execPatrolScrub line s
  | .stepRetire core => Sys2Proof.Machine.execStepRetire core s
  | .stopArrival core => Sys2Proof.Machine.execStopArrival core s
  | .cutDecision pen => Sys2Proof.Machine.execCutDecision pen s
  | .cutHalt core => Sys2Proof.Machine.execCutHalt core s
  | .cutreqWrite pen value => Sys2Proof.Machine.execCutreqWrite pen value s
  | .trapEntry core ctx => Sys2Proof.Machine.execTrapEntry core ctx s
  | .genprofWrite core ctx value => Sys2Proof.Machine.execGenprofWrite core ctx value s
  | .rewindWrite core value => Sys2Proof.Machine.execRewindWrite core value s
  | .ringRegisterWrite core eng value => Sys2Proof.Machine.execRingRegisterWrite core eng value s
  | .hqctlWrite shed q value => Sys2Proof.Machine.execHqctlWrite shed q value s
  | .heatclrWrite die pen value => Sys2Proof.Machine.execHeatclrWrite die pen value s
  | .launchAccept pen => Sys2Proof.Machine.execLaunchAccept pen s
  | .stepSelect pen => Sys2Proof.Machine.execStepSelect pen s
  | .coreBind core => Sys2Proof.Machine.execCoreBind core s
  | .instanceComplete pen opinst => Sys2Proof.Machine.execInstanceComplete pen opinst s
  | .priorityAgeing pen opinst => Sys2Proof.Machine.execPriorityAgeing pen opinst s
  | .priosetWrite pen value => Sys2Proof.Machine.execPriosetWrite pen value s
  | .priorityPreempt core => Sys2Proof.Machine.execPriorityPreempt core s
  | .preemptLanding core ctx => Sys2Proof.Machine.execPreemptLanding core ctx s
  | .distributorRestore core area => Sys2Proof.Machine.execDistributorRestore core area s
  | .penctlEnable pen value => Sys2Proof.Machine.execPenctlEnable pen value s
  | .penctlResume pen value => Sys2Proof.Machine.execPenctlResume pen value s
  | .penctlAbandon pen value => Sys2Proof.Machine.execPenctlAbandon pen value s
  | .lqctlWrite pen q value => Sys2Proof.Machine.execLqctlWrite pen q value s
  | .c3startWrite core value => Sys2Proof.Machine.execC3startWrite core value s
  | .bcnctlWrite value => Sys2Proof.Machine.execBcnctlWrite value s
  | .beacon => Sys2Proof.Machine.execBeacon s
  | .traceDrain die => Sys2Proof.Machine.execTraceDrain die s
  | .shedPowerGate shed => Sys2Proof.Machine.execShedPowerGate shed s
  | .traceDrainTimeout shed => Sys2Proof.Machine.execTraceDrainTimeout shed s
  | .lostRecordWrite die => Sys2Proof.Machine.execLostRecordWrite die s
  | .brkctlGo pen value => Sys2Proof.Machine.execBrkctlGo pen value s
  | .brkctlEnable pen value => Sys2Proof.Machine.execBrkctlEnable pen value s
  | .regWriteLowHalf master addr value => Sys2Proof.Machine.execRegWriteLowHalf master addr value s
  | .regWriteHighHalf master addr value => Sys2Proof.Machine.execRegWriteHighHalf master addr value s
  | .registerWrite master addr value => Sys2Proof.Machine.execRegisterWrite master addr value s
  | .hostWrite addr len value => Sys2Proof.Machine.execHostWrite addr len value s
  | .hostRead addr len => Sys2Proof.Machine.execHostRead addr len s
  | .hostProcessorWrite addr len value => Sys2Proof.Machine.execHostProcessorWrite addr len value s
  | .putArrival pkt => Sys2Proof.Machine.execPutArrival pkt s
  | .putAckArrival pkt => Sys2Proof.Machine.execPutAckArrival pkt s
  | .getRequestArrival pkt => Sys2Proof.Machine.execGetRequestArrival pkt s
  | .getReplyArrival pkt => Sys2Proof.Machine.execGetReplyArrival pkt s
  | .remoteAtomicArrival pkt => Sys2Proof.Machine.execRemoteAtomicArrival pkt s
  | .fabricRefusal pkt => Sys2Proof.Machine.execFabricRefusal pkt s
  | .spanningGroupMessage pkt => Sys2Proof.Machine.execSpanningGroupMessage pkt s
  | .flitCrcRetry link => Sys2Proof.Machine.execFlitCrcRetry link s
  | .linkOutOfService link => Sys2Proof.Machine.execLinkOutOfService link s
  | .linkRetrain link => Sys2Proof.Machine.execLinkRetrain link s
  | .penConfigure pen => Sys2Proof.Machine.execPenConfigure pen s
  | .accessTableWrite target master slot value => Sys2Proof.Machine.execAccessTableWrite target master slot value s
  | .fabidWrite value => Sys2Proof.Machine.execFabidWrite value s
  | .firmwareVerify => Sys2Proof.Machine.execFirmwareVerify s
  | .powerUp => Sys2Proof.Machine.execPowerUp s
  | .overTemperature temp => Sys2Proof.Machine.execOverTemperature temp s
  | .imageAdmission pen => Sys2Proof.Machine.execImageAdmission pen s
  | .hostLinkReset core => Sys2Proof.Machine.execHostLinkReset core s
  | .shedPowerRestore shed => Sys2Proof.Machine.execShedPowerRestore shed s
  | .spanningGroupCompletion pkt => Sys2Proof.Machine.execSpanningGroupCompletion pkt s

end Sys2Proof.Machine
end

