-- ==== Sys2Proof/WellFormed.lean ====
section
/-!
DEFINITION. The operand values that an encoding admits beyond the widths of its fields (spec 09 to 14). A word whose
fields fail the check of its instruction raises the undefined-instruction trap (R230): the decoder refuses it.
-/
namespace Sys2Proof

/-- The part of the tail that is checked at issue (R225): an unused gate or counter number is zero. -/
def Tail.wf (t : Tail) : Bool :=
  (t.ae.toNat = 0 → t.ag.toNat = 0) && (t.re.toNat = 0 → t.rg.toNat = 0) && (t.ce.toNat = 0 → t.ctr.toNat = 0)

/-- The operand checks of each instruction word. An event has no word and no check. -/
def Instr.wf : Instr → Bool
  | .add _ => true
  | .sub _ => true
  | .mul _ => true
  | .mulh _ => true
  | .mulhu _ => true
  | .div _ => true
  | .divu _ => true
  | .rem _ => true
  | .remu _ => true
  | .and _ => true
  | .or _ => true
  | .xor _ => true
  | .andn _ => true
  | .shl _ => true
  | .shr _ => true
  | .sra _ => true
  | .rotr _ => true
  | .min _ => true
  | .max _ => true
  | .minu _ => true
  | .maxu _ => true
  | .adds _ => true
  | .subs _ => true
  | .addsu _ => true
  | .subsu _ => true
  | .addImm _ => true
  | .mulImm _ => true
  | .andImm _ => true
  | .orImm _ => true
  | .xorImm _ => true
  | .shlImm _ => true
  | .shrImm _ => true
  | .sraImm _ => true
  | .rotrImm _ => true
  | .movK f => decide (f.k.toNat ≤ 5)
  | .wpos _ => true
  | .wnum _ => true
  | .cmp _ => true
  | .cmpImm _ => true
  | .pand _ => true
  | .por _ => true
  | .pxor _ => true
  | .pandn _ => true
  | .pnor _ => true
  | .pnand _ => true
  | .pmov _ => true
  | .pnot _ => true
  | .extract _ => true
  | .insert _ => true
  | .popc _ => true
  | .clz _ => true
  | .ctz _ => true
  | .brev _ => true
  | .bswap _ => true
  | .br _ => true
  | .call _ => true
  | .jmp _ => true
  | .callr _ => true
  | .loop f => decide (f.len.toNat ≠ 0)
  | .lend _ => true
  | .iter _ => true
  | .rep _ => true
  | .xim _ => true
  | .spt f => decide (f.ord.toNat ≠ 0xFFFF)
  | .gwait _ => true
  | .graise _ => true
  | .gread _ => true
  | .barmImm _ => true
  | .barm _ => true
  | .bwait _ => true
  | .bread _ => true
  | .join _ => true
  | .leave _ => true
  | .arrive _ => true
  | .wait _ => true
  | .push f => decide (f.rb.toNat % 4 = 0)
  | .pop f => decide (f.rb.toNat % 4 = 0)
  | .pushTry f => decide (f.rb.toNat % 4 = 0)
  | .popTry f => decide (f.rb.toNat % 4 = 0)
  | .launch _ => true
  | .chainLd f => decide (f.a.toNat % 2 = 0 ∧ f.os.toNat ≤ 5)
  | .chainAdd f => decide (f.a.toNat % 2 = 0 ∧ f.a.toNat ≠ 30 ∧ f.os.toNat ≤ 5)
  | .chainSwap f => decide (f.a.toNat % 2 = 0 ∧ f.a.toNat ≠ 30 ∧ f.os.toNat ≤ 5)
  | .wwaitSeen _ => true
  | .wwaitLand _ => true
  | .wreadSent _ => true
  | .wreadSeen _ => true
  | .wreadLand _ => true
  | .ldGlb f => decide (¬(f.ft.toNat = 1 ∧ f.sz.toNat = 3))
  | .ldSp f => decide (¬(f.ft.toNat = 1 ∧ f.sz.toNat = 3))
  | .ldSh f => decide (¬(f.ft.toNat = 1 ∧ f.sz.toNat = 3))
  | .ldChip f => decide (¬(f.ft.toNat = 1 ∧ f.sz.toNat = 3))
  | .stGlb _ => true
  | .stSp _ => true
  | .stSh _ => true
  | .stChip _ => true
  | .ldAcq f => decide (¬(f.ft.toNat = 1 ∧ f.sz.toNat = 3) ∧ 1 ≤ f.os.toNat ∧ f.os.toNat ≤ 5)
  | .stRel f => decide (6 ≤ f.os.toNat ∧ f.os.toNat ≤ 10)
  | .fence f => decide (f.scope.toNat ≤ 4)
  | .mark _ => true
  | .amoAdd f => decide (f.d.toNat ≠ 0)
  | .amoAnd f => decide (f.d.toNat ≠ 0)
  | .amoOr f => decide (f.d.toNat ≠ 0)
  | .amoXor f => decide (f.d.toNat ≠ 0)
  | .amoMin f => decide (f.d.toNat ≠ 0)
  | .amoMax f => decide (f.d.toNat ≠ 0)
  | .amoMinu f => decide (f.d.toNat ≠ 0)
  | .amoMaxu f => decide (f.d.toNat ≠ 0)
  | .amoSwap f => decide (f.d.toNat ≠ 0)
  | .amoCas f => decide (f.d.toNat ≠ 0 ∧ f.b.toNat % 2 = 0)
  | .redAdd f => decide (f.os.toNat = 0 ∨ (6 ≤ f.os.toNat ∧ f.os.toNat ≤ 10))
  | .redAnd f => decide (f.os.toNat = 0 ∨ (6 ≤ f.os.toNat ∧ f.os.toNat ≤ 10))
  | .redOr f => decide (f.os.toNat = 0 ∨ (6 ≤ f.os.toNat ∧ f.os.toNat ≤ 10))
  | .redXor f => decide (f.os.toNat = 0 ∨ (6 ≤ f.os.toNat ∧ f.os.toNat ≤ 10))
  | .redMin f => decide (f.os.toNat = 0 ∨ (6 ≤ f.os.toNat ∧ f.os.toNat ≤ 10))
  | .redMax f => decide (f.os.toNat = 0 ∨ (6 ≤ f.os.toNat ∧ f.os.toNat ≤ 10))
  | .redMinu f => decide (f.os.toNat = 0 ∨ (6 ≤ f.os.toNat ∧ f.os.toNat ≤ 10))
  | .redMaxu f => decide (f.os.toNat = 0 ∨ (6 ≤ f.os.toNat ∧ f.os.toNat ≤ 10))
  | .fld _ => true
  | .fldTake _ => true
  | .ffill _ => true
  | .xsumAdd f => decide (f.ty.toNat ≠ 3 ∧ (f.os.toNat = 0 ∨ (6 ≤ f.os.toNat ∧ f.os.toNat ≤ 10)))
  | .xsumMerge f => decide ((f.os.toNat = 0 ∨ (6 ≤ f.os.toNat ∧ f.os.toNat ≤ 10)))
  | .xsumRead f => decide (f.ty.toNat ≠ 3 ∧ f.rnd.toNat ≤ 5 ∧ f.os.toNat ≤ 5)
  | .xsumReadClr f => decide (f.ty.toNat ≠ 3 ∧ f.rnd.toNat ≤ 5 ∧ f.os.toNat ≤ 5)
  | .mfsr f => decide ((f.srn.toNat ≤ 0x3B ∨ (0x40 ≤ f.srn.toNat ∧ f.srn.toNat ≤ 0x7F)) ∧ (f.xc.toNat = 0 → f.cx.toNat = 0))
  | .mtsr f => decide ((f.srn.toNat ≤ 0x3B ∨ (0x40 ≤ f.srn.toNat ∧ f.srn.toNat ≤ 0x7F)) ∧ (f.xc.toNat = 0 → f.cx.toNat = 0))
  | .setovf _ => true
  | .trap _ => true
  | .tret _ => true
  | .stop f => decide (f.a.toNat % 2 = 0)
  | .tinvalPg _ => true
  | .tinvalSp _ => true
  | .tinvalAll _ => true
  | .rfinv _ => true
  | .rfclr _ => true
  | .cpre _ => true
  | .cres _ => true
  | .cresume _ => true
  | .vld _ t => t.wf
  | .vst _ t => t.wf
  | .vldStr _ t => t.wf
  | .vstStr _ t => t.wf
  | .vldl _ t => t.wf
  | .vstl _ t => t.wf
  | .vldlX _ t => t.wf
  | .vstlX _ t => t.wf
  | .vgather _ t => t.wf
  | .vscatter _ t => t.wf
  | .vamoAdd _ _ t => t.wf
  | .vamoMin _ _ t => t.wf
  | .vamoMax _ _ t => t.wf
  | .vamoAnd _ _ t => t.wf
  | .vamoOr _ _ t => t.wf
  | .vamoXor _ _ t => t.wf
  | .vamoSwap _ _ t => t.wf
  | .vamoXsum _ _ t => t.wf
  | .vadd _ t => t.wf
  | .vsub _ t => t.wf
  | .vadds _ t => t.wf
  | .vsubs _ t => t.wf
  | .vmul _ t => t.wf
  | .vmulh _ t => t.wf
  | .vmin _ t => t.wf
  | .vmax _ t => t.wf
  | .vand _ t => t.wf
  | .vor _ t => t.wf
  | .vxor _ t => t.wf
  | .vandn _ t => t.wf
  | .vabs _ t => t.wf
  | .vneg _ t => t.wf
  | .vavg _ t => t.wf
  | .vabsd _ t => t.wf
  | .vaddS _ t => t.wf
  | .vsubS _ t => t.wf
  | .vaddsS _ t => t.wf
  | .vsubsS _ t => t.wf
  | .vmulS _ t => t.wf
  | .vmulhS _ t => t.wf
  | .vminS _ t => t.wf
  | .vmaxS _ t => t.wf
  | .vandS _ t => t.wf
  | .vorS _ t => t.wf
  | .vxorS _ t => t.wf
  | .vandnS _ t => t.wf
  | .vavgS _ t => t.wf
  | .vabsdS _ t => t.wf
  | .vfadd _ t => t.wf
  | .vfsub _ t => t.wf
  | .vfmul _ t => t.wf
  | .vfdiv _ t => t.wf
  | .vfmin _ t => t.wf
  | .vfmax _ t => t.wf
  | .vfabs _ t => t.wf
  | .vfneg _ t => t.wf
  | .vfaddS _ t => t.wf
  | .vfsubS _ t => t.wf
  | .vfmulS _ t => t.wf
  | .vfdivS _ t => t.wf
  | .vfminS _ t => t.wf
  | .vfmaxS _ t => t.wf
  | .vfma _ t => t.wf
  | .vfms _ t => t.wf
  | .vfnma _ t => t.wf
  | .vfnms _ t => t.wf
  | .vmac _ t => t.wf
  | .vmacs _ t => t.wf
  | .vcmpEq _ t => t.wf
  | .vcmpNe _ t => t.wf
  | .vcmpLt _ t => t.wf
  | .vcmpLe _ t => t.wf
  | .vcmpGt _ t => t.wf
  | .vcmpGe _ t => t.wf
  | .vcmpUn _ t => t.wf
  | .vsel _ t => t.wf
  | .vshl _ t => t.wf
  | .vshr _ t => t.wf
  | .vsra _ t => t.wf
  | .vrotr _ t => t.wf
  | .vshlImm _ t => t.wf
  | .vshrImm _ t => t.wf
  | .vsraImm _ t => t.wf
  | .vrotrImm _ t => t.wf
  | .vcvt _ t => t.wf
  | .vcvtWrap _ t => t.wf
  | .vwiden _ t => t.wf
  | .vnarrow _ t => t.wf
  | .vnarrowWrap _ t => t.wf
  | .vrsum _ t => t.wf
  | .vrmin _ t => t.wf
  | .vrmax _ t => t.wf
  | .vrand _ t => t.wf
  | .vror _ t => t.wf
  | .vrxor _ t => t.wf
  | .vscanSum _ t => t.wf
  | .vscanMin _ t => t.wf
  | .vscanMax _ t => t.wf
  | .vperm _ t => t.wf
  | .vzipLo _ t => t.wf
  | .vzipHi _ t => t.wf
  | .vunzipEv _ t => t.wf
  | .vunzipOd _ t => t.wf
  | .vrev _ t => t.wf
  | .vbcast _ t => t.wf
  | .vtrd _ t => t.wf
  | .vtwr _ t => t.wf
  | .vtacc _ t => t.wf
  | .vexp2 _ t => t.wf
  | .vlog2 _ t => t.wf
  | .vrcp _ t => t.wf
  | .vrsqrt _ t => t.wf
  | .vsqrt _ t => t.wf
  | .vsinpi _ t => t.wf
  | .vcospi _ t => t.wf
  | .vtanh _ t => t.wf
  | .vsigm _ t => t.wf
  | .vexp _ t => t.wf
  | .vlog _ t => t.wf
  | .mma _ _ t => t.wf
  | .mmas _ _ t => t.wf
  | .tld _ t => t.wf
  | .tst _ t => t.wf
  | .tzero _ t => t.wf
  | .spub _ t => t.wf
  | .ssub _ t => t.wf
  | .sunsub _ t => t.wf
  | .copy _ t => t.wf
  | .copySt _ t => t.wf
  | .mcast _ t => t.wf
  | .fill _ t => t.wf
  | .cvcopy _ t => t.wf
  | .wtgt _ t => t.wf
  | .wini _ t => t.wf
  | .wclose _ t => t.wf
  | .put _ t => t.wf
  | .get _ t => t.wf
  | .ramoAdd _ t => t.wf
  | .ramoAnd _ t => t.wf
  | .ramoOr _ t => t.wf
  | .ramoXor _ t => t.wf
  | .ramoMin _ t => t.wf
  | .ramoMax _ t => t.wf
  | .ramoMinu _ t => t.wf
  | .ramoMaxu _ t => t.wf
  | .ramoSwap _ t => t.wf
  | .fchain _ t => t.wf
  | .collSum _ _ t => t.wf
  | .collMin _ _ t => t.wf
  | .collMax _ _ t => t.wf
  | .queueRefill _ _ => true
  | .queueWithdrawal _ _ => true
  | .chainStep _ => true
  | .engineCommandStart _ _ => true
  | .engineCommandComplete _ _ => true
  | .multicastDestComplete _ _ => true
  | .resultArrival _ _ _ => true
  | .pageWalk _ _ _ _ => true
  | .heatNotificationAppend _ _ => true
  | .writerRetry _ _ => true
  | .writeBlockTimeout _ _ => true
  | .homeSliceOperation _ _ _ => true
  | .futureReissue _ _ _ => true
  | .futureWithdrawal _ _ _ => true
  | .patrolScrub _ => true
  | .stepRetire _ => true
  | .stopArrival _ => true
  | .cutDecision _ => true
  | .cutHalt _ => true
  | .cutreqWrite _ _ => true
  | .trapEntry _ _ => true
  | .genprofWrite _ _ _ => true
  | .rewindWrite _ _ => true
  | .ringRegisterWrite _ _ _ => true
  | .hqctlWrite _ _ _ => true
  | .heatclrWrite _ _ _ => true
  | .launchAccept _ => true
  | .stepSelect _ => true
  | .coreBind _ => true
  | .instanceComplete _ _ => true
  | .priorityAgeing _ _ => true
  | .priosetWrite _ _ => true
  | .priorityPreempt _ => true
  | .preemptLanding _ _ => true
  | .distributorRestore _ _ => true
  | .penctlEnable _ _ => true
  | .penctlResume _ _ => true
  | .penctlAbandon _ _ => true
  | .lqctlWrite _ _ _ => true
  | .c3startWrite _ _ => true
  | .bcnctlWrite _ => true
  | .beacon => true
  | .traceDrain _ => true
  | .shedPowerGate _ => true
  | .traceDrainTimeout _ => true
  | .lostRecordWrite _ => true
  | .brkctlGo _ _ => true
  | .brkctlEnable _ _ => true
  | .regWriteLowHalf _ _ _ => true
  | .regWriteHighHalf _ _ _ => true
  | .registerWrite _ _ _ => true
  | .hostWrite _ _ _ => true
  | .hostRead _ _ => true
  | .hostProcessorWrite _ _ _ => true
  | .putArrival _ => true
  | .putAckArrival _ => true
  | .getRequestArrival _ => true
  | .getReplyArrival _ => true
  | .remoteAtomicArrival _ => true
  | .fabricRefusal _ => true
  | .spanningGroupMessage _ => true
  | .flitCrcRetry _ => true
  | .linkOutOfService _ => true
  | .linkRetrain _ => true
  | .penConfigure _ => true
  | .accessTableWrite _ _ _ _ => true
  | .fabidWrite _ => true
  | .firmwareVerify => true
  | .powerUp => true
  | .overTemperature _ => true
  | .imageAdmission _ => true
  | .hostLinkReset _ => true
  | .shedPowerRestore _ => true
  | .spanningGroupCompletion _ => true

/-- The rows of the table that have no instruction word. -/
def Instr.isEvent : Instr → Bool
  | .add _ => false
  | .sub _ => false
  | .mul _ => false
  | .mulh _ => false
  | .mulhu _ => false
  | .div _ => false
  | .divu _ => false
  | .rem _ => false
  | .remu _ => false
  | .and _ => false
  | .or _ => false
  | .xor _ => false
  | .andn _ => false
  | .shl _ => false
  | .shr _ => false
  | .sra _ => false
  | .rotr _ => false
  | .min _ => false
  | .max _ => false
  | .minu _ => false
  | .maxu _ => false
  | .adds _ => false
  | .subs _ => false
  | .addsu _ => false
  | .subsu _ => false
  | .addImm _ => false
  | .mulImm _ => false
  | .andImm _ => false
  | .orImm _ => false
  | .xorImm _ => false
  | .shlImm _ => false
  | .shrImm _ => false
  | .sraImm _ => false
  | .rotrImm _ => false
  | .movK _ => false
  | .wpos _ => false
  | .wnum _ => false
  | .cmp _ => false
  | .cmpImm _ => false
  | .pand _ => false
  | .por _ => false
  | .pxor _ => false
  | .pandn _ => false
  | .pnor _ => false
  | .pnand _ => false
  | .pmov _ => false
  | .pnot _ => false
  | .extract _ => false
  | .insert _ => false
  | .popc _ => false
  | .clz _ => false
  | .ctz _ => false
  | .brev _ => false
  | .bswap _ => false
  | .br _ => false
  | .call _ => false
  | .jmp _ => false
  | .callr _ => false
  | .loop _ => false
  | .lend _ => false
  | .iter _ => false
  | .rep _ => false
  | .xim _ => false
  | .spt _ => false
  | .gwait _ => false
  | .graise _ => false
  | .gread _ => false
  | .barmImm _ => false
  | .barm _ => false
  | .bwait _ => false
  | .bread _ => false
  | .join _ => false
  | .leave _ => false
  | .arrive _ => false
  | .wait _ => false
  | .push _ => false
  | .pop _ => false
  | .pushTry _ => false
  | .popTry _ => false
  | .launch _ => false
  | .chainLd _ => false
  | .chainAdd _ => false
  | .chainSwap _ => false
  | .wwaitSeen _ => false
  | .wwaitLand _ => false
  | .wreadSent _ => false
  | .wreadSeen _ => false
  | .wreadLand _ => false
  | .ldGlb _ => false
  | .ldSp _ => false
  | .ldSh _ => false
  | .ldChip _ => false
  | .stGlb _ => false
  | .stSp _ => false
  | .stSh _ => false
  | .stChip _ => false
  | .ldAcq _ => false
  | .stRel _ => false
  | .fence _ => false
  | .mark _ => false
  | .amoAdd _ => false
  | .amoAnd _ => false
  | .amoOr _ => false
  | .amoXor _ => false
  | .amoMin _ => false
  | .amoMax _ => false
  | .amoMinu _ => false
  | .amoMaxu _ => false
  | .amoSwap _ => false
  | .amoCas _ => false
  | .redAdd _ => false
  | .redAnd _ => false
  | .redOr _ => false
  | .redXor _ => false
  | .redMin _ => false
  | .redMax _ => false
  | .redMinu _ => false
  | .redMaxu _ => false
  | .fld _ => false
  | .fldTake _ => false
  | .ffill _ => false
  | .xsumAdd _ => false
  | .xsumMerge _ => false
  | .xsumRead _ => false
  | .xsumReadClr _ => false
  | .mfsr _ => false
  | .mtsr _ => false
  | .setovf _ => false
  | .trap _ => false
  | .tret _ => false
  | .stop _ => false
  | .tinvalPg _ => false
  | .tinvalSp _ => false
  | .tinvalAll _ => false
  | .rfinv _ => false
  | .rfclr _ => false
  | .cpre _ => false
  | .cres _ => false
  | .cresume _ => false
  | .vld _ _ => false
  | .vst _ _ => false
  | .vldStr _ _ => false
  | .vstStr _ _ => false
  | .vldl _ _ => false
  | .vstl _ _ => false
  | .vldlX _ _ => false
  | .vstlX _ _ => false
  | .vgather _ _ => false
  | .vscatter _ _ => false
  | .vamoAdd _ _ _ => false
  | .vamoMin _ _ _ => false
  | .vamoMax _ _ _ => false
  | .vamoAnd _ _ _ => false
  | .vamoOr _ _ _ => false
  | .vamoXor _ _ _ => false
  | .vamoSwap _ _ _ => false
  | .vamoXsum _ _ _ => false
  | .vadd _ _ => false
  | .vsub _ _ => false
  | .vadds _ _ => false
  | .vsubs _ _ => false
  | .vmul _ _ => false
  | .vmulh _ _ => false
  | .vmin _ _ => false
  | .vmax _ _ => false
  | .vand _ _ => false
  | .vor _ _ => false
  | .vxor _ _ => false
  | .vandn _ _ => false
  | .vabs _ _ => false
  | .vneg _ _ => false
  | .vavg _ _ => false
  | .vabsd _ _ => false
  | .vaddS _ _ => false
  | .vsubS _ _ => false
  | .vaddsS _ _ => false
  | .vsubsS _ _ => false
  | .vmulS _ _ => false
  | .vmulhS _ _ => false
  | .vminS _ _ => false
  | .vmaxS _ _ => false
  | .vandS _ _ => false
  | .vorS _ _ => false
  | .vxorS _ _ => false
  | .vandnS _ _ => false
  | .vavgS _ _ => false
  | .vabsdS _ _ => false
  | .vfadd _ _ => false
  | .vfsub _ _ => false
  | .vfmul _ _ => false
  | .vfdiv _ _ => false
  | .vfmin _ _ => false
  | .vfmax _ _ => false
  | .vfabs _ _ => false
  | .vfneg _ _ => false
  | .vfaddS _ _ => false
  | .vfsubS _ _ => false
  | .vfmulS _ _ => false
  | .vfdivS _ _ => false
  | .vfminS _ _ => false
  | .vfmaxS _ _ => false
  | .vfma _ _ => false
  | .vfms _ _ => false
  | .vfnma _ _ => false
  | .vfnms _ _ => false
  | .vmac _ _ => false
  | .vmacs _ _ => false
  | .vcmpEq _ _ => false
  | .vcmpNe _ _ => false
  | .vcmpLt _ _ => false
  | .vcmpLe _ _ => false
  | .vcmpGt _ _ => false
  | .vcmpGe _ _ => false
  | .vcmpUn _ _ => false
  | .vsel _ _ => false
  | .vshl _ _ => false
  | .vshr _ _ => false
  | .vsra _ _ => false
  | .vrotr _ _ => false
  | .vshlImm _ _ => false
  | .vshrImm _ _ => false
  | .vsraImm _ _ => false
  | .vrotrImm _ _ => false
  | .vcvt _ _ => false
  | .vcvtWrap _ _ => false
  | .vwiden _ _ => false
  | .vnarrow _ _ => false
  | .vnarrowWrap _ _ => false
  | .vrsum _ _ => false
  | .vrmin _ _ => false
  | .vrmax _ _ => false
  | .vrand _ _ => false
  | .vror _ _ => false
  | .vrxor _ _ => false
  | .vscanSum _ _ => false
  | .vscanMin _ _ => false
  | .vscanMax _ _ => false
  | .vperm _ _ => false
  | .vzipLo _ _ => false
  | .vzipHi _ _ => false
  | .vunzipEv _ _ => false
  | .vunzipOd _ _ => false
  | .vrev _ _ => false
  | .vbcast _ _ => false
  | .vtrd _ _ => false
  | .vtwr _ _ => false
  | .vtacc _ _ => false
  | .vexp2 _ _ => false
  | .vlog2 _ _ => false
  | .vrcp _ _ => false
  | .vrsqrt _ _ => false
  | .vsqrt _ _ => false
  | .vsinpi _ _ => false
  | .vcospi _ _ => false
  | .vtanh _ _ => false
  | .vsigm _ _ => false
  | .vexp _ _ => false
  | .vlog _ _ => false
  | .mma _ _ _ => false
  | .mmas _ _ _ => false
  | .tld _ _ => false
  | .tst _ _ => false
  | .tzero _ _ => false
  | .spub _ _ => false
  | .ssub _ _ => false
  | .sunsub _ _ => false
  | .copy _ _ => false
  | .copySt _ _ => false
  | .mcast _ _ => false
  | .fill _ _ => false
  | .cvcopy _ _ => false
  | .wtgt _ _ => false
  | .wini _ _ => false
  | .wclose _ _ => false
  | .put _ _ => false
  | .get _ _ => false
  | .ramoAdd _ _ => false
  | .ramoAnd _ _ => false
  | .ramoOr _ _ => false
  | .ramoXor _ _ => false
  | .ramoMin _ _ => false
  | .ramoMax _ _ => false
  | .ramoMinu _ _ => false
  | .ramoMaxu _ _ => false
  | .ramoSwap _ _ => false
  | .fchain _ _ => false
  | .collSum _ _ _ => false
  | .collMin _ _ _ => false
  | .collMax _ _ _ => false
  | .queueRefill _ _ => true
  | .queueWithdrawal _ _ => true
  | .chainStep _ => true
  | .engineCommandStart _ _ => true
  | .engineCommandComplete _ _ => true
  | .multicastDestComplete _ _ => true
  | .resultArrival _ _ _ => true
  | .pageWalk _ _ _ _ => true
  | .heatNotificationAppend _ _ => true
  | .writerRetry _ _ => true
  | .writeBlockTimeout _ _ => true
  | .homeSliceOperation _ _ _ => true
  | .futureReissue _ _ _ => true
  | .futureWithdrawal _ _ _ => true
  | .patrolScrub _ => true
  | .stepRetire _ => true
  | .stopArrival _ => true
  | .cutDecision _ => true
  | .cutHalt _ => true
  | .cutreqWrite _ _ => true
  | .trapEntry _ _ => true
  | .genprofWrite _ _ _ => true
  | .rewindWrite _ _ => true
  | .ringRegisterWrite _ _ _ => true
  | .hqctlWrite _ _ _ => true
  | .heatclrWrite _ _ _ => true
  | .launchAccept _ => true
  | .stepSelect _ => true
  | .coreBind _ => true
  | .instanceComplete _ _ => true
  | .priorityAgeing _ _ => true
  | .priosetWrite _ _ => true
  | .priorityPreempt _ => true
  | .preemptLanding _ _ => true
  | .distributorRestore _ _ => true
  | .penctlEnable _ _ => true
  | .penctlResume _ _ => true
  | .penctlAbandon _ _ => true
  | .lqctlWrite _ _ _ => true
  | .c3startWrite _ _ => true
  | .bcnctlWrite _ => true
  | .beacon => true
  | .traceDrain _ => true
  | .shedPowerGate _ => true
  | .traceDrainTimeout _ => true
  | .lostRecordWrite _ => true
  | .brkctlGo _ _ => true
  | .brkctlEnable _ _ => true
  | .regWriteLowHalf _ _ _ => true
  | .regWriteHighHalf _ _ _ => true
  | .registerWrite _ _ _ => true
  | .hostWrite _ _ _ => true
  | .hostRead _ _ => true
  | .hostProcessorWrite _ _ _ => true
  | .putArrival _ => true
  | .putAckArrival _ => true
  | .getRequestArrival _ => true
  | .getReplyArrival _ => true
  | .remoteAtomicArrival _ => true
  | .fabricRefusal _ => true
  | .spanningGroupMessage _ => true
  | .flitCrcRetry _ => true
  | .linkOutOfService _ => true
  | .linkRetrain _ => true
  | .penConfigure _ => true
  | .accessTableWrite _ _ _ _ => true
  | .fabidWrite _ => true
  | .firmwareVerify => true
  | .powerUp => true
  | .overTemperature _ => true
  | .imageAdmission _ => true
  | .hostLinkReset _ => true
  | .shedPowerRestore _ => true
  | .spanningGroupCompletion _ => true

end Sys2Proof
end

