-- ==== Sys2Proof/Decode.lean ====
section
/-!
DEFINITION. The decoder and the encoder of instruction words, both written from the field tables of spec 09 to 14
(R212 to R230). A word is a number below 2^32; an engine command has two, the command word and its tail. The decoder
is total and answers none for every encoding that R230 sends to the undefined-instruction trap (where that can be
told from the words alone: what a prefix may stand before is checked at issue).

The functions that build a constructor beyond the 244th are marked noncomputable: Lean's compiled code numbers no
more constructors with fields. Lean's kernel evaluates them as it does every other definition.
-/
namespace Sys2Proof

/-- Field of n bits at bit lo of a word. -/
def bits (w lo n : Nat) : BitVec n := BitVec.ofNat n (w / 2 ^ lo)

/-- The number in a field of n bits at bit lo. -/
def fld (w lo n : Nat) : Nat := w / 2 ^ lo % 2 ^ n

/-- The instruction, when its operand checks pass. -/
def checked (i : Instr) : Option Instr := if i.wf then some i else none

/-- Fields of format R (R215): D, A with selector, B with selector. -/
def decFR (w : Nat) : FR :=
  ⟨bits w 22 3, bits w 17 5, bits w 12 5, bits w 11 1, bits w 6 5, bits w 5 1⟩

/-- Fields of format I (R215). -/
def decFI (w : Nat) : FI :=
  ⟨bits w 22 3, bits w 17 5, bits w 12 5, bits w 11 1, bits w 0 11⟩

/-- Fields of format I as the immediate shift of R240 reads it. -/
def decFSh (w : Nat) : FSh :=
  ⟨bits w 22 3, bits w 17 5, bits w 12 5, bits w 11 1, bits w 0 6⟩

/-- Fields of walker read of a coordinate (R241). -/
def decFK (w : Nat) : FK :=
  ⟨bits w 22 3, bits w 17 5, bits w 12 5⟩

/-- Fields of walker reads with no operand (R241). -/
def decFD (w : Nat) : FD :=
  ⟨bits w 22 3, bits w 17 5⟩

/-- Fields of format C (R215). -/
def decFC (w : Nat) : FC :=
  ⟨bits w 22 3, bits w 19 3, bits w 16 3, bits w 11 5, bits w 10 1, bits w 5 5, bits w 4 1⟩

/-- Fields of format CI (R215). -/
def decFCI (w : Nat) : FCI :=
  ⟨bits w 22 3, bits w 19 3, bits w 16 3, bits w 11 5, bits w 10 1, bits w 0 10⟩

/-- Fields of format P (R215). -/
def decFP (w : Nat) : FP :=
  ⟨bits w 22 3, bits w 19 3, bits w 15 4, bits w 14 1, bits w 10 4, bits w 9 1⟩

/-- Fields of format P with one source (R243). -/
def decFP1 (w : Nat) : FP1 :=
  ⟨bits w 22 3, bits w 19 3, bits w 15 4, bits w 14 1⟩

/-- Fields of format R with D and A only. -/
def decFU (w : Nat) : FU :=
  ⟨bits w 22 3, bits w 17 5, bits w 12 5, bits w 11 1⟩

/-- Fields of format R with A only. -/
def decFJ (w : Nat) : FJ :=
  ⟨bits w 22 3, bits w 12 5, bits w 11 1⟩

/-- Fields of predicate only. -/
def decFN0 (w : Nat) : FN0 :=
  ⟨bits w 22 3⟩

/-- Fields of format B (R215). -/
def decFB (w : Nat) : FB :=
  ⟨bits w 22 3, bits w 0 22⟩

/-- Fields of the `loop` word (R249). -/
def decFLoop (w : Nat) : FLoop :=
  ⟨bits w 22 3, bits w 16 5, bits w 15 1, bits w 0 14⟩

/-- Fields of the `rep` word (R226). -/
def decFRep (w : Nat) : FRep :=
  ⟨bits w 16 6, bits w 14 2, bits w 12 2, bits w 10 2, bits w 8 2⟩

/-- Fields of the `xim` word (R217). -/
def decFXim (w : Nat) : FXim :=
  ⟨bits w 0 25⟩

/-- Fields of the `spt` word (R342). -/
def decFSpt (w : Nat) : FSpt :=
  ⟨bits w 6 16, bits w 0 6⟩

/-- Fields of gate operand (R269). -/
def decFG (w : Nat) : FG :=
  ⟨bits w 22 3, bits w 12 5⟩

/-- Fields of gate operand and destination (R269). -/
def decFGD (w : Nat) : FGD :=
  ⟨bits w 22 3, bits w 17 5, bits w 12 5⟩

/-- Fields of `barm` with an immediate (R270). -/
def decFBarmI (w : Nat) : FBarmI :=
  ⟨bits w 22 3, bits w 16 6, bits w 0 14⟩

/-- Fields of `barm` with a register (R270). -/
def decFBarm (w : Nat) : FBarm :=
  ⟨bits w 22 3, bits w 16 6, bits w 9 5, bits w 8 1⟩

/-- Fields of `bwait` (R270). -/
def decFBw (w : Nat) : FBw :=
  ⟨bits w 22 3, bits w 16 6⟩

/-- Fields of `bread` (R270). -/
def decFBr (w : Nat) : FBr :=
  ⟨bits w 22 3, bits w 16 6, bits w 9 5⟩

/-- Fields of format R with A and B only. -/
def decFAB (w : Nat) : FAB :=
  ⟨bits w 22 3, bits w 12 5, bits w 11 1, bits w 6 5, bits w 5 1⟩

/-- Fields of `push` (R274). -/
def decFPush (w : Nat) : FPush :=
  ⟨bits w 22 3, bits w 17 5, bits w 16 1, bits w 12 4⟩

/-- Fields of `pop` (R274). -/
def decFPop (w : Nat) : FPop :=
  ⟨bits w 22 3, bits w 17 5, bits w 12 4⟩

/-- Fields of `push.try` (R274). -/
def decFPushT (w : Nat) : FPushT :=
  ⟨bits w 22 3, bits w 17 5, bits w 16 1, bits w 12 4, bits w 8 3⟩

/-- Fields of `pop.try` (R274). -/
def decFPopT (w : Nat) : FPopT :=
  ⟨bits w 22 3, bits w 17 5, bits w 12 4, bits w 8 3⟩

/-- Fields of `chain` with a final load (R277). -/
def decFChL (w : Nat) : FChL :=
  ⟨bits w 22 3, bits w 17 5, bits w 12 5, bits w 11 1, bits w 8 2, bits w 6 2, bits w 2 4⟩

/-- Fields of `chain` with a final atomic (R277). -/
def decFChA (w : Nat) : FChA :=
  ⟨bits w 22 3, bits w 17 5, bits w 12 5, bits w 11 1, bits w 6 2, bits w 2 4⟩

/-- Fields of window wait (R319). -/
def decFWw (w : Nat) : FWw :=
  ⟨bits w 22 3, bits w 12 5, bits w 11 1, bits w 5 6⟩

/-- Fields of window read (R319). -/
def decFWr (w : Nat) : FWr :=
  ⟨bits w 22 3, bits w 17 5, bits w 5 6⟩

/-- Fields of format M (R215). -/
def decFM (w : Nat) : FM :=
  ⟨bits w 22 3, bits w 17 5, bits w 12 5, bits w 11 1, bits w 10 1, bits w 8 2, bits w 0 8⟩

/-- Fields of format MO (R215). -/
def decFMO (w : Nat) : FMO :=
  ⟨bits w 22 3, bits w 17 5, bits w 12 5, bits w 11 1, bits w 10 1, bits w 8 2, bits w 6 2, bits w 2 4⟩

/-- Fields of `fence` (R260). -/
def decFFence (w : Nat) : FFence :=
  ⟨bits w 22 3, bits w 17 5, bits w 12 5, bits w 9 3⟩

/-- Fields of format A (R215). -/
def decFA (w : Nat) : FA :=
  ⟨bits w 22 3, bits w 17 5, bits w 12 5, bits w 11 1, bits w 6 5, bits w 5 1, bits w 1 4, bits w 0 1⟩

/-- Fields of format A with D = 0, a reduction (R216). -/
def decFRed (w : Nat) : FRed :=
  ⟨bits w 22 3, bits w 12 5, bits w 11 1, bits w 6 5, bits w 5 1, bits w 1 4, bits w 0 1⟩

/-- Fields of `xsum.add` (R264). -/
def decFXa (w : Nat) : FXa :=
  ⟨bits w 22 3, bits w 20 2, bits w 12 5, bits w 11 1, bits w 6 5, bits w 5 1, bits w 1 4⟩

/-- Fields of `xsum.merge` (R265). -/
def decFXm (w : Nat) : FXm :=
  ⟨bits w 22 3, bits w 12 5, bits w 11 1, bits w 6 5, bits w 5 1, bits w 1 4⟩

/-- Fields of `xsum.read` (R266). -/
def decFXr (w : Nat) : FXr :=
  ⟨bits w 22 3, bits w 17 5, bits w 12 5, bits w 11 1, bits w 9 2, bits w 4 3, bits w 0 4⟩

/-- Fields of `mfsr` (R329). -/
def decFMf (w : Nat) : FMf :=
  ⟨bits w 22 3, bits w 17 5, bits w 15 1, bits w 13 2, bits w 5 8⟩

/-- Fields of `mtsr` (R329). -/
def decFMt (w : Nat) : FMt :=
  ⟨bits w 22 3, bits w 17 5, bits w 16 1, bits w 15 1, bits w 13 2, bits w 5 8⟩

/-- Fields of `trap` (R337). -/
def decFTrap (w : Nat) : FTrap :=
  ⟨bits w 22 3, bits w 5 12⟩

/-- Fields of `stop` (R338). -/
def decFStop (w : Nat) : FStop :=
  ⟨bits w 22 3, bits w 19 3, bits w 12 5, bits w 11 1⟩

/-- Fields of format R with B only. -/
def decFB1 (w : Nat) : FB1 :=
  ⟨bits w 22 3, bits w 6 5, bits w 5 1⟩

/-- Fields of `cresume` (R336). -/
def decFCr (w : Nat) : FCr :=
  ⟨bits w 22 3, bits w 17 2⟩

/-- Fields of engine format EV (R221) without FN. -/
def decFEV (w : Nat) : FEV :=
  ⟨bits w 22 3, bits w 17 5, bits w 12 5, bits w 7 5⟩

/-- Fields of engine format ES (R221) without FN. -/
def decFES (w : Nat) : FES :=
  ⟨bits w 22 3, bits w 17 5, bits w 16 1, bits w 11 5, bits w 10 1, bits w 5 5, bits w 4 1⟩

/-- Fields of engine format ET (R221) without FN. -/
def decFET (w : Nat) : FET :=
  ⟨bits w 22 3, bits w 17 5, bits w 12 5, bits w 11 1, bits w 8 3, bits w 7 1, bits w 2 5⟩

/-- Fields of command tail word (R222). -/
def decTail (w : Nat) : Tail :=
  ⟨bits w 31 1, bits w 26 5, bits w 25 1, bits w 20 5, bits w 17 3, bits w 16 1, bits w 10 6, bits w 0 10⟩

/-- Words of major 0x00. -/
def decOp00 (w : Nat) : Option Instr :=
  if fld w 0 5 = 0 then checked (.add (decFR w))
  else if fld w 0 5 = 1 then checked (.sub (decFR w))
  else if fld w 0 5 = 2 then checked (.mul (decFR w))
  else if fld w 0 5 = 3 then checked (.mulh (decFR w))
  else if fld w 0 5 = 4 then checked (.mulhu (decFR w))
  else if fld w 0 5 = 5 then checked (.div (decFR w))
  else if fld w 0 5 = 6 then checked (.divu (decFR w))
  else if fld w 0 5 = 7 then checked (.rem (decFR w))
  else if fld w 0 5 = 8 then checked (.remu (decFR w))
  else if fld w 0 5 = 9 then checked (.and (decFR w))
  else if fld w 0 5 = 10 then checked (.or (decFR w))
  else if fld w 0 5 = 11 then checked (.xor (decFR w))
  else if fld w 0 5 = 12 then checked (.andn (decFR w))
  else if fld w 0 5 = 13 then checked (.shl (decFR w))
  else if fld w 0 5 = 14 then checked (.shr (decFR w))
  else if fld w 0 5 = 15 then checked (.sra (decFR w))
  else if fld w 0 5 = 16 then checked (.rotr (decFR w))
  else if fld w 0 5 = 17 then checked (.min (decFR w))
  else if fld w 0 5 = 18 then checked (.max (decFR w))
  else if fld w 0 5 = 19 then checked (.minu (decFR w))
  else if fld w 0 5 = 20 then checked (.maxu (decFR w))
  else if fld w 0 5 = 21 then checked (.adds (decFR w))
  else if fld w 0 5 = 22 then checked (.subs (decFR w))
  else if fld w 0 5 = 23 then checked (.addsu (decFR w))
  else if fld w 0 5 = 24 then checked (.subsu (decFR w))
  else none

/-- Words of major 0x01. -/
def decOp01 (w : Nat) : Option Instr :=
  checked (.addImm (decFI w))

/-- Words of major 0x02. -/
def decOp02 (w : Nat) : Option Instr :=
  checked (.mulImm (decFI w))

/-- Words of major 0x03. -/
def decOp03 (w : Nat) : Option Instr :=
  checked (.andImm (decFI w))

/-- Words of major 0x04. -/
def decOp04 (w : Nat) : Option Instr :=
  checked (.orImm (decFI w))

/-- Words of major 0x05. -/
def decOp05 (w : Nat) : Option Instr :=
  checked (.xorImm (decFI w))

/-- Words of major 0x06. -/
def decOp06 (w : Nat) : Option Instr :=
  if fld w 6 2 = 0 ∧ fld w 8 3 = 0 then checked (.shlImm (decFSh w))
  else if fld w 6 2 = 1 ∧ fld w 8 3 = 0 then checked (.shrImm (decFSh w))
  else if fld w 6 2 = 2 ∧ fld w 8 3 = 0 then checked (.sraImm (decFSh w))
  else if fld w 6 2 = 3 ∧ fld w 8 3 = 0 then checked (.rotrImm (decFSh w))
  else none

/-- Words of major 0x07. -/
def decOp07 (w : Nat) : Option Instr :=
  if fld w 0 5 = 0 ∧ fld w 5 7 = 0 then checked (.movK (decFK w))
  else if fld w 0 5 = 1 ∧ fld w 5 12 = 0 then checked (.wpos (decFD w))
  else if fld w 0 5 = 2 ∧ fld w 5 12 = 0 then checked (.wnum (decFD w))
  else none

/-- Words of major 0x08. -/
def decOp08 (w : Nat) : Option Instr :=
  if fld w 0 4 = 0 then checked (.cmp (decFC w))
  else none

/-- Words of major 0x09. -/
def decOp09 (w : Nat) : Option Instr :=
  checked (.cmpImm (decFCI w))

/-- Words of major 0x0A. -/
def decOp0A (w : Nat) : Option Instr :=
  if fld w 0 6 = 0 ∧ fld w 6 3 = 0 then checked (.pand (decFP w))
  else if fld w 0 6 = 0 ∧ fld w 6 3 = 1 then checked (.por (decFP w))
  else if fld w 0 6 = 0 ∧ fld w 6 3 = 2 then checked (.pxor (decFP w))
  else if fld w 0 6 = 0 ∧ fld w 6 3 = 3 then checked (.pandn (decFP w))
  else if fld w 0 6 = 0 ∧ fld w 6 3 = 4 then checked (.pnor (decFP w))
  else if fld w 0 6 = 0 ∧ fld w 6 3 = 5 then checked (.pnand (decFP w))
  else if fld w 0 6 = 0 ∧ fld w 6 3 = 6 ∧ fld w 9 5 = 0 then checked (.pmov (decFP1 w))
  else if fld w 0 6 = 0 ∧ fld w 6 3 = 7 ∧ fld w 9 5 = 0 then checked (.pnot (decFP1 w))
  else none

/-- Words of major 0x0B. -/
def decOp0B (w : Nat) : Option Instr :=
  checked (.extract (decFI w))

/-- Words of major 0x0C. -/
def decOp0C (w : Nat) : Option Instr :=
  checked (.insert (decFI w))

/-- Words of major 0x0D. -/
def decOp0D (w : Nat) : Option Instr :=
  if fld w 0 5 = 0 ∧ fld w 5 6 = 0 then checked (.popc (decFU w))
  else if fld w 0 5 = 1 ∧ fld w 5 6 = 0 then checked (.clz (decFU w))
  else if fld w 0 5 = 2 ∧ fld w 5 6 = 0 then checked (.ctz (decFU w))
  else if fld w 0 5 = 3 ∧ fld w 5 6 = 0 then checked (.brev (decFU w))
  else if fld w 0 5 = 4 ∧ fld w 5 6 = 0 then checked (.bswap (decFU w))
  else none

/-- Words of major 0x10. -/
def decOp10 (w : Nat) : Option Instr :=
  checked (.br (decFB w))

/-- Words of major 0x11. -/
def decOp11 (w : Nat) : Option Instr :=
  checked (.call (decFB w))

/-- Words of major 0x12. -/
def decOp12 (w : Nat) : Option Instr :=
  if fld w 0 5 = 0 ∧ fld w 5 6 = 0 ∧ fld w 17 5 = 0 then checked (.jmp (decFJ w))
  else if fld w 0 5 = 1 ∧ fld w 5 6 = 0 ∧ fld w 17 5 = 0 then checked (.callr (decFJ w))
  else none

/-- Words of major 0x13. -/
def decOp13 (w : Nat) : Option Instr :=
  if fld w 14 1 = 0 ∧ fld w 21 1 = 0 then checked (.loop (decFLoop w))
  else if fld w 0 21 = 0 ∧ fld w 21 1 = 1 then checked (.lend (decFN0 w))
  else none

/-- Words of major 0x14. -/
def decOp14 (w : Nat) : Option Instr :=
  checked (.iter (decFB w))

/-- Words of major 0x15. -/
def decOp15 (w : Nat) : Option Instr :=
  if fld w 0 8 = 0 ∧ fld w 22 3 = 0 then checked (.rep (decFRep w))
  else none

/-- Words of major 0x16. -/
def decOp16 (w : Nat) : Option Instr :=
  checked (.xim (decFXim w))

/-- Words of major 0x17. -/
def decOp17 (w : Nat) : Option Instr :=
  if fld w 22 3 = 0 then checked (.spt (decFSpt w))
  else none

/-- Words of major 0x18. -/
def decOp18 (w : Nat) : Option Instr :=
  if fld w 0 2 = 0 ∧ fld w 2 10 = 0 ∧ fld w 17 5 = 0 then checked (.gwait (decFG w))
  else if fld w 0 2 = 1 ∧ fld w 2 10 = 0 ∧ fld w 17 5 = 0 then checked (.graise (decFG w))
  else if fld w 0 2 = 2 ∧ fld w 2 10 = 0 then checked (.gread (decFGD w))
  else none

/-- Words of major 0x19. -/
def decOp19 (w : Nat) : Option Instr :=
  if fld w 14 2 = 0 then checked (.barmImm (decFBarmI w))
  else if fld w 0 8 = 0 ∧ fld w 14 2 = 1 then checked (.barm (decFBarm w))
  else if fld w 0 14 = 0 ∧ fld w 14 2 = 2 then checked (.bwait (decFBw w))
  else if fld w 0 9 = 0 ∧ fld w 14 2 = 3 then checked (.bread (decFBr w))
  else none

/-- Words of major 0x1A. -/
def decOp1A (w : Nat) : Option Instr :=
  if fld w 0 2 = 0 ∧ fld w 2 9 = 0 ∧ fld w 17 5 = 0 then checked (.join (decFJ w))
  else if fld w 0 2 = 1 ∧ fld w 2 9 = 0 ∧ fld w 17 5 = 0 then checked (.leave (decFJ w))
  else if fld w 0 2 = 2 ∧ fld w 2 9 = 0 then checked (.arrive (decFU w))
  else if fld w 0 2 = 3 ∧ fld w 2 3 = 0 ∧ fld w 17 5 = 0 then checked (.wait (decFAB w))
  else none

/-- Words of major 0x1B. -/
def decOp1B (w : Nat) : Option Instr :=
  if fld w 0 1 = 0 ∧ fld w 1 7 = 0 ∧ fld w 8 3 = 0 ∧ fld w 11 1 = 0 then checked (.push (decFPush w))
  else if fld w 0 1 = 1 ∧ fld w 1 7 = 0 ∧ fld w 8 3 = 0 ∧ fld w 11 1 = 0 ∧ fld w 16 1 = 0 then checked (.pop (decFPop w))
  else if fld w 0 1 = 0 ∧ fld w 1 7 = 0 ∧ fld w 11 1 = 1 then checked (.pushTry (decFPushT w))
  else if fld w 0 1 = 1 ∧ fld w 1 7 = 0 ∧ fld w 11 1 = 1 ∧ fld w 16 1 = 0 then checked (.popTry (decFPopT w))
  else none

/-- Words of major 0x1C. -/
def decOp1C (w : Nat) : Option Instr :=
  if fld w 0 11 = 0 then checked (.launch (decFU w))
  else none

/-- Words of major 0x1D. -/
def decOp1D (w : Nat) : Option Instr :=
  if fld w 0 2 = 0 ∧ fld w 10 1 = 0 then checked (.chainLd (decFChL w))
  else if fld w 0 2 = 0 ∧ fld w 8 3 = 4 then checked (.chainAdd (decFChA w))
  else if fld w 0 2 = 0 ∧ fld w 8 3 = 5 then checked (.chainSwap (decFChA w))
  else none

/-- Words of major 0x1E. -/
def decOp1E (w : Nat) : Option Instr :=
  if fld w 0 3 = 0 ∧ fld w 3 2 = 0 ∧ fld w 17 5 = 0 then checked (.wwaitSeen (decFWw w))
  else if fld w 0 3 = 1 ∧ fld w 3 2 = 0 ∧ fld w 17 5 = 0 then checked (.wwaitLand (decFWw w))
  else if fld w 0 3 = 2 ∧ fld w 3 2 = 0 ∧ fld w 11 6 = 0 then checked (.wreadSent (decFWr w))
  else if fld w 0 3 = 3 ∧ fld w 3 2 = 0 ∧ fld w 11 6 = 0 then checked (.wreadSeen (decFWr w))
  else if fld w 0 3 = 4 ∧ fld w 3 2 = 0 ∧ fld w 11 6 = 0 then checked (.wreadLand (decFWr w))
  else none

/-- Words of major 0x20. -/
def decOp20 (w : Nat) : Option Instr :=
  checked (.ldGlb (decFM w))

/-- Words of major 0x21. -/
def decOp21 (w : Nat) : Option Instr :=
  checked (.ldSp (decFM w))

/-- Words of major 0x22. -/
def decOp22 (w : Nat) : Option Instr :=
  checked (.ldSh (decFM w))

/-- Words of major 0x23. -/
def decOp23 (w : Nat) : Option Instr :=
  checked (.ldChip (decFM w))

/-- Words of major 0x24. -/
def decOp24 (w : Nat) : Option Instr :=
  checked (.stGlb (decFM w))

/-- Words of major 0x25. -/
def decOp25 (w : Nat) : Option Instr :=
  checked (.stSp (decFM w))

/-- Words of major 0x26. -/
def decOp26 (w : Nat) : Option Instr :=
  checked (.stSh (decFM w))

/-- Words of major 0x27. -/
def decOp27 (w : Nat) : Option Instr :=
  checked (.stChip (decFM w))

/-- Words of major 0x28. -/
def decOp28 (w : Nat) : Option Instr :=
  if fld w 0 2 = 0 then checked (.ldAcq (decFMO w))
  else none

/-- Words of major 0x29. -/
def decOp29 (w : Nat) : Option Instr :=
  if fld w 0 2 = 0 then checked (.stRel (decFMO w))
  else none

/-- Words of major 0x2A. -/
def decOp2A (w : Nat) : Option Instr :=
  if fld w 0 9 = 0 then checked (.fence (decFFence w))
  else none

/-- Words of major 0x2B. -/
def decOp2B (w : Nat) : Option Instr :=
  if fld w 0 22 = 0 then checked (.mark (decFN0 w))
  else none

/-- Words of major 0x30. -/
def decOp30 (w : Nat) : Option Instr :=
  if fld w 17 5 = 0 then checked (.redAdd (decFRed w))
  else checked (.amoAdd (decFA w))

/-- Words of major 0x31. -/
def decOp31 (w : Nat) : Option Instr :=
  if fld w 17 5 = 0 then checked (.redAnd (decFRed w))
  else checked (.amoAnd (decFA w))

/-- Words of major 0x32. -/
def decOp32 (w : Nat) : Option Instr :=
  if fld w 17 5 = 0 then checked (.redOr (decFRed w))
  else checked (.amoOr (decFA w))

/-- Words of major 0x33. -/
def decOp33 (w : Nat) : Option Instr :=
  if fld w 17 5 = 0 then checked (.redXor (decFRed w))
  else checked (.amoXor (decFA w))

/-- Words of major 0x34. -/
def decOp34 (w : Nat) : Option Instr :=
  if fld w 17 5 = 0 then checked (.redMin (decFRed w))
  else checked (.amoMin (decFA w))

/-- Words of major 0x35. -/
def decOp35 (w : Nat) : Option Instr :=
  if fld w 17 5 = 0 then checked (.redMax (decFRed w))
  else checked (.amoMax (decFA w))

/-- Words of major 0x36. -/
def decOp36 (w : Nat) : Option Instr :=
  if fld w 17 5 = 0 then checked (.redMinu (decFRed w))
  else checked (.amoMinu (decFA w))

/-- Words of major 0x37. -/
def decOp37 (w : Nat) : Option Instr :=
  if fld w 17 5 = 0 then checked (.redMaxu (decFRed w))
  else checked (.amoMaxu (decFA w))

/-- Words of major 0x38. -/
def decOp38 (w : Nat) : Option Instr :=
  checked (.amoSwap (decFA w))

/-- Words of major 0x39. -/
def decOp39 (w : Nat) : Option Instr :=
  checked (.amoCas (decFA w))

/-- Words of major 0x3A. -/
def decOp3A (w : Nat) : Option Instr :=
  if fld w 0 10 = 0 ∧ fld w 10 1 = 0 then checked (.fld (decFU w))
  else if fld w 0 10 = 0 ∧ fld w 10 1 = 1 then checked (.fldTake (decFU w))
  else none

/-- Words of major 0x3B. -/
def decOp3B (w : Nat) : Option Instr :=
  if fld w 0 5 = 0 ∧ fld w 17 5 = 0 then checked (.ffill (decFAB w))
  else none

/-- Words of major 0x3C. -/
def decOp3C (w : Nat) : Option Instr :=
  if fld w 0 1 = 0 ∧ fld w 17 3 = 0 then checked (.xsumAdd (decFXa w))
  else none

/-- Words of major 0x3D. -/
def decOp3D (w : Nat) : Option Instr :=
  if fld w 0 1 = 0 ∧ fld w 17 5 = 0 then checked (.xsumMerge (decFXm w))
  else none

/-- Words of major 0x3E. -/
def decOp3E (w : Nat) : Option Instr :=
  if fld w 7 1 = 0 ∧ fld w 8 1 = 0 then checked (.xsumRead (decFXr w))
  else if fld w 7 1 = 1 ∧ fld w 8 1 = 0 then checked (.xsumReadClr (decFXr w))
  else none

/-- Words of major 0x3F. -/
def decOp3F (w : Nat) : Option Instr :=
  if fld w 0 5 = 0 ∧ fld w 16 1 = 0 then checked (.mfsr (decFMf w))
  else if fld w 0 5 = 1 then checked (.mtsr (decFMt w))
  else if fld w 0 5 = 2 ∧ fld w 5 6 = 0 ∧ fld w 17 5 = 0 then checked (.setovf (decFJ w))
  else if fld w 0 5 = 3 ∧ fld w 17 5 = 0 then checked (.trap (decFTrap w))
  else if fld w 0 5 = 4 ∧ fld w 5 17 = 0 then checked (.tret (decFN0 w))
  else if fld w 0 5 = 5 ∧ fld w 5 6 = 0 ∧ fld w 17 2 = 0 then checked (.stop (decFStop w))
  else if fld w 0 5 = 6 ∧ fld w 17 5 = 0 then checked (.tinvalPg (decFAB w))
  else if fld w 0 5 = 7 ∧ fld w 11 11 = 0 then checked (.tinvalSp (decFB1 w))
  else if fld w 0 5 = 8 ∧ fld w 5 17 = 0 then checked (.tinvalAll (decFN0 w))
  else if fld w 0 5 = 9 ∧ fld w 17 5 = 0 then checked (.rfinv (decFAB w))
  else if fld w 0 5 = 10 ∧ fld w 5 17 = 0 then checked (.rfclr (decFN0 w))
  else if fld w 0 5 = 11 ∧ fld w 5 6 = 0 then checked (.cpre (decFU w))
  else if fld w 0 5 = 12 ∧ fld w 5 6 = 0 ∧ fld w 17 5 = 0 then checked (.cres (decFJ w))
  else if fld w 0 5 = 13 ∧ fld w 5 12 = 0 ∧ fld w 19 3 = 0 then checked (.cresume (decFCr w))
  else none

/-- Words of major 0x40. -/
def decOp40 (w w1 : Nat) : Option Instr :=
  if fld w 0 4 = 0 then checked (.vld (decFES w) (decTail w1))
  else if fld w 0 4 = 1 then checked (.vst (decFES w) (decTail w1))
  else if fld w 0 4 = 2 then checked (.vldStr (decFES w) (decTail w1))
  else if fld w 0 4 = 3 then checked (.vstStr (decFES w) (decTail w1))
  else none

/-- Words of major 0x41. -/
def decOp41 (w w1 : Nat) : Option Instr :=
  if fld w 0 4 = 0 then checked (.vldl (decFES w) (decTail w1))
  else if fld w 0 4 = 1 then checked (.vstl (decFES w) (decTail w1))
  else if fld w 0 4 = 2 then checked (.vldlX (decFES w) (decTail w1))
  else if fld w 0 4 = 3 then checked (.vstlX (decFES w) (decTail w1))
  else none

/-- Words of major 0x42. -/
def decOp42 (w w1 : Nat) : Option Instr :=
  if fld w 0 4 = 0 then checked (.vgather (decFES w) (decTail w1))
  else if fld w 0 4 = 1 then checked (.vscatter (decFES w) (decTail w1))
  else none

/-- Words of major 0x43. -/
def decOp43 (w w1 : Nat) : Option Instr :=
  if fld w 0 3 = 0 then checked (.vamoAdd (bits w 3 1) (decFES w) (decTail w1))
  else if fld w 0 3 = 1 then checked (.vamoMin (bits w 3 1) (decFES w) (decTail w1))
  else if fld w 0 3 = 2 then checked (.vamoMax (bits w 3 1) (decFES w) (decTail w1))
  else if fld w 0 3 = 3 then checked (.vamoAnd (bits w 3 1) (decFES w) (decTail w1))
  else if fld w 0 3 = 4 then checked (.vamoOr (bits w 3 1) (decFES w) (decTail w1))
  else if fld w 0 3 = 5 then checked (.vamoXor (bits w 3 1) (decFES w) (decTail w1))
  else if fld w 0 3 = 6 then checked (.vamoSwap (bits w 3 1) (decFES w) (decTail w1))
  else if fld w 0 3 = 7 then checked (.vamoXsum (bits w 3 1) (decFES w) (decTail w1))
  else none

/-- Words of major 0x44. -/
def decOp44 (w w1 : Nat) : Option Instr :=
  if fld w 0 7 = 0 then checked (.vadd (decFEV w) (decTail w1))
  else if fld w 0 7 = 1 then checked (.vsub (decFEV w) (decTail w1))
  else if fld w 0 7 = 2 then checked (.vadds (decFEV w) (decTail w1))
  else if fld w 0 7 = 3 then checked (.vsubs (decFEV w) (decTail w1))
  else if fld w 0 7 = 4 then checked (.vmul (decFEV w) (decTail w1))
  else if fld w 0 7 = 5 then checked (.vmulh (decFEV w) (decTail w1))
  else if fld w 0 7 = 6 then checked (.vmin (decFEV w) (decTail w1))
  else if fld w 0 7 = 7 then checked (.vmax (decFEV w) (decTail w1))
  else if fld w 0 7 = 8 then checked (.vand (decFEV w) (decTail w1))
  else if fld w 0 7 = 9 then checked (.vor (decFEV w) (decTail w1))
  else if fld w 0 7 = 10 then checked (.vxor (decFEV w) (decTail w1))
  else if fld w 0 7 = 11 then checked (.vandn (decFEV w) (decTail w1))
  else if fld w 0 7 = 12 then checked (.vabs (decFEV w) (decTail w1))
  else if fld w 0 7 = 13 then checked (.vneg (decFEV w) (decTail w1))
  else if fld w 0 7 = 14 then checked (.vavg (decFEV w) (decTail w1))
  else if fld w 0 7 = 15 then checked (.vabsd (decFEV w) (decTail w1))
  else none

/-- Words of major 0x45. -/
def decOp45 (w w1 : Nat) : Option Instr :=
  if fld w 0 4 = 0 then checked (.vaddS (decFES w) (decTail w1))
  else if fld w 0 4 = 1 then checked (.vsubS (decFES w) (decTail w1))
  else if fld w 0 4 = 2 then checked (.vaddsS (decFES w) (decTail w1))
  else if fld w 0 4 = 3 then checked (.vsubsS (decFES w) (decTail w1))
  else if fld w 0 4 = 4 then checked (.vmulS (decFES w) (decTail w1))
  else if fld w 0 4 = 5 then checked (.vmulhS (decFES w) (decTail w1))
  else if fld w 0 4 = 6 then checked (.vminS (decFES w) (decTail w1))
  else if fld w 0 4 = 7 then checked (.vmaxS (decFES w) (decTail w1))
  else if fld w 0 4 = 8 then checked (.vandS (decFES w) (decTail w1))
  else if fld w 0 4 = 9 then checked (.vorS (decFES w) (decTail w1))
  else if fld w 0 4 = 10 then checked (.vxorS (decFES w) (decTail w1))
  else if fld w 0 4 = 11 then checked (.vandnS (decFES w) (decTail w1))
  else if fld w 0 4 = 14 then checked (.vavgS (decFES w) (decTail w1))
  else if fld w 0 4 = 15 then checked (.vabsdS (decFES w) (decTail w1))
  else none

/-- Words of major 0x46. -/
def decOp46 (w w1 : Nat) : Option Instr :=
  if fld w 0 7 = 0 then checked (.vfadd (decFEV w) (decTail w1))
  else if fld w 0 7 = 1 then checked (.vfsub (decFEV w) (decTail w1))
  else if fld w 0 7 = 2 then checked (.vfmul (decFEV w) (decTail w1))
  else if fld w 0 7 = 3 then checked (.vfdiv (decFEV w) (decTail w1))
  else if fld w 0 7 = 4 then checked (.vfmin (decFEV w) (decTail w1))
  else if fld w 0 7 = 5 then checked (.vfmax (decFEV w) (decTail w1))
  else if fld w 0 7 = 6 then checked (.vfabs (decFEV w) (decTail w1))
  else if fld w 0 7 = 7 then checked (.vfneg (decFEV w) (decTail w1))
  else none

/-- Words of major 0x47. -/
def decOp47 (w w1 : Nat) : Option Instr :=
  if fld w 0 4 = 0 then checked (.vfaddS (decFES w) (decTail w1))
  else if fld w 0 4 = 1 then checked (.vfsubS (decFES w) (decTail w1))
  else if fld w 0 4 = 2 then checked (.vfmulS (decFES w) (decTail w1))
  else if fld w 0 4 = 3 then checked (.vfdivS (decFES w) (decTail w1))
  else if fld w 0 4 = 4 then checked (.vfminS (decFES w) (decTail w1))
  else if fld w 0 4 = 5 then checked (.vfmaxS (decFES w) (decTail w1))
  else none

/-- Words of major 0x48. -/
def decOp48 (w w1 : Nat) : Option Instr :=
  if fld w 0 7 = 0 then checked (.vfma (decFEV w) (decTail w1))
  else if fld w 0 7 = 1 then checked (.vfms (decFEV w) (decTail w1))
  else if fld w 0 7 = 2 then checked (.vfnma (decFEV w) (decTail w1))
  else if fld w 0 7 = 3 then checked (.vfnms (decFEV w) (decTail w1))
  else if fld w 0 7 = 4 then checked (.vmac (decFEV w) (decTail w1))
  else if fld w 0 7 = 5 then checked (.vmacs (decFEV w) (decTail w1))
  else none

/-- Words of major 0x49. -/
def decOp49 (w w1 : Nat) : Option Instr :=
  if fld w 0 7 = 0 then checked (.vcmpEq (decFEV w) (decTail w1))
  else if fld w 0 7 = 1 then checked (.vcmpNe (decFEV w) (decTail w1))
  else if fld w 0 7 = 2 then checked (.vcmpLt (decFEV w) (decTail w1))
  else if fld w 0 7 = 3 then checked (.vcmpLe (decFEV w) (decTail w1))
  else if fld w 0 7 = 4 then checked (.vcmpGt (decFEV w) (decTail w1))
  else if fld w 0 7 = 5 then checked (.vcmpGe (decFEV w) (decTail w1))
  else if fld w 0 7 = 6 then checked (.vcmpUn (decFEV w) (decTail w1))
  else if fld w 0 7 = 7 then checked (.vsel (decFEV w) (decTail w1))
  else none

/-- Words of major 0x4A. -/
def decOp4A (w w1 : Nat) : Option Instr :=
  if fld w 0 7 = 0 then checked (.vshl (decFEV w) (decTail w1))
  else if fld w 0 7 = 1 then checked (.vshr (decFEV w) (decTail w1))
  else if fld w 0 7 = 2 then checked (.vsra (decFEV w) (decTail w1))
  else if fld w 0 7 = 3 then checked (.vrotr (decFEV w) (decTail w1))
  else if fld w 0 7 = 4 then checked (.vshlImm (decFEV w) (decTail w1))
  else if fld w 0 7 = 5 then checked (.vshrImm (decFEV w) (decTail w1))
  else if fld w 0 7 = 6 then checked (.vsraImm (decFEV w) (decTail w1))
  else if fld w 0 7 = 7 then checked (.vrotrImm (decFEV w) (decTail w1))
  else none

/-- Words of major 0x4B. -/
def decOp4B (w w1 : Nat) : Option Instr :=
  if fld w 0 7 = 0 then checked (.vcvt (decFEV w) (decTail w1))
  else if fld w 0 7 = 1 then checked (.vcvtWrap (decFEV w) (decTail w1))
  else none

/-- Words of major 0x4C. -/
def decOp4C (w w1 : Nat) : Option Instr :=
  if fld w 0 7 = 0 then checked (.vwiden (decFEV w) (decTail w1))
  else if fld w 0 7 = 1 then checked (.vnarrow (decFEV w) (decTail w1))
  else if fld w 0 7 = 2 then checked (.vnarrowWrap (decFEV w) (decTail w1))
  else none

/-- Words of major 0x4D. -/
def decOp4D (w w1 : Nat) : Option Instr :=
  if fld w 0 7 = 0 then checked (.vrsum (decFEV w) (decTail w1))
  else if fld w 0 7 = 1 then checked (.vrmin (decFEV w) (decTail w1))
  else if fld w 0 7 = 2 then checked (.vrmax (decFEV w) (decTail w1))
  else if fld w 0 7 = 3 then checked (.vrand (decFEV w) (decTail w1))
  else if fld w 0 7 = 4 then checked (.vror (decFEV w) (decTail w1))
  else if fld w 0 7 = 5 then checked (.vrxor (decFEV w) (decTail w1))
  else if fld w 0 7 = 8 then checked (.vscanSum (decFEV w) (decTail w1))
  else if fld w 0 7 = 9 then checked (.vscanMin (decFEV w) (decTail w1))
  else if fld w 0 7 = 10 then checked (.vscanMax (decFEV w) (decTail w1))
  else none

/-- Words of major 0x4E. -/
def decOp4E (w w1 : Nat) : Option Instr :=
  if fld w 0 7 = 0 then checked (.vperm (decFEV w) (decTail w1))
  else if fld w 0 7 = 1 then checked (.vzipLo (decFEV w) (decTail w1))
  else if fld w 0 7 = 2 then checked (.vzipHi (decFEV w) (decTail w1))
  else if fld w 0 7 = 3 then checked (.vunzipEv (decFEV w) (decTail w1))
  else if fld w 0 7 = 4 then checked (.vunzipOd (decFEV w) (decTail w1))
  else if fld w 0 7 = 5 then checked (.vrev (decFEV w) (decTail w1))
  else if fld w 0 7 = 6 then checked (.vbcast (decFEV w) (decTail w1))
  else none

/-- Words of major 0x4F. -/
noncomputable def decOp4F (w w1 : Nat) : Option Instr :=
  if fld w 0 2 = 0 then checked (.vtrd (decFET w) (decTail w1))
  else if fld w 0 2 = 1 then checked (.vtwr (decFET w) (decTail w1))
  else if fld w 0 2 = 2 then checked (.vtacc (decFET w) (decTail w1))
  else none

/-- Words of major 0x50. -/
noncomputable def decOp50 (w w1 : Nat) : Option Instr :=
  if fld w 0 7 = 0 then checked (.vexp2 (decFEV w) (decTail w1))
  else if fld w 0 7 = 1 then checked (.vlog2 (decFEV w) (decTail w1))
  else if fld w 0 7 = 2 then checked (.vrcp (decFEV w) (decTail w1))
  else if fld w 0 7 = 3 then checked (.vrsqrt (decFEV w) (decTail w1))
  else if fld w 0 7 = 4 then checked (.vsqrt (decFEV w) (decTail w1))
  else if fld w 0 7 = 5 then checked (.vsinpi (decFEV w) (decTail w1))
  else if fld w 0 7 = 6 then checked (.vcospi (decFEV w) (decTail w1))
  else if fld w 0 7 = 7 then checked (.vtanh (decFEV w) (decTail w1))
  else if fld w 0 7 = 8 then checked (.vsigm (decFEV w) (decTail w1))
  else if fld w 0 7 = 9 then checked (.vexp (decFEV w) (decTail w1))
  else if fld w 0 7 = 10 then checked (.vlog (decFEV w) (decTail w1))
  else none

/-- Words of major 0x60. -/
noncomputable def decOp60 (w w1 : Nat) : Option Instr :=
  checked (.mma (bits w 0 4) (decFES w) (decTail w1))

/-- Words of major 0x61. -/
noncomputable def decOp61 (w w1 : Nat) : Option Instr :=
  checked (.mmas (bits w 0 4) (decFES w) (decTail w1))

/-- Words of major 0x62. -/
noncomputable def decOp62 (w w1 : Nat) : Option Instr :=
  if fld w 0 4 = 0 then checked (.tld (decFES w) (decTail w1))
  else none

/-- Words of major 0x63. -/
noncomputable def decOp63 (w w1 : Nat) : Option Instr :=
  if fld w 0 4 = 0 then checked (.tst (decFES w) (decTail w1))
  else none

/-- Words of major 0x64. -/
noncomputable def decOp64 (w w1 : Nat) : Option Instr :=
  if fld w 0 4 = 0 then checked (.tzero (decFES w) (decTail w1))
  else none

/-- Words of major 0x65. -/
noncomputable def decOp65 (w w1 : Nat) : Option Instr :=
  if fld w 0 4 = 0 then checked (.spub (decFES w) (decTail w1))
  else if fld w 0 4 = 1 then checked (.ssub (decFES w) (decTail w1))
  else if fld w 0 4 = 2 then checked (.sunsub (decFES w) (decTail w1))
  else none

/-- Words of major 0x68. -/
noncomputable def decOp68 (w w1 : Nat) : Option Instr :=
  if fld w 0 4 = 0 then checked (.copy (decFES w) (decTail w1))
  else if fld w 0 4 = 1 then checked (.copySt (decFES w) (decTail w1))
  else none

/-- Words of major 0x69. -/
noncomputable def decOp69 (w w1 : Nat) : Option Instr :=
  if fld w 0 4 = 0 then checked (.mcast (decFES w) (decTail w1))
  else none

/-- Words of major 0x6A. -/
noncomputable def decOp6A (w w1 : Nat) : Option Instr :=
  if fld w 0 4 = 0 then checked (.fill (decFES w) (decTail w1))
  else none

/-- Words of major 0x6B. -/
noncomputable def decOp6B (w w1 : Nat) : Option Instr :=
  if fld w 0 4 = 0 then checked (.cvcopy (decFES w) (decTail w1))
  else none

/-- Words of major 0x72. -/
noncomputable def decOp72 (w w1 : Nat) : Option Instr :=
  if fld w 0 4 = 0 then checked (.wtgt (decFES w) (decTail w1))
  else if fld w 0 4 = 1 then checked (.wini (decFES w) (decTail w1))
  else if fld w 0 4 = 2 then checked (.wclose (decFES w) (decTail w1))
  else none

/-- Words of major 0x70. -/
noncomputable def decOp70 (w w1 : Nat) : Option Instr :=
  if fld w 0 4 = 0 then checked (.put (decFES w) (decTail w1))
  else if fld w 0 4 = 1 then checked (.get (decFES w) (decTail w1))
  else none

/-- Words of major 0x71. -/
noncomputable def decOp71 (w w1 : Nat) : Option Instr :=
  if fld w 0 4 = 0 then checked (.ramoAdd (decFES w) (decTail w1))
  else if fld w 0 4 = 1 then checked (.ramoAnd (decFES w) (decTail w1))
  else if fld w 0 4 = 2 then checked (.ramoOr (decFES w) (decTail w1))
  else if fld w 0 4 = 3 then checked (.ramoXor (decFES w) (decTail w1))
  else if fld w 0 4 = 4 then checked (.ramoMin (decFES w) (decTail w1))
  else if fld w 0 4 = 5 then checked (.ramoMax (decFES w) (decTail w1))
  else if fld w 0 4 = 6 then checked (.ramoMinu (decFES w) (decTail w1))
  else if fld w 0 4 = 7 then checked (.ramoMaxu (decFES w) (decTail w1))
  else if fld w 0 4 = 8 then checked (.ramoSwap (decFES w) (decTail w1))
  else none

/-- Words of major 0x73. -/
noncomputable def decOp73 (w w1 : Nat) : Option Instr :=
  if fld w 0 4 = 0 then checked (.fchain (decFES w) (decTail w1))
  else none

/-- Words of major 0x74. -/
noncomputable def decOp74 (w w1 : Nat) : Option Instr :=
  if fld w 0 2 = 0 then checked (.collSum (bits w 2 2) (decFES w) (decTail w1))
  else if fld w 0 2 = 1 then checked (.collMin (bits w 2 2) (decFES w) (decTail w1))
  else if fld w 0 2 = 2 then checked (.collMax (bits w 2 2) (decFES w) (decTail w1))
  else none

/-- Majors 0x40 to 0x77: a command word with a tail after it (R212, R221, R229). -/
def isEngineMajor (op : Nat) : Bool := decide (0x40 ≤ op ∧ op ≤ 0x77)

/-- Decode the word w at an address, w1 being the word after it. -/
noncomputable def decode (w w1 : Nat) : Option Instr :=
  match fld w 25 7 with
  | 0x00 => decOp00 w
  | 0x01 => decOp01 w
  | 0x02 => decOp02 w
  | 0x03 => decOp03 w
  | 0x04 => decOp04 w
  | 0x05 => decOp05 w
  | 0x06 => decOp06 w
  | 0x07 => decOp07 w
  | 0x08 => decOp08 w
  | 0x09 => decOp09 w
  | 0x0A => decOp0A w
  | 0x0B => decOp0B w
  | 0x0C => decOp0C w
  | 0x0D => decOp0D w
  | 0x10 => decOp10 w
  | 0x11 => decOp11 w
  | 0x12 => decOp12 w
  | 0x13 => decOp13 w
  | 0x14 => decOp14 w
  | 0x15 => decOp15 w
  | 0x16 => decOp16 w
  | 0x17 => decOp17 w
  | 0x18 => decOp18 w
  | 0x19 => decOp19 w
  | 0x1A => decOp1A w
  | 0x1B => decOp1B w
  | 0x1C => decOp1C w
  | 0x1D => decOp1D w
  | 0x1E => decOp1E w
  | 0x20 => decOp20 w
  | 0x21 => decOp21 w
  | 0x22 => decOp22 w
  | 0x23 => decOp23 w
  | 0x24 => decOp24 w
  | 0x25 => decOp25 w
  | 0x26 => decOp26 w
  | 0x27 => decOp27 w
  | 0x28 => decOp28 w
  | 0x29 => decOp29 w
  | 0x2A => decOp2A w
  | 0x2B => decOp2B w
  | 0x30 => decOp30 w
  | 0x31 => decOp31 w
  | 0x32 => decOp32 w
  | 0x33 => decOp33 w
  | 0x34 => decOp34 w
  | 0x35 => decOp35 w
  | 0x36 => decOp36 w
  | 0x37 => decOp37 w
  | 0x38 => decOp38 w
  | 0x39 => decOp39 w
  | 0x3A => decOp3A w
  | 0x3B => decOp3B w
  | 0x3C => decOp3C w
  | 0x3D => decOp3D w
  | 0x3E => decOp3E w
  | 0x3F => decOp3F w
  | 0x40 => decOp40 w w1
  | 0x41 => decOp41 w w1
  | 0x42 => decOp42 w w1
  | 0x43 => decOp43 w w1
  | 0x44 => decOp44 w w1
  | 0x45 => decOp45 w w1
  | 0x46 => decOp46 w w1
  | 0x47 => decOp47 w w1
  | 0x48 => decOp48 w w1
  | 0x49 => decOp49 w w1
  | 0x4A => decOp4A w w1
  | 0x4B => decOp4B w w1
  | 0x4C => decOp4C w w1
  | 0x4D => decOp4D w w1
  | 0x4E => decOp4E w w1
  | 0x4F => decOp4F w w1
  | 0x50 => decOp50 w w1
  | 0x60 => decOp60 w w1
  | 0x61 => decOp61 w w1
  | 0x62 => decOp62 w w1
  | 0x63 => decOp63 w w1
  | 0x64 => decOp64 w w1
  | 0x65 => decOp65 w w1
  | 0x68 => decOp68 w w1
  | 0x69 => decOp69 w w1
  | 0x6A => decOp6A w w1
  | 0x6B => decOp6B w w1
  | 0x72 => decOp72 w w1
  | 0x70 => decOp70 w w1
  | 0x71 => decOp71 w w1
  | 0x73 => decOp73 w w1
  | 0x74 => decOp74 w w1
  | _ => none

/-- The instruction this decoder reads from nbits bits, bit 0 the least significant bit of the first word. -/
noncomputable def decodeTableWord (_nbits w : Nat) : Option Instr := decode (w % 2 ^ 32) (w / 2 ^ 32 % 2 ^ 32)

/-- A word from its fields, each a bit vector, bit 0 upward. -/
def pack : List ((n : Nat) × BitVec n) → Nat
  | [] => 0
  | ⟨n, x⟩ :: l => x.toNat + 2 ^ n * pack l

/-- The tail word (R222). -/
def encTail (t : Tail) : Nat :=
  pack [⟨10, t.esp⟩, ⟨6, t.ctr⟩, ⟨1, t.ce⟩, ⟨3, t.stage⟩, ⟨5, t.rg⟩, ⟨1, t.re⟩, ⟨5, t.ag⟩, ⟨1, t.ae⟩]

/-- The words of an instruction: the first word and, for an engine command, its tail (0 where there is none). An
event has no words. -/
def encode : Instr → Nat × Nat
  | .add f =>
    (pack [⟨5, 0⟩, ⟨1, f.fb⟩, ⟨5, f.b⟩, ⟨1, f.fa⟩, ⟨5, f.a⟩, ⟨5, f.d⟩, ⟨3, f.p⟩, ⟨7, 0x00⟩], 0)
  | .sub f =>
    (pack [⟨5, 1⟩, ⟨1, f.fb⟩, ⟨5, f.b⟩, ⟨1, f.fa⟩, ⟨5, f.a⟩, ⟨5, f.d⟩, ⟨3, f.p⟩, ⟨7, 0x00⟩], 0)
  | .mul f =>
    (pack [⟨5, 2⟩, ⟨1, f.fb⟩, ⟨5, f.b⟩, ⟨1, f.fa⟩, ⟨5, f.a⟩, ⟨5, f.d⟩, ⟨3, f.p⟩, ⟨7, 0x00⟩], 0)
  | .mulh f =>
    (pack [⟨5, 3⟩, ⟨1, f.fb⟩, ⟨5, f.b⟩, ⟨1, f.fa⟩, ⟨5, f.a⟩, ⟨5, f.d⟩, ⟨3, f.p⟩, ⟨7, 0x00⟩], 0)
  | .mulhu f =>
    (pack [⟨5, 4⟩, ⟨1, f.fb⟩, ⟨5, f.b⟩, ⟨1, f.fa⟩, ⟨5, f.a⟩, ⟨5, f.d⟩, ⟨3, f.p⟩, ⟨7, 0x00⟩], 0)
  | .div f =>
    (pack [⟨5, 5⟩, ⟨1, f.fb⟩, ⟨5, f.b⟩, ⟨1, f.fa⟩, ⟨5, f.a⟩, ⟨5, f.d⟩, ⟨3, f.p⟩, ⟨7, 0x00⟩], 0)
  | .divu f =>
    (pack [⟨5, 6⟩, ⟨1, f.fb⟩, ⟨5, f.b⟩, ⟨1, f.fa⟩, ⟨5, f.a⟩, ⟨5, f.d⟩, ⟨3, f.p⟩, ⟨7, 0x00⟩], 0)
  | .rem f =>
    (pack [⟨5, 7⟩, ⟨1, f.fb⟩, ⟨5, f.b⟩, ⟨1, f.fa⟩, ⟨5, f.a⟩, ⟨5, f.d⟩, ⟨3, f.p⟩, ⟨7, 0x00⟩], 0)
  | .remu f =>
    (pack [⟨5, 8⟩, ⟨1, f.fb⟩, ⟨5, f.b⟩, ⟨1, f.fa⟩, ⟨5, f.a⟩, ⟨5, f.d⟩, ⟨3, f.p⟩, ⟨7, 0x00⟩], 0)
  | .and f =>
    (pack [⟨5, 9⟩, ⟨1, f.fb⟩, ⟨5, f.b⟩, ⟨1, f.fa⟩, ⟨5, f.a⟩, ⟨5, f.d⟩, ⟨3, f.p⟩, ⟨7, 0x00⟩], 0)
  | .or f =>
    (pack [⟨5, 10⟩, ⟨1, f.fb⟩, ⟨5, f.b⟩, ⟨1, f.fa⟩, ⟨5, f.a⟩, ⟨5, f.d⟩, ⟨3, f.p⟩, ⟨7, 0x00⟩], 0)
  | .xor f =>
    (pack [⟨5, 11⟩, ⟨1, f.fb⟩, ⟨5, f.b⟩, ⟨1, f.fa⟩, ⟨5, f.a⟩, ⟨5, f.d⟩, ⟨3, f.p⟩, ⟨7, 0x00⟩], 0)
  | .andn f =>
    (pack [⟨5, 12⟩, ⟨1, f.fb⟩, ⟨5, f.b⟩, ⟨1, f.fa⟩, ⟨5, f.a⟩, ⟨5, f.d⟩, ⟨3, f.p⟩, ⟨7, 0x00⟩], 0)
  | .shl f =>
    (pack [⟨5, 13⟩, ⟨1, f.fb⟩, ⟨5, f.b⟩, ⟨1, f.fa⟩, ⟨5, f.a⟩, ⟨5, f.d⟩, ⟨3, f.p⟩, ⟨7, 0x00⟩], 0)
  | .shr f =>
    (pack [⟨5, 14⟩, ⟨1, f.fb⟩, ⟨5, f.b⟩, ⟨1, f.fa⟩, ⟨5, f.a⟩, ⟨5, f.d⟩, ⟨3, f.p⟩, ⟨7, 0x00⟩], 0)
  | .sra f =>
    (pack [⟨5, 15⟩, ⟨1, f.fb⟩, ⟨5, f.b⟩, ⟨1, f.fa⟩, ⟨5, f.a⟩, ⟨5, f.d⟩, ⟨3, f.p⟩, ⟨7, 0x00⟩], 0)
  | .rotr f =>
    (pack [⟨5, 16⟩, ⟨1, f.fb⟩, ⟨5, f.b⟩, ⟨1, f.fa⟩, ⟨5, f.a⟩, ⟨5, f.d⟩, ⟨3, f.p⟩, ⟨7, 0x00⟩], 0)
  | .min f =>
    (pack [⟨5, 17⟩, ⟨1, f.fb⟩, ⟨5, f.b⟩, ⟨1, f.fa⟩, ⟨5, f.a⟩, ⟨5, f.d⟩, ⟨3, f.p⟩, ⟨7, 0x00⟩], 0)
  | .max f =>
    (pack [⟨5, 18⟩, ⟨1, f.fb⟩, ⟨5, f.b⟩, ⟨1, f.fa⟩, ⟨5, f.a⟩, ⟨5, f.d⟩, ⟨3, f.p⟩, ⟨7, 0x00⟩], 0)
  | .minu f =>
    (pack [⟨5, 19⟩, ⟨1, f.fb⟩, ⟨5, f.b⟩, ⟨1, f.fa⟩, ⟨5, f.a⟩, ⟨5, f.d⟩, ⟨3, f.p⟩, ⟨7, 0x00⟩], 0)
  | .maxu f =>
    (pack [⟨5, 20⟩, ⟨1, f.fb⟩, ⟨5, f.b⟩, ⟨1, f.fa⟩, ⟨5, f.a⟩, ⟨5, f.d⟩, ⟨3, f.p⟩, ⟨7, 0x00⟩], 0)
  | .adds f =>
    (pack [⟨5, 21⟩, ⟨1, f.fb⟩, ⟨5, f.b⟩, ⟨1, f.fa⟩, ⟨5, f.a⟩, ⟨5, f.d⟩, ⟨3, f.p⟩, ⟨7, 0x00⟩], 0)
  | .subs f =>
    (pack [⟨5, 22⟩, ⟨1, f.fb⟩, ⟨5, f.b⟩, ⟨1, f.fa⟩, ⟨5, f.a⟩, ⟨5, f.d⟩, ⟨3, f.p⟩, ⟨7, 0x00⟩], 0)
  | .addsu f =>
    (pack [⟨5, 23⟩, ⟨1, f.fb⟩, ⟨5, f.b⟩, ⟨1, f.fa⟩, ⟨5, f.a⟩, ⟨5, f.d⟩, ⟨3, f.p⟩, ⟨7, 0x00⟩], 0)
  | .subsu f =>
    (pack [⟨5, 24⟩, ⟨1, f.fb⟩, ⟨5, f.b⟩, ⟨1, f.fa⟩, ⟨5, f.a⟩, ⟨5, f.d⟩, ⟨3, f.p⟩, ⟨7, 0x00⟩], 0)
  | .addImm f =>
    (pack [⟨11, f.imm⟩, ⟨1, f.fa⟩, ⟨5, f.a⟩, ⟨5, f.d⟩, ⟨3, f.p⟩, ⟨7, 0x01⟩], 0)
  | .mulImm f =>
    (pack [⟨11, f.imm⟩, ⟨1, f.fa⟩, ⟨5, f.a⟩, ⟨5, f.d⟩, ⟨3, f.p⟩, ⟨7, 0x02⟩], 0)
  | .andImm f =>
    (pack [⟨11, f.imm⟩, ⟨1, f.fa⟩, ⟨5, f.a⟩, ⟨5, f.d⟩, ⟨3, f.p⟩, ⟨7, 0x03⟩], 0)
  | .orImm f =>
    (pack [⟨11, f.imm⟩, ⟨1, f.fa⟩, ⟨5, f.a⟩, ⟨5, f.d⟩, ⟨3, f.p⟩, ⟨7, 0x04⟩], 0)
  | .xorImm f =>
    (pack [⟨11, f.imm⟩, ⟨1, f.fa⟩, ⟨5, f.a⟩, ⟨5, f.d⟩, ⟨3, f.p⟩, ⟨7, 0x05⟩], 0)
  | .shlImm f =>
    (pack [⟨6, f.amt⟩, ⟨2, 0⟩, ⟨3, 0⟩, ⟨1, f.fa⟩, ⟨5, f.a⟩, ⟨5, f.d⟩, ⟨3, f.p⟩, ⟨7, 0x06⟩], 0)
  | .shrImm f =>
    (pack [⟨6, f.amt⟩, ⟨2, 1⟩, ⟨3, 0⟩, ⟨1, f.fa⟩, ⟨5, f.a⟩, ⟨5, f.d⟩, ⟨3, f.p⟩, ⟨7, 0x06⟩], 0)
  | .sraImm f =>
    (pack [⟨6, f.amt⟩, ⟨2, 2⟩, ⟨3, 0⟩, ⟨1, f.fa⟩, ⟨5, f.a⟩, ⟨5, f.d⟩, ⟨3, f.p⟩, ⟨7, 0x06⟩], 0)
  | .rotrImm f =>
    (pack [⟨6, f.amt⟩, ⟨2, 3⟩, ⟨3, 0⟩, ⟨1, f.fa⟩, ⟨5, f.a⟩, ⟨5, f.d⟩, ⟨3, f.p⟩, ⟨7, 0x06⟩], 0)
  | .movK f =>
    (pack [⟨5, 0⟩, ⟨7, 0⟩, ⟨5, f.k⟩, ⟨5, f.d⟩, ⟨3, f.p⟩, ⟨7, 0x07⟩], 0)
  | .wpos f =>
    (pack [⟨5, 1⟩, ⟨12, 0⟩, ⟨5, f.d⟩, ⟨3, f.p⟩, ⟨7, 0x07⟩], 0)
  | .wnum f =>
    (pack [⟨5, 2⟩, ⟨12, 0⟩, ⟨5, f.d⟩, ⟨3, f.p⟩, ⟨7, 0x07⟩], 0)
  | .cmp f =>
    (pack [⟨4, 0⟩, ⟨1, f.fb⟩, ⟨5, f.b⟩, ⟨1, f.fa⟩, ⟨5, f.a⟩, ⟨3, f.cc⟩, ⟨3, f.pd⟩, ⟨3, f.p⟩, ⟨7, 0x08⟩], 0)
  | .cmpImm f =>
    (pack [⟨10, f.imm⟩, ⟨1, f.fa⟩, ⟨5, f.a⟩, ⟨3, f.cc⟩, ⟨3, f.pd⟩, ⟨3, f.p⟩, ⟨7, 0x09⟩], 0)
  | .pand f =>
    (pack [⟨6, 0⟩, ⟨3, 0⟩, ⟨1, f.fb⟩, ⟨4, f.pb⟩, ⟨1, f.fa⟩, ⟨4, f.pa⟩, ⟨3, f.pd⟩, ⟨3, f.p⟩, ⟨7, 0x0A⟩], 0)
  | .por f =>
    (pack [⟨6, 0⟩, ⟨3, 1⟩, ⟨1, f.fb⟩, ⟨4, f.pb⟩, ⟨1, f.fa⟩, ⟨4, f.pa⟩, ⟨3, f.pd⟩, ⟨3, f.p⟩, ⟨7, 0x0A⟩], 0)
  | .pxor f =>
    (pack [⟨6, 0⟩, ⟨3, 2⟩, ⟨1, f.fb⟩, ⟨4, f.pb⟩, ⟨1, f.fa⟩, ⟨4, f.pa⟩, ⟨3, f.pd⟩, ⟨3, f.p⟩, ⟨7, 0x0A⟩], 0)
  | .pandn f =>
    (pack [⟨6, 0⟩, ⟨3, 3⟩, ⟨1, f.fb⟩, ⟨4, f.pb⟩, ⟨1, f.fa⟩, ⟨4, f.pa⟩, ⟨3, f.pd⟩, ⟨3, f.p⟩, ⟨7, 0x0A⟩], 0)
  | .pnor f =>
    (pack [⟨6, 0⟩, ⟨3, 4⟩, ⟨1, f.fb⟩, ⟨4, f.pb⟩, ⟨1, f.fa⟩, ⟨4, f.pa⟩, ⟨3, f.pd⟩, ⟨3, f.p⟩, ⟨7, 0x0A⟩], 0)
  | .pnand f =>
    (pack [⟨6, 0⟩, ⟨3, 5⟩, ⟨1, f.fb⟩, ⟨4, f.pb⟩, ⟨1, f.fa⟩, ⟨4, f.pa⟩, ⟨3, f.pd⟩, ⟨3, f.p⟩, ⟨7, 0x0A⟩], 0)
  | .pmov f =>
    (pack [⟨6, 0⟩, ⟨3, 6⟩, ⟨5, 0⟩, ⟨1, f.fa⟩, ⟨4, f.pa⟩, ⟨3, f.pd⟩, ⟨3, f.p⟩, ⟨7, 0x0A⟩], 0)
  | .pnot f =>
    (pack [⟨6, 0⟩, ⟨3, 7⟩, ⟨5, 0⟩, ⟨1, f.fa⟩, ⟨4, f.pa⟩, ⟨3, f.pd⟩, ⟨3, f.p⟩, ⟨7, 0x0A⟩], 0)
  | .extract f =>
    (pack [⟨11, f.imm⟩, ⟨1, f.fa⟩, ⟨5, f.a⟩, ⟨5, f.d⟩, ⟨3, f.p⟩, ⟨7, 0x0B⟩], 0)
  | .insert f =>
    (pack [⟨11, f.imm⟩, ⟨1, f.fa⟩, ⟨5, f.a⟩, ⟨5, f.d⟩, ⟨3, f.p⟩, ⟨7, 0x0C⟩], 0)
  | .popc f =>
    (pack [⟨5, 0⟩, ⟨6, 0⟩, ⟨1, f.fa⟩, ⟨5, f.a⟩, ⟨5, f.d⟩, ⟨3, f.p⟩, ⟨7, 0x0D⟩], 0)
  | .clz f =>
    (pack [⟨5, 1⟩, ⟨6, 0⟩, ⟨1, f.fa⟩, ⟨5, f.a⟩, ⟨5, f.d⟩, ⟨3, f.p⟩, ⟨7, 0x0D⟩], 0)
  | .ctz f =>
    (pack [⟨5, 2⟩, ⟨6, 0⟩, ⟨1, f.fa⟩, ⟨5, f.a⟩, ⟨5, f.d⟩, ⟨3, f.p⟩, ⟨7, 0x0D⟩], 0)
  | .brev f =>
    (pack [⟨5, 3⟩, ⟨6, 0⟩, ⟨1, f.fa⟩, ⟨5, f.a⟩, ⟨5, f.d⟩, ⟨3, f.p⟩, ⟨7, 0x0D⟩], 0)
  | .bswap f =>
    (pack [⟨5, 4⟩, ⟨6, 0⟩, ⟨1, f.fa⟩, ⟨5, f.a⟩, ⟨5, f.d⟩, ⟨3, f.p⟩, ⟨7, 0x0D⟩], 0)
  | .br f =>
    (pack [⟨22, f.off⟩, ⟨3, f.p⟩, ⟨7, 0x10⟩], 0)
  | .call f =>
    (pack [⟨22, f.off⟩, ⟨3, f.p⟩, ⟨7, 0x11⟩], 0)
  | .jmp f =>
    (pack [⟨5, 0⟩, ⟨6, 0⟩, ⟨1, f.fa⟩, ⟨5, f.a⟩, ⟨5, 0⟩, ⟨3, f.p⟩, ⟨7, 0x12⟩], 0)
  | .callr f =>
    (pack [⟨5, 1⟩, ⟨6, 0⟩, ⟨1, f.fa⟩, ⟨5, f.a⟩, ⟨5, 0⟩, ⟨3, f.p⟩, ⟨7, 0x12⟩], 0)
  | .loop f =>
    (pack [⟨14, f.len⟩, ⟨1, 0⟩, ⟨1, f.fa⟩, ⟨5, f.a⟩, ⟨1, 0⟩, ⟨3, f.p⟩, ⟨7, 0x13⟩], 0)
  | .lend f =>
    (pack [⟨21, 0⟩, ⟨1, 1⟩, ⟨3, f.p⟩, ⟨7, 0x13⟩], 0)
  | .iter f =>
    (pack [⟨22, f.off⟩, ⟨3, f.p⟩, ⟨7, 0x14⟩], 0)
  | .rep f =>
    (pack [⟨8, 0⟩, ⟨2, f.st4⟩, ⟨2, f.st3⟩, ⟨2, f.st2⟩, ⟨2, f.st1⟩, ⟨6, f.cnt⟩, ⟨3, 0⟩, ⟨7, 0x15⟩], 0)
  | .xim f =>
    (pack [⟨25, f.x⟩, ⟨7, 0x16⟩], 0)
  | .spt f =>
    (pack [⟨6, f.map⟩, ⟨16, f.ord⟩, ⟨3, 0⟩, ⟨7, 0x17⟩], 0)
  | .gwait f =>
    (pack [⟨2, 0⟩, ⟨10, 0⟩, ⟨5, f.g⟩, ⟨5, 0⟩, ⟨3, f.p⟩, ⟨7, 0x18⟩], 0)
  | .graise f =>
    (pack [⟨2, 1⟩, ⟨10, 0⟩, ⟨5, f.g⟩, ⟨5, 0⟩, ⟨3, f.p⟩, ⟨7, 0x18⟩], 0)
  | .gread f =>
    (pack [⟨2, 2⟩, ⟨10, 0⟩, ⟨5, f.g⟩, ⟨5, f.d⟩, ⟨3, f.p⟩, ⟨7, 0x18⟩], 0)
  | .barmImm f =>
    (pack [⟨14, f.imm⟩, ⟨2, 0⟩, ⟨6, f.ctr⟩, ⟨3, f.p⟩, ⟨7, 0x19⟩], 0)
  | .barm f =>
    (pack [⟨8, 0⟩, ⟨1, f.fa⟩, ⟨5, f.a⟩, ⟨2, 1⟩, ⟨6, f.ctr⟩, ⟨3, f.p⟩, ⟨7, 0x19⟩], 0)
  | .bwait f =>
    (pack [⟨14, 0⟩, ⟨2, 2⟩, ⟨6, f.ctr⟩, ⟨3, f.p⟩, ⟨7, 0x19⟩], 0)
  | .bread f =>
    (pack [⟨9, 0⟩, ⟨5, f.d⟩, ⟨2, 3⟩, ⟨6, f.ctr⟩, ⟨3, f.p⟩, ⟨7, 0x19⟩], 0)
  | .join f =>
    (pack [⟨2, 0⟩, ⟨9, 0⟩, ⟨1, f.fa⟩, ⟨5, f.a⟩, ⟨5, 0⟩, ⟨3, f.p⟩, ⟨7, 0x1A⟩], 0)
  | .leave f =>
    (pack [⟨2, 1⟩, ⟨9, 0⟩, ⟨1, f.fa⟩, ⟨5, f.a⟩, ⟨5, 0⟩, ⟨3, f.p⟩, ⟨7, 0x1A⟩], 0)
  | .arrive f =>
    (pack [⟨2, 2⟩, ⟨9, 0⟩, ⟨1, f.fa⟩, ⟨5, f.a⟩, ⟨5, f.d⟩, ⟨3, f.p⟩, ⟨7, 0x1A⟩], 0)
  | .wait f =>
    (pack [⟨2, 3⟩, ⟨3, 0⟩, ⟨1, f.fb⟩, ⟨5, f.b⟩, ⟨1, f.fa⟩, ⟨5, f.a⟩, ⟨5, 0⟩, ⟨3, f.p⟩, ⟨7, 0x1A⟩], 0)
  | .push f =>
    (pack [⟨1, 0⟩, ⟨7, 0⟩, ⟨3, 0⟩, ⟨1, 0⟩, ⟨4, f.q⟩, ⟨1, f.fr⟩, ⟨5, f.rb⟩, ⟨3, f.p⟩, ⟨7, 0x1B⟩], 0)
  | .pop f =>
    (pack [⟨1, 1⟩, ⟨7, 0⟩, ⟨3, 0⟩, ⟨1, 0⟩, ⟨4, f.q⟩, ⟨1, 0⟩, ⟨5, f.rb⟩, ⟨3, f.p⟩, ⟨7, 0x1B⟩], 0)
  | .pushTry f =>
    (pack [⟨1, 0⟩, ⟨7, 0⟩, ⟨3, f.pd⟩, ⟨1, 1⟩, ⟨4, f.q⟩, ⟨1, f.fr⟩, ⟨5, f.rb⟩, ⟨3, f.p⟩, ⟨7, 0x1B⟩], 0)
  | .popTry f =>
    (pack [⟨1, 1⟩, ⟨7, 0⟩, ⟨3, f.pd⟩, ⟨1, 1⟩, ⟨4, f.q⟩, ⟨1, 0⟩, ⟨5, f.rb⟩, ⟨3, f.p⟩, ⟨7, 0x1B⟩], 0)
  | .launch f =>
    (pack [⟨11, 0⟩, ⟨1, f.fa⟩, ⟨5, f.a⟩, ⟨5, f.d⟩, ⟨3, f.p⟩, ⟨7, 0x1C⟩], 0)
  | .chainLd f =>
    (pack [⟨2, 0⟩, ⟨4, f.os⟩, ⟨2, f.ns⟩, ⟨2, f.fin⟩, ⟨1, 0⟩, ⟨1, f.fa⟩, ⟨5, f.a⟩, ⟨5, f.d⟩, ⟨3, f.p⟩, ⟨7, 0x1D⟩], 0)
  | .chainAdd f =>
    (pack [⟨2, 0⟩, ⟨4, f.os⟩, ⟨2, f.ns⟩, ⟨3, 4⟩, ⟨1, f.fa⟩, ⟨5, f.a⟩, ⟨5, f.d⟩, ⟨3, f.p⟩, ⟨7, 0x1D⟩], 0)
  | .chainSwap f =>
    (pack [⟨2, 0⟩, ⟨4, f.os⟩, ⟨2, f.ns⟩, ⟨3, 5⟩, ⟨1, f.fa⟩, ⟨5, f.a⟩, ⟨5, f.d⟩, ⟨3, f.p⟩, ⟨7, 0x1D⟩], 0)
  | .wwaitSeen f =>
    (pack [⟨3, 0⟩, ⟨2, 0⟩, ⟨6, f.win⟩, ⟨1, f.fa⟩, ⟨5, f.a⟩, ⟨5, 0⟩, ⟨3, f.p⟩, ⟨7, 0x1E⟩], 0)
  | .wwaitLand f =>
    (pack [⟨3, 1⟩, ⟨2, 0⟩, ⟨6, f.win⟩, ⟨1, f.fa⟩, ⟨5, f.a⟩, ⟨5, 0⟩, ⟨3, f.p⟩, ⟨7, 0x1E⟩], 0)
  | .wreadSent f =>
    (pack [⟨3, 2⟩, ⟨2, 0⟩, ⟨6, f.win⟩, ⟨6, 0⟩, ⟨5, f.d⟩, ⟨3, f.p⟩, ⟨7, 0x1E⟩], 0)
  | .wreadSeen f =>
    (pack [⟨3, 3⟩, ⟨2, 0⟩, ⟨6, f.win⟩, ⟨6, 0⟩, ⟨5, f.d⟩, ⟨3, f.p⟩, ⟨7, 0x1E⟩], 0)
  | .wreadLand f =>
    (pack [⟨3, 4⟩, ⟨2, 0⟩, ⟨6, f.win⟩, ⟨6, 0⟩, ⟨5, f.d⟩, ⟨3, f.p⟩, ⟨7, 0x1E⟩], 0)
  | .ldGlb f =>
    (pack [⟨8, f.disp⟩, ⟨2, f.sz⟩, ⟨1, f.ft⟩, ⟨1, f.fa⟩, ⟨5, f.a⟩, ⟨5, f.t⟩, ⟨3, f.p⟩, ⟨7, 0x20⟩], 0)
  | .ldSp f =>
    (pack [⟨8, f.disp⟩, ⟨2, f.sz⟩, ⟨1, f.ft⟩, ⟨1, f.fa⟩, ⟨5, f.a⟩, ⟨5, f.t⟩, ⟨3, f.p⟩, ⟨7, 0x21⟩], 0)
  | .ldSh f =>
    (pack [⟨8, f.disp⟩, ⟨2, f.sz⟩, ⟨1, f.ft⟩, ⟨1, f.fa⟩, ⟨5, f.a⟩, ⟨5, f.t⟩, ⟨3, f.p⟩, ⟨7, 0x22⟩], 0)
  | .ldChip f =>
    (pack [⟨8, f.disp⟩, ⟨2, f.sz⟩, ⟨1, f.ft⟩, ⟨1, f.fa⟩, ⟨5, f.a⟩, ⟨5, f.t⟩, ⟨3, f.p⟩, ⟨7, 0x23⟩], 0)
  | .stGlb f =>
    (pack [⟨8, f.disp⟩, ⟨2, f.sz⟩, ⟨1, f.ft⟩, ⟨1, f.fa⟩, ⟨5, f.a⟩, ⟨5, f.t⟩, ⟨3, f.p⟩, ⟨7, 0x24⟩], 0)
  | .stSp f =>
    (pack [⟨8, f.disp⟩, ⟨2, f.sz⟩, ⟨1, f.ft⟩, ⟨1, f.fa⟩, ⟨5, f.a⟩, ⟨5, f.t⟩, ⟨3, f.p⟩, ⟨7, 0x25⟩], 0)
  | .stSh f =>
    (pack [⟨8, f.disp⟩, ⟨2, f.sz⟩, ⟨1, f.ft⟩, ⟨1, f.fa⟩, ⟨5, f.a⟩, ⟨5, f.t⟩, ⟨3, f.p⟩, ⟨7, 0x26⟩], 0)
  | .stChip f =>
    (pack [⟨8, f.disp⟩, ⟨2, f.sz⟩, ⟨1, f.ft⟩, ⟨1, f.fa⟩, ⟨5, f.a⟩, ⟨5, f.t⟩, ⟨3, f.p⟩, ⟨7, 0x27⟩], 0)
  | .ldAcq f =>
    (pack [⟨2, 0⟩, ⟨4, f.os⟩, ⟨2, f.spc⟩, ⟨2, f.sz⟩, ⟨1, f.ft⟩, ⟨1, f.fa⟩, ⟨5, f.a⟩, ⟨5, f.t⟩, ⟨3, f.p⟩, ⟨7, 0x28⟩], 0)
  | .stRel f =>
    (pack [⟨2, 0⟩, ⟨4, f.os⟩, ⟨2, f.spc⟩, ⟨2, f.sz⟩, ⟨1, f.ft⟩, ⟨1, f.fa⟩, ⟨5, f.a⟩, ⟨5, f.t⟩, ⟨3, f.p⟩, ⟨7, 0x29⟩], 0)
  | .fence f =>
    (pack [⟨9, 0⟩, ⟨3, f.scope⟩, ⟨5, f.late⟩, ⟨5, f.early⟩, ⟨3, f.p⟩, ⟨7, 0x2A⟩], 0)
  | .mark f =>
    (pack [⟨22, 0⟩, ⟨3, f.p⟩, ⟨7, 0x2B⟩], 0)
  | .amoAdd f =>
    (pack [⟨1, f.sz⟩, ⟨4, f.os⟩, ⟨1, f.fb⟩, ⟨5, f.b⟩, ⟨1, f.fa⟩, ⟨5, f.a⟩, ⟨5, f.d⟩, ⟨3, f.p⟩, ⟨7, 0x30⟩], 0)
  | .amoAnd f =>
    (pack [⟨1, f.sz⟩, ⟨4, f.os⟩, ⟨1, f.fb⟩, ⟨5, f.b⟩, ⟨1, f.fa⟩, ⟨5, f.a⟩, ⟨5, f.d⟩, ⟨3, f.p⟩, ⟨7, 0x31⟩], 0)
  | .amoOr f =>
    (pack [⟨1, f.sz⟩, ⟨4, f.os⟩, ⟨1, f.fb⟩, ⟨5, f.b⟩, ⟨1, f.fa⟩, ⟨5, f.a⟩, ⟨5, f.d⟩, ⟨3, f.p⟩, ⟨7, 0x32⟩], 0)
  | .amoXor f =>
    (pack [⟨1, f.sz⟩, ⟨4, f.os⟩, ⟨1, f.fb⟩, ⟨5, f.b⟩, ⟨1, f.fa⟩, ⟨5, f.a⟩, ⟨5, f.d⟩, ⟨3, f.p⟩, ⟨7, 0x33⟩], 0)
  | .amoMin f =>
    (pack [⟨1, f.sz⟩, ⟨4, f.os⟩, ⟨1, f.fb⟩, ⟨5, f.b⟩, ⟨1, f.fa⟩, ⟨5, f.a⟩, ⟨5, f.d⟩, ⟨3, f.p⟩, ⟨7, 0x34⟩], 0)
  | .amoMax f =>
    (pack [⟨1, f.sz⟩, ⟨4, f.os⟩, ⟨1, f.fb⟩, ⟨5, f.b⟩, ⟨1, f.fa⟩, ⟨5, f.a⟩, ⟨5, f.d⟩, ⟨3, f.p⟩, ⟨7, 0x35⟩], 0)
  | .amoMinu f =>
    (pack [⟨1, f.sz⟩, ⟨4, f.os⟩, ⟨1, f.fb⟩, ⟨5, f.b⟩, ⟨1, f.fa⟩, ⟨5, f.a⟩, ⟨5, f.d⟩, ⟨3, f.p⟩, ⟨7, 0x36⟩], 0)
  | .amoMaxu f =>
    (pack [⟨1, f.sz⟩, ⟨4, f.os⟩, ⟨1, f.fb⟩, ⟨5, f.b⟩, ⟨1, f.fa⟩, ⟨5, f.a⟩, ⟨5, f.d⟩, ⟨3, f.p⟩, ⟨7, 0x37⟩], 0)
  | .amoSwap f =>
    (pack [⟨1, f.sz⟩, ⟨4, f.os⟩, ⟨1, f.fb⟩, ⟨5, f.b⟩, ⟨1, f.fa⟩, ⟨5, f.a⟩, ⟨5, f.d⟩, ⟨3, f.p⟩, ⟨7, 0x38⟩], 0)
  | .amoCas f =>
    (pack [⟨1, f.sz⟩, ⟨4, f.os⟩, ⟨1, f.fb⟩, ⟨5, f.b⟩, ⟨1, f.fa⟩, ⟨5, f.a⟩, ⟨5, f.d⟩, ⟨3, f.p⟩, ⟨7, 0x39⟩], 0)
  | .redAdd f =>
    (pack [⟨1, f.sz⟩, ⟨4, f.os⟩, ⟨1, f.fb⟩, ⟨5, f.b⟩, ⟨1, f.fa⟩, ⟨5, f.a⟩, ⟨5, 0⟩, ⟨3, f.p⟩, ⟨7, 0x30⟩], 0)
  | .redAnd f =>
    (pack [⟨1, f.sz⟩, ⟨4, f.os⟩, ⟨1, f.fb⟩, ⟨5, f.b⟩, ⟨1, f.fa⟩, ⟨5, f.a⟩, ⟨5, 0⟩, ⟨3, f.p⟩, ⟨7, 0x31⟩], 0)
  | .redOr f =>
    (pack [⟨1, f.sz⟩, ⟨4, f.os⟩, ⟨1, f.fb⟩, ⟨5, f.b⟩, ⟨1, f.fa⟩, ⟨5, f.a⟩, ⟨5, 0⟩, ⟨3, f.p⟩, ⟨7, 0x32⟩], 0)
  | .redXor f =>
    (pack [⟨1, f.sz⟩, ⟨4, f.os⟩, ⟨1, f.fb⟩, ⟨5, f.b⟩, ⟨1, f.fa⟩, ⟨5, f.a⟩, ⟨5, 0⟩, ⟨3, f.p⟩, ⟨7, 0x33⟩], 0)
  | .redMin f =>
    (pack [⟨1, f.sz⟩, ⟨4, f.os⟩, ⟨1, f.fb⟩, ⟨5, f.b⟩, ⟨1, f.fa⟩, ⟨5, f.a⟩, ⟨5, 0⟩, ⟨3, f.p⟩, ⟨7, 0x34⟩], 0)
  | .redMax f =>
    (pack [⟨1, f.sz⟩, ⟨4, f.os⟩, ⟨1, f.fb⟩, ⟨5, f.b⟩, ⟨1, f.fa⟩, ⟨5, f.a⟩, ⟨5, 0⟩, ⟨3, f.p⟩, ⟨7, 0x35⟩], 0)
  | .redMinu f =>
    (pack [⟨1, f.sz⟩, ⟨4, f.os⟩, ⟨1, f.fb⟩, ⟨5, f.b⟩, ⟨1, f.fa⟩, ⟨5, f.a⟩, ⟨5, 0⟩, ⟨3, f.p⟩, ⟨7, 0x36⟩], 0)
  | .redMaxu f =>
    (pack [⟨1, f.sz⟩, ⟨4, f.os⟩, ⟨1, f.fb⟩, ⟨5, f.b⟩, ⟨1, f.fa⟩, ⟨5, f.a⟩, ⟨5, 0⟩, ⟨3, f.p⟩, ⟨7, 0x37⟩], 0)
  | .fld f =>
    (pack [⟨10, 0⟩, ⟨1, 0⟩, ⟨1, f.fa⟩, ⟨5, f.a⟩, ⟨5, f.d⟩, ⟨3, f.p⟩, ⟨7, 0x3A⟩], 0)
  | .fldTake f =>
    (pack [⟨10, 0⟩, ⟨1, 1⟩, ⟨1, f.fa⟩, ⟨5, f.a⟩, ⟨5, f.d⟩, ⟨3, f.p⟩, ⟨7, 0x3A⟩], 0)
  | .ffill f =>
    (pack [⟨5, 0⟩, ⟨1, f.fb⟩, ⟨5, f.b⟩, ⟨1, f.fa⟩, ⟨5, f.a⟩, ⟨5, 0⟩, ⟨3, f.p⟩, ⟨7, 0x3B⟩], 0)
  | .xsumAdd f =>
    (pack [⟨1, 0⟩, ⟨4, f.os⟩, ⟨1, f.fb⟩, ⟨5, f.b⟩, ⟨1, f.fa⟩, ⟨5, f.a⟩, ⟨3, 0⟩, ⟨2, f.ty⟩, ⟨3, f.p⟩, ⟨7, 0x3C⟩], 0)
  | .xsumMerge f =>
    (pack [⟨1, 0⟩, ⟨4, f.os⟩, ⟨1, f.fb⟩, ⟨5, f.b⟩, ⟨1, f.fa⟩, ⟨5, f.a⟩, ⟨5, 0⟩, ⟨3, f.p⟩, ⟨7, 0x3D⟩], 0)
  | .xsumRead f =>
    (pack [⟨4, f.os⟩, ⟨3, f.rnd⟩, ⟨1, 0⟩, ⟨1, 0⟩, ⟨2, f.ty⟩, ⟨1, f.fa⟩, ⟨5, f.a⟩, ⟨5, f.d⟩, ⟨3, f.p⟩, ⟨7, 0x3E⟩], 0)
  | .xsumReadClr f =>
    (pack [⟨4, f.os⟩, ⟨3, f.rnd⟩, ⟨1, 1⟩, ⟨1, 0⟩, ⟨2, f.ty⟩, ⟨1, f.fa⟩, ⟨5, f.a⟩, ⟨5, f.d⟩, ⟨3, f.p⟩, ⟨7, 0x3E⟩], 0)
  | .mfsr f =>
    (pack [⟨5, 0⟩, ⟨8, f.srn⟩, ⟨2, f.cx⟩, ⟨1, f.xc⟩, ⟨1, 0⟩, ⟨5, f.reg⟩, ⟨3, f.p⟩, ⟨7, 0x3F⟩], 0)
  | .mtsr f =>
    (pack [⟨5, 1⟩, ⟨8, f.srn⟩, ⟨2, f.cx⟩, ⟨1, f.xc⟩, ⟨1, f.fr⟩, ⟨5, f.reg⟩, ⟨3, f.p⟩, ⟨7, 0x3F⟩], 0)
  | .setovf f =>
    (pack [⟨5, 2⟩, ⟨6, 0⟩, ⟨1, f.fa⟩, ⟨5, f.a⟩, ⟨5, 0⟩, ⟨3, f.p⟩, ⟨7, 0x3F⟩], 0)
  | .trap f =>
    (pack [⟨5, 3⟩, ⟨12, f.code⟩, ⟨5, 0⟩, ⟨3, f.p⟩, ⟨7, 0x3F⟩], 0)
  | .tret f =>
    (pack [⟨5, 4⟩, ⟨17, 0⟩, ⟨3, f.p⟩, ⟨7, 0x3F⟩], 0)
  | .stop f =>
    (pack [⟨5, 5⟩, ⟨6, 0⟩, ⟨1, f.fa⟩, ⟨5, f.a⟩, ⟨2, 0⟩, ⟨3, f.pd⟩, ⟨3, f.p⟩, ⟨7, 0x3F⟩], 0)
  | .tinvalPg f =>
    (pack [⟨5, 6⟩, ⟨1, f.fb⟩, ⟨5, f.b⟩, ⟨1, f.fa⟩, ⟨5, f.a⟩, ⟨5, 0⟩, ⟨3, f.p⟩, ⟨7, 0x3F⟩], 0)
  | .tinvalSp f =>
    (pack [⟨5, 7⟩, ⟨1, f.fb⟩, ⟨5, f.b⟩, ⟨11, 0⟩, ⟨3, f.p⟩, ⟨7, 0x3F⟩], 0)
  | .tinvalAll f =>
    (pack [⟨5, 8⟩, ⟨17, 0⟩, ⟨3, f.p⟩, ⟨7, 0x3F⟩], 0)
  | .rfinv f =>
    (pack [⟨5, 9⟩, ⟨1, f.fb⟩, ⟨5, f.b⟩, ⟨1, f.fa⟩, ⟨5, f.a⟩, ⟨5, 0⟩, ⟨3, f.p⟩, ⟨7, 0x3F⟩], 0)
  | .rfclr f =>
    (pack [⟨5, 10⟩, ⟨17, 0⟩, ⟨3, f.p⟩, ⟨7, 0x3F⟩], 0)
  | .cpre f =>
    (pack [⟨5, 11⟩, ⟨6, 0⟩, ⟨1, f.fa⟩, ⟨5, f.a⟩, ⟨5, f.d⟩, ⟨3, f.p⟩, ⟨7, 0x3F⟩], 0)
  | .cres f =>
    (pack [⟨5, 12⟩, ⟨6, 0⟩, ⟨1, f.fa⟩, ⟨5, f.a⟩, ⟨5, 0⟩, ⟨3, f.p⟩, ⟨7, 0x3F⟩], 0)
  | .cresume f =>
    (pack [⟨5, 13⟩, ⟨12, 0⟩, ⟨2, f.cn⟩, ⟨3, 0⟩, ⟨3, f.p⟩, ⟨7, 0x3F⟩], 0)
  | .vld f t =>
    (pack [⟨4, 0⟩, ⟨1, f.fc⟩, ⟨5, f.sc⟩, ⟨1, f.fb⟩, ⟨5, f.sb⟩, ⟨1, f.fa⟩, ⟨5, f.sa⟩, ⟨3, f.p⟩, ⟨7, 0x40⟩], encTail t)
  | .vst f t =>
    (pack [⟨4, 1⟩, ⟨1, f.fc⟩, ⟨5, f.sc⟩, ⟨1, f.fb⟩, ⟨5, f.sb⟩, ⟨1, f.fa⟩, ⟨5, f.sa⟩, ⟨3, f.p⟩, ⟨7, 0x40⟩], encTail t)
  | .vldStr f t =>
    (pack [⟨4, 2⟩, ⟨1, f.fc⟩, ⟨5, f.sc⟩, ⟨1, f.fb⟩, ⟨5, f.sb⟩, ⟨1, f.fa⟩, ⟨5, f.sa⟩, ⟨3, f.p⟩, ⟨7, 0x40⟩], encTail t)
  | .vstStr f t =>
    (pack [⟨4, 3⟩, ⟨1, f.fc⟩, ⟨5, f.sc⟩, ⟨1, f.fb⟩, ⟨5, f.sb⟩, ⟨1, f.fa⟩, ⟨5, f.sa⟩, ⟨3, f.p⟩, ⟨7, 0x40⟩], encTail t)
  | .vldl f t =>
    (pack [⟨4, 0⟩, ⟨1, f.fc⟩, ⟨5, f.sc⟩, ⟨1, f.fb⟩, ⟨5, f.sb⟩, ⟨1, f.fa⟩, ⟨5, f.sa⟩, ⟨3, f.p⟩, ⟨7, 0x41⟩], encTail t)
  | .vstl f t =>
    (pack [⟨4, 1⟩, ⟨1, f.fc⟩, ⟨5, f.sc⟩, ⟨1, f.fb⟩, ⟨5, f.sb⟩, ⟨1, f.fa⟩, ⟨5, f.sa⟩, ⟨3, f.p⟩, ⟨7, 0x41⟩], encTail t)
  | .vldlX f t =>
    (pack [⟨4, 2⟩, ⟨1, f.fc⟩, ⟨5, f.sc⟩, ⟨1, f.fb⟩, ⟨5, f.sb⟩, ⟨1, f.fa⟩, ⟨5, f.sa⟩, ⟨3, f.p⟩, ⟨7, 0x41⟩], encTail t)
  | .vstlX f t =>
    (pack [⟨4, 3⟩, ⟨1, f.fc⟩, ⟨5, f.sc⟩, ⟨1, f.fb⟩, ⟨5, f.sb⟩, ⟨1, f.fa⟩, ⟨5, f.sa⟩, ⟨3, f.p⟩, ⟨7, 0x41⟩], encTail t)
  | .vgather f t =>
    (pack [⟨4, 0⟩, ⟨1, f.fc⟩, ⟨5, f.sc⟩, ⟨1, f.fb⟩, ⟨5, f.sb⟩, ⟨1, f.fa⟩, ⟨5, f.sa⟩, ⟨3, f.p⟩, ⟨7, 0x42⟩], encTail t)
  | .vscatter f t =>
    (pack [⟨4, 1⟩, ⟨1, f.fc⟩, ⟨5, f.sc⟩, ⟨1, f.fb⟩, ⟨5, f.sb⟩, ⟨1, f.fa⟩, ⟨5, f.sa⟩, ⟨3, f.p⟩, ⟨7, 0x42⟩], encTail t)
  | .vamoAdd ret f t =>
    (pack [⟨3, 0⟩, ⟨1, ret⟩, ⟨1, f.fc⟩, ⟨5, f.sc⟩, ⟨1, f.fb⟩, ⟨5, f.sb⟩, ⟨1, f.fa⟩, ⟨5, f.sa⟩, ⟨3, f.p⟩, ⟨7, 0x43⟩], encTail t)
  | .vamoMin ret f t =>
    (pack [⟨3, 1⟩, ⟨1, ret⟩, ⟨1, f.fc⟩, ⟨5, f.sc⟩, ⟨1, f.fb⟩, ⟨5, f.sb⟩, ⟨1, f.fa⟩, ⟨5, f.sa⟩, ⟨3, f.p⟩, ⟨7, 0x43⟩], encTail t)
  | .vamoMax ret f t =>
    (pack [⟨3, 2⟩, ⟨1, ret⟩, ⟨1, f.fc⟩, ⟨5, f.sc⟩, ⟨1, f.fb⟩, ⟨5, f.sb⟩, ⟨1, f.fa⟩, ⟨5, f.sa⟩, ⟨3, f.p⟩, ⟨7, 0x43⟩], encTail t)
  | .vamoAnd ret f t =>
    (pack [⟨3, 3⟩, ⟨1, ret⟩, ⟨1, f.fc⟩, ⟨5, f.sc⟩, ⟨1, f.fb⟩, ⟨5, f.sb⟩, ⟨1, f.fa⟩, ⟨5, f.sa⟩, ⟨3, f.p⟩, ⟨7, 0x43⟩], encTail t)
  | .vamoOr ret f t =>
    (pack [⟨3, 4⟩, ⟨1, ret⟩, ⟨1, f.fc⟩, ⟨5, f.sc⟩, ⟨1, f.fb⟩, ⟨5, f.sb⟩, ⟨1, f.fa⟩, ⟨5, f.sa⟩, ⟨3, f.p⟩, ⟨7, 0x43⟩], encTail t)
  | .vamoXor ret f t =>
    (pack [⟨3, 5⟩, ⟨1, ret⟩, ⟨1, f.fc⟩, ⟨5, f.sc⟩, ⟨1, f.fb⟩, ⟨5, f.sb⟩, ⟨1, f.fa⟩, ⟨5, f.sa⟩, ⟨3, f.p⟩, ⟨7, 0x43⟩], encTail t)
  | .vamoSwap ret f t =>
    (pack [⟨3, 6⟩, ⟨1, ret⟩, ⟨1, f.fc⟩, ⟨5, f.sc⟩, ⟨1, f.fb⟩, ⟨5, f.sb⟩, ⟨1, f.fa⟩, ⟨5, f.sa⟩, ⟨3, f.p⟩, ⟨7, 0x43⟩], encTail t)
  | .vamoXsum ret f t =>
    (pack [⟨3, 7⟩, ⟨1, ret⟩, ⟨1, f.fc⟩, ⟨5, f.sc⟩, ⟨1, f.fb⟩, ⟨5, f.sb⟩, ⟨1, f.fa⟩, ⟨5, f.sa⟩, ⟨3, f.p⟩, ⟨7, 0x43⟩], encTail t)
  | .vadd f t =>
    (pack [⟨7, 0⟩, ⟨5, f.bx⟩, ⟨5, f.ax⟩, ⟨5, f.dx⟩, ⟨3, f.p⟩, ⟨7, 0x44⟩], encTail t)
  | .vsub f t =>
    (pack [⟨7, 1⟩, ⟨5, f.bx⟩, ⟨5, f.ax⟩, ⟨5, f.dx⟩, ⟨3, f.p⟩, ⟨7, 0x44⟩], encTail t)
  | .vadds f t =>
    (pack [⟨7, 2⟩, ⟨5, f.bx⟩, ⟨5, f.ax⟩, ⟨5, f.dx⟩, ⟨3, f.p⟩, ⟨7, 0x44⟩], encTail t)
  | .vsubs f t =>
    (pack [⟨7, 3⟩, ⟨5, f.bx⟩, ⟨5, f.ax⟩, ⟨5, f.dx⟩, ⟨3, f.p⟩, ⟨7, 0x44⟩], encTail t)
  | .vmul f t =>
    (pack [⟨7, 4⟩, ⟨5, f.bx⟩, ⟨5, f.ax⟩, ⟨5, f.dx⟩, ⟨3, f.p⟩, ⟨7, 0x44⟩], encTail t)
  | .vmulh f t =>
    (pack [⟨7, 5⟩, ⟨5, f.bx⟩, ⟨5, f.ax⟩, ⟨5, f.dx⟩, ⟨3, f.p⟩, ⟨7, 0x44⟩], encTail t)
  | .vmin f t =>
    (pack [⟨7, 6⟩, ⟨5, f.bx⟩, ⟨5, f.ax⟩, ⟨5, f.dx⟩, ⟨3, f.p⟩, ⟨7, 0x44⟩], encTail t)
  | .vmax f t =>
    (pack [⟨7, 7⟩, ⟨5, f.bx⟩, ⟨5, f.ax⟩, ⟨5, f.dx⟩, ⟨3, f.p⟩, ⟨7, 0x44⟩], encTail t)
  | .vand f t =>
    (pack [⟨7, 8⟩, ⟨5, f.bx⟩, ⟨5, f.ax⟩, ⟨5, f.dx⟩, ⟨3, f.p⟩, ⟨7, 0x44⟩], encTail t)
  | .vor f t =>
    (pack [⟨7, 9⟩, ⟨5, f.bx⟩, ⟨5, f.ax⟩, ⟨5, f.dx⟩, ⟨3, f.p⟩, ⟨7, 0x44⟩], encTail t)
  | .vxor f t =>
    (pack [⟨7, 10⟩, ⟨5, f.bx⟩, ⟨5, f.ax⟩, ⟨5, f.dx⟩, ⟨3, f.p⟩, ⟨7, 0x44⟩], encTail t)
  | .vandn f t =>
    (pack [⟨7, 11⟩, ⟨5, f.bx⟩, ⟨5, f.ax⟩, ⟨5, f.dx⟩, ⟨3, f.p⟩, ⟨7, 0x44⟩], encTail t)
  | .vabs f t =>
    (pack [⟨7, 12⟩, ⟨5, f.bx⟩, ⟨5, f.ax⟩, ⟨5, f.dx⟩, ⟨3, f.p⟩, ⟨7, 0x44⟩], encTail t)
  | .vneg f t =>
    (pack [⟨7, 13⟩, ⟨5, f.bx⟩, ⟨5, f.ax⟩, ⟨5, f.dx⟩, ⟨3, f.p⟩, ⟨7, 0x44⟩], encTail t)
  | .vavg f t =>
    (pack [⟨7, 14⟩, ⟨5, f.bx⟩, ⟨5, f.ax⟩, ⟨5, f.dx⟩, ⟨3, f.p⟩, ⟨7, 0x44⟩], encTail t)
  | .vabsd f t =>
    (pack [⟨7, 15⟩, ⟨5, f.bx⟩, ⟨5, f.ax⟩, ⟨5, f.dx⟩, ⟨3, f.p⟩, ⟨7, 0x44⟩], encTail t)
  | .vaddS f t =>
    (pack [⟨4, 0⟩, ⟨1, f.fc⟩, ⟨5, f.sc⟩, ⟨1, f.fb⟩, ⟨5, f.sb⟩, ⟨1, f.fa⟩, ⟨5, f.sa⟩, ⟨3, f.p⟩, ⟨7, 0x45⟩], encTail t)
  | .vsubS f t =>
    (pack [⟨4, 1⟩, ⟨1, f.fc⟩, ⟨5, f.sc⟩, ⟨1, f.fb⟩, ⟨5, f.sb⟩, ⟨1, f.fa⟩, ⟨5, f.sa⟩, ⟨3, f.p⟩, ⟨7, 0x45⟩], encTail t)
  | .vaddsS f t =>
    (pack [⟨4, 2⟩, ⟨1, f.fc⟩, ⟨5, f.sc⟩, ⟨1, f.fb⟩, ⟨5, f.sb⟩, ⟨1, f.fa⟩, ⟨5, f.sa⟩, ⟨3, f.p⟩, ⟨7, 0x45⟩], encTail t)
  | .vsubsS f t =>
    (pack [⟨4, 3⟩, ⟨1, f.fc⟩, ⟨5, f.sc⟩, ⟨1, f.fb⟩, ⟨5, f.sb⟩, ⟨1, f.fa⟩, ⟨5, f.sa⟩, ⟨3, f.p⟩, ⟨7, 0x45⟩], encTail t)
  | .vmulS f t =>
    (pack [⟨4, 4⟩, ⟨1, f.fc⟩, ⟨5, f.sc⟩, ⟨1, f.fb⟩, ⟨5, f.sb⟩, ⟨1, f.fa⟩, ⟨5, f.sa⟩, ⟨3, f.p⟩, ⟨7, 0x45⟩], encTail t)
  | .vmulhS f t =>
    (pack [⟨4, 5⟩, ⟨1, f.fc⟩, ⟨5, f.sc⟩, ⟨1, f.fb⟩, ⟨5, f.sb⟩, ⟨1, f.fa⟩, ⟨5, f.sa⟩, ⟨3, f.p⟩, ⟨7, 0x45⟩], encTail t)
  | .vminS f t =>
    (pack [⟨4, 6⟩, ⟨1, f.fc⟩, ⟨5, f.sc⟩, ⟨1, f.fb⟩, ⟨5, f.sb⟩, ⟨1, f.fa⟩, ⟨5, f.sa⟩, ⟨3, f.p⟩, ⟨7, 0x45⟩], encTail t)
  | .vmaxS f t =>
    (pack [⟨4, 7⟩, ⟨1, f.fc⟩, ⟨5, f.sc⟩, ⟨1, f.fb⟩, ⟨5, f.sb⟩, ⟨1, f.fa⟩, ⟨5, f.sa⟩, ⟨3, f.p⟩, ⟨7, 0x45⟩], encTail t)
  | .vandS f t =>
    (pack [⟨4, 8⟩, ⟨1, f.fc⟩, ⟨5, f.sc⟩, ⟨1, f.fb⟩, ⟨5, f.sb⟩, ⟨1, f.fa⟩, ⟨5, f.sa⟩, ⟨3, f.p⟩, ⟨7, 0x45⟩], encTail t)
  | .vorS f t =>
    (pack [⟨4, 9⟩, ⟨1, f.fc⟩, ⟨5, f.sc⟩, ⟨1, f.fb⟩, ⟨5, f.sb⟩, ⟨1, f.fa⟩, ⟨5, f.sa⟩, ⟨3, f.p⟩, ⟨7, 0x45⟩], encTail t)
  | .vxorS f t =>
    (pack [⟨4, 10⟩, ⟨1, f.fc⟩, ⟨5, f.sc⟩, ⟨1, f.fb⟩, ⟨5, f.sb⟩, ⟨1, f.fa⟩, ⟨5, f.sa⟩, ⟨3, f.p⟩, ⟨7, 0x45⟩], encTail t)
  | .vandnS f t =>
    (pack [⟨4, 11⟩, ⟨1, f.fc⟩, ⟨5, f.sc⟩, ⟨1, f.fb⟩, ⟨5, f.sb⟩, ⟨1, f.fa⟩, ⟨5, f.sa⟩, ⟨3, f.p⟩, ⟨7, 0x45⟩], encTail t)
  | .vavgS f t =>
    (pack [⟨4, 14⟩, ⟨1, f.fc⟩, ⟨5, f.sc⟩, ⟨1, f.fb⟩, ⟨5, f.sb⟩, ⟨1, f.fa⟩, ⟨5, f.sa⟩, ⟨3, f.p⟩, ⟨7, 0x45⟩], encTail t)
  | .vabsdS f t =>
    (pack [⟨4, 15⟩, ⟨1, f.fc⟩, ⟨5, f.sc⟩, ⟨1, f.fb⟩, ⟨5, f.sb⟩, ⟨1, f.fa⟩, ⟨5, f.sa⟩, ⟨3, f.p⟩, ⟨7, 0x45⟩], encTail t)
  | .vfadd f t =>
    (pack [⟨7, 0⟩, ⟨5, f.bx⟩, ⟨5, f.ax⟩, ⟨5, f.dx⟩, ⟨3, f.p⟩, ⟨7, 0x46⟩], encTail t)
  | .vfsub f t =>
    (pack [⟨7, 1⟩, ⟨5, f.bx⟩, ⟨5, f.ax⟩, ⟨5, f.dx⟩, ⟨3, f.p⟩, ⟨7, 0x46⟩], encTail t)
  | .vfmul f t =>
    (pack [⟨7, 2⟩, ⟨5, f.bx⟩, ⟨5, f.ax⟩, ⟨5, f.dx⟩, ⟨3, f.p⟩, ⟨7, 0x46⟩], encTail t)
  | .vfdiv f t =>
    (pack [⟨7, 3⟩, ⟨5, f.bx⟩, ⟨5, f.ax⟩, ⟨5, f.dx⟩, ⟨3, f.p⟩, ⟨7, 0x46⟩], encTail t)
  | .vfmin f t =>
    (pack [⟨7, 4⟩, ⟨5, f.bx⟩, ⟨5, f.ax⟩, ⟨5, f.dx⟩, ⟨3, f.p⟩, ⟨7, 0x46⟩], encTail t)
  | .vfmax f t =>
    (pack [⟨7, 5⟩, ⟨5, f.bx⟩, ⟨5, f.ax⟩, ⟨5, f.dx⟩, ⟨3, f.p⟩, ⟨7, 0x46⟩], encTail t)
  | .vfabs f t =>
    (pack [⟨7, 6⟩, ⟨5, f.bx⟩, ⟨5, f.ax⟩, ⟨5, f.dx⟩, ⟨3, f.p⟩, ⟨7, 0x46⟩], encTail t)
  | .vfneg f t =>
    (pack [⟨7, 7⟩, ⟨5, f.bx⟩, ⟨5, f.ax⟩, ⟨5, f.dx⟩, ⟨3, f.p⟩, ⟨7, 0x46⟩], encTail t)
  | .vfaddS f t =>
    (pack [⟨4, 0⟩, ⟨1, f.fc⟩, ⟨5, f.sc⟩, ⟨1, f.fb⟩, ⟨5, f.sb⟩, ⟨1, f.fa⟩, ⟨5, f.sa⟩, ⟨3, f.p⟩, ⟨7, 0x47⟩], encTail t)
  | .vfsubS f t =>
    (pack [⟨4, 1⟩, ⟨1, f.fc⟩, ⟨5, f.sc⟩, ⟨1, f.fb⟩, ⟨5, f.sb⟩, ⟨1, f.fa⟩, ⟨5, f.sa⟩, ⟨3, f.p⟩, ⟨7, 0x47⟩], encTail t)
  | .vfmulS f t =>
    (pack [⟨4, 2⟩, ⟨1, f.fc⟩, ⟨5, f.sc⟩, ⟨1, f.fb⟩, ⟨5, f.sb⟩, ⟨1, f.fa⟩, ⟨5, f.sa⟩, ⟨3, f.p⟩, ⟨7, 0x47⟩], encTail t)
  | .vfdivS f t =>
    (pack [⟨4, 3⟩, ⟨1, f.fc⟩, ⟨5, f.sc⟩, ⟨1, f.fb⟩, ⟨5, f.sb⟩, ⟨1, f.fa⟩, ⟨5, f.sa⟩, ⟨3, f.p⟩, ⟨7, 0x47⟩], encTail t)
  | .vfminS f t =>
    (pack [⟨4, 4⟩, ⟨1, f.fc⟩, ⟨5, f.sc⟩, ⟨1, f.fb⟩, ⟨5, f.sb⟩, ⟨1, f.fa⟩, ⟨5, f.sa⟩, ⟨3, f.p⟩, ⟨7, 0x47⟩], encTail t)
  | .vfmaxS f t =>
    (pack [⟨4, 5⟩, ⟨1, f.fc⟩, ⟨5, f.sc⟩, ⟨1, f.fb⟩, ⟨5, f.sb⟩, ⟨1, f.fa⟩, ⟨5, f.sa⟩, ⟨3, f.p⟩, ⟨7, 0x47⟩], encTail t)
  | .vfma f t =>
    (pack [⟨7, 0⟩, ⟨5, f.bx⟩, ⟨5, f.ax⟩, ⟨5, f.dx⟩, ⟨3, f.p⟩, ⟨7, 0x48⟩], encTail t)
  | .vfms f t =>
    (pack [⟨7, 1⟩, ⟨5, f.bx⟩, ⟨5, f.ax⟩, ⟨5, f.dx⟩, ⟨3, f.p⟩, ⟨7, 0x48⟩], encTail t)
  | .vfnma f t =>
    (pack [⟨7, 2⟩, ⟨5, f.bx⟩, ⟨5, f.ax⟩, ⟨5, f.dx⟩, ⟨3, f.p⟩, ⟨7, 0x48⟩], encTail t)
  | .vfnms f t =>
    (pack [⟨7, 3⟩, ⟨5, f.bx⟩, ⟨5, f.ax⟩, ⟨5, f.dx⟩, ⟨3, f.p⟩, ⟨7, 0x48⟩], encTail t)
  | .vmac f t =>
    (pack [⟨7, 4⟩, ⟨5, f.bx⟩, ⟨5, f.ax⟩, ⟨5, f.dx⟩, ⟨3, f.p⟩, ⟨7, 0x48⟩], encTail t)
  | .vmacs f t =>
    (pack [⟨7, 5⟩, ⟨5, f.bx⟩, ⟨5, f.ax⟩, ⟨5, f.dx⟩, ⟨3, f.p⟩, ⟨7, 0x48⟩], encTail t)
  | .vcmpEq f t =>
    (pack [⟨7, 0⟩, ⟨5, f.bx⟩, ⟨5, f.ax⟩, ⟨5, f.dx⟩, ⟨3, f.p⟩, ⟨7, 0x49⟩], encTail t)
  | .vcmpNe f t =>
    (pack [⟨7, 1⟩, ⟨5, f.bx⟩, ⟨5, f.ax⟩, ⟨5, f.dx⟩, ⟨3, f.p⟩, ⟨7, 0x49⟩], encTail t)
  | .vcmpLt f t =>
    (pack [⟨7, 2⟩, ⟨5, f.bx⟩, ⟨5, f.ax⟩, ⟨5, f.dx⟩, ⟨3, f.p⟩, ⟨7, 0x49⟩], encTail t)
  | .vcmpLe f t =>
    (pack [⟨7, 3⟩, ⟨5, f.bx⟩, ⟨5, f.ax⟩, ⟨5, f.dx⟩, ⟨3, f.p⟩, ⟨7, 0x49⟩], encTail t)
  | .vcmpGt f t =>
    (pack [⟨7, 4⟩, ⟨5, f.bx⟩, ⟨5, f.ax⟩, ⟨5, f.dx⟩, ⟨3, f.p⟩, ⟨7, 0x49⟩], encTail t)
  | .vcmpGe f t =>
    (pack [⟨7, 5⟩, ⟨5, f.bx⟩, ⟨5, f.ax⟩, ⟨5, f.dx⟩, ⟨3, f.p⟩, ⟨7, 0x49⟩], encTail t)
  | .vcmpUn f t =>
    (pack [⟨7, 6⟩, ⟨5, f.bx⟩, ⟨5, f.ax⟩, ⟨5, f.dx⟩, ⟨3, f.p⟩, ⟨7, 0x49⟩], encTail t)
  | .vsel f t =>
    (pack [⟨7, 7⟩, ⟨5, f.bx⟩, ⟨5, f.ax⟩, ⟨5, f.dx⟩, ⟨3, f.p⟩, ⟨7, 0x49⟩], encTail t)
  | .vshl f t =>
    (pack [⟨7, 0⟩, ⟨5, f.bx⟩, ⟨5, f.ax⟩, ⟨5, f.dx⟩, ⟨3, f.p⟩, ⟨7, 0x4A⟩], encTail t)
  | .vshr f t =>
    (pack [⟨7, 1⟩, ⟨5, f.bx⟩, ⟨5, f.ax⟩, ⟨5, f.dx⟩, ⟨3, f.p⟩, ⟨7, 0x4A⟩], encTail t)
  | .vsra f t =>
    (pack [⟨7, 2⟩, ⟨5, f.bx⟩, ⟨5, f.ax⟩, ⟨5, f.dx⟩, ⟨3, f.p⟩, ⟨7, 0x4A⟩], encTail t)
  | .vrotr f t =>
    (pack [⟨7, 3⟩, ⟨5, f.bx⟩, ⟨5, f.ax⟩, ⟨5, f.dx⟩, ⟨3, f.p⟩, ⟨7, 0x4A⟩], encTail t)
  | .vshlImm f t =>
    (pack [⟨7, 4⟩, ⟨5, f.bx⟩, ⟨5, f.ax⟩, ⟨5, f.dx⟩, ⟨3, f.p⟩, ⟨7, 0x4A⟩], encTail t)
  | .vshrImm f t =>
    (pack [⟨7, 5⟩, ⟨5, f.bx⟩, ⟨5, f.ax⟩, ⟨5, f.dx⟩, ⟨3, f.p⟩, ⟨7, 0x4A⟩], encTail t)
  | .vsraImm f t =>
    (pack [⟨7, 6⟩, ⟨5, f.bx⟩, ⟨5, f.ax⟩, ⟨5, f.dx⟩, ⟨3, f.p⟩, ⟨7, 0x4A⟩], encTail t)
  | .vrotrImm f t =>
    (pack [⟨7, 7⟩, ⟨5, f.bx⟩, ⟨5, f.ax⟩, ⟨5, f.dx⟩, ⟨3, f.p⟩, ⟨7, 0x4A⟩], encTail t)
  | .vcvt f t =>
    (pack [⟨7, 0⟩, ⟨5, f.bx⟩, ⟨5, f.ax⟩, ⟨5, f.dx⟩, ⟨3, f.p⟩, ⟨7, 0x4B⟩], encTail t)
  | .vcvtWrap f t =>
    (pack [⟨7, 1⟩, ⟨5, f.bx⟩, ⟨5, f.ax⟩, ⟨5, f.dx⟩, ⟨3, f.p⟩, ⟨7, 0x4B⟩], encTail t)
  | .vwiden f t =>
    (pack [⟨7, 0⟩, ⟨5, f.bx⟩, ⟨5, f.ax⟩, ⟨5, f.dx⟩, ⟨3, f.p⟩, ⟨7, 0x4C⟩], encTail t)
  | .vnarrow f t =>
    (pack [⟨7, 1⟩, ⟨5, f.bx⟩, ⟨5, f.ax⟩, ⟨5, f.dx⟩, ⟨3, f.p⟩, ⟨7, 0x4C⟩], encTail t)
  | .vnarrowWrap f t =>
    (pack [⟨7, 2⟩, ⟨5, f.bx⟩, ⟨5, f.ax⟩, ⟨5, f.dx⟩, ⟨3, f.p⟩, ⟨7, 0x4C⟩], encTail t)
  | .vrsum f t =>
    (pack [⟨7, 0⟩, ⟨5, f.bx⟩, ⟨5, f.ax⟩, ⟨5, f.dx⟩, ⟨3, f.p⟩, ⟨7, 0x4D⟩], encTail t)
  | .vrmin f t =>
    (pack [⟨7, 1⟩, ⟨5, f.bx⟩, ⟨5, f.ax⟩, ⟨5, f.dx⟩, ⟨3, f.p⟩, ⟨7, 0x4D⟩], encTail t)
  | .vrmax f t =>
    (pack [⟨7, 2⟩, ⟨5, f.bx⟩, ⟨5, f.ax⟩, ⟨5, f.dx⟩, ⟨3, f.p⟩, ⟨7, 0x4D⟩], encTail t)
  | .vrand f t =>
    (pack [⟨7, 3⟩, ⟨5, f.bx⟩, ⟨5, f.ax⟩, ⟨5, f.dx⟩, ⟨3, f.p⟩, ⟨7, 0x4D⟩], encTail t)
  | .vror f t =>
    (pack [⟨7, 4⟩, ⟨5, f.bx⟩, ⟨5, f.ax⟩, ⟨5, f.dx⟩, ⟨3, f.p⟩, ⟨7, 0x4D⟩], encTail t)
  | .vrxor f t =>
    (pack [⟨7, 5⟩, ⟨5, f.bx⟩, ⟨5, f.ax⟩, ⟨5, f.dx⟩, ⟨3, f.p⟩, ⟨7, 0x4D⟩], encTail t)
  | .vscanSum f t =>
    (pack [⟨7, 8⟩, ⟨5, f.bx⟩, ⟨5, f.ax⟩, ⟨5, f.dx⟩, ⟨3, f.p⟩, ⟨7, 0x4D⟩], encTail t)
  | .vscanMin f t =>
    (pack [⟨7, 9⟩, ⟨5, f.bx⟩, ⟨5, f.ax⟩, ⟨5, f.dx⟩, ⟨3, f.p⟩, ⟨7, 0x4D⟩], encTail t)
  | .vscanMax f t =>
    (pack [⟨7, 10⟩, ⟨5, f.bx⟩, ⟨5, f.ax⟩, ⟨5, f.dx⟩, ⟨3, f.p⟩, ⟨7, 0x4D⟩], encTail t)
  | .vperm f t =>
    (pack [⟨7, 0⟩, ⟨5, f.bx⟩, ⟨5, f.ax⟩, ⟨5, f.dx⟩, ⟨3, f.p⟩, ⟨7, 0x4E⟩], encTail t)
  | .vzipLo f t =>
    (pack [⟨7, 1⟩, ⟨5, f.bx⟩, ⟨5, f.ax⟩, ⟨5, f.dx⟩, ⟨3, f.p⟩, ⟨7, 0x4E⟩], encTail t)
  | .vzipHi f t =>
    (pack [⟨7, 2⟩, ⟨5, f.bx⟩, ⟨5, f.ax⟩, ⟨5, f.dx⟩, ⟨3, f.p⟩, ⟨7, 0x4E⟩], encTail t)
  | .vunzipEv f t =>
    (pack [⟨7, 3⟩, ⟨5, f.bx⟩, ⟨5, f.ax⟩, ⟨5, f.dx⟩, ⟨3, f.p⟩, ⟨7, 0x4E⟩], encTail t)
  | .vunzipOd f t =>
    (pack [⟨7, 4⟩, ⟨5, f.bx⟩, ⟨5, f.ax⟩, ⟨5, f.dx⟩, ⟨3, f.p⟩, ⟨7, 0x4E⟩], encTail t)
  | .vrev f t =>
    (pack [⟨7, 5⟩, ⟨5, f.bx⟩, ⟨5, f.ax⟩, ⟨5, f.dx⟩, ⟨3, f.p⟩, ⟨7, 0x4E⟩], encTail t)
  | .vbcast f t =>
    (pack [⟨7, 6⟩, ⟨5, f.bx⟩, ⟨5, f.ax⟩, ⟨5, f.dx⟩, ⟨3, f.p⟩, ⟨7, 0x4E⟩], encTail t)
  | .vtrd f t =>
    (pack [⟨2, 0⟩, ⟨5, f.ix⟩, ⟨1, f.rc⟩, ⟨3, f.tr⟩, ⟨1, f.fx⟩, ⟨5, f.sx⟩, ⟨5, f.v⟩, ⟨3, f.p⟩, ⟨7, 0x4F⟩], encTail t)
  | .vtwr f t =>
    (pack [⟨2, 1⟩, ⟨5, f.ix⟩, ⟨1, f.rc⟩, ⟨3, f.tr⟩, ⟨1, f.fx⟩, ⟨5, f.sx⟩, ⟨5, f.v⟩, ⟨3, f.p⟩, ⟨7, 0x4F⟩], encTail t)
  | .vtacc f t =>
    (pack [⟨2, 2⟩, ⟨5, f.ix⟩, ⟨1, f.rc⟩, ⟨3, f.tr⟩, ⟨1, f.fx⟩, ⟨5, f.sx⟩, ⟨5, f.v⟩, ⟨3, f.p⟩, ⟨7, 0x4F⟩], encTail t)
  | .vexp2 f t =>
    (pack [⟨7, 0⟩, ⟨5, f.bx⟩, ⟨5, f.ax⟩, ⟨5, f.dx⟩, ⟨3, f.p⟩, ⟨7, 0x50⟩], encTail t)
  | .vlog2 f t =>
    (pack [⟨7, 1⟩, ⟨5, f.bx⟩, ⟨5, f.ax⟩, ⟨5, f.dx⟩, ⟨3, f.p⟩, ⟨7, 0x50⟩], encTail t)
  | .vrcp f t =>
    (pack [⟨7, 2⟩, ⟨5, f.bx⟩, ⟨5, f.ax⟩, ⟨5, f.dx⟩, ⟨3, f.p⟩, ⟨7, 0x50⟩], encTail t)
  | .vrsqrt f t =>
    (pack [⟨7, 3⟩, ⟨5, f.bx⟩, ⟨5, f.ax⟩, ⟨5, f.dx⟩, ⟨3, f.p⟩, ⟨7, 0x50⟩], encTail t)
  | .vsqrt f t =>
    (pack [⟨7, 4⟩, ⟨5, f.bx⟩, ⟨5, f.ax⟩, ⟨5, f.dx⟩, ⟨3, f.p⟩, ⟨7, 0x50⟩], encTail t)
  | .vsinpi f t =>
    (pack [⟨7, 5⟩, ⟨5, f.bx⟩, ⟨5, f.ax⟩, ⟨5, f.dx⟩, ⟨3, f.p⟩, ⟨7, 0x50⟩], encTail t)
  | .vcospi f t =>
    (pack [⟨7, 6⟩, ⟨5, f.bx⟩, ⟨5, f.ax⟩, ⟨5, f.dx⟩, ⟨3, f.p⟩, ⟨7, 0x50⟩], encTail t)
  | .vtanh f t =>
    (pack [⟨7, 7⟩, ⟨5, f.bx⟩, ⟨5, f.ax⟩, ⟨5, f.dx⟩, ⟨3, f.p⟩, ⟨7, 0x50⟩], encTail t)
  | .vsigm f t =>
    (pack [⟨7, 8⟩, ⟨5, f.bx⟩, ⟨5, f.ax⟩, ⟨5, f.dx⟩, ⟨3, f.p⟩, ⟨7, 0x50⟩], encTail t)
  | .vexp f t =>
    (pack [⟨7, 9⟩, ⟨5, f.bx⟩, ⟨5, f.ax⟩, ⟨5, f.dx⟩, ⟨3, f.p⟩, ⟨7, 0x50⟩], encTail t)
  | .vlog f t =>
    (pack [⟨7, 10⟩, ⟨5, f.bx⟩, ⟨5, f.ax⟩, ⟨5, f.dx⟩, ⟨3, f.p⟩, ⟨7, 0x50⟩], encTail t)
  | .mma fmtb f t =>
    (pack [⟨4, fmtb⟩, ⟨1, f.fc⟩, ⟨5, f.sc⟩, ⟨1, f.fb⟩, ⟨5, f.sb⟩, ⟨1, f.fa⟩, ⟨5, f.sa⟩, ⟨3, f.p⟩, ⟨7, 0x60⟩], encTail t)
  | .mmas fmtb f t =>
    (pack [⟨4, fmtb⟩, ⟨1, f.fc⟩, ⟨5, f.sc⟩, ⟨1, f.fb⟩, ⟨5, f.sb⟩, ⟨1, f.fa⟩, ⟨5, f.sa⟩, ⟨3, f.p⟩, ⟨7, 0x61⟩], encTail t)
  | .tld f t =>
    (pack [⟨4, 0⟩, ⟨1, f.fc⟩, ⟨5, f.sc⟩, ⟨1, f.fb⟩, ⟨5, f.sb⟩, ⟨1, f.fa⟩, ⟨5, f.sa⟩, ⟨3, f.p⟩, ⟨7, 0x62⟩], encTail t)
  | .tst f t =>
    (pack [⟨4, 0⟩, ⟨1, f.fc⟩, ⟨5, f.sc⟩, ⟨1, f.fb⟩, ⟨5, f.sb⟩, ⟨1, f.fa⟩, ⟨5, f.sa⟩, ⟨3, f.p⟩, ⟨7, 0x63⟩], encTail t)
  | .tzero f t =>
    (pack [⟨4, 0⟩, ⟨1, f.fc⟩, ⟨5, f.sc⟩, ⟨1, f.fb⟩, ⟨5, f.sb⟩, ⟨1, f.fa⟩, ⟨5, f.sa⟩, ⟨3, f.p⟩, ⟨7, 0x64⟩], encTail t)
  | .spub f t =>
    (pack [⟨4, 0⟩, ⟨1, f.fc⟩, ⟨5, f.sc⟩, ⟨1, f.fb⟩, ⟨5, f.sb⟩, ⟨1, f.fa⟩, ⟨5, f.sa⟩, ⟨3, f.p⟩, ⟨7, 0x65⟩], encTail t)
  | .ssub f t =>
    (pack [⟨4, 1⟩, ⟨1, f.fc⟩, ⟨5, f.sc⟩, ⟨1, f.fb⟩, ⟨5, f.sb⟩, ⟨1, f.fa⟩, ⟨5, f.sa⟩, ⟨3, f.p⟩, ⟨7, 0x65⟩], encTail t)
  | .sunsub f t =>
    (pack [⟨4, 2⟩, ⟨1, f.fc⟩, ⟨5, f.sc⟩, ⟨1, f.fb⟩, ⟨5, f.sb⟩, ⟨1, f.fa⟩, ⟨5, f.sa⟩, ⟨3, f.p⟩, ⟨7, 0x65⟩], encTail t)
  | .copy f t =>
    (pack [⟨4, 0⟩, ⟨1, f.fc⟩, ⟨5, f.sc⟩, ⟨1, f.fb⟩, ⟨5, f.sb⟩, ⟨1, f.fa⟩, ⟨5, f.sa⟩, ⟨3, f.p⟩, ⟨7, 0x68⟩], encTail t)
  | .copySt f t =>
    (pack [⟨4, 1⟩, ⟨1, f.fc⟩, ⟨5, f.sc⟩, ⟨1, f.fb⟩, ⟨5, f.sb⟩, ⟨1, f.fa⟩, ⟨5, f.sa⟩, ⟨3, f.p⟩, ⟨7, 0x68⟩], encTail t)
  | .mcast f t =>
    (pack [⟨4, 0⟩, ⟨1, f.fc⟩, ⟨5, f.sc⟩, ⟨1, f.fb⟩, ⟨5, f.sb⟩, ⟨1, f.fa⟩, ⟨5, f.sa⟩, ⟨3, f.p⟩, ⟨7, 0x69⟩], encTail t)
  | .fill f t =>
    (pack [⟨4, 0⟩, ⟨1, f.fc⟩, ⟨5, f.sc⟩, ⟨1, f.fb⟩, ⟨5, f.sb⟩, ⟨1, f.fa⟩, ⟨5, f.sa⟩, ⟨3, f.p⟩, ⟨7, 0x6A⟩], encTail t)
  | .cvcopy f t =>
    (pack [⟨4, 0⟩, ⟨1, f.fc⟩, ⟨5, f.sc⟩, ⟨1, f.fb⟩, ⟨5, f.sb⟩, ⟨1, f.fa⟩, ⟨5, f.sa⟩, ⟨3, f.p⟩, ⟨7, 0x6B⟩], encTail t)
  | .wtgt f t =>
    (pack [⟨4, 0⟩, ⟨1, f.fc⟩, ⟨5, f.sc⟩, ⟨1, f.fb⟩, ⟨5, f.sb⟩, ⟨1, f.fa⟩, ⟨5, f.sa⟩, ⟨3, f.p⟩, ⟨7, 0x72⟩], encTail t)
  | .wini f t =>
    (pack [⟨4, 1⟩, ⟨1, f.fc⟩, ⟨5, f.sc⟩, ⟨1, f.fb⟩, ⟨5, f.sb⟩, ⟨1, f.fa⟩, ⟨5, f.sa⟩, ⟨3, f.p⟩, ⟨7, 0x72⟩], encTail t)
  | .wclose f t =>
    (pack [⟨4, 2⟩, ⟨1, f.fc⟩, ⟨5, f.sc⟩, ⟨1, f.fb⟩, ⟨5, f.sb⟩, ⟨1, f.fa⟩, ⟨5, f.sa⟩, ⟨3, f.p⟩, ⟨7, 0x72⟩], encTail t)
  | .put f t =>
    (pack [⟨4, 0⟩, ⟨1, f.fc⟩, ⟨5, f.sc⟩, ⟨1, f.fb⟩, ⟨5, f.sb⟩, ⟨1, f.fa⟩, ⟨5, f.sa⟩, ⟨3, f.p⟩, ⟨7, 0x70⟩], encTail t)
  | .get f t =>
    (pack [⟨4, 1⟩, ⟨1, f.fc⟩, ⟨5, f.sc⟩, ⟨1, f.fb⟩, ⟨5, f.sb⟩, ⟨1, f.fa⟩, ⟨5, f.sa⟩, ⟨3, f.p⟩, ⟨7, 0x70⟩], encTail t)
  | .ramoAdd f t =>
    (pack [⟨4, 0⟩, ⟨1, f.fc⟩, ⟨5, f.sc⟩, ⟨1, f.fb⟩, ⟨5, f.sb⟩, ⟨1, f.fa⟩, ⟨5, f.sa⟩, ⟨3, f.p⟩, ⟨7, 0x71⟩], encTail t)
  | .ramoAnd f t =>
    (pack [⟨4, 1⟩, ⟨1, f.fc⟩, ⟨5, f.sc⟩, ⟨1, f.fb⟩, ⟨5, f.sb⟩, ⟨1, f.fa⟩, ⟨5, f.sa⟩, ⟨3, f.p⟩, ⟨7, 0x71⟩], encTail t)
  | .ramoOr f t =>
    (pack [⟨4, 2⟩, ⟨1, f.fc⟩, ⟨5, f.sc⟩, ⟨1, f.fb⟩, ⟨5, f.sb⟩, ⟨1, f.fa⟩, ⟨5, f.sa⟩, ⟨3, f.p⟩, ⟨7, 0x71⟩], encTail t)
  | .ramoXor f t =>
    (pack [⟨4, 3⟩, ⟨1, f.fc⟩, ⟨5, f.sc⟩, ⟨1, f.fb⟩, ⟨5, f.sb⟩, ⟨1, f.fa⟩, ⟨5, f.sa⟩, ⟨3, f.p⟩, ⟨7, 0x71⟩], encTail t)
  | .ramoMin f t =>
    (pack [⟨4, 4⟩, ⟨1, f.fc⟩, ⟨5, f.sc⟩, ⟨1, f.fb⟩, ⟨5, f.sb⟩, ⟨1, f.fa⟩, ⟨5, f.sa⟩, ⟨3, f.p⟩, ⟨7, 0x71⟩], encTail t)
  | .ramoMax f t =>
    (pack [⟨4, 5⟩, ⟨1, f.fc⟩, ⟨5, f.sc⟩, ⟨1, f.fb⟩, ⟨5, f.sb⟩, ⟨1, f.fa⟩, ⟨5, f.sa⟩, ⟨3, f.p⟩, ⟨7, 0x71⟩], encTail t)
  | .ramoMinu f t =>
    (pack [⟨4, 6⟩, ⟨1, f.fc⟩, ⟨5, f.sc⟩, ⟨1, f.fb⟩, ⟨5, f.sb⟩, ⟨1, f.fa⟩, ⟨5, f.sa⟩, ⟨3, f.p⟩, ⟨7, 0x71⟩], encTail t)
  | .ramoMaxu f t =>
    (pack [⟨4, 7⟩, ⟨1, f.fc⟩, ⟨5, f.sc⟩, ⟨1, f.fb⟩, ⟨5, f.sb⟩, ⟨1, f.fa⟩, ⟨5, f.sa⟩, ⟨3, f.p⟩, ⟨7, 0x71⟩], encTail t)
  | .ramoSwap f t =>
    (pack [⟨4, 8⟩, ⟨1, f.fc⟩, ⟨5, f.sc⟩, ⟨1, f.fb⟩, ⟨5, f.sb⟩, ⟨1, f.fa⟩, ⟨5, f.sa⟩, ⟨3, f.p⟩, ⟨7, 0x71⟩], encTail t)
  | .fchain f t =>
    (pack [⟨4, 0⟩, ⟨1, f.fc⟩, ⟨5, f.sc⟩, ⟨1, f.fb⟩, ⟨5, f.sb⟩, ⟨1, f.fa⟩, ⟨5, f.sa⟩, ⟨3, f.p⟩, ⟨7, 0x73⟩], encTail t)
  | .collSum ty f t =>
    (pack [⟨2, 0⟩, ⟨2, ty⟩, ⟨1, f.fc⟩, ⟨5, f.sc⟩, ⟨1, f.fb⟩, ⟨5, f.sb⟩, ⟨1, f.fa⟩, ⟨5, f.sa⟩, ⟨3, f.p⟩, ⟨7, 0x74⟩], encTail t)
  | .collMin ty f t =>
    (pack [⟨2, 1⟩, ⟨2, ty⟩, ⟨1, f.fc⟩, ⟨5, f.sc⟩, ⟨1, f.fb⟩, ⟨5, f.sb⟩, ⟨1, f.fa⟩, ⟨5, f.sa⟩, ⟨3, f.p⟩, ⟨7, 0x74⟩], encTail t)
  | .collMax ty f t =>
    (pack [⟨2, 2⟩, ⟨2, ty⟩, ⟨1, f.fc⟩, ⟨5, f.sc⟩, ⟨1, f.fb⟩, ⟨5, f.sb⟩, ⟨1, f.fa⟩, ⟨5, f.sa⟩, ⟨3, f.p⟩, ⟨7, 0x74⟩], encTail t)
  | .queueRefill _ _ => (0, 0)
  | .queueWithdrawal _ _ => (0, 0)
  | .chainStep _ => (0, 0)
  | .engineCommandStart _ _ => (0, 0)
  | .engineCommandComplete _ _ => (0, 0)
  | .multicastDestComplete _ _ => (0, 0)
  | .resultArrival _ _ _ => (0, 0)
  | .pageWalk _ _ _ _ => (0, 0)
  | .heatNotificationAppend _ _ => (0, 0)
  | .writerRetry _ _ => (0, 0)
  | .writeBlockTimeout _ _ => (0, 0)
  | .homeSliceOperation _ _ _ => (0, 0)
  | .futureReissue _ _ _ => (0, 0)
  | .futureWithdrawal _ _ _ => (0, 0)
  | .patrolScrub _ => (0, 0)
  | .stepRetire _ => (0, 0)
  | .stopArrival _ => (0, 0)
  | .cutDecision _ => (0, 0)
  | .cutHalt _ => (0, 0)
  | .cutreqWrite _ _ => (0, 0)
  | .trapEntry _ _ => (0, 0)
  | .genprofWrite _ _ _ => (0, 0)
  | .rewindWrite _ _ => (0, 0)
  | .ringRegisterWrite _ _ _ => (0, 0)
  | .hqctlWrite _ _ _ => (0, 0)
  | .heatclrWrite _ _ _ => (0, 0)
  | .launchAccept _ => (0, 0)
  | .stepSelect _ => (0, 0)
  | .coreBind _ => (0, 0)
  | .instanceComplete _ _ => (0, 0)
  | .priorityAgeing _ _ => (0, 0)
  | .priosetWrite _ _ => (0, 0)
  | .priorityPreempt _ => (0, 0)
  | .preemptLanding _ _ => (0, 0)
  | .distributorRestore _ _ => (0, 0)
  | .penctlEnable _ _ => (0, 0)
  | .penctlResume _ _ => (0, 0)
  | .penctlAbandon _ _ => (0, 0)
  | .lqctlWrite _ _ _ => (0, 0)
  | .c3startWrite _ _ => (0, 0)
  | .bcnctlWrite _ => (0, 0)
  | .beacon => (0, 0)
  | .traceDrain _ => (0, 0)
  | .shedPowerGate _ => (0, 0)
  | .traceDrainTimeout _ => (0, 0)
  | .lostRecordWrite _ => (0, 0)
  | .brkctlGo _ _ => (0, 0)
  | .brkctlEnable _ _ => (0, 0)
  | .regWriteLowHalf _ _ _ => (0, 0)
  | .regWriteHighHalf _ _ _ => (0, 0)
  | .registerWrite _ _ _ => (0, 0)
  | .hostWrite _ _ _ => (0, 0)
  | .hostRead _ _ => (0, 0)
  | .hostProcessorWrite _ _ _ => (0, 0)
  | .putArrival _ => (0, 0)
  | .putAckArrival _ => (0, 0)
  | .getRequestArrival _ => (0, 0)
  | .getReplyArrival _ => (0, 0)
  | .remoteAtomicArrival _ => (0, 0)
  | .fabricRefusal _ => (0, 0)
  | .spanningGroupMessage _ => (0, 0)
  | .flitCrcRetry _ => (0, 0)
  | .linkOutOfService _ => (0, 0)
  | .linkRetrain _ => (0, 0)
  | .penConfigure _ => (0, 0)
  | .accessTableWrite _ _ _ _ => (0, 0)
  | .fabidWrite _ => (0, 0)
  | .firmwareVerify => (0, 0)
  | .powerUp => (0, 0)
  | .overTemperature _ => (0, 0)
  | .imageAdmission _ => (0, 0)
  | .hostLinkReset _ => (0, 0)
  | .shedPowerRestore _ => (0, 0)
  | .spanningGroupCompletion _ => (0, 0)

end Sys2Proof
end

