-- ==== Sys2Proof/Machine/Turns.lean ====
section
/-!
DEFINITION. What a turn does before it reaches a meaning (spec 06 R161, R162; spec 09 R212, R221, R227; spec 14 R332; spec 02
R78 to R80): a context fetches, decodes and issues; accesses are performed; time passes; memory fails. `step` only chooses the
turn.
-/
namespace Sys2Proof.Machine

/-- A context may act: the package and its shed have power, and it is a context of the package (DESIGN CHOICE, assumption 74). -/
def State.alive (s : State) (core ctx : Nat) : Bool := s.powered && !(s.shed (shedOf core)).off && decide (core < nCores ∧ ctx < 4)

/-- A context may issue: it has work, and waits on no write-blocked page, no watermark and no restore of its pre-emption. -/
def State.mayIssue (s : State) (core ctx : Nat) : Bool :=
  let c := s.ctx core ctx
  (c.st == .running || c.st == .blocked || (c.st == .held && !s.qHeld core ctx)) && c.landed.isNone && c.wblk.isNone

/-- The word as the repeat that issues it steps it (R227). -/
def Ctx.stepped (c : Ctx) (w : Nat) : Nat := match c.pfx.rep with
  | some r => stepWord w r c.pfx.k
  | none => w

/-- What a context's fetch gives: the words of its instruction, a fault, or nothing yet. -/
inductive Words where
  | ok (w t : Nat) (s : State)
  | busy (s : State)
  | bad (f : Flt) (s : State)
  deriving Repr

/-- The words of the instruction the current context stands at (DEDUCED, assumption 20). A context that stands Blocked or Held has
fetched them; while the second waits for its walk, the first counts no heat yet (R37). -/
def fetchCur (s : State) : Words :=
  let again := s.cur.st != .running
  match s.fetchWord s.curCore s.curCtx s.cur.pc.toNat again with
  | (.bad f, s1) => .bad f s1
  | (.busy, s1) => .busy s1
  | (.word w, s1) =>
    if !twoWords w then .ok w 0 s1
    else match s1.fetchWord s1.curCore s1.curCtx (s1.cur.pc + 4).toNat again with
      | (.bad f, s2) => .bad f s2
      | (.busy, s2) => .busy { s2 with dies := s.dies }
      | (.word t, s2) => .ok w t s2

/-- The context whose turn it is. -/
def State.focus (s : State) (core ctx : Nat) : State := { s with curCore := core, curCtx := ctx }

/-- Time passes: the requests for a stop that came on this tick are served (R338), and a beacon that falls on the new one latches before
anything else (R384). -/
def tickOn (s : State) : State := beacon { s.cutServe with tick := s.tick + 1 }

/-- The next walk takes more than one turn; a walk in flight reads its next entry (R22, R33). -/
def slowWalk (s : State) : State := { s with slow := s.slow + 1 }
def walkStep (n : Nat) (s : State) : State := s.walkRead n

/-- A packet of another package reaches a fabric port (R403) (DESIGN CHOICE, assumption 78). -/
def inject (p : Pkt) (s : State) : State := if s.powered && s.fabricUp then { s with net := s.net ++ [p] } else s

/-- A line of near or far memory fails (R78, R79): corrected and counted, or bad from then on (DESIGN CHOICE, assumption 59). -/
def softError (line : Nat) (correctable : Bool) (s : State) : State :=
  if !correctable then (if s.bad.contains line then s else { s with bad := s.bad ++ [line] })
  else match tierOf (64 * line) with
    | .near d => s.setDie d { s.die d with cnt := bump (s.die d).cnt 162 }
    | .far d => s.setDie d { s.die d with cnt := bump (s.die d).cnt 163 }
    | _ => s

/-- An error in an on-chip array is corrected and counted, by the word of its structure: 160 or 161 (R78, R389). -/
def corrected (die word : Nat) (s : State) : State :=
  if die < 9 ∧ (word = 160 ∨ word = 161) then s.setDie die { s.die die with cnt := bump (s.die die).cnt word } else s

/-- A context meets an uncorrectable error in what it reads (R79): a machine check is pending for it (DEDUCED, assumption 73). -/
def machineCheck (core ctx : Nat) (s : State) : State :=
  if s.alive core ctx then
    let w := s.whoCtx core ctx (s.ctx core ctx).group.toNat
    s.pendTrap core ctx { cls := 0x32, cmdaddr := w.cmdaddr, inst := w.inst, spaceid := (s.ctx core ctx).spaceid.toNat }
  else s

/-- Futures deferred at a slice, oldest first: core, context, stamp. -/
def State.deferredAt (s : State) (die slice : Nat) : List (Nat × Nat × Nat) :=
  sortBy (fun a b => decide (a.2.2 ≤ b.2.2)) ((s.cores.map Prod.fst).flatMap (fun core => [0, 1, 2, 3].flatMap (fun x =>
    ((s.ctx core x).pend.filter (fun p => p.phase == 2 && p.segs.any (fun g => homeDie g.1 == die && sliceOf g.1 == slice))).map
      (fun p => (core, x, p.wait)))))

/-- The role contexts of a core that have work of an instance. -/
def State.workOf (s : State) (core inst : Nat) : List (Nat × Nat) :=
  if (s.core core).bind.any (fun b => b.inst == inst) then ([0, 1, 2].filter (fun x => (s.ctx core x).st != .idle)).map (fun x => (core, x))
  else []

/-- The contexts that have work held in an entry of a shadow store, a deferral table or a queue (R79): the role contexts of the entry's
core while its instance is bound there; the one whose future load the deferral is; the one that pushed the record, while it runs the
instance that it pushed it for (DEDUCED, assumption 88). -/
def State.workIn (s : State) (what a n : Nat) : List (Nat × Nat) := match what with
  | 0 => (match (s.core a).shadow[n]? with
    | some e => s.workOf a e.inst
    | none => [])
  | 1 => (((s.deferredAt a (n % 32))[n / 32]?).map (fun d => (d.1, d.2.1))).toList
  | _ => (match ((s.shed a).queue (n % 16)).by_[n / 16]? with
    | some (core, x, inst) => if x = 3 then [(core, x)] else (s.workOf core inst).filter (fun p => p.2 == x)
    | none => [])

/-- An entry is bad: a machine check is pending for every context with work in it (R79). -/
def badEntry (what a n : Nat) (s : State) : State := (s.workIn what a n).foldl (fun s p => machineCheck p.1 p.2 s) s

/-- Memory with a code page at 0x1_5000 and the tables that map it for system state: five levels from 0x1_0000 on. -/
def codeMem (m : Mem) (w t : Nat) : Mem :=
  let m := writeLE m 0x10000 8 (0x11000 + 1)
  let m := writeLE m 0x11000 8 (0x12000 + 1)
  let m := writeLE m 0x12000 8 (0x13000 + 1)
  let m := writeLE m 0x13000 8 (0x14000 + 1)
  let m := writeLE m (0x14000 + 8 * 0x15) 8 (0x15000 + 0x8F + 2 ^ 56)
  writeLE (writeLE m 0x15000 4 w) 0x15004 4 t

/-- c3 of core 0 as it stands Running in system state at 0x1_5000. -/
def Ctx.ready (c : Ctx) : Ctx :=
  { c with st := .running, why := .none, sys := true, pc := 0x15000, wb0 := 0x10000, pfx := {}, traps := [], req := none, asked := none, wblk := none,
           landed := none, pend := [], atIter := false }

end Sys2Proof.Machine
end

