-- ==== Sys2Proof/Machine/Step.lean ====
section
/-!
DEFINITION. One step of the package: the next turn of the agenda, or a free one (DESIGN CHOICE, assumption 3), is taken.
-/
namespace Sys2Proof.Machine

/-- The current context runs the instruction that its words are. -/
noncomputable def runWords (w t : Nat) (s : State) : Host.Outcome State Fault Refusal :=
  match decode (s.cur.stepped w) t with
  | none => .next (trapCur 0x20 s)
  | some i => exec i s

/-- The current context fetches and issues. An instruction that it waits at, and that has asked for something, has been fetched: it goes
on, and is not fetched again (R273, R275, R279). -/
noncomputable def issueCur (s : State) : Host.Outcome State Fault Refusal :=
  match s.cur.req, s.cur.asked with
  | some _, some i => exec i s
  | _, _ => match fetchCur s with
    | .bad f s1 => .next (trapFetch f s1)
    | .busy s1 => .next s1
    | .ok w t s1 => runWords w t s1

/-- What comes before a context's next instruction: a trap that waits for its boundary (R332), then the landing of a pre-emption, at
the first point where it may land (R344). -/
def State.before (s : State) (core ctx : Nat) : Option State := match s.takePending core ctx with
  | some s1 => some (s1.modCtx core ctx (fun c => { c with landed := none }))
  | none => s.landed? core ctx

/-- A context's turn: what comes before its instruction, then its instruction. -/
noncomputable def issue (core ctx : Nat) (s : State) : Host.Outcome State Fault Refusal :=
  if !s.alive core ctx then .next s
  else match (s.focus core ctx).before core ctx with
    | some s1 => .next s1
    | none => if s.mayIssue core ctx then issueCur (s.focus core ctx) else .next s

/-- What a turn does to a package that has power. -/
noncomputable def turnOn (t : Turn) (s : State) : Host.Outcome State Fault Refusal :=
  match t with
  | .issue core ctx => issue core ctx s
  | .perform core ctx seq => .next (perform core ctx seq s)
  | .part core eng n => .next (enginePart core eng n s)
  | .unit pkt n => .next (arrivalUnit pkt n s)
  | .serve num => .next (serveDword num s)
  | .event i => exec i s
  | .slowWalk => .next (slowWalk s)
  | .walkStep n => .next (walkStep n s)
  | .tick => .next (tickOn s)
  | .inject p => .next (inject p s)
  | .softError line c => .next (softError line c s)
  | .machineCheck core ctx => .next (machineCheck core ctx s)
  | .corrected die word => .next (corrected die word s)
  | .badEntry what a n => .next (badEntry what a n s)

/-- What a turn does. Without power nothing happens but that it comes up (R407). -/
noncomputable def turn (t : Turn) (s : State) : Host.Outcome State Fault Refusal :=
  if s.powered then turnOn t s
  else match t with
    | .event .powerUp => exec .powerUp s
    | _ => .next s

/-- A free turn is one that comes about by itself: any but an instruction that no context has fetched. -/
def Turn.mayCome (t : Turn) : Bool := match t with
  | .event i => spontaneous i
  | _ => true

/-- One step. -/
noncomputable def step (s : State) : Host.Outcome State Fault Refusal :=
  match s.agenda with
  | t :: rest => turn t { s with agenda := rest }
  | [] =>
    let t := Config.freeTurn s.turns
    let s1 := { s with turns := s.turns + 1 }
    if t.mayCome then turn t s1 else .next s1

/-- The state with an instruction where the next step fetches one: c3 of core 0, Running, with its turn next; memory, tables and the
access table let it fetch there (DESIGN CHOICE, assumption 4). -/
def State.withFetchWord (s : State) (_nbits w : Nat) : State :=
  let s1 := { s with mem := codeMem s.mem (w % 2 ^ 32) (w / 2 ^ 32 % 2 ^ 32), ranges := ⟨0, 0, 0, 0, 0x20000, true⟩ :: s.ranges, tlb := [],
                     walks := [], slow := 0, bad := [], powered := true, agenda := [.issue 0 3],
                     pens := s.pens.map (fun (p : Nat × Pen) => (p.1, { p.2 with rejected := [] })) }
  (s1.setShed 0 { s1.shed 0 with off := false }).modCtx 0 3 Ctx.ready

end Sys2Proof.Machine
end

