-- ==== Sys2Proof/Safety.lean ====
section
/-!
DEFINITION. What the claims say of a run: which outcomes count as going on, and the invariants that claims use.
-/
namespace Sys2Proof.Machine

/-- The machine goes on. -/
def goesOn (o : Host.Outcome State Fault Refusal) : Bool := match o with
  | .next _ => true
  | _ => false

/-- Package memory keeps its one canonical form: equal memories are equal data. -/
def State.MemOk (s : State) : Prop := Memory.wf s.mem = true

/-- So do the scratchpads and lane slices of the cores, the shared memories of the sheds and the scratchpads of the dies. -/
def State.LocalOk (s : State) : Prop :=
  (∀ j, Memory.wf (s.core j).sp = true ∧ Memory.wf (s.core j).lanes = true) ∧ (∀ j, Memory.wf (s.shed j).mem = true) ∧ ∀ j, Memory.wf (s.die j).csp = true

/-- A step is safe: it goes on, to a state whose memory has its canonical form. -/
def safeStep (s : State) : Prop := ∃ t, step s = .next t ∧ t.MemOk

end Sys2Proof.Machine
end

