-- ==== Sys2Proof/Certificates/Slice0/Obligations.lean ====
section
/-!
DEFINITION. The statements. Each is a rule of the spec, or what follows from some, said of `exec`, `step`, the decoder or a
shared operation for every state and operands that its hypotheses allow. The definitions under `Sys2Proof.Claims` say once
what recurs: when an instruction is ready to have its effect, what it leaves alone, where it goes on.
-/
namespace Sys2Proof.Claims
open Sys2Proof Sys2Proof.Machine

/-- Nothing keeps an instruction from its effect: its encoding and prefixes are legal (R230, R218, R227), its predicate is full
and true (R92, R213), its privilege suffices (R327), every register it reads or writes is full (R92, R93). -/
def Ready (n : Need) (c : Ctx) : Prop :=
  n.undef = false ∧ c.pfx.legal n = true ∧ c.fullP n.p = true ∧ c.rdP n.p = true ∧ (n.sys = true → c.sys = true) ∧
    (∀ r ∈ n.src, c.full r.1 = true) ∧ (∀ r ∈ n.psrc, r.1 < 8 → c.fullP r.1 = true) ∧
    (∀ r ∈ n.dst, c.full r = true) ∧ ∀ r ∈ n.pdst, c.fullP r = true

/-- Nothing of the package changes but its cores; and no byte of memory reads otherwise. -/
def OnlyCores (s t : State) : Prop :=
  { t with cores := [] } = { s with cores := [] } ∧ ∀ a, byteAt t.mem a = byteAt s.mem a

/-- Every context but the one whose turn it is stays as it was. -/
def OtherCtxs (s t : State) : Prop := ∀ j y, ¬(j = s.curCore ∧ y = s.curCtx) → t.ctx j y = s.ctx j y

/-- Nothing of the package changes but the context whose turn it is: memory, every other context, every gate, counter, ring and
scratchpad of every core stay as they were. -/
def OnlyCur (s t : State) : Prop :=
  OnlyCores s t ∧ (∀ j, { t.core j with ctxs := [] } = { s.core j with ctxs := [] }) ∧ OtherCtxs s t

/-- Nothing of the package changes but one core, and of that core's contexts only the one whose turn it is. -/
def OnlyCurCore (s t : State) : Prop :=
  OnlyCores s t ∧ (∀ j, j ≠ s.curCore → t.core j = s.core j) ∧ OtherCtxs s t

/-- A context without what going on to the next word changes: pc, state, loop slots, prefixes and waits. -/
def rest (c : Ctx) : Ctx := { c with pc := 0, st := .idle, req := none, wblk := none, pfx := {}, hl0 := {}, hl1 := {} }

/-- A context goes on past an instruction of w words: outside a repeat and outside an active loop, at the word after it, with the
loop slots as they were and no prefix before it. -/
def GoesOn (w : Nat) (c d : Ctx) : Prop :=
  d.st = .running ∧ d.req = none ∧ d.wblk = none ∧
    (c.pfx.rep = none → c.hl0.active = false → c.hl1.active = false →
      d.pc = c.pc + BitVec.ofNat 64 (4 * w) ∧ d.hl0 = c.hl0 ∧ d.hl1 = c.hl1 ∧ d.pfx = {})

/-- The instruction of the current context wrote one scalar register and nothing else; s0 keeps reading zero (R235). -/
def WritesS (n : Nat) (v : Dword) (s t : State) : Prop :=
  OnlyCur s t ∧ GoesOn 1 s.cur t.cur ∧ rest { t.cur with s := [] } = rest { s.cur with s := [] } ∧
    ∀ m, t.cur.rd m = if m = n ∧ n ≠ 0 then v else s.cur.rd m

/-- It wrote one predicate and nothing else; p0 stays true (R213, R235). -/
def WritesP (n : Nat) (v : Bool) (s t : State) : Prop :=
  OnlyCur s t ∧ GoesOn 1 s.cur t.cur ∧ rest { t.cur with p := [] } = rest { s.cur with p := [] } ∧
    ∀ m, t.cur.rdP m = if m = n ∧ n ≠ 0 then v else s.cur.rdP m

/-- Trunc, and the quotient of Floor, are Lean's `Int.tdiv` and `/`. The register operations of R237 with the divisions by zero
of R238. -/
noncomputable def rOps : List ((FR → Instr) × (Dword → Dword → Dword)) := [
  (.add, fun a b => BitVec.ofNat 64 (a.toNat + b.toNat)),
  (.sub, fun a b => BitVec.ofInt 64 ((a.toNat : Int) - b.toNat)),
  (.mul, fun a b => BitVec.ofInt 64 (a.toInt * b.toInt)),
  (.mulh, fun a b => BitVec.ofInt 64 (a.toInt * b.toInt / 2 ^ 64)),
  (.mulhu, fun a b => BitVec.ofNat 64 (a.toNat * b.toNat / 2 ^ 64)),
  (.div, fun a b => if b = 0 then BitVec.ofNat 64 0xFFFFFFFFFFFFFFFF else BitVec.ofInt 64 (Int.tdiv a.toInt b.toInt)),
  (.divu, fun a b => if b = 0 then BitVec.ofNat 64 0xFFFFFFFFFFFFFFFF else BitVec.ofNat 64 (a.toNat / b.toNat)),
  (.rem, fun a b => if b = 0 then a else BitVec.ofInt 64 (a.toInt - b.toInt * Int.tdiv a.toInt b.toInt)),
  (.remu, fun a b => if b = 0 then a else BitVec.ofNat 64 (a.toNat - b.toNat * (a.toNat / b.toNat))),
  (.and, fun a b => a &&& b),
  (.or, fun a b => a ||| b),
  (.xor, fun a b => a ^^^ b),
  (.andn, fun a b => a &&& ~~~b),
  (.shl, fun a b => BitVec.ofNat 64 (a.toNat * 2 ^ (b.toNat % 64))),
  (.shr, fun a b => BitVec.ofNat 64 (a.toNat / 2 ^ (b.toNat % 64))),
  (.sra, fun a b => BitVec.ofInt 64 (a.toInt / 2 ^ (b.toNat % 64))),
  (.rotr, fun a b => (a >>> (b.toNat % 64)) ||| (a <<< ((64 - b.toNat % 64) % 64))),
  (.min, fun a b => if a.toInt ≤ b.toInt then a else b),
  (.max, fun a b => if a.toInt ≤ b.toInt then b else a),
  (.minu, fun a b => if a.toNat ≤ b.toNat then a else b),
  (.maxu, fun a b => if a.toNat ≤ b.toNat then b else a)]

/-- The saturating operations of R237: the exact sum or difference, and the range it is clamped into. -/
noncomputable def satOps : List ((FR → Instr) × (Dword → Dword → Int) × Int × Int) := [
  (.adds, fun a b => a.toInt + b.toInt, -2 ^ 63, 2 ^ 63 - 1),
  (.subs, fun a b => a.toInt - b.toInt, -2 ^ 63, 2 ^ 63 - 1),
  (.addsu, fun a b => (a.toNat : Int) + b.toNat, 0, 2 ^ 64 - 1),
  (.subsu, fun a b => (a.toNat : Int) - b.toNat, 0, 2 ^ 64 - 1)]

/-- The immediate operations of R239. -/
noncomputable def iOps : List ((FI → Instr) × (Dword → Dword → Dword)) := [
  (.addImm, fun a b => BitVec.ofNat 64 (a.toNat + b.toNat)),
  (.mulImm, fun a b => BitVec.ofInt 64 (a.toInt * b.toInt)),
  (.andImm, fun a b => a &&& b),
  (.orImm, fun a b => a ||| b),
  (.xorImm, fun a b => a ^^^ b)]

/-- The immediate shifts of R240. -/
noncomputable def shOps : List ((FSh → Instr) × (Dword → Nat → Dword)) := [
  (.shlImm, fun a n => BitVec.ofNat 64 (a.toNat * 2 ^ n)),
  (.shrImm, fun a n => BitVec.ofNat 64 (a.toNat / 2 ^ n)),
  (.sraImm, fun a n => BitVec.ofInt 64 (a.toInt / 2 ^ n)),
  (.rotrImm, fun a n => (a >>> n) ||| (a <<< ((64 - n) % 64)))]

/-- The conditions of R242. -/
def condOf (cc : Nat) (a b : Dword) : Bool :=
  if cc = 0 then decide (a = b) else if cc = 1 then decide (a ≠ b)
  else if cc = 2 then decide (a.toInt < b.toInt) else if cc = 3 then decide (a.toInt ≥ b.toInt)
  else if cc = 4 then decide (a.toNat < b.toNat) else if cc = 5 then decide (a.toNat ≥ b.toNat)
  else if cc = 6 then decide (a &&& b ≠ 0) else decide (a &&& b = 0)

/-- Predicate logic of R243. -/
noncomputable def pOps : List ((FP → Instr) × (Bool → Bool → Bool)) := [
  (.pand, fun a b => a && b), (.por, fun a b => a || b), (.pxor, fun a b => a ^^ b), (.pandn, fun a b => a && !b),
  (.pnor, fun a b => !(a || b)), (.pnand, fun a b => !(a && b))]

/-- The bits of a register, lowest first. -/
def bitsOf (a : Dword) : List Bool := (List.range 64).map a.getLsbD

/-- The bit counts of R246, each as what the result's bits or value are. -/
noncomputable def uOps : List ((FU → Instr) × (Dword → Dword → Prop)) := [
  (.popc, fun a r => r.toNat = (bitsOf a).countP id),
  (.clz, fun a r => r.toNat ≤ 64 ∧ (∀ j, 64 - r.toNat ≤ j → j < 64 → a.getLsbD j = false) ∧ (r.toNat < 64 → a.getLsbD (63 - r.toNat) = true)),
  (.ctz, fun a r => r.toNat ≤ 64 ∧ (∀ j, j < r.toNat → a.getLsbD j = false) ∧ (r.toNat < 64 → a.getLsbD r.toNat = true)),
  (.brev, fun a r => ∀ j, j < 64 → r.getLsbD (63 - j) = a.getLsbD j),
  (.bswap, fun a r => ∀ j i, j < 8 → i < 8 → r.getLsbD (8 * (7 - j) + i) = a.getLsbD (8 * j + i))]

/-- The need of a walker read. -/
def walkNeed (p : BitVec 3) (d : BitVec 5) : Need := { p := p.toNat, rep := some (true, true, true, false), dst := [d.toNat] }

end Sys2Proof.Claims

open Sys2Proof Sys2Proof.Machine Sys2Proof.Claims

/-! ### Scalar arithmetic (spec 10) -/

/-- R237, R238: what each register operation writes to sd, and that it changes nothing else.
R237, R199, R204: the saturating operations clamp the exact value, and set SAT (bit 4 of AFLAGS) when that changes it. A word of the
major with an FN from 25 on is the undefined-instruction trap; the all-zero word is `add s0, s0, s0`. -/
def Obligations.RegisterOperations : Prop :=
  (∀ o ∈ rOps, ∀ (f : FR) (s : State), Ready f.need s.cur →
     ∃ t, exec (o.1 f) s = .next t ∧ WritesS f.d.toNat (o.2 (s.cur.rd f.a.toNat) (s.cur.rd f.b.toNat)) s t) ∧
  (∀ o ∈ satOps, ∀ (f : FR) (s : State), Ready f.need s.cur →
     let x := o.2.1 (s.cur.rd f.a.toNat) (s.cur.rd f.b.toNat)
     let y := max o.2.2.1 (min x o.2.2.2)
     ∃ t, exec (o.1 f) s = .next t ∧ OnlyCur s t ∧ GoesOn 1 s.cur t.cur ∧
       rest { t.cur with s := [], aflags := 0 } = rest { s.cur with s := [], aflags := 0 } ∧
       (∀ m, t.cur.rd m = if m = f.d.toNat ∧ f.d.toNat ≠ 0 then BitVec.ofInt 64 y else s.cur.rd m) ∧
       t.cur.aflags = s.cur.aflags ||| (if y = x then 0 else 0x10)) ∧
  (∀ (w : Nat) (s : State), fld (s.cur.stepped w) 25 7 = 0 → 25 ≤ fld (s.cur.stepped w) 0 5 → runWords w 0 s = .next (trapCur 0x20 s)) ∧
  decode 0 0 = some (.add ⟨0, 0, 0, 0, 0, 0⟩)

/-- R239, R240, R217: the immediate forms compute with the sign-extended immediate, widened by the prefixes; the shifts with the
amount of the word. A reserved bit of a shift's immediate, or of what a prefix adds to it, is the undefined-instruction trap. -/
def Obligations.ImmediateOperations : Prop :=
  (∀ o ∈ iOps, ∀ (f : FI) (s : State), Ready f.need s.cur →
    ∃ t, exec (o.1 f) s = .next t ∧
      WritesS f.d.toNat (o.2 (s.cur.rd f.a.toNat) (BitVec.ofInt 64 (immS 11 f.imm.toNat s.cur.pfx.xims))) s t) ∧
  (∀ o ∈ shOps, ∀ (f : FSh) (s : State), Ready (f.need false) s.cur → (∀ x ∈ s.cur.pfx.xims, x = 0) →
    ∃ t, exec (o.1 f) s = .next t ∧ WritesS f.d.toNat (o.2 (s.cur.rd f.a.toNat) f.amt.toNat) s t) ∧
  (∀ o ∈ shOps, ∀ (f : FSh) (s : State), (∃ x ∈ s.cur.pfx.xims, x ≠ 0) → exec (o.1 f) s = .next (trapCur 0x20 s)) ∧
  (∀ (w : Nat) (s : State), fld (s.cur.stepped w) 25 7 = 6 → fld (s.cur.stepped w) 8 3 ≠ 0 → runWords w 0 s = .next (trapCur 0x20 s))

/-- R242, R243: the compares and the predicate logic write pd, and nothing else; a compare whose predicate is false only falls through;
a `pmov` or `pnot` with a second source is the undefined-instruction trap. -/
def Obligations.ComparesAndPredicates : Prop :=
  (∀ (f : FC) (s : State), Ready f.need s.cur →
    ∃ t, exec (.cmp f) s = .next t ∧ WritesP f.pd.toNat (condOf f.cc.toNat (s.cur.rd f.a.toNat) (s.cur.rd f.b.toNat)) s t) ∧
  (∀ (f : FCI) (s : State), Ready f.need s.cur →
    ∃ t, exec (.cmpImm f) s = .next t ∧
      WritesP f.pd.toNat (condOf f.cc.toNat (s.cur.rd f.a.toNat) (BitVec.ofInt 64 (immS 10 f.imm.toNat s.cur.pfx.xims))) s t) ∧
  (∀ o ∈ pOps, ∀ (f : FP) (s : State), Ready f.need s.cur →
    ∃ t, exec (o.1 f) s = .next t ∧ WritesP f.pd.toNat (o.2 (s.cur.rdPQ f.pa.toNat) (s.cur.rdPQ f.pb.toNat)) s t) ∧
  (∀ (f : FP1) (s : State), Ready f.need s.cur →
    (∃ t, exec (.pmov f) s = .next t ∧ WritesP f.pd.toNat (s.cur.rdPQ f.pa.toNat) s t) ∧
    ∃ t, exec (.pnot f) s = .next t ∧ WritesP f.pd.toNat (!s.cur.rdPQ f.pa.toNat) s t) ∧
  (∀ (f : FC) (s : State), s.cur.pfx.legal f.need = true → s.cur.fullP f.p.toNat = true → s.cur.rdP f.p.toNat = false →
    ∃ t, exec (.cmp f) s = .next t ∧ OnlyCur s t ∧ t.cur = s.cur.fall 1) ∧
  (∀ (f : FCI) (s : State), s.cur.pfx.legal f.need = true → s.cur.fullP f.p.toNat = true → s.cur.rdP f.p.toNat = false →
    ∃ t, exec (.cmpImm f) s = .next t ∧ OnlyCur s t ∧ t.cur = s.cur.fall 1) ∧
  (∀ (w : Nat) (s : State), fld (s.cur.stepped w) 25 7 = 0x0A → 6 ≤ fld (s.cur.stepped w) 6 3 → fld (s.cur.stepped w) 9 5 ≠ 0 →
    runWords w 0 s = .next (trapCur 0x20 s))

/-- R244, R245: extract and insert, for every value V that the immediate and its prefixes give without a trap; the undefined-instruction
trap for the others. R246: the bit counts, and the words of their major that are none. -/
def Obligations.BitFieldsAndCounts : Prop :=
  (∀ (f : FI) (s : State), Ready f.need s.cur →
     let v := immCat 11 f.imm.toNat s.cur.pfx.xims
     let pos := v % 64
     let l := v / 64 % 64 + 1
     let a := s.cur.rd f.a.toNat
     pos + l ≤ 64 → v < 2 ^ 13 →
       (let x := a.toNat / 2 ^ pos % 2 ^ l
        ∃ t, exec (.extract f) s = .next t ∧
         WritesS f.d.toNat (BitVec.ofInt 64 (if v / 2 ^ 12 % 2 = 1 ∧ 2 ^ (l - 1) ≤ x then (x : Int) - 2 ^ l else x)) s t) ∧
       (v < 2 ^ 12 → ∃ t, exec (.insert f) s = .next t ∧
         WritesS f.d.toNat ((s.cur.rd f.d.toNat &&& ~~~(BitVec.ofNat 64 ((2 ^ l - 1) * 2 ^ pos))) ||| BitVec.ofNat 64 (a.toNat % 2 ^ l * 2 ^ pos)) s t)) ∧
  (∀ (f : FI) (s : State),
     let v := immCat 11 f.imm.toNat s.cur.pfx.xims
     let l := v / 64 % 64 + 1
     (64 < v % 64 + l ∨ 2 ^ 13 ≤ v → exec (.extract f) s = .next (trapCur 0x20 s)) ∧
     (64 < v % 64 + l ∨ 2 ^ 12 ≤ v → exec (.insert f) s = .next (trapCur 0x20 s))) ∧
  (∀ o ∈ uOps, ∀ (f : FU) (s : State), Ready f.need s.cur →
     ∃ t r, exec (o.1 f) s = .next t ∧ WritesS f.d.toNat r s t ∧ o.2 (s.cur.rd f.a.toNat) r) ∧
  (∀ (w : Nat) (s : State), fld (s.cur.stepped w) 25 7 = 0x0D → 5 ≤ fld (s.cur.stepped w) 0 5 ∨ fld (s.cur.stepped w) 5 6 ≠ 0 →
     runWords w 0 s = .next (trapCur 0x20 s))

/-! ### Control flow, loops and prefixes (spec 09, 10) -/

namespace Sys2Proof.Claims
open Sys2Proof Sys2Proof.Machine

/-- The current context transferred control: of its registers only s23 may have changed (the link), to `link` where there is one. -/
def Transfers (pc : Dword) (link : Option Dword) (s t : State) : Prop :=
  t.cur.pc = pc ∧ t.cur.st = .running ∧ t.cur.pfx = {} ∧ t.cur.hl0 = s.cur.hl0 ∧ t.cur.hl1 = s.cur.hl1 ∧
    rest { t.cur with s := [] } = rest { s.cur with s := [] } ∧
    ∀ m, t.cur.rd m = if m = 23 then link.getD (s.cur.rd 23) else s.cur.rd m

/-- The loop slots after the turn-back examined at the word at e, and where execution goes (R252). -/
def turnBack (h0 h1 : HLoop) (e next : Dword) : HLoop × HLoop × Dword :=
  let at0 := h0.active = true ∧ h0.last = e
  let at1 := h1.active = true ∧ h1.last = e
  let cleared (h : HLoop) : HLoop := { h with count := 0, active := false }
  if at1 ∧ 1 < h1.count.toNat then (h0, { h1 with count := h1.count - 1 }, h1.start)
  else
    let i := if at1 then cleared h1 else h1
    if at0 ∧ 1 < h0.count.toNat then ({ h0 with count := h0.count - 1 }, i, h0.start)
    else if at0 then (if i.active = true then (i, {}, next) else (cleared h0, i, next))
    else (h0, i, next)

end Sys2Proof.Claims

/-- R247: a direct branch and a direct call.
R248, R174: an indirect transfer whose target is an aligned `spt`; the read of the target word may set ACCESSED bits and cache
translations, and does nothing else. While its page walk is under way the context waits. A target word of another major, or a
misaligned target, is the bad-target trap. Where the spec leaves it open, the model's choice: that a repeated `jmp` or `callr` that
transfers control gives up the repeats left (assumption 113). -/
def Obligations.ControlTransfers : Prop :=
  (∀ (f : FB) (s : State),
     let target := s.cur.pc + BitVec.ofInt 64 (4 * immS 22 f.off.toNat s.cur.pfx.xims)
     (Ready { p := f.p.toNat, xim := 1 } s.cur → ∃ t, exec (.br f) s = .next t ∧ OnlyCur s t ∧ Transfers target none s t) ∧
     (Ready { p := f.p.toNat, xim := 1, dst := [23] } s.cur →
       ∃ t, exec (.call f) s = .next t ∧ OnlyCur s t ∧ Transfers target (some (s.cur.pc + 4)) s t)) ∧
  (∀ (f : FJ) (s : State),
     let a := s.cur.rd f.a.toNat
     let need : Need := { p := f.p.toNat, rep := some (true, true, true, false), src := [(f.a.toNat, f.fa == 1)] }
     (∀ w s1, s.fetchWord s.curCore s.curCtx a.toNat = (.word w, s1) → a.toNat % 4 = 0 → field w 25 7 = 0x17 →
       (Ready need s.cur → ∃ t, exec (.jmp f) s = .next t ∧ OnlyCur s1 t ∧ Transfers a none s t) ∧
       (Ready { need with dst := [23] } s.cur → ∃ t, exec (.callr f) s = .next t ∧ OnlyCur s1 t ∧ Transfers a (some (s.cur.pc + 4)) s t)) ∧
     (∀ s1, s.fetchWord s.curCore s.curCtx a.toNat = (.busy, s1) → a.toNat % 4 = 0 →
       (Ready need s.cur → exec (.jmp f) s = .next (blockCur s1)) ∧
       (Ready { need with dst := [23] } s.cur → exec (.callr f) s = .next (blockCur s1))) ∧
     (a.toNat % 4 ≠ 0 →
       (Ready need s.cur → exec (.jmp f) s = .next (trapCur 0x2C s)) ∧ (Ready { need with dst := [23] } s.cur → exec (.callr f) s = .next (trapCur 0x2C s))) ∧
     (∀ w s1, s.fetchWord s.curCore s.curCtx a.toNat = (.word w, s1) → a.toNat % 4 = 0 → field w 25 7 ≠ 0x17 →
       (Ready need s.cur → exec (.jmp f) s = .next (trapCur 0x2C s1)) ∧ (Ready { need with dst := [23] } s.cur → exec (.callr f) s = .next (trapCur 0x2C s1))))

/-- R251, R253: `loop` sets up the free slot, skips its body for a count of zero, and traps when both slots are active; `lend` ends
the inner active loop. -/
def Obligations.HardwareLoops : Prop :=
  (∀ (f : FLoop) (s : State), f.len ≠ 0 → Ready { p := f.p.toNat, src := [(f.a.toNat, f.fa == 1)] } s.cur →
    let c := s.cur
    let n := c.rd f.a.toNat
    let l : HLoop := ⟨n, c.pc + BitVec.ofNat 64 (4 * f.len.toNat), c.pc + 4, true⟩
    (n = 0 → ∃ t, exec (.loop f) s = .next t ∧ OnlyCur s t ∧ Transfers (c.pc + 4 + BitVec.ofNat 64 (4 * f.len.toNat)) none s t) ∧
    (n ≠ 0 → c.hl1.active = true → exec (.loop f) s = .next (trapCur 0x27 s)) ∧
    (n ≠ 0 → c.hl1.active = false → ∃ t, exec (.loop f) s = .next t ∧ OnlyCur s t ∧
      t.cur = ((if c.hl0.active = true then { c with hl1 := l } else { c with hl0 := l } : Ctx).fall 1))) ∧
  (∀ (f : FLoop) (s : State), f.len ≠ 0 → s.cur.pfx = {} → s.cur.fullP f.p.toNat = true → s.cur.rdP f.p.toNat = false →
    ∃ t, exec (.loop f) s = .next t ∧ OnlyCur s t ∧ t.cur = s.cur.fall 1) ∧
  (∀ (f : FN0) (s : State), Ready { p := f.p.toNat } s.cur →
    let c := s.cur
    ∃ t, exec (.lend f) s = .next t ∧ OnlyCur s t ∧
      t.cur = ((if c.hl1.active = true then { c with hl1 := { c.hl1 with count := 0, active := false } }
        else if c.hl0.active = true then { c with hl0 := { c.hl0 with count := 0, active := false } } else c : Ctx).fall 1))

/-- R252, R227: where an instruction falls through. Within a repeat the context stays at the instruction with the next index; after
the last repeat, and without one, the loop slots are examined innermost first. Where the spec leaves it open, the model's choice: that the
word examined is the instruction's last one, and no prefix and no first word of two (assumption 112). -/
def Obligations.FallingThrough : Prop :=
  ∀ (c : Ctx) (w : Nat),
    (∀ r, c.pfx.rep = some r → c.pfx.k < r.cnt.toNat →
      (c.fall w).pc = c.pc ∧ (c.fall w).pfx = { c.pfx with k := c.pfx.k + 1 } ∧ (c.fall w).hl0 = c.hl0 ∧ (c.fall w).hl1 = c.hl1) ∧
    ((∀ r, c.pfx.rep = some r → r.cnt.toNat ≤ c.pfx.k) →
      (c.fall w).pfx = {} ∧
      ((c.fall w).hl0, (c.fall w).hl1, (c.fall w).pc) =
        turnBack c.hl0 c.hl1 (c.pc + BitVec.ofNat 64 (4 * (w - 1))) (c.pc + BitVec.ofNat 64 (4 * w))) ∧
    rest (c.fall w) = rest c ∧ (c.fall w).st = .running

/-- R217, R226, R342: `rep` and `xim` take effect on the instruction after them only; `spt` changes no state of the context.
R226, R227: the word that repeat k of a format R instruction issues: D, A and B are stepped modulo 32, every other bit stays.
Where the spec leaves it open, the model's choice: that a prefix is a turn of its own, which leaves the context at the next word with
the prefix held (assumption 5), and that the trap of a third `xim` reports the first prefix (assumption 115). -/
def Obligations.PrefixesAndSafePoint : Prop :=
  ((∀ (f : FRep) (s : State), s.cur.pfx.active = false →
     ∃ t, exec (.rep f) s = .next t ∧ OnlyCur s t ∧
       t.cur = { s.cur with st := .running, pc := s.cur.pc + 4, pfx := ⟨true, s.cur.pc, [], some f, s.cur.pfx.k⟩ }) ∧
   (∀ (f : FXim) (s : State), s.cur.pfx.xims.length < 2 →
     ∃ t, exec (.xim f) s = .next t ∧ OnlyCur s t ∧
       t.cur = { s.cur with st := .running, pc := s.cur.pc + 4,
                            pfx := { s.cur.pfx with active := true, start := if s.cur.pfx.active = true then s.cur.pfx.start else s.cur.pc,
                                                    xims := s.cur.pfx.xims ++ [f.x] } }) ∧
   (∀ (f : FXim) (s : State), 2 ≤ s.cur.pfx.xims.length → exec (.xim f) s = .next (trapCur 0x20 s)) ∧
   (∀ (f : FSpt) (s : State), f.ord ≠ 0xFFFF → Ready { p := 0 } s.cur →
     ∃ t, exec (.spt f) s = .next t ∧ OtherCtxs s t ∧ t.cur = s.cur.fall 1 ∧ ∀ a, byteAt t.mem a = byteAt s.mem a)) ∧
  (∀ (w k : Nat) (r : FRep), w < 2 ^ 32 → field w 25 7 = 0 →
     let step (c : BitVec 2) : Nat := if c = 3 then 4 else c.toNat
     let x := stepWord w r k
     field x 17 5 = (field w 17 5 + k * step r.st1) % 32 ∧ field x 12 5 = (field w 12 5 + k * step r.st2) % 32 ∧
       field x 6 5 = (field w 6 5 + k * step r.st3) % 32 ∧ field x 0 6 = field w 0 6 ∧ field x 11 1 = field w 11 1 ∧ field x 22 10 = field w 22 10)

/-- R241: the walker reads. In c3 every form reads 0.
R254, R169: `iter` of a role context begins the next iteration, rotating s24 to s31 and setting q0 to q7 and k0 to k5; past the
last iteration the context becomes Idle with its loop slots clear; before the next step is known it waits, with the iteration it ended
counted; in c3 it is an illegal operand. -/
def Obligations.Iterations : Prop :=
  ((∀ (f : FK) (s : State), Ready (walkNeed f.p f.d) s.cur →
     ∃ t, exec (.movK f) s = .next t ∧ WritesS f.d.toNat (if s.curCtx = 3 then 0 else (s.cur.k.at f.k.toNat).setWidth 64) s t) ∧
   (∀ (f : FD) (s : State), Ready (walkNeed f.p f.d) s.cur →
     (∃ t, exec (.wpos f) s = .next t ∧ WritesS f.d.toNat (if s.curCtx = 3 then 0 else BitVec.ofNat 64 (s.cur.iter + if s.cur.atIter = true then 1 else 0)) s t) ∧
     ∃ t, exec (.wnum f) s = .next t ∧ WritesS f.d.toNat (if s.curCtx = 3 then 0 else match s.cur.n with
       | some n => BitVec.ofNat 64 n
       | none => 0xFFFFFFFFFFFFFFFF) s t)) ∧
  (∀ (f : FB) (s : State) (b : Bind), Ready { p := f.p.toNat, xim := 1 } s.cur →
     let c := s.cur
     let i := c.iter + 1
     (s.curCtx = 3 → exec (.iter f) s = .next (trapCur 0x27 s)) ∧
     (s.curCtx ≠ 3 → (∀ j, j < 8 → c.full (24 + j) = true) → (s.core s.curCore).bind = some b →
       ((∃ n, b.n = some n ∧ n + b.depth - 1 < i) →
         ∃ t, exec (.iter f) s = .next t ∧ OnlyCur s t ∧ t.cur.st = .idle ∧ t.cur.finished = true ∧ t.cur.hl0 = {} ∧ t.cur.hl1 = {}) ∧
       (b.n = none → b.steps[b.base + i]? = none →
         ∃ t, exec (.iter f) s = .next t ∧ OnlyCur s t ∧ t.cur = { c with st := .blocked, atIter := true }) ∧
       ((b.n = none ∧ (b.steps[b.base + i]?).isSome = true) ∨ (∃ n, b.n = some n ∧ i ≤ n + b.depth - 1) →
         ∃ t, exec (.iter f) s = .next t ∧ OtherCtxs s t ∧ (∀ a, byteAt t.mem a = byteAt s.mem a) ∧
           t.cur.pc = c.pc + BitVec.ofInt 64 (4 * immS 22 f.off.toNat c.pfx.xims) ∧ t.cur.iter = i ∧
           (∀ j, j < 8 → t.cur.rd (24 + (j + 1) % 8) = c.rd (24 + j)) ∧ (∀ m, m < 24 → t.cur.rd m = c.rd m) ∧
           (∀ st, st < 8 → t.cur.rdPQ (8 + st) = (decide (st < b.depth ∧ st ≤ i) && b.n.all (fun n => decide (i - st < n)))) ∧
           t.cur.k = ((b.steps[b.base + (match b.n with
             | some n => min (i - c.home) (n - 1)
             | none => i - c.home)]?).map Step.key).getD {})))

/-! ### Gates, counters, groups (spec 03, 06, 11) -/

namespace Sys2Proof.Claims
open Sys2Proof Sys2Proof.Machine

/-- A core without its contexts, gates and waiters on gates; and without its contexts and arrival counters. -/
def butGates (c : Core) : Core := { c with ctxs := [], gates := [], gwait := [] }
def butCtrs (c : Core) : Core := { c with ctxs := [], ctrs := [] }

/-- Gate g of the current core holds n, and every other gate what it held. -/
def GateIs (g n : Nat) (s t : State) : Prop :=
  ∀ i, mget 0 (t.core s.curCore).gates i = if i = g then n else mget 0 (s.core s.curCore).gates i

/-- Arrival counter b of the current core holds n, and every other one what it held. -/
def CtrIs (b : Nat) (n : Int) (s t : State) : Prop :=
  ∀ i, mget 0 (t.core s.curCore).ctrs i = if i = b then n else mget 0 (s.core s.curCore).ctrs i

/-- Nobody waits on the gate before the current context. -/
def FirstAt (g : Nat) (s : State) : Prop :=
  (s.core s.curCore).waiters g = [] ∨ (s.core s.curCore).waiters g = [s.curCtx]

/-- A group operation is one the core's pen may make (R175, R272); nothing holds it back: no step order (R147) and no `leave` of the
context's that waits (R178). -/
def GroupHeld (n : Nat) (s : State) : Prop :=
  s.groupOk s.curCore n = true ∧ s.held s.curCore s.curCtx s.cur.k = .ok ∧ s.cur.pend.any Acc.leaves = false

/-- It is on a group whose home is this package (R367). -/
def GroupReady (n : Nat) (s : State) : Prop := GroupHeld n s ∧ s.remoteGroup s.curCore n = false

/-- Nothing changes but the current core's contexts and binding marks, and what is named by `groups` and `net`: memory stays. -/
def GroupFrame (s t : State) : Prop :=
  OtherCtxs s t ∧ (∀ a, byteAt t.mem a = byteAt s.mem a) ∧ { t with cores := [], groups := [], net := [], collKept := [] } =
    { s with cores := [], groups := [], net := [], collKept := [] }

/-- Group n is g, and every other group what it was. -/
def GroupIs (n : Nat) (g : Grp) (s t : State) : Prop := t.grp n = g ∧ ∀ j, j ≠ n → t.grp j = s.grp j

/-- A list with a member, added where it is not in it. -/
def adding (m : Nat) (l : List Nat) : List Nat := if l.contains m then l else l ++ [m]

/-- A member of a group has not arrived, and is not m. -/
def Outstanding (g : Grp) (m : Nat) : Prop := ∃ x ∈ g.members, x ≠ m ∧ g.arrived.contains x = false

/-- The generation of a group has ended, with these leaves: GEN advanced, the joins and leaves applied together, nobody has arrived; a
group that keeps no member is dissolved (R176 to R178). -/
def Completed (n : Nat) (g : Grp) (leaves : List Nat) (s t : State) : Prop :=
  let ms := (g.members.filter (fun x => !leaves.contains x)) ++ g.joins
  GroupIs n (if ms = [] then {} else { gen := (g.gen + 1) % 2 ^ 16, members := ms }) s t

/-- The current context asks the group's home at another package, and waits for the answer (R367). -/
def AsksHome (i : Instr) (n what code : Nat) (s t : State) : Prop :=
  GroupFrame s t ∧ (∀ j, t.grp j = s.grp j) ∧ t.net = s.net ++ [.groupMsg n (s.member s.curCore s.curCtx) what] ∧
    t.cur = { s.cur with st := .blocked, req := some (code, 0), asked := some i }

end Sys2Proof.Claims

/-- R98, R100: a `gwait` that finds a unit and no agent waiting before it takes one; one that finds no unit waits.
R98, R99, R100, R269: `graise` with no earlier access outstanding adds one unit; at 65,535 the count stays and a trap of class
0x2A is pending; `gread` reads the count.
Where the spec leaves it open, the model's choice: assumption 39. -/
def Obligations.Gates : Prop :=
  (∀ (f : FG) (s : State), Ready { p := f.p.toNat } s.cur → s.cutDrops s.curCore s.curCtx s.cur.k = false → FirstAt f.g.toNat s →
     let n := mget 0 (s.core s.curCore).gates f.g.toNat
     (1 ≤ n → ∃ t, exec (.gwait f) s = .next t ∧ OnlyCurCore s t ∧ t.cur = s.cur.fall 1 ∧ GateIs f.g.toNat (n - 1) s t ∧
       butGates (t.core s.curCore) = butGates (s.core s.curCore)) ∧
     (n = 0 → ∃ t, exec (.gwait f) s = .next t ∧ OnlyCurCore s t ∧ t.cur = { s.cur with st := .blocked } ∧ GateIs f.g.toNat 0 s t ∧
       butGates (t.core s.curCore) = butGates (s.core s.curCore) ∧ s.curCtx ∈ (t.core s.curCore).waiters f.g.toNat)) ∧
  ((∀ (f : FG) (s : State), Ready { p := f.p.toNat } s.cur → s.cur.drained = true →
     let n := mget 0 (s.core s.curCore).gates f.g.toNat
     (n < 65535 → ∃ t, exec (.graise f) s = .next t ∧ OnlyCurCore s t ∧ t.cur = s.cur.fall 1 ∧ GateIs f.g.toNat (n + 1) s t ∧
       butGates (t.core s.curCore) = butGates (s.core s.curCore)) ∧
     (65535 ≤ n → ∃ t, exec (.graise f) s = .next t ∧ OtherCtxs s t ∧ GateIs f.g.toNat n s t ∧ (∀ a, byteAt t.mem a = byteAt s.mem a) ∧
       t.cur.traps.map PTrap.cls = s.cur.traps.map PTrap.cls ++ [0x2A] ∧ t.cur.pc = (s.cur.fall 1).pc)) ∧
   (∀ (f : FGD) (s : State), Ready { p := f.p.toNat, dst := [f.d.toNat] } s.cur →
     ∃ t, exec (.gread f) s = .next t ∧ WritesS f.d.toNat (BitVec.ofNat 64 (mget 0 (s.core s.curCore).gates f.g.toNat)) s t))

/-- R102, R103, R104, R270: arming adds to the count or, out of the signed 32-bit range, is an illegal operand that changes nothing; `bwait`
passes at 0 and waits otherwise; `bread` reads the count. A deliver of n bytes takes n away, saturates at −2^31 and says so. -/
def Obligations.ArrivalCounters : Prop :=
  ((∀ (ctr : Nat) (n : Int) (s : State) (i : Instr),
     ((∃ f : FBarmI, i = .barmImm f ∧ ctr = f.ctr.toNat ∧ n = immS 14 f.imm.toNat s.cur.pfx.xims ∧ Ready { p := f.p.toNat, xim := 1 } s.cur) ∨
       (∃ f : FBarm, i = .barm f ∧ ctr = f.ctr.toNat ∧ n = (s.cur.rd f.a.toNat).toInt ∧
         Ready { p := f.p.toNat, src := [(f.a.toNat, f.fa == 1)] } s.cur)) →
     -2 ^ 31 ≤ n ∧ n < 2 ^ 31 →
     let x := mget 0 (s.core s.curCore).ctrs ctr + n
     (-2 ^ 31 ≤ x ∧ x < 2 ^ 31 → ∃ t, exec i s = .next t ∧ OnlyCurCore s t ∧ t.cur = s.cur.fall 1 ∧ CtrIs ctr x s t ∧
       butCtrs (t.core s.curCore) = butCtrs (s.core s.curCore)) ∧
     (x < -2 ^ 31 ∨ 2 ^ 31 ≤ x → exec i s = .next (trapCur 0x27 s))) ∧
   (∀ (f : FBw) (s : State), Ready { p := f.p.toNat } s.cur → s.cutDrops s.curCore s.curCtx s.cur.k = false →
     let n := mget 0 (s.core s.curCore).ctrs f.ctr.toNat
     (n = 0 → ∃ t, exec (.bwait f) s = .next t ∧ OnlyCur s t ∧ t.cur = s.cur.fall 1) ∧
     (n ≠ 0 → ∃ t, exec (.bwait f) s = .next t ∧ OnlyCur s t ∧ t.cur = { s.cur with st := .blocked })) ∧
   (∀ (f : FBr) (s : State), Ready { p := f.p.toNat, dst := [f.d.toNat] } s.cur →
     ∃ t, exec (.bread f) s = .next t ∧ WritesS f.d.toNat (BitVec.ofInt 64 (mget 0 (s.core s.curCore).ctrs f.ctr.toNat)) s t)) ∧
  (∀ (c : Core) (b n : Nat),
     let x := mget 0 c.ctrs b - (n : Int)
     let r := c.deliver b n
     (r.1 = true ↔ x < -2 ^ 31) ∧ butCtrs r.2 = butCtrs c ∧ r.2.ctxs = c.ctxs ∧
       ∀ i, mget 0 r.2.ctrs i = if i = b then max x (-2 ^ 31) else mget 0 c.ctrs i)

/-- R176, R177, R178, R272: `join` takes effect at once in a generation in which nobody has arrived, and otherwise waits for the next; a
member's `join` and a non-member's `leave` or `arrive` are illegal operands, and so is a ninth membership. `leave` counts as the member's
arrival, if it has not arrived, and goes on at once. A second `arrive` of a member in one generation waits. When the last member arrives
or leaves the generation completes: GEN advances and the deferred joins and leaves are applied.
R177, R272: `wait` passes once GEN differs from its operand.
R367: a group operation on a group of another package goes to its home, and waits for the answer but for a `leave`; where the home cannot be
reached it is the trap of class 0x24.
Where the spec leaves it open, the model's choice: assumptions 43, 47, 71, 103, 116. -/
def Obligations.Groups : Prop :=
  (∀ (f : FJ) (s : State), Ready { p := f.p.toNat, src := [(f.a.toNat, f.fa == 1)] } s.cur →
    let n := (s.cur.rd f.a.toNat).toNat
    let m := s.member s.curCore s.curCtx
    let g := s.grp n
    let reaches := s.reachable (dieOf s.curCore) (s.groupHome s.curCore n) = true
    (GroupHeld n s → s.cur.req = none →
      (g.members.contains m = true ∨ 8 ≤ s.memberships m → exec (.join f) s = .next (trapCur 0x27 s)) ∧
      (g.members.contains m = false → s.memberships m < 8 → s.remoteGroup s.curCore n = true →
        (reaches → ∃ t, exec (.join f) s = .next t ∧ AsksHome (.join f) n 0 0 s t) ∧
        (¬reaches → exec (.join f) s = .next (trapCur 0x24 s))) ∧
      (g.members.contains m = false → s.memberships m < 8 → s.remoteGroup s.curCore n = false →
        (g.arrived = [] →
          ∃ t, exec (.join f) s = .next t ∧ GroupFrame s t ∧ t.cur = s.cur.fall 1 ∧
            GroupIs n { g with members := g.members ++ [m], joins := g.joins.filter (fun x => x != m) } s t) ∧
        (g.arrived ≠ [] →
          ∃ t, exec (.join f) s = .next t ∧ GroupFrame s t ∧ GroupIs n { g with joins := adding m g.joins } s t ∧
            t.cur = { s.cur with st := .blocked, req := some (0, 0), asked := some (.join f) }))) ∧
    (GroupReady n s → s.cur.req = some (0, 0) →
      (g.members.contains m = true → ∃ t, exec (.join f) s = .next t ∧ OnlyCur s t ∧ t.cur = s.cur.fall 1) ∧
      (g.members.contains m = false → g.arrived ≠ [] →
        ∃ t, exec (.join f) s = .next t ∧ GroupFrame s t ∧ GroupIs n { g with joins := adding m g.joins } s t ∧
          t.cur = { s.cur with st := .blocked })) ∧
    (GroupHeld n s →
      (g.members.contains m = false → exec (.leave f) s = .next (trapCur 0x27 s)) ∧
      (g.members.contains m = true → s.remoteGroup s.curCore n = true →
        (reaches → s.cur.drained = true → ∃ t, exec (.leave f) s = .next t ∧ GroupFrame s t ∧ t.cur = s.cur.fall 1 ∧
          (∀ j, t.grp j = s.grp j) ∧ t.net = s.net ++ [.groupMsg n m 1]) ∧
        (¬reaches → exec (.leave f) s = .next (trapCur 0x24 s)))) ∧
    (GroupReady n s → g.members.contains m = true →
      (s.cur.drained = false → ∃ t, exec (.leave f) s = .next t ∧ OnlyCur s t ∧
        ∃ a : Acc, a.op = .leave n ∧ a.rel = some 3 ∧ t.cur = (s.cur.issueAcc a).fall 1) ∧
      (s.cur.drained = true → Outstanding g m →
        ∃ t, exec (.leave f) s = .next t ∧ GroupFrame s t ∧ t.cur = s.cur.fall 1 ∧
          GroupIs n { g with leaves := adding m g.leaves, arrived := adding m g.arrived } s t) ∧
      (s.cur.drained = true → ¬Outstanding g m → (∀ x ∈ g.joins, s.joinBarred x = false) →
        ∃ t, exec (.leave f) s = .next t ∧ GroupFrame s t ∧ t.cur = s.cur.fall 1 ∧ Completed n g (adding m g.leaves) s t))) ∧
  (∀ (f : FU) (s : State), Ready { p := f.p.toNat, src := [(f.a.toNat, f.fa == 1)], dst := [f.d.toNat] } s.cur →
    let n := (s.cur.rd f.a.toNat).toNat
    let m := s.member s.curCore s.curCtx
    let g := s.grp n
    let reaches := s.reachable (dieOf s.curCore) (s.groupHome s.curCore n) = true
    GroupHeld n s →
    (s.cur.drained = false → exec (.arrive f) s = .next (blockCur s)) ∧
    (s.cur.drained = true → g.members.contains m = false → exec (.arrive f) s = .next (trapCur 0x27 (giveUp s))) ∧
    (s.cur.drained = true → g.members.contains m = true → s.remoteGroup s.curCore n = true →
      (∀ x k, s.cur.req = some (x, k + 1) → ∃ t, exec (.arrive f) s = .next t ∧ GroupFrame s t ∧
        t.cur = (s.cur.wr f.d.toNat (BitVec.ofNat 64 k)).fall 1) ∧
      (s.cur.req = none →
        (reaches → ∃ t, exec (.arrive f) s = .next t ∧ AsksHome (.arrive f) n 2 2 s t) ∧
        (¬reaches → exec (.arrive f) s = .next (trapCur 0x24 s)))) ∧
    (s.cur.drained = true → g.members.contains m = true → s.remoteGroup s.curCore n = false →
      (g.arrived.contains m = true → exec (.arrive f) s = .next (blockCur s)) ∧
      (g.arrived.contains m = false → (∀ x ∈ g.joins, s.joinBarred x = false) →
        ∃ t, exec (.arrive f) s = .next t ∧ GroupFrame s t ∧ t.cur = (s.cur.wr f.d.toNat (BitVec.ofNat 64 g.gen)).fall 1 ∧
          (Outstanding g m → GroupIs n { g with arrived := g.arrived ++ [m], plain := true } s t) ∧
          (¬Outstanding g m → Completed n g g.leaves s t)))) ∧
  (∀ (f : FAB) (s : State), Ready { p := f.p.toNat, src := [(f.a.toNat, f.fa == 1), (f.b.toNat, f.fb == 1)] } s.cur →
    let n := (s.cur.rd f.a.toNat).toNat
    let reaches := s.reachable (dieOf s.curCore) (s.groupHome s.curCore n) = true
    s.groupOk s.curCore n = true → s.cutDrops s.curCore s.curCtx s.cur.k = false →
    let v := (s.cur.rd f.b.toNat).toNat % 2 ^ 16
    (s.remoteGroup s.curCore n = false →
      ((s.grp n).gen ≠ v → ∃ t, exec (.wait f) s = .next t ∧ OnlyCur s t ∧ t.cur = s.cur.fall 1) ∧
      ((s.grp n).gen = v → ∃ t, exec (.wait f) s = .next t ∧ OnlyCur s t ∧ t.cur = { s.cur with st := .blocked })) ∧
    (s.remoteGroup s.curCore n = true →
      (∀ x k, s.cur.req = some (x, k + 1) → k ≠ v → ∃ t, exec (.wait f) s = .next t ∧ OnlyCur s t ∧ t.cur = s.cur.fall 1) ∧
      (∀ x k, s.cur.req = some (x, k + 1) → k = v → reaches → ∃ t, exec (.wait f) s = .next t ∧ AsksHome (.wait f) n 6 6 s t) ∧
      (s.cur.req = none →
        (reaches → ∃ t, exec (.wait f) s = .next t ∧ AsksHome (.wait f) n 6 6 s t) ∧
        (¬reaches → exec (.wait f) s = .next (trapCur 0x24 s)))))

/-! ### Hardware queues, device launches, windows (spec 02, 06, 11, 13) -/

namespace Sys2Proof.Claims
open Sys2Proof Sys2Proof.Machine

/-- The record that four registers hold, sRB lowest (R274). -/
def fourRegs (c : Ctx) (rb : Nat) : Nat :=
  (c.rd rb).toNat + (c.rd (rb + 1)).toNat * 2 ^ 64 + (c.rd (rb + 2)).toNat * 2 ^ 128 + (c.rd (rb + 3)).toNat * 2 ^ 192

/-- The current context serves no pure instance (R181): c3 never does. -/
def NotPure (s : State) : Prop :=
  s.curCtx = 3 ∨ ∀ i, s.inst? (s.whoCtx s.curCore s.curCtx 0).inst = some i → i.pure = false

/-- Nothing holds the current context's held effect back (R146, R181). -/
def HeldReady (s : State) : Prop := s.held s.curCore s.curCtx s.cur.k = .ok ∧ NotPure s

/-- Queue n of the current context's shed is q, every other queue and shed what it was; no other context and no memory changed. -/
def QueueIs (n : Nat) (q : HQ) (s t : State) : Prop :=
  (∀ sh j, t.hq sh j = if sh = shedOf s.curCore ∧ j = n then q else s.hq sh j) ∧ OtherCtxs s t ∧ ∀ a, byteAt t.mem a = byteAt s.mem a

/-- The current context took a record into four registers, and p into predicate pd where it names one; nothing else changed. -/
def TakesRecord (rb r : Nat) (pd : Option Nat) (s t : State) : Prop :=
  GoesOn 1 s.cur t.cur ∧ rest { t.cur with s := [], sE := [], p := [] } = rest { s.cur with s := [], sE := [], p := [] } ∧
    (∀ m, t.cur.full m = (decide (rb ≤ m ∧ m < rb + 4) || s.cur.full m)) ∧
    (∀ m, t.cur.rd m = if rb ≤ m ∧ m < rb + 4 ∧ m ≠ 0 then BitVec.ofNat 64 (r / 2 ^ (64 * (m - rb))) else s.cur.rd m) ∧
    ∀ m, t.cur.rdP m = if pd = some m then true else s.cur.rdP m

end Sys2Proof.Claims

/-- R72, R73, R75, R275: a push places its record behind the others on chip, a pop takes the oldest into four registers; the try
forms write whether they did. Without a record, or without room, the plain forms wait and the try forms write false; a pop that
waits marks its four registers empty, and full once it has its record.
R276: a push is a release: it waits for the context's earlier accesses; a pop is none.
R279, R280: a `launch` with an aligned operator record enters the pen's device-launch queue and waits; with the distributor's
answer it writes the instance's number and goes on, and a refusal leaves a trap of class 0x2E pending.
Where the spec leaves it open, the model's choice: that `push.try` writes false while an earlier access is outstanding (assumption 117). -/
def Obligations.QueuesAndDeviceLaunch : Prop :=
  (∀ (rb : BitVec 5) (fr : BitVec 1) (n : BitVec 4) (pr pd : BitVec 3) (s : State),
     let q := s.hq (shedOf s.curCore) n.toNat
     let regs : List Nat := [rb.toNat, rb.toNat + 1, rb.toNat + 2, rb.toNat + 3]
     q.enable = true → HeldReady s →
     (Ready { p := pr.toNat, src := regs.map (fun r => (r, fr == 1)), pdst := [pd.toNat] } s.cur →
       let i : FPush := ⟨pr, rb, fr, n⟩
       let j : FPushT := ⟨pr, rb, fr, n, pd⟩
       let q' : HQ := { q with chip := q.chip ++ [fourRegs s.cur rb.toNat], by_ := q.by_ ++ [(s.curCore, s.curCtx, (s.whoCtx s.curCore s.curCtx 0).inst)] }
       (s.cur.drained = true → q.ring = 0 → q.chip.length < 32 → (q.hiwm = 0 ∨ q.depth + 1 ≤ q.hiwm) →
         (∃ t, exec (.push i) s = .next t ∧ t.cur = s.cur.fall 1 ∧ QueueIs n.toNat q' s t) ∧
         ∃ t, exec (.pushTry j) s = .next t ∧ t.cur = (s.cur.wrP pd.toNat true).fall 1 ∧ QueueIs n.toNat q' s t) ∧
       (q.capacity ≤ q.depth ∨ s.cur.drained = false →
         (∃ t, exec (.push i) s = .next t ∧ t.cur = { s.cur with st := .blocked } ∧ QueueIs n.toNat q s t) ∧
         ∃ t, exec (.pushTry j) s = .next t ∧ t.cur = (s.cur.wrP pd.toNat false).fall 1 ∧ QueueIs n.toNat q s t)) ∧
     (Ready { p := pr.toNat, dst := regs, pdst := [pd.toNat] } s.cur →
       let i : FPop := ⟨pr, rb, n⟩
       let j : FPopT := ⟨pr, rb, n, pd⟩
       (∀ r l, q.chip = r :: l → q.held = [] →
         (∃ t, exec (.pop i) s = .next t ∧ QueueIs n.toNat { q with chip := l, by_ := q.by_.tail } s t ∧ TakesRecord rb.toNat r none s t) ∧
         ∃ t, exec (.popTry j) s = .next t ∧ QueueIs n.toNat { q with chip := l, by_ := q.by_.tail } s t ∧ TakesRecord rb.toNat r (some pd.toNat) s t) ∧
       (q.chip = [] →
         (∃ t, exec (.pop i) s = .next t ∧ t.cur = { s.cur.markRecord rb.toNat true with st := .blocked, req := some (5, rb.toNat), asked := some (.pop i) } ∧
           QueueIs n.toNat q s t) ∧
         ∃ t, exec (.popTry j) s = .next t ∧ t.cur = (s.cur.wrP pd.toNat false).fall 1 ∧ QueueIs n.toNat q s t)) ∧
     (Ready { p := pr.toNat } s.cur → s.cur.req = some (5, rb.toNat) →
       (∀ r l, q.chip = r :: l → q.held = [] →
         ∃ t, exec (.pop ⟨pr, rb, n⟩) s = .next t ∧ QueueIs n.toNat { q with chip := l, by_ := q.by_.tail } s t ∧ TakesRecord rb.toNat r none s t) ∧
       (q.chip = [] → ∃ t, exec (.pop ⟨pr, rb, n⟩) s = .next t ∧ QueueIs n.toNat q s t ∧
         t.cur = { s.cur.markRecord rb.toNat true with st := .blocked, req := some (5, rb.toNat), asked := some (.pop ⟨pr, rb, n⟩) }))) ∧
  (∀ (f : FU) (s : State), Ready { p := f.p.toNat, src := [(f.a.toNat, f.fa == 1)], dst := [f.d.toNat] } s.cur →
     let a := (s.cur.rd f.a.toNat).toNat
     (s.cur.req = none → a % 64 = 0 → HeldReady s → s.cur.drained = true → ∀ pn, s.penOf s.curCore = some pn → (s.pen pn).devRoom (dieOf s.curCore) = true →
       ∃ t, exec (.launch f) s = .next t ∧ OtherCtxs s t ∧ t.cur = { s.cur with st := .blocked, req := some (3, 0), asked := some (.launch f) } ∧
         t.pen pn = { s.pen pn with devq := (s.pen pn).devq ++ [⟨s.curCore, s.curCtx, a, s.cur.spaceid, s.cur.wb0, s.cur.wb1⟩] } ∧
         ∀ x, byteAt t.mem x = byteAt s.mem x) ∧
     (s.cur.req = none → a % 64 ≠ 0 → exec (.launch f) s = .next (trapAccess kRead a 256 ⟨0x29, a, 7⟩ s)) ∧
     (∀ n, n ≠ 0 → s.cur.req = some (4, n) → ∃ t, exec (.launch f) s = .next t ∧ WritesS f.d.toNat (BitVec.ofNat 64 n) s t) ∧
     (s.cur.req = some (4, 0) → ∃ t, exec (.launch f) s = .next t ∧ OtherCtxs s t ∧ (∀ m, m ≠ f.d.toNat → t.cur.rd m = s.cur.rd m) ∧
       t.cur.rd f.d.toNat = 0 ∧ t.cur.traps.map PTrap.cls = s.cur.traps.map PTrap.cls ++ [0x2E] ∧ ∀ x, byteAt t.mem x = byteAt s.mem x))

/-- R122, R126, R319: the window reads give a window's counts; a wait on one passes at or above its operand, and waits below.
Where the spec leaves it open, the model's choice: assumption 44. -/
def Obligations.Windows : Prop :=
  (∀ (f : FWr) (s : State), Ready { p := f.p.toNat, dst := [f.d.toNat] } s.cur →
    let c := s.core s.curCore
    (∃ t, exec (.wreadSent f) s = .next t ∧ WritesS f.d.toNat (c.wsent f.win.toNat) s t) ∧
    (∃ t, exec (.wreadSeen f) s = .next t ∧ WritesS f.d.toNat (c.wseen f.win.toNat) s t) ∧
    ∃ t, exec (.wreadLand f) s = .next t ∧ WritesS f.d.toNat (c.wland f.win.toNat) s t) ∧
  (∀ (f : FWw) (s : State), Ready { p := f.p.toNat, src := [(f.a.toNat, f.fa == 1)] } s.cur →
    s.cutDrops s.curCore s.curCtx s.cur.k = false →
    let c := s.core s.curCore
    let v := s.cur.rd f.a.toNat
    (v.toNat ≤ (c.wseen f.win.toNat).toNat → ∃ t, exec (.wwaitSeen f) s = .next t ∧ OnlyCur s t ∧ t.cur = s.cur.fall 1) ∧
    ((c.wseen f.win.toNat).toNat < v.toNat → ∃ t, exec (.wwaitSeen f) s = .next t ∧ OnlyCur s t ∧ t.cur = { s.cur with st := .blocked }) ∧
    (v.toNat ≤ (c.wland f.win.toNat).toNat → ∃ t, exec (.wwaitLand f) s = .next t ∧ OnlyCur s t ∧ t.cur = s.cur.fall 1) ∧
    ((c.wland f.win.toNat).toNat < v.toNat → ∃ t, exec (.wwaitLand f) s = .next t ∧ OnlyCur s t ∧ t.cur = { s.cur with st := .blocked }))

/-! ### Memory instructions and the accesses they make (spec 01, 02, 03, 04, 11) -/

namespace Sys2Proof.Claims
open Sys2Proof Sys2Proof.Machine

/-- The current context issued an access and went on: the access stands last in its list with the next number, its destination is
marked empty (R91), and no register has changed. -/
def Issues (a : Acc) (s t : State) : Prop :=
  t.cur.pend = s.cur.pend ++ [{ a with seq := s.cur.seq }] ∧ t.cur.seq = s.cur.seq + 1 ∧ GoesOn 1 s.cur t.cur ∧
    (∀ m, t.cur.full m = if a.dst = some m ∧ m ≠ 0 then false else s.cur.full m) ∧
    rest { t.cur with pend := [], seq := 0, sE := [] } = rest { s.cur with pend := [], seq := 0, sE := [] }

/-- The context, its level, step and instruction that an access of the current context carries. -/
def tagged (s : State) (a : Acc) : Acc :=
  { a with pc := s.cur.group, inst := (s.whoCtx s.curCore s.curCtx 0).inst, key := (s.whoCtx s.curCore s.curCtx 0).key, spaceid := s.cur.spaceid,
           sys := s.cur.sys }

/-- The current context waits at its instruction: nothing else of it, and nothing of the package, changes. -/
def Waits (i : Instr) (s : State) : Prop := ∃ t, exec i s = .next t ∧ OnlyCur s t ∧ t.cur = { s.cur with st := .blocked }

/-- How the current context's access of n bytes to a global address goes (R256, R27, R31, R33, R42, R111, R146): misaligned it traps before
the translation; behind a pending acquire, and while its page walk is under way, it waits; a fault of the translation traps; a
write-blocked page makes it wait; a held effect stalls or is dropped as its step stands; otherwise its heat is counted and it is issued,
a load of CUTDONE's DONE, of RFCTL or of the TAIL of a trace or beacon ring as an acquire at package scope (R154, R380, R385, R390).
The model's choices in it: behind a pending `mark`, or `fence` with `mr` late, it translates from what is cached alone (`whoAcc`, assumption
83, DEDUCED); a shape that no register has leaves the state untouched by the translation (assumption 92, DESIGN CHOICE). -/
def GlobalAccess (i : Instr) (need : Need) (kind : Nat) (home held : Bool) (va n al : Nat) (a : Acc) (s : State) : Prop :=
  Ready need s.cur →
    (va % al ≠ 0 → exec i s = .next (trapAccess kind va n ⟨0x29, va, 7⟩ s)) ∧
    (va % al = 0 → s.cur.acqHeld = true → Waits i s) ∧
    (va % al = 0 → s.cur.acqHeld = false → ∀ x s1, s.xlate s.cur.space s.whoAcc kind home va n = (x, s1) →
      (x.busy = true → ∃ t, exec i s = .next t ∧ OnlyCur s1 t ∧ t.cur = { s.cur with st := .blocked }) ∧
      (x.busy = false →
        (∀ f, x.flt = some f → exec i s = .next (trapAccess kind va n f s1)) ∧
        (x.flt = none → ∀ f, x.regFault va = some f → exec i s = .next (trapAccess kind va n f (s.untouched s1))) ∧
        (x.flt = none → x.regFault va = none →
          let isHeld := held = true ∨ field x.leaf 8 2 ≠ 0
          (∀ w, x.wait = some w → ∃ t, exec i s = .next t ∧ OnlyCur s1 t ∧ t.cur.st = .blocked ∧ t.cur.pc = s.cur.pc ∧
            t.cur.wblk.map Park.va = some w) ∧
          (x.wait = none → isHeld → s1.held s.curCore s.curCtx s.cur.k = .stall →
            ∃ t, exec i s = .next t ∧ OnlyCur s1 t ∧ t.cur = { s.cur with st := .held }) ∧
          (x.wait = none → isHeld → s1.held s.curCore s.curCtx s.cur.k = .drop → ∃ t, exec i s = .next t ∧ OnlyCur s1 t ∧ t.cur = s.cur.fall 1) ∧
          (x.wait = none → (isHeld → s1.held s.curCore s.curCtx s.cur.k = .ok) → NotPure s →
            ∃ t, exec i s = .next t ∧ OnlyCur (s1.heatAll s.whoAcc s.cur.space va x) t ∧
              Issues (tagged s { a with va := va, segs := x.segs, len := n, leaf := x.leaf,
                                        acq := if kind = kRead ∧ regAcq x.segs = true then some 3 else a.acq }) s t))))

/-- An access of n bytes at an offset of a local space (R12 to R15, R111, R255): it waits behind a pending acquire; beyond the end it
traps, otherwise it is issued. -/
def LocalAccess (i : Instr) (need : Need) (kind spc va n al : Nat) (a : Acc) (s : State) : Prop :=
  Ready need s.cur →
    (va % al ≠ 0 → exec i s = .next (trapAccess kind va n ⟨0x29, va, 7⟩ s)) ∧
    (va % al = 0 → s.cur.acqHeld = true → Waits i s) ∧
    (va % al = 0 → s.cur.acqHeld = false →
      (s.spaceSize s.curCore spc < va + n → exec i s = .next (trapAccess kind va n ⟨0x06, max va (s.spaceSize s.curCore spc), 7⟩ s)) ∧
      (va + n ≤ s.spaceSize s.curCore spc →
        ∃ t, exec i s = .next t ∧ OnlyCur s t ∧ Issues (tagged s { a with spc := spc, va := va, segs := [(va, n)], len := n }) s t))

/-- Address and width of a plain access (R255, R258). -/
def eaOf (f : FM) (s : State) : Nat := (s.cur.rd f.a.toNat + BitVec.ofInt 64 (immS 8 f.disp.toNat s.cur.pfx.xims)).toNat

def ldNeed (f : FM) : Need :=
  { p := f.p.toNat, undef := f.ft == 1 && f.sz == 3, xim := 2, rep := some (true, true, false, false), src := [(f.a.toNat, f.fa == 1)],
    dst := [f.t.toNat] }
def stNeed (f : FM) : Need :=
  { p := f.p.toNat, xim := 2, rep := some (true, true, false, false), src := [(f.a.toNat, f.fa == 1), (f.t.toNat, f.ft == 1)] }

/-- Scope of an acquire and of a release by the OS code (R219): codes 1 to 5 acquire, 6 to 10 release, 11 to 15 do both. -/
def acqOf (os : Nat) : Option Nat := if 1 ≤ os ∧ os ≤ 5 then some (os - 1) else if 11 ≤ os then some (os - 11) else none
def relOf (os : Nat) : Option Nat := if 6 ≤ os ∧ os ≤ 10 then some (os - 6) else if 11 ≤ os then some (os - 11) else none

/-- The access of a chain of ns steps whose operand registers begin at r (R277, R278): its last step loads 2^fin bytes, or adds (fin 4)
or swaps (fin 5) 8. -/
def chainAcc (r fin ns : Nat) (s : State) : Acc :=
  { seq := 0, op := .chain fin ns, va := (s.cur.rd r).toNat, len := if fin < 4 then 2 ^ fin else 8, cls := if fin < 4 then 4 else 12,
    data := (s.cur.rd (r + 1)).toNat, data2 := (s.cur.rd (r + 2)).toNat }

/-- The atomics (R261) and the reductions (R263) with their operation's number. -/
noncomputable def amoOps : List ((FA → Instr) × Nat) := [
  (.amoAdd, 0), (.amoAnd, 1), (.amoOr, 2), (.amoXor, 3), (.amoMin, 4), (.amoMax, 5), (.amoMinu, 6), (.amoMaxu, 7), (.amoSwap, 8)]
noncomputable def redOps : List ((FRed → Instr) × Nat) := [
  (.redAdd, 0), (.redAnd, 1), (.redOr, 2), (.redXor, 3), (.redMin, 4), (.redMax, 5), (.redMinu, 6), (.redMaxu, 7)]

/-- What an atomic of R261 writes over the old value at its home, over w bits; c is the replacement of `amo.cas` (9). -/
def amoResult (op w old b c : Nat) : Nat :=
  let sg (x : Nat) : Int := (BitVec.ofNat w x).toInt
  if op = 0 then (old + b) % 2 ^ w
  else if op = 1 then old &&& b else if op = 2 then old ||| b else if op = 3 then old ^^^ b
  else if op = 4 then (if sg old ≤ sg b then old else b) else if op = 5 then (if sg old ≤ sg b then b else old)
  else if op = 6 then min old b else if op = 7 then max old b
  else if op = 8 then b else if old = b then c else old

/-- The entry of an access of a context that may be performed now: nothing older holds it back (R86 to R89). -/
def Next (core ctx seq : Nat) (a : Acc) (s : State) : Prop := s.mayPerform core ctx seq = some a ∧ a.seq = seq

/-- One access of 1, 2, 4 or 8 bytes that is naturally aligned is atomic (R84). -/
def Atomic (pa n : Nat) : Prop := (n = 1 ∨ n = 2 ∨ n = 4 ∨ n = 8) ∧ pa % n = 0

/-- The access is gone from its context's list. -/
def Gone (core ctx seq : Nat) (t : State) : Prop := ∀ b ∈ (t.ctx core ctx).pend, b.seq ≠ seq

/-- A memory in its canonical form (the invariants MemOk and LocalOk) after n bytes of a number were stored at an address, little-endian
(R8): those bytes changed, and no other. -/
def StoredAt (pa n x : Nat) (m m' : Mem) : Prop :=
  Memory.wf m = true → ∀ b, byteAt m' b = if pa ≤ b ∧ b < pa + n then BitVec.ofNat 8 (x / 2 ^ (8 * (b - pa))) else byteAt m b

/-- No other context's registers, pc, state or pending accesses changed, and of this one's none but its list of accesses. -/
def ListOnly (core ctx : Nat) (s t : State) : Prop :=
  (∀ j y, ¬(j = core ∧ y = ctx) → t.ctx j y = s.ctx j y) ∧ { t.ctx core ctx with pend := [] } = { s.ctx core ctx with pend := [] }

end Sys2Proof.Claims

/-- R255, R258: the plain loads and stores of the local spaces. -/
def Obligations.LocalLoadsAndStores : Prop :=
  ∀ (f : FM) (s : State) (spc : Nat),
    let n := 2 ^ f.sz.toNat
    let ld : Acc := { seq := 0, op := .load (f.ft == 1), dst := some f.t.toNat, cls := 1 }
    let st : Acc := { seq := 0, op := .store, data := (s.cur.rd f.t.toNat).toNat % 2 ^ (8 * n), cls := 2 }
    (spc = 1 → LocalAccess (.ldSp f) (ldNeed f) kRead spc (eaOf f s) n 1 ld s ∧ LocalAccess (.stSp f) (stNeed f) kWrite spc (eaOf f s) n 1 st s) ∧
    (spc = 2 → LocalAccess (.ldSh f) (ldNeed f) kRead spc (eaOf f s) n 1 ld s ∧ LocalAccess (.stSh f) (stNeed f) kWrite spc (eaOf f s) n 1 st s) ∧
    (spc = 3 → LocalAccess (.ldChip f) (ldNeed f) kRead spc (eaOf f s) n 1 ld s ∧ LocalAccess (.stChip f) (stNeed f) kWrite spc (eaOf f s) n 1 st s)

/-- R255, R256, R258, R259: the plain and the ordered loads and stores of the global space, and the ordered ones of the others.
Where the spec leaves it open, the model's choice: assumptions 21, 29, 83, 92, 105. -/
def Obligations.GlobalLoadsAndStores : Prop :=
  (∀ (f : FM) (s : State),
    let n := 2 ^ f.sz.toNat
    GlobalAccess (.ldGlb f) (ldNeed f) kRead false false (eaOf f s) n 1 { seq := 0, op := .load (f.ft == 1), dst := some f.t.toNat, cls := 4 } s ∧
    GlobalAccess (.stGlb f) (stNeed f) kWrite false false (eaOf f s) n 1
      { seq := 0, op := .store, data := (s.cur.rd f.t.toNat).toNat % 2 ^ (8 * n), cls := 8 } s) ∧
  (∀ (f : FMO) (s : State),
    let n := 2 ^ f.sz.toNat
    let va := (s.cur.rd f.a.toNat).toNat
    let lneed : Need := { p := f.p.toNat, src := [(f.a.toNat, f.fa == 1)], dst := [f.t.toNat] }
    let sneed : Need := { p := f.p.toNat, src := [(f.a.toNat, f.fa == 1), (f.t.toNat, f.ft == 1)] }
    let ld : Acc := { seq := 0, op := .load (f.ft == 1), dst := some f.t.toNat, acq := acqOf f.os.toNat }
    let st : Acc := { seq := 0, op := .store, data := (s.cur.rd f.t.toNat).toNat % 2 ^ (8 * n), rel := relOf f.os.toNat }
    (f.spc = 0 → GlobalAccess (.ldAcq f) lneed kRead false false va n n { ld with cls := 4 } s ∧
      GlobalAccess (.stRel f) sneed kWrite false false va n n { st with cls := 8 } s) ∧
    (f.spc ≠ 0 → LocalAccess (.ldAcq f) lneed kRead f.spc.toNat va n n { ld with cls := 1 } s ∧
      LocalAccess (.stRel f) sneed kWrite f.spc.toNat va n n { st with cls := 2 } s))

/-- R256, R261 to R263: the atomics and reductions are read-modify-writes at the home slice, naturally aligned, held effects.
Where the spec leaves it open, the model's choice: a writer that meets WBLK waits at its instruction (assumption 21); behind a pending
`mark`, or `fence` with `mr` late, it translates from what is cached alone (assumption 83); a shape that no register has traps with nothing
touched (assumption 92). -/
def Obligations.AtomicsIssue : Prop :=
  (∀ o ∈ amoOps, ∀ (f : FA) (s : State),
    let n := if f.sz = 0 then 4 else 8
    GlobalAccess (o.1 f) { p := f.p.toNat, rep := some (true, true, true, false), src := [(f.a.toNat, f.fa == 1), (f.b.toNat, f.fb == 1)], dst := [f.d.toNat] }
      kRmw true true (s.cur.rd f.a.toNat).toNat n n
      { seq := 0, op := .rmw o.2 true, data := (s.cur.rd f.b.toNat).toNat % 2 ^ (8 * n), dst := some f.d.toNat, cls := 12,
        acq := acqOf f.os.toNat, rel := relOf f.os.toNat } s) ∧
  (∀ o ∈ redOps, ∀ (f : FRed) (s : State),
    let n := if f.sz = 0 then 4 else 8
    GlobalAccess (o.1 f) { p := f.p.toNat, rep := some (true, true, true, false), src := [(f.a.toNat, f.fa == 1), (f.b.toNat, f.fb == 1)] }
      kRmw true true (s.cur.rd f.a.toNat).toNat n n
      { seq := 0, op := .rmw o.2 false, data := (s.cur.rd f.b.toNat).toNat % 2 ^ (8 * n), cls := 12, rel := relOf f.os.toNat } s) ∧
  (∀ (f : FA) (s : State),
    let n := if f.sz = 0 then 4 else 8
    GlobalAccess (.amoCas f)
      { p := f.p.toNat, undef := decide (f.b.toNat % 2 = 1), rep := some (true, true, true, false),
        src := [(f.a.toNat, f.fa == 1), (f.b.toNat, f.fb == 1), (f.b.toNat + 1, f.fb == 1)], dst := [f.d.toNat] }
      kRmw true true (s.cur.rd f.a.toNat).toNat n n
      { seq := 0, op := .rmw 9 true, data := (s.cur.rd f.b.toNat).toNat % 2 ^ (8 * n),
        data2 := (s.cur.rd (f.b.toNat + 1)).toNat % 2 ^ (8 * n), dst := some f.d.toNat, cls := 12,
        acq := acqOf f.os.toNat, rel := relOf f.os.toNat } s)

/-- R264 to R268: exact sums (R264, R265, R266) and futures (R267, R268) at issue.
Where the spec leaves it open, the model's choice: a writer that meets WBLK waits at its instruction (assumption 21); the context of a
future load goes on while it is under way (assumption 29); behind a pending `mark`, or `fence` with `mr` late, a translation is taken from
what is cached alone (assumption 83), and a shape that no register has traps with nothing touched (assumption 92). -/
def Obligations.SumsAndFuturesIssue : Prop :=
  (∀ (f : FXa) (s : State),
    GlobalAccess (.xsumAdd f) { p := f.p.toNat, src := [(f.a.toNat, f.fa == 1), (f.b.toNat, f.fb == 1)] } kRmw true true (s.cur.rd f.a.toNat).toNat 64 64
      { seq := 0, op := .xadd f.ty.toNat, data := (s.cur.rd f.b.toNat).toNat % 2 ^ (if f.ty = 0 then 32 else 16), cls := 12, rel := relOf f.os.toNat } s) ∧
  (∀ (f : FXr) (s : State),
    let need : Need := { p := f.p.toNat, src := [(f.a.toNat, f.fa == 1)], dst := [f.d.toNat] }
    let a (clr : Bool) : Acc := { seq := 0, op := .xread f.ty.toNat f.rnd.toNat clr, dst := some f.d.toNat, acq := acqOf f.os.toNat }
    GlobalAccess (.xsumRead f) need kRead true false (s.cur.rd f.a.toNat).toNat 64 64 { a false with cls := 4 } s ∧
    GlobalAccess (.xsumReadClr f) need kRmw true true (s.cur.rd f.a.toNat).toNat 64 64 { a true with cls := 12 } s) ∧
  (∀ (f : FXm) (s : State) (x y : Xl) (s1 s2 : State),
    let dst := (s.cur.rd f.a.toNat).toNat
    let src := (s.cur.rd f.b.toNat).toNat
    let w := s.whoAcc
    Ready { p := f.p.toNat, src := [(f.a.toNat, f.fa == 1), (f.b.toNat, f.fb == 1)] } s.cur →
    (src % 64 ≠ 0 → exec (.xsumMerge f) s = .next (trapAccess kRead src 64 ⟨0x29, src, 7⟩ s)) ∧
    (src % 64 = 0 → dst % 64 ≠ 0 → exec (.xsumMerge f) s = .next (trapAccess kRmw dst 64 ⟨0x29, dst, 7⟩ s)) ∧
    (src % 64 = 0 → dst % 64 = 0 → s.cur.acqHeld = true → Waits (.xsumMerge f) s) ∧
    (src % 64 = 0 → dst % 64 = 0 → s.cur.acqHeld = false →
      s.xlate s.cur.space w kRead true src 64 = (x, s1) → x.busy = false → x.flt = none →
      s1.xlate s.cur.space w kRmw true dst 64 = (y, s2) → y.busy = false → y.flt = none → y.regFault dst = none → y.wait = none →
      s2.held s.curCore s.curCtx s.cur.k = .ok → NotPure s →
      let a : Acc := { seq := 0, op := .xmerge, va := dst, segs := y.segs, segs2 := x.segs, len := 64, leaf := y.leaf, data2 := src, val := x.leaf }
      ∃ t, exec (.xsumMerge f) s = .next t ∧ OnlyCur ((s2.heatAll w s.cur.space dst y).heatAll w s.cur.space src x) t ∧
        Issues (tagged s { a with cls := 12, rel := relOf f.os.toNat }) s t)) ∧
  (∀ (f : FU) (s : State),
    let need : Need := { p := f.p.toNat, src := [(f.a.toNat, f.fa == 1)], dst := [f.d.toNat] }
    GlobalAccess (.fld f) need kRead true false (s.cur.rd f.a.toNat).toNat 16 16 { seq := 0, op := .fld false, dst := some f.d.toNat, cls := 4, acq := some 3 } s ∧
    GlobalAccess (.fldTake f) need kRmw true true (s.cur.rd f.a.toNat).toNat 16 16 { seq := 0, op := .fld true, dst := some f.d.toNat, cls := 12, acq := some 3 } s) ∧
  (∀ (f : FAB) (s : State),
    GlobalAccess (.ffill f) { p := f.p.toNat, src := [(f.a.toNat, f.fa == 1), (f.b.toNat, f.fb == 1)] } kRmw true true (s.cur.rd f.a.toNat).toNat 16 16
      { seq := 0, op := .ffill, data := (s.cur.rd f.b.toNat).toNat, cls := 12, rel := some 3 } s)

/-- R88, R89, R277, R278: chained loads, `mark` and `fence` take their places in the context's list of accesses. A mark or a fence
that no earlier access precedes orders nothing. A chain waits behind a pending acquire (R111); one with a final atomic is a held effect,
which stalls, or is dropped, as its step stands (R146, R153).
Where the spec leaves it open, the model's choice: assumptions 7, 40. -/
def Obligations.ChainsAndOrder : Prop :=
  (∀ (f : FChL) (s : State),
    let a := chainAcc f.a.toNat f.fin.toNat f.ns.toNat s
    Ready { p := f.p.toNat, undef := decide (f.a.toNat % 2 = 1), src := [(f.a.toNat, f.fa == 1), (f.a.toNat + 1, f.fa == 1)], dst := [f.d.toNat] } s.cur →
    (s.cur.acqHeld = true → Waits (.chainLd f) s) ∧
    (s.cur.acqHeld = false → ∃ t, exec (.chainLd f) s = .next t ∧ OtherCtxs s t ∧ (∀ x, byteAt t.mem x = byteAt s.mem x) ∧
      Issues (tagged s { a with dst := some f.d.toNat, acq := acqOf f.os.toNat }) s t ∧
      t.fchains = s.fchains ++ [{ id := s.nextPkt, core := s.curCore, isCtx := true, ctx := s.curCtx, seq := s.cur.seq, step := 0,
                                  addr := (s.cur.rd f.a.toNat).toNat, die := dieOf s.curCore }])) ∧
  (∀ (f : FChA) (s : State),
    Ready { p := f.p.toNat, undef := decide (f.a.toNat % 2 = 1 ∨ f.a.toNat = 30),
            src := [(f.a.toNat, f.fa == 1), (f.a.toNat + 1, f.fa == 1), (f.a.toNat + 2, f.fa == 1)], dst := [f.d.toNat] } s.cur →
    let a (fin : Nat) : Acc := { chainAcc f.a.toNat fin f.ns.toNat s with dst := some f.d.toNat, acq := acqOf f.os.toNat }
    (s.held s.curCore s.curCtx s.cur.k = .stall →
      (∃ t, exec (.chainAdd f) s = .next t ∧ OnlyCur s t ∧ t.cur = { s.cur with st := .held }) ∧
      ∃ t, exec (.chainSwap f) s = .next t ∧ OnlyCur s t ∧ t.cur = { s.cur with st := .held }) ∧
    (s.held s.curCore s.curCtx s.cur.k = .drop →
      exec (.chainAdd f) s = .next (fall 1 s) ∧ exec (.chainSwap f) s = .next (fall 1 s)) ∧
    (s.held s.curCore s.curCtx s.cur.k = .ok → s.cur.acqHeld = true → Waits (.chainAdd f) s ∧ Waits (.chainSwap f) s) ∧
    (s.held s.curCore s.curCtx s.cur.k = .ok → s.cur.acqHeld = false →
      (∃ t, exec (.chainAdd f) s = .next t ∧ OtherCtxs s t ∧ (∀ x, byteAt t.mem x = byteAt s.mem x) ∧ Issues (tagged s (a 4)) s t) ∧
      ∃ t, exec (.chainSwap f) s = .next t ∧ OtherCtxs s t ∧ (∀ x, byteAt t.mem x = byteAt s.mem x) ∧ Issues (tagged s (a 5)) s t)) ∧
  (∀ (f : FN0) (s : State), Ready { p := f.p.toNat } s.cur →
    (s.cur.pend = [] → ∃ t, exec (.mark f) s = .next t ∧ OnlyCur s t ∧ t.cur = { s.cur.fall 1 with seq := s.cur.seq + 1 }) ∧
    (∀ b, s.cur.pend = [b] → b.isOrder = false → b.performed = false → b.cls % 16 ≠ 0 →
      ∃ t, exec (.mark f) s = .next t ∧ OnlyCur s t ∧ t.cur.pc = (s.cur.fall 1).pc ∧ t.cur.pend = [b, { seq := s.cur.seq, op := .mark, spaceid := s.cur.spaceid, sys := s.cur.sys }])) ∧
  (∀ (f : FFence) (s : State), Ready { p := f.p.toNat, undef := decide (5 ≤ f.scope.toNat) } s.cur →
    (s.cur.pend = [] → f.early.toNat / 16 % 2 = 0 → ∃ t, exec (.fence f) s = .next t ∧ OnlyCur s t ∧ t.cur = { s.cur.fall 1 with seq := s.cur.seq + 1 }) ∧
    (∀ b, s.cur.pend = [b] → b.isOrder = false → b.performed = false → b.cls &&& f.early.toNat ≠ 0 →
      ∃ t, exec (.fence f) s = .next t ∧ OnlyCur s t ∧ t.cur.pc = (s.cur.fall 1).pc ∧
        t.cur.pend.map Acc.op = [b.op, .fence f.early.toNat f.late.toNat f.scope.toNat]))

/-- R16, R22, R27, R31: an access within one page whose translation is not cached, while no walk is in flight: a non-canonical address, a
walk that finds none, a leaf that fails a check; else its bytes lie at the leaf's page, and only the entry's ACCESSED and DIRTY bits
change. A walk that takes longer takes a slot, and makes the access wait (R33). Where no page-table entry may be read now it waits (R260). A
home that no link reaches fails it with class 0x24 (R404). And the faults of a leaf, in their order: physical
hole, an operation of the home slice through a register leaf (R257), permission, engine mask, encryption (R334).
Where the spec leaves it open, the model's choice: assumptions 9, 11, 71, 80, 83. -/
def Obligations.Translation : Prop :=
  (∀ (s : State) (sp : Space) (w : Who) (kind : Nat) (home : Bool) (va n : Nat), 0 < n → va % 4096 + n ≤ 4096 → va < 2 ^ 64 → kind ≤ 3 →
     let write := kind == 1 || kind == 2
     (¬(va < 2 ^ 56 ∨ 2 ^ 64 - 2 ^ 56 ≤ va) → (s.xlate sp w kind home va n).1.flt = some ⟨0x04, va, 7⟩ ∧ (s.xlate sp w kind home va n).2 = s) ∧
     (va < 2 ^ 56 ∨ (2 ^ 64 - 2 ^ 56 ≤ va ∧ sp.sys = true) → (∀ t ∈ s.tlb, t.covers ((s.penOf w.core).getD 16) sp.spaceid va = false) →
       (w.cached = true → (s.xlate sp w kind home va n).1.busy = true ∧ (s.xlate sp w kind home va n).2 = s) ∧
       (w.cached = false → s.walks = [] →
       (s.slow ≠ 0 → (s.xlate sp w kind home va n).1.busy = true ∧ ∃ k, k.active = true ∧ k.mine w sp va = true ∧ k.level = 4 ∧
         k.table = sp.root va ∧ (s.xlate sp w kind home va n).2 = { s with slow := s.slow - 1, walks := [k] }) ∧
       (s.slow = 0 →
         (∀ c l, s.walkOn w.onDie sp va = .bad c l → (s.xlate sp w kind home va n).1.flt = some ⟨c, va, l⟩ ∧ (s.xlate sp w kind home va n).2 = s) ∧
         ∀ e l at_, s.walkOn w.onDie sp va = .leaf e l at_ →
           (∀ c, leafCheck sp w kind home e (leafPa e va) = some c →
             (s.xlate sp w kind home va n).1.flt = some ⟨c, va, l⟩ ∧ (s.xlate sp w kind home va n).2 = s) ∧
           (leafCheck sp w kind home e (leafPa e va) = none →
             (write = true ∧ field e 62 1 = 1 → (s.xlate sp w kind home va n).1.wait = some va ∧ (s.xlate sp w kind home va n).2 = s) ∧
             (¬(write = true ∧ field e 62 1 = 1) → s.routed w.onDie (homeDie (leafPa e va)) = false →
               (s.xlate sp w kind home va n).1.flt = some ⟨0x24, va, 7⟩) ∧
             (¬(write = true ∧ field e 62 1 = 1) → s.routed w.onDie (homeDie (leafPa e va)) = true → ∃ x s1,
               s.xlate sp w kind home va n = (x, s1) ∧ x.segs = [(leafPa e va, n)] ∧ x.flt = none ∧ x.wait = none ∧ x.busy = false ∧
               { s1 with mem := [], tlb := [] } = { s with mem := [], tlb := [] } ∧
               StoredAt at_ 8 (if write = true then e ||| 0x60 else e ||| 0x20) s.mem s1.mem)))))) ∧
  (∀ (sp : Space) (w : Who) (kind e pa : Nat) (home : Bool), w.eng ≠ 5 → kind ≤ 3 →
     let hole := tierOf pa = .hole ∨ (tierOf pa = .regs ∧ regAt pa = false)
     let allowed := (kind = 0 ∧ field e 1 1 = 1) ∨ (kind = 1 ∧ field e 2 1 = 1) ∨ (kind = 2 ∧ field e 1 1 = 1 ∧ field e 2 1 = 1) ∨
       (kind = 3 ∧ field e 3 1 = 1 ∧ w.letter = 56)
     leafCheck sp w kind home e pa =
       if hole then some 0x08 else if home = true ∧ field e 8 2 = 2 then some 0x02 else if (tierOf pa = .regs ↔ field e 8 2 ≠ 2) then some 0x08
       else if ¬allowed then some 0x02 else if field e w.letter 1 = 0 then some 0x03
       else if sp.conf = true ∧ field e 7 1 = 0 then some 0x0A else none)

/-- R8, R84, R86, R108: a store that nothing holds back, of one aligned segment, writes exactly its bytes at its home or its local space,
and is then gone; nothing else of its context changes. One that the access table of its target refuses changes no byte, and pends a
trap of class 0x07 (R36); one whose home no link reaches any more, a trap of class 0x24 (R404). One that is no aligned access of 1, 2, 4
or 8 bytes writes one of its bytes that it has not written yet, and is gone with the last of them (R84).
Where the spec leaves it open, the model's choice: assumptions 7, 8, 32, 71 (R404 speaks of commands: that an access of a context fails so
too is the model's reading). -/
def Obligations.StoresPerformed : Prop :=
  (∀ (core ctx seq : Nat) (a : Acc) (pa n : Nat) (s s1 : State), Next core ctx seq a s → a.op = .store → a.segs = [(pa, n)] → Atomic pa n →
    a.data < 2 ^ (8 * n) → a.ans = [] → a.bad = [] → s.logWrite core ctx a.spc a.inst a.key a.segs = .ok s1 →
    let reached := s.routed (dieOf core) (homeDie pa) = true
    let granted := s.granted (shedOf core) pa n true = true
    let t := perform core ctx seq s
    (a.spc = 0 → field a.leaf 8 2 = 0 → (reached → ¬granted) →
      t.mem = s.mem ∧ Gone core ctx seq t ∧
      (t.ctx core ctx).traps.map PTrap.cls = (s.ctx core ctx).traps.map PTrap.cls ++ [if s.routed (dieOf core) (homeDie pa) = true then 0x07 else 0x24]) ∧
    (a.spc = 0 → field a.leaf 8 2 = 0 → reached → granted → s.badWrite a.segs = false → tierOf pa ≠ .regs →
      StoredAt pa n a.data s.mem t.mem ∧ ListOnly core ctx s t ∧ Gone core ctx seq t) ∧
    (a.spc = 1 → StoredAt pa n a.data (s.core core).sp (t.core core).sp ∧ t.mem = s.mem ∧ ListOnly core ctx s t ∧ Gone core ctx seq t) ∧
    (a.spc = 2 → StoredAt pa n a.data (s.shed (shedOf core)).mem (t.shed (shedOf core)).mem ∧ t.mem = s.mem ∧ ListOnly core ctx s t ∧
      Gone core ctx seq t)) ∧
  (∀ (core ctx seq : Nat) (a : Acc) (va n : Nat) (s : State), Next core ctx seq a s → a.op = .store → a.spc = 1 → a.segs = [(va, n)] → ¬Atomic va n →
    a.bad = [] → a.ans.Nodup → (∀ j ∈ a.ans, j < n) → a.ans.length < n →
    let t := perform core ctx seq s
    ∃ j, j < n ∧ j ∉ a.ans ∧ StoredAt (va + j) 1 (a.data / 2 ^ (8 * j) % 256) (s.core core).sp (t.core core).sp ∧ t.mem = s.mem ∧
      ListOnly core ctx s t ∧ (a.ans.length + 1 = n → Gone core ctx seq t) ∧
      (a.ans.length + 1 < n → { a with ans := a.ans ++ [j] } ∈ (t.ctx core ctx).pend))

/-- R84, R91, R93, R258: a load's data arrives: its destination takes the value, extended, and is full; no memory changes. -/
def Obligations.LoadsArrive : Prop :=
  ∀ (core ctx seq d : Nat) (sgn : Bool) (a : Acc) (pa n : Nat) (s : State), Next core ctx seq a s → a.op = .load sgn → a.performed = false →
    a.segs = [(pa, n)] → a.len = n → Atomic pa n → a.dst = some d → a.ans = [] → a.bad = [] → a.val = 0 →
    (a.spc = 0 ∧ field a.leaf 8 2 = 0 ∧ s.routed (dieOf core) (homeDie pa) = true ∧ s.granted (shedOf core) pa n false = true ∧
      s.badAt pa n = false ∧ tierOf pa ≠ .regs) ∨ a.spc = 1 ∨ a.spc = 2 →
    let m := if a.spc = 0 then s.mem else if a.spc = 1 then (s.core core).sp else (s.shed (shedOf core)).mem
    let v : Dword := if sgn then (BitVec.ofNat (8 * n) (readLE m pa n)).signExtend 64 else BitVec.ofNat 64 (readLE m pa n)
    ∃ t, exec (.resultArrival core ctx seq) s = .next t ∧ t.mem = s.mem ∧ Gone core ctx seq t ∧
      (∀ r, (t.ctx core ctx).rd r = if r = d ∧ d ≠ 0 then v else (s.ctx core ctx).rd r) ∧
      (∀ r, (t.ctx core ctx).full r = if r = d then true else (s.ctx core ctx).full r) ∧
      (∀ j y, ¬(j = core ∧ y = ctx) → t.ctx j y = s.ctx j y) ∧
      rest { t.ctx core ctx with s := [], sE := [], pend := [] } = rest { s.ctx core ctx with s := [], sE := [], pend := [] }

/-- R59, R115, R261, R263: an atomic at its home slice writes its result over the old value, which is what it returns.
Where the spec leaves it open, the model's choice: assumption 8. -/
def Obligations.AtomicsAtHome : Prop :=
  ∀ (core ctx seq op : Nat) (ret : Bool) (a : Acc) (pa : Nat) (s : State), Next core ctx seq a s → a.op = .rmw op ret → op ≤ 9 → a.phase = 0 → a.wait = 0 →
    a.segs = [(pa, a.len)] → a.segs2 = [] → a.len = 4 ∨ a.len = 8 → a.data < 2 ^ (8 * a.len) → a.data2 < 2 ^ (8 * a.len) →
    s.held core ctx a.key = .ok → s.cutDrops core ctx a.key = false → s.routed (dieOf core) (homeDie pa) = true →
    s.granted (shedOf core) pa a.len true = true → s.badAt pa a.len = false →
    let old := readLE s.mem pa a.len
    ∃ t, exec (.homeSliceOperation core ctx seq) s = .next t ∧
      StoredAt pa a.len (amoResult op (8 * a.len) old a.data a.data2) s.mem t.mem ∧
      (ret = false → Gone core ctx seq t) ∧
      (ret = true → ∃ b ∈ (t.ctx core ctx).pend, b.seq = seq ∧ b.performed = true ∧ b.val = old ∧ b.dst = a.dst)

/-- R66 to R70, R267, R268: a future at its home slice. A fill stores the value and sets FULL when no load waits; a load of a full word
gets the value, and `fld.take` empties it; a load of an empty word is deferred. One that waits is withdrawn when its core is being
pre-empted at safe points, its context stands stopped or a decided stop has passed its step: its place is freed and nothing is consumed; in
a bad line its context stops instead.
Where the spec leaves it open, the model's choice: assumptions 8, 107. -/
def Obligations.Futures : Prop :=
  (∀ (core ctx seq : Nat) (a : Acc) (pa : Nat) (s : State), Next core ctx seq a s → a.phase = 0 → a.segs = [(pa, 16)] → a.segs2 = [] →
     s.held core ctx a.key = .ok → s.cutDrops core ctx a.key = false → s.badAt pa 16 = false → s.MemOk →
     s.routed (dieOf core) (homeDie pa) = true →
     (a.op = .ffill → a.wait = 0 → s.granted (shedOf core) pa 16 true = true → a.data < 2 ^ 64 → s.deferred pa = [] →
       ∃ t, exec (.homeSliceOperation core ctx seq) s = .next t ∧ StoredAt pa 16 (a.data + 2 ^ 64) s.mem t.mem ∧ Gone core ctx seq t) ∧
     (∀ take, a.op = .fld take → a.asleep (s.ctx core ctx) = false → s.granted (shedOf core) pa 16 take = true →
       let full := readLE s.mem (pa + 8) 8 % 2 = 1
       ∀ i, (a.wait = 0 ∧ i = .homeSliceOperation core ctx seq) ∨ (0 < a.wait ∧ a.wait ≤ s.tick ∧ i = .futureReissue core ctx seq) →
         (full → ∃ t b, exec i s = .next t ∧ b ∈ (t.ctx core ctx).pend ∧ b.seq = seq ∧ b.performed = true ∧ b.val = readLE s.mem pa 8 ∧
           (take = true → readLE t.mem (pa + 8) 8 % 2 = 0 ∧ readLE t.mem pa 8 = readLE s.mem pa 8) ∧ (take = false → t.mem = s.mem)) ∧
         (¬full → s.placesUsed pa < 64 → ∃ t b, exec i s = .next t ∧ b ∈ (t.ctx core ctx).pend ∧ b.seq = seq ∧ b.phase = 2 ∧
           readLE t.mem (pa + 8) 8 = 2 ∧ ∀ y, ¬(pa + 8 ≤ y ∧ y < pa + 16) → byteAt t.mem y = byteAt s.mem y))) ∧
  (∀ (core ctx seq pa : Nat) (a : Acc) (s : State) (older : List Acc), findAcc seq (s.ctx core ctx).pend = some (older, a) → a.phase = 2 →
     a.segs = [(pa, 16)] → s.MemOk →
     let goes := (s.ctx core ctx).landed.isSome = true ∨ (∃ p, (s.core core).pre = some p ∧ p.safe = true ∧ ctx < 3) ∨
       (s.ctx core ctx).st = .stopped ∨ s.cutDrops core ctx a.key = true
     (¬goes → exec (.futureWithdrawal core ctx seq) s = .next s) ∧
     (goes → s.badAt pa 16 = true → ∃ t, exec (.futureWithdrawal core ctx seq) s = .next t ∧ t.mem = s.mem ∧ Gone core ctx seq t ∧
       (t.ctx core ctx).traps.map PTrap.cls = (s.ctx core ctx).traps.map PTrap.cls ++ [0x32]) ∧
     (goes → s.badAt pa 16 = false → ∃ t b, exec (.futureWithdrawal core ctx seq) s = .next t ∧ b ∈ (t.ctx core ctx).pend ∧ b = { a with phase := 0, wait := 0, retry := 0 } ∧
       readLE t.mem (pa + 8) 8 % 2 = readLE s.mem (pa + 8) 8 % 2 ∧ ∀ y, ¬(pa + 8 ≤ y ∧ y < pa + 16) → byteAt t.mem y = byteAt s.mem y))

/-! ### Traps, system registers, the system instructions (spec 14) -/

namespace Sys2Proof.Claims
open Sys2Proof Sys2Proof.Machine

/-- System registers that a read takes from one place (R328, R334), by number. -/
def srTable : List (Nat × (State → Dword)) := [
  (0x00, fun s => BitVec.ofNat 64 s.cur.genprof), (0x01, fun s => s.cur.ovftab), (0x02, fun s => s.cur.aflags),
  (0x0E, fun s => BitVec.ofNat 64 (s.core s.curCore).rewind), (0x0F, fun s => BitVec.ofNat 64 s.tick), (0x1A, fun s => BitVec.ofNat 64 (s.core s.curCore).mrowpReg),
  (0x1B, fun s => s.cur.wb0), (0x1C, fun s => s.cur.wb1), (0x1D, fun s => s.cur.spaceid.setWidth 64), (0x1F, fun s => (s.core s.curCore).psave),
  (0x28, fun s => s.cur.tvec), (0x29, fun s => s.cur.tpc), (0x2A, fun s => s.cur.tstat), (0x2B, fun s => s.cur.tctl),
  (0x2C, fun s => mget 0 s.cur.tscr 0), (0x2D, fun s => mget 0 s.cur.tscr 1), (0x2E, fun s => mget 0 s.cur.tscr 2), (0x2F, fun s => mget 0 s.cur.tscr 3),
  (0x30, fun s => mget 0 s.cur.trec 0), (0x37, fun s => mget 0 s.cur.trec 7), (0x39, fun s => BitVec.ofNat 64 (s.core s.curCore).frtail),
  (0x3A, fun s => BitVec.ofNat 64 (s.core s.curCore).frhead)]

/-- System registers of a context that a write changes, and what it leaves in the context: reserved fields stay zero (R10). -/
def swTable : List (Nat × (Dword → Ctx → Ctx)) := [
  (0x02, fun v c => { c with aflags := v &&& 0x1F }),
  (0x1B, fun v c => { c with wb0 := v &&& 0x000FFFFFFFFFF000 }), (0x1C, fun v c => { c with wb1 := v &&& 0x000FFFFFFFFFF000 }),
  (0x1D, fun v c => { c with spaceid := v.setWidth 16 }), (0x28, fun v c => { c with tvec := v }), (0x29, fun v c => { c with tpc := v }),
  (0x2A, fun v c => { c with tstat := v &&& 0xFFFFFFF000000000 }), (0x2B, fun v c => { c with tctl := v &&& 0x11F }),
  (0x2C, fun v c => { c with tscr := mset c.tscr 0 v }), (0x2F, fun v c => { c with tscr := mset c.tscr 3 v })]

/-- The need of a register read and of a register write (R327, R328). -/
def mfNeed (f : FMf) : Need :=
  { p := f.p.toNat, dst := [f.reg.toNat], undef := decide (0x3C ≤ f.srn.toNat ∧ f.srn.toNat ≤ 0x3F ∨ 0x80 ≤ f.srn.toNat),
    sys := !decide (f.srn.toNat ≤ 0x1A ∨ f.srn.toNat = 0x3B ∨ 0x40 ≤ f.srn.toNat ∧ f.srn.toNat ≤ 0x7F) }
def mtNeed (f : FMt) : Need := { p := f.p.toNat, sys := decide (f.srn ≠ 2 ∧ f.srn ≠ 0), src := [(f.reg.toNat, f.fr == 1)] }

/-- A context that enters its handler with a trap of a class, standing at `tpc` (R333, R334). -/
def Entered (cls : Nat) (tpc : Dword) (c d : Ctx) : Prop :=
  d.sys = true ∧ d.st = .running ∧ d.pc = BitVec.ofNat 64 (c.tvec.toNat / 4 * 4) ∧ d.tpc = tpc ∧ d.pfx = {} ∧ d.intrap = true ∧
    field d.tstat.toNat 56 8 = cls ∧ d.tstat.getLsbD 47 = c.sys ∧ field d.tstat.toNat 43 3 = 1 ∧
    d.trapAt = c.group ∧ rest { d with sys := false, tpc := 0, tstat := 0, trec := [], own := false, trapAt := 0 } =
      rest { c with sys := false, tpc := 0, tstat := 0, trec := [], own := false, trapAt := 0 }

/-- A context resumes, with no repeat under way, just past the instruction it stood at when it trapped (R252): its prefixes with it, memory
holds it in so many words. -/
def PastTrap (s : State) (c : Ctx) : Prop := c.pfx.k = 0 ∧ c.pc = c.trapAt + BitVec.ofNat 64 (4 * s.span c 4 c.trapAt.toNat)

/-- Where a context that resumes as c goes on, with its loop slots: the turn-back of an instruction it resumes past is examined (R252). -/
def Resumes (s : State) (c d : Ctx) : Prop :=
  (¬PastTrap s c → d.pc = c.pc ∧ d.hl0 = c.hl0 ∧ d.hl1 = c.hl1) ∧
    (PastTrap s c → (d.hl0, d.hl1, d.pc) = turnBack c.hl0 c.hl1 (c.pc - 4) c.pc)

/-- What delivering a trap leaves alone: memory, every other context, and every gate but one. -/
def TrapFrame (gate : Option Nat) (s t : State) : Prop :=
  OtherCtxs s t ∧ (∀ a, byteAt t.mem a = byteAt s.mem a) ∧ (∀ j, j ≠ s.curCore → t.core j = s.core j) ∧
    ∀ g, mget 0 (t.core s.curCore).gates g =
      if gate = some g ∧ mget 0 (s.core s.curCore).gates g < 65535 then mget 0 (s.core s.curCore).gates g + 1 else mget 0 (s.core s.curCore).gates g

end Sys2Proof.Claims

/-- R92, R93, R213, R332: what keeps a register operation from its effect: a false predicate skips it, an empty predicate or destination
makes it wait, an empty source makes it trap or wait as its selector says.
R327, R332: in program state a privileged instruction takes the privilege trap, whatever its operands.
Where the spec leaves it open, the model's choice: assumption 6. -/
def Obligations.WhatHoldsBack : Prop :=
  (∀ o ∈ rOps, ∀ (f : FR) (s : State), s.cur.pfx.legal f.need = true →
     let c := s.cur
     (c.fullP f.p.toNat = false → ∃ t, exec (o.1 f) s = .next t ∧ OnlyCur s t ∧ t.cur = { c with st := .blocked }) ∧
     (c.fullP f.p.toNat = true → c.rdP f.p.toNat = false → ∃ t, exec (o.1 f) s = .next t ∧ OnlyCur s t ∧ t.cur = c.fall 1) ∧
     (c.fullP f.p.toNat = true → c.rdP f.p.toNat = true →
       ((f.fa = 1 ∧ c.full f.a.toNat = false) ∨ (f.fb = 1 ∧ c.full f.b.toNat = false) → exec (o.1 f) s = .next (trapCur 0x28 s)) ∧
       ((f.fa = 1 → c.full f.a.toNat = true) → (f.fb = 1 → c.full f.b.toNat = true) →
         c.full f.a.toNat = false ∨ c.full f.b.toNat = false ∨ c.full f.d.toNat = false →
         ∃ t, exec (o.1 f) s = .next t ∧ OnlyCur s t ∧ t.cur = { c with st := .blocked }))) ∧
  (∀ s : State, s.cur.sys = false → s.cur.pfx = {} →
     let ok (p : BitVec 3) : Prop := s.cur.fullP p.toNat = true ∧ s.cur.rdP p.toNat = true
     (∀ f : FN0, ok f.p → exec (.tret f) s = .next (trapCur 0x31 s) ∧ exec (.tinvalAll f) s = .next (trapCur 0x31 s)) ∧
     (∀ f : FAB, ok f.p → exec (.tinvalPg f) s = .next (trapCur 0x31 s)) ∧
     (∀ f : FB1, ok f.p → exec (.tinvalSp f) s = .next (trapCur 0x31 s)) ∧
     (∀ f : FJ, ok f.p → exec (.setovf f) s = .next (trapCur 0x31 s) ∧ exec (.cres f) s = .next (trapCur 0x31 s)) ∧
     (∀ f : FU, ok f.p → exec (.cpre f) s = .next (trapCur 0x31 s)) ∧
     (∀ f : FCr, ok f.p → exec (.cresume f) s = .next (trapCur 0x31 s)) ∧
     (∀ f : FMf, ok f.p → 0x1B ≤ f.srn.toNat → f.srn.toNat ≤ 0x3A → exec (.mfsr f) s = .next (trapCur 0x31 s)) ∧
     (∀ f : FMt, ok f.p → 0x0E ≤ f.srn.toNat → f.srn.toNat ≤ 0x19 → f.srn ≠ 0x0F → exec (.mtsr f) s = .next (trapCur 0x31 s)))

/-- R333, R334, R336: a trap of the current context's own instruction. Outside a handler it enters the handler; a delegating role context
stops and its gate is raised; inside a handler it is a double trap, which stops the context.
R45, R333, R334: the record of a trap goes to the core's fault ring when the ring has room, and the ring's count advances.
Where the spec leaves it open, the model's choice: assumptions 42, 81. -/
def Obligations.TrapEntry : Prop :=
  (∀ (s : State) (cls : Nat), cls < 128 →
     let t := trapCur cls s
     let g := s.cur.tctl.toNat % 32
     let delegates := s.curCtx ≠ 3 ∧ s.cur.tctl.getLsbD 8 = true
     (¬delegates → s.cur.intrap = false → Entered cls s.cur.group s.cur t.cur ∧ TrapFrame none s t ∧ field (mget 0 t.cur.trec 0).toNat 56 8 = cls) ∧
     t.cur.trapAt = s.cur.group ∧
     (delegates → t.cur.st = .stopped ∧ t.cur.why = .delegated ∧ t.cur.pc = s.cur.pc ∧ TrapFrame (some g) s t ∧ field (mget 0 t.cur.trec 0).toNat 56 8 = cls) ∧
     (¬delegates → s.cur.intrap = true →
       t.cur.st = .stopped ∧ t.cur.why = .double ∧ field (mget 0 t.cur.trec 0).toNat 56 8 = 0x35 ∧ field (mget 0 t.cur.trec 6).toNat 57 7 = cls ∧
       TrapFrame (if s.curCtx = 3 then none else some g) s t ∧ (s.curCtx = 3 → t.hostRecs.length = s.hostRecs.length + 1))) ∧
  (∀ (s : State) (cls : Nat), cls < 128 → s.curCtx = 3 → s.cur.intrap = false →
     let c := s.core s.curCore
     let t := trapCur cls s
     let d := t.core s.curCore
     let image := (List.range 8).foldl (fun n j => n + (mget 0 t.cur.trec j).toNat * 2 ^ (64 * j)) 0
     d.recSeq = (c.recSeq + 1) % 256 ∧
     (4 ≤ c.fringLog → c.fringLog ≤ 10 → c.frtail < 2 ^ 32 → c.frhead ≤ c.frtail → c.frtail - c.frhead < 2 ^ c.fringLog → c.fringBase + 64 * 2 ^ c.fringLog ≤ 0x200000 →
       d.frtail = (c.frtail + 1) % 2 ^ 32 ∧ StoredAt (c.fringBase + 64 * (c.frtail % 2 ^ c.fringLog)) 64 image c.sp d.sp) ∧
     (c.fringLog < 4 ∨ 10 < c.fringLog → d.frtail = c.frtail ∧ d.sp = c.sp))

/-- R335, R336, R337: `trap` enters the handler with class 0x33, its code in ADDR and TPC at the next instruction; `tret` restores what
entry saved; `cresume` returns a stopped context to the state it had, and one that a pre-emption has stopped (R162) goes on. Past an instruction that trapped, the loops turn back (R252).
Where the spec leaves it open, the model's choice: assumptions 72, 81. -/
def Obligations.TrapAndReturn : Prop :=
  (∀ (f : FTrap) (s : State), Ready { p := f.p.toNat } s.cur → s.cur.intrap = false → ¬(s.curCtx ≠ 3 ∧ s.cur.tctl.getLsbD 8 = true) →
    ∃ t, exec (.trap f) s = .next t ∧ Entered 0x33 (s.cur.pc + 4) s.cur t.cur ∧ TrapFrame none s t ∧ mget 0 t.cur.trec 1 = BitVec.ofNat 64 f.code.toNat) ∧
  (∀ (f : FN0) (s : State), Ready { p := f.p.toNat, sys := true } s.cur →
    (s.cur.intrap = true → ∃ t, exec (.tret f) s = .next t ∧ OtherCtxs s t ∧ (∀ a, byteAt t.mem a = byteAt s.mem a) ∧
      let k := if s.cur.tstat.getLsbD 42 = true then field s.cur.tstat.toNat 36 6 else 0
      t.cur.sys = s.cur.tstat.getLsbD 47 ∧ t.cur.st = ctxOfCode (field s.cur.tstat.toNat 43 3) ∧ 
        Resumes s { s.cur with sys := s.cur.tstat.getLsbD 47, pc := s.cur.tpc, pfx := { k := k } } t.cur ∧
      t.cur.intrap = false ∧ t.cur.pfx = { k := k } ∧
      rest { t.cur with sys := false, tstat := 0 } = rest { s.cur with sys := false, tstat := 0 } ∧
      ∀ e, e ≤ 4 → ∀ m ∈ ((t.core s.curCore).eng e).cmds, field (m.entry.getD 6 0) 0 2 = s.curCtx → m.fault = false) ∧
    (s.cur.intrap = false → exec (.tret f) s = .next (trapCur 0x27 s))) ∧
  (∀ (f : FCr) (s : State), Ready { p := f.p.toNat, sys := true } s.cur →
    let x := f.cn.toNat
    let c := s.ctx s.curCore x
    (s.curCtx = 3 → x ≠ 3 → c.st = .stopped → c.why ≠ .double → c.why ≠ .cut → s.cur.drained = true →
      ∃ t d, exec (.cresume f) s = .next t ∧ t.cur = s.cur.fall 1 ∧ t.ctx s.curCore x = d ∧ d.st = c.preSt ∧ Resumes s c d ∧
        { d with st := c.st, why := c.why, pc := c.pc, hl0 := c.hl0, hl1 := c.hl1 } = c ∧ d.why = .none ∧ ∀ a, byteAt t.mem a = byteAt s.mem a) ∧
    (s.curCtx = 3 → x ≠ 3 → c.state = .stopped → c.st ≠ .stopped → c.why ≠ .double → c.why ≠ .cut → s.cur.drained = true →
      ∃ t, exec (.cresume f) s = .next t ∧ t.cur = s.cur.fall 1 ∧ t.ctx s.curCore x = { c with landed := none } ∧ ∀ a, byteAt t.mem a = byteAt s.mem a) ∧
    (s.curCtx ≠ 3 ∨ c.state ≠ .stopped ∨ c.why = .double ∨ c.why = .cut → exec (.cresume f) s = .next (trapCur 0x27 s)))

/-- R328, R330: reading a system register of the context itself. -/
def Obligations.SystemRegisterReads : Prop :=
  (∀ r ∈ srTable, ∀ (f : FMf) (s : State), f.xc = 0 → f.srn.toNat = r.1 → Ready (mfNeed f) s.cur →
    ∃ t, exec (.mfsr f) s = .next t ∧ WritesS f.reg.toNat (r.2 s) s t) ∧
  (∀ (f : FMf) (s : State), f.xc = 0 → f.srn ≠ 0x26 → f.srn ≠ 0x27 → Ready (mfNeed f) s.cur → ∃ t v, exec (.mfsr f) s = .next t ∧ WritesS f.reg.toNat v s t) ∧
  ∀ (f : FMf) (s : State), f.xc = 1 → ¬(s.curCtx = 3 ∧ s.cur.sys = true) → Ready (mfNeed f) s.cur → exec (.mfsr f) s = .next (trapCur 0x27 s)

/-- R10, R328, R330, R334, R337: writing a system register of the context itself, or of an idle or stopped context from c3; a write that no
state may make is an illegal operand. -/
def Obligations.SystemRegisterWrites : Prop :=
  (∀ r ∈ swTable, ∀ (f : FMt) (s : State), f.srn.toNat = r.1 → Ready (mtNeed f) s.cur →
    let v := s.cur.rd f.reg.toNat
    (f.xc = 0 → ∃ t, exec (.mtsr f) s = .next t ∧ OnlyCur s t ∧ t.cur = (r.2 v s.cur).fall 1) ∧
    (f.xc = 1 → s.curCtx = 3 → s.cur.sys = true → (s.ctx s.curCore f.cx.toNat).state = .idle ∨ (s.ctx s.curCore f.cx.toNat).state = .stopped → f.cx ≠ 3 →
      ∃ t, exec (.mtsr f) s = .next t ∧ t.cur = s.cur.fall 1 ∧ t.ctx s.curCore f.cx.toNat = r.2 v (s.ctx s.curCore f.cx.toNat) ∧
        ∀ a, byteAt t.mem a = byteAt s.mem a) ∧
    (f.xc = 1 → ¬(s.curCtx = 3 ∧ s.cur.sys = true) → exec (.mtsr f) s = .next (trapCur 0x27 s))) ∧
  (∀ (f : FMt) (s : State), f.xc = 0 → f.srn ∈ ([0x01, 0x03, 0x04, 0x08, 0x0C, 0x0F, 0x1A, 0x3B] : List (BitVec 8)) →
    Ready { p := f.p.toNat, src := [(f.reg.toNat, f.fr == 1)] } s.cur → exec (.mtsr f) s = .next (trapCur 0x27 s)) ∧
  (∀ (f : FJ) (s : State), Ready { p := f.p.toNat, sys := true, src := [(f.a.toNat, f.fa == 1)] } s.cur →
    let v := s.cur.rd f.a.toNat
    let legal := v.toNat < 2 ^ 32 ∧ ∀ i, i < 16 → field v.toNat (2 * i) 2 ≠ 3
    (legal → (s.core s.curCore).engDone s.curCtx = true → ∃ t, exec (.setovf f) s = .next t ∧ OnlyCur s t ∧ t.cur = ({ s.cur with ovftab := v } : Ctx).fall 1) ∧
    (legal → (s.core s.curCore).engDone s.curCtx = false → ∃ t, exec (.setovf f) s = .next t ∧ OnlyCur s t ∧ t.cur = { s.cur with st := .blocked }) ∧
    (¬legal → exec (.setovf f) s = .next (trapCur 0x27 s)))

/-- R34, R339: an invalidation that nothing holds back discards exactly the pen's translations it names; results of
the pen's walks that no access has used are dropped, and its walks under way begin again. R182, R340: `rfinv` discards the pen's
reflection entries whose ranges the operand meets, `rfclr` all of them.
Where the spec leaves it open, the model's choice: assumption 9. -/
def Obligations.Invalidation : Prop :=
  (∀ (s : State) (i : Instr) (kept : Tlb → Bool),
     let pen := (s.penOf s.curCore).getD 16
     ((∃ f : FAB, i = .tinvalPg f ∧ Ready { p := f.p.toNat, sys := true, src := [(f.a.toNat, f.fa == 1), (f.b.toNat, f.fb == 1)] } s.cur ∧
         ∀ t, kept t = !(t.pen == pen && (t.glob || t.spaceid == (s.cur.rd f.b.toNat).setWidth 16) &&
           decide (t.vbase ≤ (s.cur.rd f.a.toNat).toNat ∧ (s.cur.rd f.a.toNat).toNat < t.vbase + t.size))) ∨
       (∃ f : FB1, i = .tinvalSp f ∧ Ready { p := f.p.toNat, sys := true, src := [(f.b.toNat, f.fb == 1)] } s.cur ∧
         ∀ t, kept t = !(t.pen == pen && !t.glob && t.spaceid == (s.cur.rd f.b.toNat).setWidth 16)) ∨
       (∃ f : FN0, i = .tinvalAll f ∧ Ready { p := f.p.toNat, sys := true } s.cur ∧ ∀ t, kept t = !(t.pen == pen))) →
     (s.cur.drained = true → s.invalDone pen (s.tlb.filter (fun t => !kept t)) = true →
       ∃ t, exec i s = .next t ∧ t.tlb = s.tlb.filter kept ∧
         t.walks = (s.walks.filter (fun k => !(k.pen == pen && k.done))).map (fun k => if k.pen = pen then { k with level := 4, table := k.sp.root k.va, leaf := none } else k) ∧
         t.cur = s.cur.fall 1 ∧ (∀ a, byteAt t.mem a = byteAt s.mem a) ∧
         ∀ j y, ¬(j = s.curCore ∧ y = s.curCtx) → { t.ctx j y with wblk := none } = { s.ctx j y with wblk := none }) ∧
     (s.cur.drained = false → ∃ t, exec i s = .next t ∧ OnlyCur s t ∧ t.cur = { s.cur with st := .blocked })) ∧
  (∀ (s : State) (pn : Nat), s.penOf s.curCore = some pn →
     (∀ f : FAB, Ready { p := f.p.toNat, src := [(f.a.toNat, f.fa == 1), (f.b.toNat, f.fb == 1)] } s.cur →
       let a := (s.cur.rd f.a.toNat).toNat
       let n := (s.cur.rd f.b.toNat).toNat
       ∃ t, exec (.rfinv f) s = .next t ∧ t.cur = s.cur.fall 1 ∧ OtherCtxs s t ∧ (∀ x, byteAt t.mem x = byteAt s.mem x) ∧
         ∀ e, e ∈ (t.pen pn).refl ↔ e ∈ (s.pen pn).refl ∧ ∀ r ∈ e.ins ++ e.watch, n = 0 ∨ a + n ≤ r.1 ∨ r.1 + r.2 ≤ a) ∧
     (∀ f : FN0, Ready { p := f.p.toNat } s.cur → ∃ t, exec (.rfclr f) s = .next t ∧ t.cur = s.cur.fall 1 ∧ OtherCtxs s t ∧
       (t.pen pn).refl = [] ∧ ∀ x, byteAt t.mem x = byteAt s.mem x))

/-- R151, R154, R338, R398: `stop` asks the pen's cut controller, and waits for its answer, which it writes to pd; an instance number of 0, or
a context other than c3, is an illegal operand. The controller begins a stop, or refuses while one is in progress; of the requests of
one tick it serves the host's first.
Where the spec leaves it open, the model's choice: that the requests of a tick are served as it ends (assumption 3). -/
def Obligations.StopRequest : Prop :=
  (∀ (f : FStop) (s : State),
    Ready { p := f.p.toNat, undef := decide (f.a.toNat % 2 = 1), src := [(f.a.toNat, f.fa == 1), (f.a.toNat + 1, f.fa == 1)], pdst := [f.pd.toNat] } s.cur →
    let v := (s.cur.rd f.a.toNat).toNat + (s.cur.rd (f.a.toNat + 1)).toNat * 2 ^ 64
    (∀ n, s.cur.req = some (7, n + 1) →
      ∃ t, exec (.stop f) s = .next t ∧ OnlyCur s t ∧ t.cur = (s.cur.wrP f.pd.toNat (decide (n = 1))).fall 1) ∧
    (s.cur.req = none →
      (s.curCtx ≠ 3 ∨ v < 2 ^ 96 → exec (.stop f) s = .next (trapCur 0x27 s)) ∧
      (s.curCtx = 3 → 2 ^ 96 ≤ v → ∀ pn, s.penOf s.curCore = some pn →
        (s.cur.drained = false → exec (.stop f) s = .next (blockCur s)) ∧
        (s.cur.drained = true → ∃ t, exec (.stop f) s = .next t ∧ OtherCtxs s t ∧ (∀ a, byteAt t.mem a = byteAt s.mem a) ∧
          t.pen pn = { s.pen pn with cutAsks := (s.pen pn).cutAsks ++ [(4 * s.curCore + 4, v)] } ∧
          t.cur = { s.cur with st := .blocked, req := some (7, 0), asked := some (.stop f) })))) ∧
  (∀ (s : State) (pn core v : Nat), 2 ^ 96 ≤ v → v < 2 ^ 128 → (s.ctx core 3).req = some (7, 0) →
    let t := s.cutAnswer pn (4 * core + 4, v)
    ((s.pen pn).cutBusy = true → t.pen pn = s.pen pn ∧ t.ctx core 3 = { s.ctx core 3 with req := some (7, 1) }) ∧
    ((s.pen pn).cutBusy = false → t.ctx core 3 = { s.ctx core 3 with req := some (7, 2) } ∧ t.mem = s.mem ∧
      (t.pen pn).cutBusy = true ∧ (t.pen pn).cutDone = false ∧ (t.pen pn).cutreq.toNat = v ∧
      ((t.pen pn).cutNoinst = false ↔ ∃ i ∈ s.insts, i.pen = pn ∧ i.num = v / 2 ^ 96 ∧ i.brkHeld = false))) ∧
  (∀ (s : State) (pn core v w : Nat) (p : Pen), s.pens = [(pn, p)] → p.cutAsks = [(4 * core + 4, v), (0, w)] → p.cutBusy = false →
    2 ^ 96 ≤ w → w < 2 ^ 128 → (s.ctx core 3).req = some (7, 0) →
    let t := s.cutServe
    (t.pen pn).cutreq.toNat = w ∧ (t.pen pn).cutackAccept = true ∧ (t.pen pn).cutAsks = [] ∧ (t.ctx core 3).req = some (7, 1))

/-- R332, R345, R349: `cpre` of a core with nothing bound answers 0, and with the area written its length; `cres` of an area that may be
restored binds its instance with the gates and counters it holds. Both are for c3; what makes them an illegal operand is found before a
misaligned area.
Where the spec leaves it open, the model's choice: assumption 50. -/
def Obligations.SaveAndRestore : Prop :=
  (∀ (f : FU) (s : State), Ready { p := f.p.toNat, sys := true, src := [(f.a.toNat, f.fa == 1)], dst := [f.d.toNat] } s.cur →
    let va := (s.cur.rd f.a.toNat).toNat
    let c := s.core s.curCore
    let barred := c.pre = none ∧ ∃ x ∈ [0, 1, 2], (c.ctx x).st = .stopped ∨ (c.ctx x).intrap = true
    (s.curCtx ≠ 3 ∨ barred → exec (.cpre f) s = .next (trapCur 0x27 s)) ∧
    (s.curCtx = 3 → ¬barred → va % 4096 ≠ 0 → exec (.cpre f) s = .next (trapAccess kWrite va 4096 ⟨0x29, va, 7⟩ s)) ∧
    (s.curCtx = 3 → ¬barred → va % 4096 = 0 → c.pre = none → (s.pen ((s.penOf s.curCore).getD 16)).cutBusy = false → c.bind = none →
      ∃ t, exec (.cpre f) s = .next t ∧ WritesS f.d.toNat 0 s t) ∧
    (s.curCtx = 3 → va % 4096 = 0 → ∀ p n s1, c.pre = some p → p.byC3 = true →
      s.savePre s.curCore s.cur.space (s.whoCtx s.curCore 3 s.cur.group.toNat) = .done n s1 →
      ∃ t, exec (.cpre f) s = .next t ∧ t.cur = (s1.cur.wr f.d.toNat (BitVec.ofNat 64 n)).fall 1 ∧ OnlyCur s1 t)) ∧
  (∀ (f : FJ) (s : State), Ready { p := f.p.toNat, sys := true, src := [(f.a.toNat, f.fa == 1)] } s.cur →
    let va := (s.cur.rd f.a.toNat).toNat
    let c := s.core s.curCore
    let idle := (∀ x ∈ [0, 1, 2], (c.ctx x).st = .idle) ∧ c.bind = none
    let area := s.loadArea s.cur.space (s.whoCtx s.curCore 3 s.cur.group.toNat) va
    (s.curCtx ≠ 3 ∨ ¬idle → exec (.cres f) s = .next (trapCur 0x27 s)) ∧
    (s.curCtx = 3 → idle → va % 4096 ≠ 0 → exec (.cres f) s = .next (trapAccess kRead va 4096 ⟨0x29, va, 7⟩ s)) ∧
    (s.curCtx = 3 → idle → va % 4096 = 0 → s.cur.drained = true →
      (∀ s1, area = .refused s1 → exec (.cres f) s = .next (trapCur 0x27 s1)) ∧
      (∀ e s1, area = .fault e s1 → exec (.cres f) s = .next (trapAccess kRead e.addr 64 e s1)) ∧
      (∀ a s1, area = .ok a s1 →
        (s1.mayRestore s1.curCore a = false → exec (.cres f) s = .next (trapCur 0x27 s1)) ∧
        (s1.mayRestore s1.curCore a = true → (s1.core s1.curCore).shadowRoom a = true → ∀ s2, s1.restore s1.curCore a = (true, s2) →
          ∃ t, exec (.cres f) s = .next t ∧ ((t.core s.curCore).bind.map Bind.inst) = some (field a.head 480 32) ∧
            (∀ g, g < 32 → mget 0 (t.core s.curCore).gates g = readLE a.fixed (0x40 + 2 * g) 2) ∧
            ∀ i, i < 64 → mget 0 (t.core s.curCore).ctrs i = (BitVec.ofNat 32 (readLE a.fixed (0x80 + 4 * i) 4)).toInt))))

/-! ### Engine commands at issue (spec 03, 06, 09, 12, 13) -/

namespace Sys2Proof.Claims
open Sys2Proof Sys2Proof.Machine

/-- The vector commands of format EV that return nothing to the context. -/
noncomputable def evCmds0 : List (FEV → Tail → Instr) := [
  .vadd, .vsub, .vadds, .vsubs, .vmul, .vmulh, .vmin, .vmax,
  .vand, .vor, .vxor, .vandn, .vabs, .vneg, .vavg, .vabsd,
  .vfadd, .vfsub, .vfmul, .vfdiv, .vfmin, .vfmax, .vfabs, .vfneg,
  .vfma, .vfms, .vfnma, .vfnms, .vmac, .vmacs, .vcmpEq, .vcmpNe,
  .vcmpLt, .vcmpLe, .vcmpGt, .vcmpGe, .vcmpUn, .vsel, .vshl, .vshr]

/-- The vector commands of format EV that return nothing to the context. -/
noncomputable def evCmds1 : List (FEV → Tail → Instr) := [
  .vsra, .vrotr, .vshlImm, .vshrImm, .vsraImm, .vrotrImm, .vcvt, .vcvtWrap,
  .vwiden, .vnarrow, .vnarrowWrap, .vscanSum, .vscanMin, .vscanMax, .vperm, .vzipLo,
  .vzipHi, .vunzipEv, .vunzipOd, .vrev, .vbcast, .vexp2, .vlog2, .vrcp,
  .vrsqrt, .vsqrt, .vsinpi, .vcospi, .vtanh, .vsigm, .vexp, .vlog]

/-- The vector commands of format EV that return nothing to the context. -/
noncomputable def evCmds : List (FEV → Tail → Instr) := evCmds0 ++ evCmds1

/-- The vector reductions, which return a scalar (R293). -/
noncomputable def redCmds : List (FEV → Tail → Instr) := [
  .vrsum, .vrmin, .vrmax, .vrand, .vror, .vrxor]

/-- The vector commands on tiles, of format ET. -/
noncomputable def etCmds : List (FET → Tail → Instr) := [
  .vtrd, .vtwr, .vtacc]

/-- The commands of format ES: the engine whose ring takes them (1 M, 2 V, 3 X, 4 F), and which of the slots A, B and C are scalars. -/
noncomputable def esCmds0 : List ((FES → Tail → Instr) × Nat × Bool × Bool × Bool) := [
  (.vld, 2, true, false, false), (.vst, 2, true, false, false), (.vldStr, 2, true, false, true), (.vstStr, 2, true, false, true),
  (.vldl, 2, true, false, false), (.vstl, 2, true, false, false), (.vldlX, 2, true, false, false), (.vstlX, 2, true, false, false),
  (.vgather, 2, true, false, false), (.vscatter, 2, true, false, false), (.vamoAdd 0, 2, true, false, false), (.vamoAdd 1, 2, true, false, false),
  (.vamoMin 0, 2, true, false, false), (.vamoMin 1, 2, true, false, false), (.vamoMax 0, 2, true, false, false), (.vamoMax 1, 2, true, false, false),
  (.vamoAnd 0, 2, true, false, false), (.vamoAnd 1, 2, true, false, false), (.vamoOr 0, 2, true, false, false), (.vamoOr 1, 2, true, false, false),
  (.vamoXor 0, 2, true, false, false), (.vamoXor 1, 2, true, false, false), (.vamoSwap 0, 2, true, false, false), (.vamoSwap 1, 2, true, false, false),
  (.vamoXsum 0, 2, true, false, false), (.vamoXsum 1, 2, true, false, false), (.vaddS, 2, false, false, true), (.vsubS, 2, false, false, true),
  (.vaddsS, 2, false, false, true), (.vsubsS, 2, false, false, true), (.vmulS, 2, false, false, true), (.vmulhS, 2, false, false, true),
  (.vminS, 2, false, false, true), (.vmaxS, 2, false, false, true), (.vandS, 2, false, false, true), (.vorS, 2, false, false, true),
  (.vxorS, 2, false, false, true), (.vandnS, 2, false, false, true), (.vavgS, 2, false, false, true), (.vabsdS, 2, false, false, true)]

/-- The commands of format ES: the engine whose ring takes them (1 M, 2 V, 3 X, 4 F), and which of the slots A, B and C are scalars. -/
noncomputable def esCmds1 : List ((FES → Tail → Instr) × Nat × Bool × Bool × Bool) := [
  (.vfaddS, 2, false, false, true), (.vfsubS, 2, false, false, true), (.vfmulS, 2, false, false, true), (.vfdivS, 2, false, false, true),
  (.vfminS, 2, false, false, true), (.vfmaxS, 2, false, false, true), (.tld, 1, true, true, false), (.tst, 1, true, true, false),
  (.tzero, 1, false, false, false), (.spub, 1, true, true, false), (.ssub, 1, false, false, false), (.sunsub, 1, false, false, false),
  (.copy, 3, true, true, true), (.copySt, 3, true, true, true), (.mcast, 3, true, true, true), (.fill, 3, true, true, true),
  (.cvcopy, 3, true, true, true), (.wtgt, 4, true, true, false), (.wini, 4, true, false, false), (.wclose, 4, false, false, false),
  (.put, 4, true, true, true), (.get, 4, true, true, true), (.ramoAdd, 4, true, true, true), (.ramoAnd, 4, true, true, true),
  (.ramoOr, 4, true, true, true), (.ramoXor, 4, true, true, true), (.ramoMin, 4, true, true, true), (.ramoMax, 4, true, true, true),
  (.ramoMinu, 4, true, true, true), (.ramoMaxu, 4, true, true, true), (.ramoSwap, 4, true, true, true), (.fchain, 4, true, true, true)]

/-- The commands of format ES: the engine whose ring takes them (1 M, 2 V, 3 X, 4 F), and which of the slots A, B and C are scalars. -/
noncomputable def esCmds : List ((FES → Tail → Instr) × Nat × Bool × Bool × Bool) := esCmds0 ++ esCmds1

/-- The collectives (R324). -/
noncomputable def collCmds : List (BitVec 2 → FES → Tail → Instr) := [
  .collSum, .collMin, .collMax]

/-- The fields of a tail whose enables are 0 hold 0 (R225). -/
def tailLegal (t : Tail) : Prop := (t.ae = 0 → t.ag = 0) ∧ (t.re = 0 → t.rg = 0) ∧ (t.ce = 0 → t.ctr = 0)

/-- The commands whose tail holds a rounding mode in bits 2:0 (R220), and for which types: float arithmetic and fused multiply-add,
special functions and the converting copy always; a conversion with a float on either side; a float sum, scan or slice addition; a
tile store that narrows; a float sum of a group. -/
def rounds (i : Instr) (t : Tail) : Bool :=
  let float := t.esp.getLsbD 9
  match i with
  | .vfadd _ _ | .vfsub _ _ | .vfmul _ _ | .vfdiv _ _ | .vfaddS _ _ | .vfsubS _ _ | .vfmulS _ _ | .vfdivS _ _ => true
  | .vfma _ _ | .vfms _ _ | .vfnma _ _ | .vfnms _ _ | .cvcopy _ _ => true
  | .vexp2 _ _ | .vlog2 _ _ | .vrcp _ _ | .vrsqrt _ _ | .vsqrt _ _ | .vsinpi _ _ | .vcospi _ _ | .vtanh _ _ | .vsigm _ _ | .vexp _ _ | .vlog _ _ => true
  | .vcvt f _ | .vwiden f _ | .vnarrow f _ => float || f.bx.getLsbD 3
  | .vrsum _ _ | .vscanSum _ _ | .vtacc _ _ => float
  | .tst _ _ => decide (2 ≤ t.esp.toNat / 8 % 4)
  | .collSum ty _ _ => ty != 3
  | _ => false

/-- The tail is legal: fields without their enable are 0, and a rounding mode is none of the codes 6 and 7 (R220, R225). -/
def TailGood (i : Instr) (t : Tail) : Prop := tailLegal t ∧ ¬(rounds i t = true ∧ 6 ≤ t.esp.toNat % 8)

/-- The ring of engine e takes a command of the current context: its LOGSIZE is legal and it has a free entry (R163), no context of a
higher number has appended in this tick (R95), and no fence holds fabric commands back (R127). -/
def RingTakes (e : Nat) (s : State) : Prop :=
  let g := (s.core s.curCore).eng e
  4 ≤ g.logsize ∧ g.logsize ≤ 12 ∧ g.tail - g.head < 2 ^ g.logsize ∧ ¬(g.last.1 = s.tick ∧ s.curCtx < g.last.2) ∧
    (e = 4 → s.cur.fencesRm = false)

/-- A core without its contexts, engines and scratchpad. -/
def butRings (c : Core) : Core := { c with ctxs := [], engs := [], sp := [] }

/-- The current context appended a command to the ring of engine e (R95, R97, R164): the entry stands at index TAIL, TAIL advances, and the
command goes on; `ret` is a scalar that the command returns, empty from now on (R91). -/
def Appends (e : Nat) (i : Instr) (a b c inst : Nat) (k : Coord) (ret : Option Nat) (s t : State) : Prop :=
  let g := (s.core s.curCore).eng e
  let w := encode i
  let entry : List Nat := [w.1 + w.2 * 2 ^ 32, a, b, c, inst % 2 ^ 32 + k.pack % 2 ^ 32 * 2 ^ 32, k.pack / 2 ^ 32, s.curCtx, 0]
  OnlyCores s t ∧ (∀ j, j ≠ s.curCore → t.core j = s.core j) ∧ OtherCtxs s t ∧ butRings (t.core s.curCore) = butRings (s.core s.curCore) ∧
    (∀ x, (t.core s.curCore).eng x =
      if x = e then { g with tail := g.tail + 1, last := (s.tick, s.curCtx),
                             apps := g.apps ++ [{ idx := g.tail, ctx := s.curCtx, seq := s.cur.seq, entry := entry }] }
      else (s.core s.curCore).eng x) ∧
    StoredAt (g.base + 64 * (g.tail % 2 ^ g.logsize)) 64 (entry.foldr (fun x n => x + 2 ^ 64 * n) 0) (s.core s.curCore).sp (t.core s.curCore).sp ∧
    GoesOn 2 s.cur t.cur ∧ (∀ m, t.cur.full m = if ret = some m ∧ m ≠ 0 then false else s.cur.full m) ∧
    rest { t.cur with sE := [] } = rest { s.cur with sE := [] }

/-- What an append comes to: the undefined-instruction trap for an illegal tail, whatever the predicate; the illegal-operand trap when the
stage serves no step or the ring has no legal size; a wait at a full ring, for its turn in the tick's order, or behind a fence; else the
command in its ring. -/
def CommandIssues (e : Nat) (i : Instr) (need : Need) (t : Tail) (a b c : Nat) (ret : Option Nat) (s : State) : Prop :=
  (¬TailGood i t → exec i s = .next (trapCur 0x20 s)) ∧ (Ready need s.cur → TailGood i t →
    (s.stageKey t.stage.toNat = none → exec i s = .next (trapCur 0x27 s)) ∧
    (∀ inst k, s.stageKey t.stage.toNat = some (inst, k) →
      let g := (s.core s.curCore).eng e
      (g.logsize < 4 ∨ 12 < g.logsize → exec i s = .next (trapCur 0x27 s)) ∧
      (4 ≤ g.logsize → g.logsize ≤ 12 → ¬RingTakes e s → ∃ t, exec i s = .next t ∧ OnlyCur s t ∧ t.cur = { s.cur with st := .blocked }) ∧
      (RingTakes e s → ∃ u, exec i s = .next u ∧ Appends e i a b c inst k ret s u)))

/-- Scalar slots: what a command reads at issue, and their values (R221, R217). -/
def slotReads (f : FES) (ka kb kc : Bool) : List (Nat × Bool) :=
  (if ka then [(f.sa.toNat, f.fa == 1)] else []) ++ (if kb then [(f.sb.toNat, f.fb == 1)] else []) ++ (if kc then [(f.sc.toNat, f.fc == 1)] else [])

def slotAVal (f : FES) (ka : Bool) (s : State) : Nat :=
  if ka then (s.cur.rd f.sa.toNat + BitVec.ofInt 64 (if s.cur.pfx.xims = [] then 0 else immS 0 0 s.cur.pfx.xims)).toNat else 0

end Sys2Proof.Claims

/-- R95, R97, R163, R164, R221: the vector commands of format EV enter the ring of V; a reduction marks its scalar empty.
Where the spec leaves it open, the model's choice: a rounding code of 6 or 7 in the tail of a command that rounds is the
undefined-instruction trap at issue, whatever the predicate (assumption 34; R198, R220, R225, R230). -/
def Obligations.VectorCommandsIssue : Prop :=
  (∀ o ∈ evCmds, ∀ (f : FEV) (t : Tail) (s : State),
    CommandIssues 2 (o f t) { p := f.p.toNat, words := 2, rep := some (true, true, true, false) } t 0 0 0 none s) ∧
  (∀ o ∈ redCmds, ∀ (f : FEV) (t : Tail) (s : State),
    CommandIssues 2 (o f t) { p := f.p.toNat, words := 2, rep := some (true, true, true, false), dst := [f.dx.toNat] } t 0 0 0 (some f.dx.toNat) s)

/-- R95, R163, R164, R221, R224: the commands of formats ES and ET enter their engine's ring with the values of their scalar slots; a tile
slice index outside 0 to 31 is an illegal operand.
Where the spec leaves it open, the model's choice: a rounding code of 6 or 7 in the tail of a command that rounds is the
undefined-instruction trap at issue, whatever the predicate (assumption 34; R198, R220, R225, R230). -/
def Obligations.ScalarSlotCommandsIssue : Prop :=
  (∀ o ∈ esCmds, ∀ (f : FES) (t : Tail) (s : State),
    CommandIssues o.2.1 (o.1 f t)
      { p := f.p.toNat, words := 2, xim := 2, rep := some (true, true, true, false), src := slotReads f o.2.2.1 o.2.2.2.1 o.2.2.2.2 } t
      (slotAVal f o.2.2.1 s) (if o.2.2.2.1 then (s.cur.rd f.sb.toNat).toNat else 0) (if o.2.2.2.2 then (s.cur.rd f.sc.toNat).toNat else 0) none s) ∧
  (∀ (fmtb : BitVec 4) (f : FES) (t : Tail) (s : State) (i : Instr), i = .mma fmtb f t ∨ i = .mmas fmtb f t →
    CommandIssues 1 i { p := f.p.toNat, words := 2, xim := 2, rep := some (true, true, true, false), src := slotReads f true true true } t
      (slotAVal f true s) (s.cur.rd f.sb.toNat).toNat (s.cur.rd f.sc.toNat).toNat none s) ∧
  (∀ o ∈ etCmds, ∀ (f : FET) (t : Tail) (s : State),
    let need : Need := { p := f.p.toNat, words := 2, rep := some (true, true, false, true), src := [(f.sx.toNat, f.fx == 1)] }
    let x := (s.cur.rd f.sx.toNat + f.ix.setWidth 64).toNat
    (x ≤ 31 → CommandIssues 2 (o f t) need t x 0 0 none s) ∧ (31 < x → Ready need s.cur → TailGood (o f t) t → exec (o f t) s = .next (trapCur 0x27 s)))

/-- R143, R324: a collective enters the ring of F with its group's number and its length; a length of 2^20 or more, or a group the pen may
not use, is an illegal operand.
Where the spec leaves it open, the model's choice: a rounding code of 6 or 7 in the tail of a command that rounds is the
undefined-instruction trap at issue, whatever the predicate (assumption 34; R198, R220, R225, R230);
which groups a pen may use (assumption 43). -/
def Obligations.CollectivesIssue : Prop :=
  ∀ o ∈ collCmds, ∀ (ty : BitVec 2) (f : FES) (t : Tail) (s : State),
    let gr := t.esp.toNat / 32
    let need : Need := { p := f.p.toNat, words := 2, xim := 2, rep := some (true, true, true, false),
                          src := slotReads f true true true ++ [(gr, decide (t.esp.toNat / 16 % 2 = 1))] }
    let len := (s.cur.rd f.sc.toNat).toNat
    let g := (s.cur.rd gr).toNat
    (len < 2 ^ 20 → s.groupOk s.curCore g = true →
      CommandIssues 4 (o ty f t) need t (slotAVal f true s) (s.cur.rd f.sb.toNat).toNat (len + g * 2 ^ 52) none s) ∧
    (2 ^ 20 ≤ len ∨ s.groupOk s.curCore g = false → Ready need s.cur → TailGood (o ty f t) t → exec (o ty f t) s = .next (trapCur 0x27 s))

/-! ### Events: engines and their rings, chains, multicasts (spec 03, 04, 05, 06, 12, 13) -/

namespace Sys2Proof.Claims
open Sys2Proof Sys2Proof.Machine

/-- A context but for its list of pending accesses. -/
def butPend (c : Ctx) : Ctx := { c with pend := [] }

/-- Element j, of w bits, of a vector register (R281). -/
def lane (w x j : Nat) : Nat := x / 2 ^ (w * j) % 2 ^ w

/-- Integer functions of R289 that wrap: each with its number. -/
def laneOps : List (Nat × (Int → Int → Int)) := [
  (0, fun a b => a + b), (1, fun a b => a - b), (4, fun a b => a * b), (14, fun a b => (a + b + 1) / 2), (15, fun a b => |a - b|)]

/-- An integer element's value. -/
def laneVal (sgn : Bool) (w x : Nat) : Int := if sgn = true then (BitVec.ofNat w x).toInt else x

/-- A command none of whose units, rows or groups has run yet, and that raises no gate. -/
def Untouched (m : Cmd) : Prop :=
  m.done = 0 ∧ m.flags = 0 ∧ m.places = [] ∧ m.units = [] ∧ m.got = [] ∧ m.shape = [] ∧ m.re = false

/-- Engine e of a core completes its command m: the command leaves the ring, and no memory changes. -/
def Completes (core e : Nat) (m : Cmd) (s t : State) : Prop :=
  exec (.engineCommandComplete core e) s = .next t ∧ t.mem = s.mem ∧ ∀ c ∈ (t.eng core e).cmds, c.idx = m.idx → c.ended = true

/-- Only tile n of a core has changed, and holds x i j in row i and column j. -/
def TileIs (core n : Nat) (x : Nat → Nat → BitVec 32) (s t : State) : Prop :=
  (∀ i j, i < 32 → j < 32 → mget 0 (t.core core).tiles (1024 * n + 32 * i + j) = x i j) ∧
    (∀ k, ¬(1024 * n ≤ k ∧ k < 1024 * (n + 1)) → mget 0 (t.core core).tiles k = mget 0 (s.core core).tiles k) ∧
    (t.core core).sp = (s.core core).sp ∧ ∀ j, j ≠ core → t.core j = s.core j

/-- An agent serves no pure instance (R181). -/
def AgentNotPure (w : Who) (s : State) : Prop := w.ctx = 3 ∨ ∀ i, s.inst? w.inst = some i → i.pure = false

end Sys2Proof.Claims

/-- R94, R96, R98, R99, R102, R165: an engine starts the oldest command of its ring once the accesses before its append are performed, its
counter reads zero and its gate has a unit, which it takes; a command that completes delivers its bytes, raises its gate, ORs its flags
into AFLAGS and leaves the ring. An entry is read once; one that its engine's first checks refuse leaves the ring with a trap of class
0x22 pending (R225).
Where the spec leaves it open, the model's choice: assumption 12; that a command starts only when the one before it has read its record
(assumption 77); that the counter is asked at each try, while the command waits on its gate too (assumption 98); that what a store has made of
an entry is refused before its gate and its counter are awaited (assumption 123). -/
def Obligations.EngineCommands : Prop :=
  (∀ (core e : Nat) (s : State) (a : App) (l : List App), (s.eng core e).apps = a :: l →
    ((s.ctx core a.ctx).drainedBefore a.seq = false ∨ (s.eng core e).starting = true → exec (.engineCommandStart core e) s = .next s) ∧
    ((s.ctx core a.ctx).drainedBefore a.seq = true → (s.eng core e).starting = false →
      (a.read = true ∨ ∀ i, i < a.entry.length → readLE (s.core core).sp ((s.eng core e).slotAt a.idx + 8 * i) 8 = a.entry.getD i 0) →
      let m : Cmd := { idx := a.idx, entry := a.entry, started := true }
      let waits := (m.ce = true ∧ delivers m = false ∧ m.streams = false ∧ mget 0 (s.core core).ctrs m.ctr ≠ 0) ∨ s.entryWait core e m = true
      (m.tailBad = true ∨ m.mine e = false → ∃ t, exec (.engineCommandStart core e) s = .next t ∧ (t.eng core e).apps = l ∧ t.mem = s.mem ∧
        (∀ c ∈ (t.eng core e).cmds, c.idx = m.idx → c.ended = true) ∧ (∀ g, mget 0 (t.core core).gates g = mget 0 (s.core core).gates g) ∧
        (t.ctx core m.ctx).traps.map PTrap.cls = (s.ctx core m.ctx).traps.map PTrap.cls ++ [0x22]) ∧
      (m.tailBad = false → m.mine e = true → waits → ∃ t, exec (.engineCommandStart core e) s = .next t ∧
        (t.eng core e).apps = { a with read := true } :: l ∧ (t.eng core e).cmds = (s.eng core e).cmds ∧ t.mem = s.mem ∧
        (∀ g, mget 0 (t.core core).gates g = mget 0 (s.core core).gates g) ∧ ∀ j y, t.ctx j y = s.ctx j y) ∧
      (m.tailBad = false → m.mine e = true → ¬waits → (e = 3 → m.major = 0x6A) →
        (m.ae = true → (s.core core).waiters m.ag = [] ∧ 1 ≤ mget 0 (s.core core).gates m.ag) →
        ∃ t n, exec (.engineCommandStart core e) s = .next t ∧ (t.eng core e).apps = l ∧ n ∈ (t.eng core e).cmds ∧ { n with ok := false } = m ∧
          (m.major ≠ 0x65 → n = m) ∧ t.mem = s.mem ∧
          (∀ g, mget 0 (t.core core).gates g = if m.ae = true ∧ g = m.ag then mget 0 (s.core core).gates g - 1 else mget 0 (s.core core).gates g) ∧
          ∀ j y, butPend (t.ctx j y) = butPend (s.ctx j y)))) ∧
  (∀ (core e fl n : Nat) (m : Cmd) (s s0 s1 : State), s.pick core e = (some m, s0) →
    s0.run core e { m with budget := none } = .done s1 fl n none →
    (m.re = true → mget 0 (s1.core core).gates m.rg < 65535) →
    (m.ce = true → delivers m = true → -2 ^ 31 ≤ mget 0 (s1.core core).ctrs m.ctr - (n : Int)) →
    ∃ t, exec (.engineCommandComplete core e) s = .next t ∧ t.mem = s1.mem ∧
      (∀ g, mget 0 (t.core core).gates g = if m.re = true ∧ g = m.rg then mget 0 (s1.core core).gates g + 1 else mget 0 (s1.core core).gates g) ∧
      (∀ b, mget 0 (t.core core).ctrs b = if m.ce = true ∧ delivers m = true ∧ b = m.ctr then mget 0 (s1.core core).ctrs b - n
        else mget 0 (s1.core core).ctrs b) ∧
      (t.ctx core m.ctx).aflags = (s1.ctx core m.ctx).aflags ||| BitVec.ofNat 64 fl ∧ ∀ c ∈ (t.eng core e).cmds, c.idx = m.idx → c.ended = true)

/-- R129 to R131, R136: a step of a chain that is not its last reads a dword and moves to the address that it and the next offset give;
a misaligned step ends the chain, and the later step is translated on the die that read its pointer (R130). A final atomic that meets a
write-blocked page begins to wait there (R42); a final load that is single-copy atomic gives its value to the chain's requester (R84, R131).
A multicast that completes at a destination delivers its bytes there.
Where the spec leaves it open, the model's choice: assumption 45; that a final atomic on a write-blocked page waits within its own chain
(assumption 21), and which of a chain's steps an older access holds back (assumption 32). -/
def Obligations.ChainsAndMulticasts : Prop :=
  (∀ (id : Nat) (c : FChain) (v : ChainEnv) (x : Xl) (pa : Nat) (s s1 : State), s.fchains.find? (fun c => c.id == id) = some c → c.wblk = none → c.pa = none →
    (c.isCtx = true → (s.mayPerform c.core c.ctx c.seq).isSome = true) → s.chainEnv c = some v →
    (c.step < v.ns → c.addr % 8 ≠ 0 → exec (.chainStep id) s = .next (s.chainFault c v kRead 8 ⟨0x29, c.addr, 7⟩)) ∧
    (c.step < v.ns → c.addr % 8 = 0 → s.xlate v.sp v.w kRead false c.addr 8 = (x, s1) →
      (x.busy = true → exec (.chainStep id) s = .next s1) ∧
      (x.busy = false → ∀ f, x.flt = some f → exec (.chainStep id) s = .next (s1.chainFault c v kRead 8 f)) ∧
      (x.busy = false → x.flt = none → x.segs = [(pa, 8)] →
        s1.targetCheck v.w.core pa 8 false = none → x.wait = none → s1.chainWaits c false x.segs = false → field x.leaf 8 2 = 0 → AgentNotPure v.w s1 →
        let off : Int := (BitVec.ofNat 21 (v.offs / 2 ^ (21 * c.step))).toInt
        let s2 := (s1.heatAll v.w v.sp c.addr x).sliceCount pa 64
        exec (.chainStep id) s = .next { s2 with fchains := s2.fchains.map (fun d =>
          if d.id = c.id then { c with step := c.step + 1, die := homeDie pa, addr := (((readLE s1.mem pa 8 : Nat) + off) % 2 ^ 64).toNat } else d) })) ∧
    (c.step = v.ns → c.isCtx = true → v.fin < 4 → v.len = 2 ^ v.fin → pa % v.len = 0 → c.addr % 64 + v.len ≤ 64 → c.units = [] → c.got = [] →
      s.xlate v.sp v.w kRead false c.addr v.len = (x, s1) → x.busy = false → x.flt = none → x.segs = [(pa, v.len)] → x.wait = none →
      s1.targetCheck v.w.core pa v.len false = none → s1.routed (homeDie pa) (dieOf v.w.core) = true → s1.chainWaits c false x.segs = false →
      field x.leaf 8 2 = 0 → AgentNotPure v.w s1 →
      exec (.chainStep id) s = .next ((s1.heatAll v.w v.sp c.addr x).chainEnd c (readLE s1.mem pa v.len))) ∧
    (c.step = v.ns → 4 ≤ v.fin → c.addr % 8 = 0 → s.xlate v.sp v.w kRmw true c.addr 8 = (x, s1) → x.busy = false → x.flt = none → x.segs = [] →
      ∀ w, x.wait = some w → ∃ p, p.va = c.addr ∧ p.since = s1.tick ∧ p.n = 8 ∧ exec (.chainStep id) s = .next { s1 with fchains := s1.fchains.map (fun d =>
        if d.id = c.id then { c with wblk := some p } else d) })) ∧
  (∀ (core dest : Nat) (m : Cmd) (s : State), (s.eng core 3).cmds.find? (fun m => !m.ended) = some m → m.major = 0x69 → m.sent = true →
    m.dests.contains dest = true → m.ce = true → -2 ^ 31 ≤ mget 0 (s.core dest).ctrs m.ctr - (m.out : Int) →
    ∃ t, exec (.multicastDestComplete core dest) s = .next t ∧
      (∀ b, mget 0 (t.core dest).ctrs b = if b = m.ctr then mget 0 (s.core dest).ctrs b - m.out else mget 0 (s.core dest).ctrs b) ∧
      (∀ c ∈ (t.eng core 3).cmds, c.idx = m.idx → c.dests = m.dests.filter (fun d => d != dest)) ∧
      t.mem = s.mem ∧ (∀ j, (t.core j).sp = (s.core j).sp) ∧ ∀ j y, t.ctx j y = s.ctx j y)

/-- R281, R285, R289, R300, R310, R316: what some commands leave when they complete. A `fill` of a core's scratchpad writes the byte of its
pattern that each address selects to exactly its bytes. An integer vector function computes every lane of its destination, wrapped to the
lane's width, and no other vector register changes. `vld` from a scratchpad gives its register the 512 bytes there, `vst` writes them.
`tzero` clears its tile, `tld` copies 32 rows of raw bits from a scratchpad into it, and `vtwr` writes one row or column of it from a
quarter of a vector register.
Where the spec leaves it open, the model's choice: assumptions 12, 35. -/
def Obligations.EngineResults : Prop :=
  (∀ (core : Nat) (m : Cmd) (s : State), s.pick core 3 = (some m, s) → m.major = 0x6A → m.fn = 0 → field m.esp 0 8 = 0 → field m.esp 8 2 = 1 →
    m.opc < 2 ^ 32 → m.opa + m.opc ≤ 0x200000 → m.done = 0 → m.ce = false → m.re = false → Memory.wf (s.core core).sp = true →
    ∃ t, Completes core 3 m s t ∧
      (∀ b, byteAt (t.core core).sp b = if m.opa ≤ b ∧ b < m.opa + m.opc then BitVec.ofNat 8 (m.opb / 2 ^ (8 * (b % 8)))
        else byteAt (s.core core).sp b) ∧
      ∀ j, j ≠ core → t.core j = s.core j) ∧
  (∀ (core : Nat) (m : Cmd) (w : Nat) (sgn : Bool) (f : Int → Int → Int) (s : State), s.pick core 2 = (some m, s) → m.major = 0x44 →
    (field m.word 0 7, f) ∈ laneOps → field m.esp 3 3 = 0 → field m.esp 0 3 = 0 → Ty.ofVec (field m.esp 6 4) = .int w sgn → m.re = false →
    let v (s : State) (n : Nat) : Nat := (mget 0 (s.ctx core m.ctx).v n).toNat
    ∃ t, exec (.engineCommandComplete core 2) s = .next t ∧ t.mem = s.mem ∧
      (∀ j, j < 4096 / w → ((lane w (v t (field m.word 17 5)) j : Nat) : Int) =
        f (laneVal sgn w (lane w (v s (field m.word 12 5)) j)) (laneVal sgn w (lane w (v s (field m.word 7 5)) j)) % 2 ^ w) ∧
      (∀ n, n ≠ field m.word 17 5 → v t n = v s n) ∧ ∀ n, (t.ctx core m.ctx).rd n = (s.ctx core m.ctx).rd n) ∧
  (∀ (core : Nat) (m : Cmd) (s : State), s.pick core 2 = (some m, s) → Untouched m → m.major = 0x40 → m.noC = true → m.fbSel = 0 →
    field m.esp 0 4 = 0 → field m.esp 4 2 = 1 → field m.esp 6 4 = 0 → m.opa % 8 = 0 → m.opa + 512 ≤ 0x200000 →
    let v (s : State) (n : Nat) : Nat := (mget 0 (s.ctx core m.ctx).v n).toNat
    (m.fn = 0 → ∃ t, Completes core 2 m s t ∧ (t.core core).sp = (s.core core).sp ∧
      ∀ n, v t n = if n = m.sb then readLE (s.core core).sp m.opa 512 else v s n) ∧
    (m.fn = 1 → ∃ t, Completes core 2 m s t ∧ StoredAt m.opa 512 (v s m.sb) (s.core core).sp (t.core core).sp ∧ ∀ n, v t n = v s n)) ∧
  (∀ (core : Nat) (m : Cmd) (s : State), s.pick core 1 = (some m, s) → Untouched m → m.fn = 0 → m.noC = true →
    let tile := field m.esp 7 3
    let stride : Int := (BitVec.ofNat 64 m.opb).toInt
    (m.major = 0x64 → m.noA = true → m.noB = true → field m.esp 0 7 = 0 → ∃ t, Completes core 1 m s t ∧ TileIs core tile (fun _ _ => 0) s t) ∧
    (m.major = 0x62 → field m.esp 3 2 < 2 → field m.esp 0 3 = 0 → field m.esp 5 2 = 1 → m.opa % 8 = 0 → m.opb % 8 = 0 →
      (∀ i : Nat, i < 32 → 0 ≤ m.opa + i * stride ∧ m.opa + i * stride + 128 ≤ 0x200000) →
      ∃ t, Completes core 1 m s t ∧
        TileIs core tile (fun i j => BitVec.ofNat 32 (readLE (s.core core).sp ((m.opa + i * stride).toNat + 4 * j) 4)) s t)) ∧
  (∀ (core : Nat) (m : Cmd) (s : State), s.pick core 2 = (some m, s) → Untouched m → m.major = 0x4F → field m.word 0 2 = 1 →
    field m.esp 6 4 ∈ [3, 7, 15] → field m.esp 0 4 = 0 → m.opa < 32 →
    let v := (mget 0 (s.ctx core m.ctx).v m.sa).toNat
    let x (n : Nat) : BitVec 32 := BitVec.ofNat 32 (v / 2 ^ (1024 * field m.esp 4 2 + 32 * n))
    ∃ t, Completes core 2 m s t ∧ TileIs core (field m.word 8 3) (fun i j =>
      if field m.word 7 1 = 1 then (if j = m.opa then x i else mget 0 (s.core core).tiles (1024 * field m.word 8 3 + 32 * i + j))
      else (if i = m.opa then x j else mget 0 (s.core core).tiles (1024 * field m.word 8 3 + 32 * i + j))) s t)

/-! ### Events: queues, write-blocked pages, walks, heat, scrubbing (spec 01, 02, 11) -/

/-- R42, R43, R70, R73, R74, R276: a spilled record moves on chip in its order; a wait on a queue is withdrawn; a writer that an
invalidation woke, or that found the list full 64 ticks ago, translates again: it goes on, or parks once more while its page is still
write-blocked; any other stays. One that has waited longer than WBTIME traps.
Where the spec leaves it open, the model's choice: assumption 21. -/
def Obligations.QueuesAndWriters : Prop :=
  (∀ (shed n : Nat) (s : State), let q := s.hq shed n
    shed < 72 → 0 < q.ring → q.chip.length < 32 →
    let pos := (s.chipOf (12 * shed)).1 + field q.base.toNat 5 27 * 32 + 32 * ((q.spill - q.ring) % 2 ^ q.logsize)
    ∃ t, exec (.queueRefill shed n) s = .next t ∧
      (∀ h j, t.hq h j = if h = shed ∧ j = n then { q with chip := q.chip ++ [readLE (s.die (dieOfShed shed)).csp pos 32], ring := q.ring - 1 } else s.hq h j) ∧
      { t with sheds := [] } = { s with sheds := [] } ∧ ∀ h, { t.shed h with queues := [] } = { s.shed h with queues := [] }) ∧
  (∀ (core ctx : Nat) (s : State), ∃ t, exec (.queueWithdrawal core ctx) s = .next t ∧ t.mem = s.mem ∧ (∀ h j, t.hq h j = s.hq h j) ∧
    (∀ j y, ¬(j = core ∧ y = ctx) → t.ctx j y = s.ctx j y) ∧
    (∀ rb, (s.ctx core ctx).req = some (5, rb) →
      (t.ctx core ctx).req = none ∧ { t.ctx core ctx with req := none, sE := [] } = { s.ctx core ctx with req := none, sE := [] } ∧
      ∀ m, (t.ctx core ctx).full m = (decide (rb ≤ m ∧ m < rb + 4) || (s.ctx core ctx).full m)) ∧
    ((∀ rb, (s.ctx core ctx).req ≠ some (5, rb)) → t.ctx core ctx = s.ctx core ctx)) ∧
  (∀ (core ctx : Nat) (p : Park) (s : State), ctx < 4 → (s.ctx core ctx).wblk = some p →
    let goes := p.parked = false ∧ (p.woken = true ∨ p.tried + 64 ≤ s.tick)
    (¬goes → exec (.writerRetry core ctx) s = .next s) ∧
    (goes → ∀ e l a, s.walk (s.ctx core ctx).space p.va = .leaf e l a →
      let still : Option Park := if field e 62 1 = 0 then none else some { p with parked := decide (s.parkedOn (dieOf core) < 64), tried := s.tick, woken := false }
      ∃ t, exec (.writerRetry core ctx) s = .next t ∧ t.mem = s.mem ∧
        (∀ j y, ¬(j = core ∧ y = ctx) → t.ctx j y = s.ctx j y) ∧ t.ctx core ctx = { s.ctx core ctx with wblk := still }) ∧
    let limit := (s.die (dieOf core)).wbtime.toNat
    (limit = 0 ∨ s.tick ≤ p.since + limit → exec (.writeBlockTimeout core ctx) s = .next s) ∧
    (0 < limit → p.since + limit < s.tick → ∃ r, r.cls = 0x09 ∧ r.addr = p.va ∧ r.rem = p.n ∧ r.done = p.done ∧ r.remhi = p.hi ∧ r.access = p.kind ∧
      exec (.writeBlockTimeout core ctx) s =
        .next ((s.setCtx core ctx { s.ctx core ctx with wblk := none }).ownTrap core ctx r (s.ctx core ctx).group (s.ctx core ctx).st)))

/-- R22, R27, R31, R39, R41, R80: a page walk sets the bits of the leaf it ends at, and changes nothing when it ends at none; a hot page's
notification is written to its pen's ring and its gate raised; clearing an entry frees exactly the page's; scrubbing reports a bad line and
leaves it.
Where the spec leaves it open, the model's choice: assumptions 66, 69, 73. -/
def Obligations.WalksHeatAndScrubbing : Prop :=
  (∀ (core ctx va kind : Nat) (s : State),
    let sp := (s.ctx core ctx).space
    let write := kind % 4 = 1 ∨ kind % 4 = 2
    s.walks = [] → s.slow = 0 → (∀ c l, s.walkOn (dieOf core) sp va = .bad c l → exec (.pageWalk core ctx va kind) s = .next s) ∧
    ∀ e l a, va < 2 ^ 56 → s.walkOn (dieOf core) sp va = .leaf e l a → leafCheck sp (s.whoCtx core ctx 0) (kind % 4) false e (leafPa e va) = none →
      ¬(write ∧ field e 62 1 = 1) → ∃ t, exec (.pageWalk core ctx va kind) s = .next t ∧
        StoredAt a 8 (if kind % 4 = 1 ∨ kind % 4 = 2 then e ||| 0x60 else e ||| 0x20) s.mem t.mem ∧
        { t with mem := [], tlb := [] } = { s with mem := [], tlb := [] }) ∧
  (∀ (die pen i : Nat) (h : Heat) (s : State),
    let d := s.die die
    let r := s.heatReg die pen
    let at_ := r.base.toNat + 32 * (r.tail % 2 ^ r.logsize)
    d.heat = [(i, h)] → h.pen = pen → 256 ≤ h.count → h.told = false → r.enable = true → 4 ≤ r.logsize → r.logsize ≤ 12 →
    (s.pen pen).cores.contains r.core = true → (r.tail + 2 ^ 32 - r.head) % 2 ^ 32 < 2 ^ r.logsize → at_ + 32 ≤ (s.chipWin pen die).2 →
    mget 0 (s.core r.core).gates r.gate < 65535 →
    ∃ t, exec (.heatNotificationAppend die pen) s = .next t ∧ t.mem = s.mem ∧
      StoredAt ((s.chipWin pen die).1 + at_) 32 (heatImage d.heatSeq h.tick die h pen) d.csp (t.die die).csp ∧
      t.heatReg die pen = { r with tail := (r.tail + 1) % 2 ^ 32 } ∧ (t.die die).heat = [(i, { h with told := true })] ∧
      (∀ g, mget 0 (t.core r.core).gates g = if g = r.gate then mget 0 (s.core r.core).gates g + 1 else mget 0 (s.core r.core).gates g) ∧
      ∀ j y, t.ctx j y = s.ctx j y) ∧
  (∀ (die pen value : Nat) (s : State),
    let va := (s.heatReg die pen).clr.toNat
    ∃ t, exec (.heatclrWrite die pen value) s = .next t ∧ { t with dies := [] } = { s with dies := [] } ∧
      (∀ j, { t.die j with heat := [] } = { s.die j with heat := [] }) ∧ (∀ j, j ≠ die → t.die j = s.die j) ∧
      ∀ p, p ∈ (t.die die).heat ↔ p ∈ (s.die die).heat ∧
        ¬(p.2.pen = pen ∧ p.2.spaceid.toNat = value % 2 ^ 16 ∧ p.2.page ≤ va ∧ va < p.2.page + pageBytes p.2.size)) ∧
  (∀ (line : Nat) (s : State),
    (s.bad.contains line = false → exec (.patrolScrub line) s = .next s) ∧
    (s.bad.contains line = true → ∃ t r, exec (.patrolScrub line) s = .next t ∧ t = { s with hostRecs := r :: s.hostRecs, msgs := (3, 0, 0) :: s.msgs } ∧
      field r 56 8 = 0x32 ∧ field r 64 57 = 64 * line % 2 ^ 57))

/-! ### Events: register writes of a core, traps at a boundary (spec 00, 02, 05, 06, 14, 15) -/

namespace Sys2Proof.Claims
open Sys2Proof Sys2Proof.Machine

/-- OVFTAB as a profile loads it (R5, R202). -/
def ovfOfProfile (v : Nat) : Dword := if v = 1 then 0x00015544 else if v = 2 then 0x00015900 else 0x00015800

/-- Nothing of the package changes but one context. -/
def OnlyCtx (core ctx : Nat) (s t : State) : Prop :=
  { t with cores := [] } = { s with cores := [] } ∧ (∀ j, { t.core j with ctxs := [] } = { s.core j with ctxs := [] }) ∧
    ∀ j y, ¬(j = core ∧ y = ctx) → t.ctx j y = s.ctx j y

/-- A binding in which the retired steps past the newest `d` stand freed (R148, R150). -/
def freedPast (d : Nat) (b : Bind) : Bind :=
  { b with steps := b.steps.map (fun x =>
      if x.retired = true ∧ x.key ∈ ((b.steps.filter Step.retired).map Step.key).reverse.drop d then { x with freed := true } else x) }

/-- A write of eight bytes by the host reaches a register of a block: the firmware is accepted and the link up, a link leads there from the
host's die, and the block's table grants the host the write (R35, R399, R404, R406). -/
def HostReaches (b off : Nat) (s : State) : Prop :=
  s.up = true ∧ s.hostWay (regAddr b off) = true ∧ s.granted 81 (regAddr b off) 8 true = true

/-- Nothing of the package changes but one core, and none of its contexts. -/
def OnlyCore (core : Nat) (s t : State) : Prop :=
  { t with cores := [] } = { s with cores := [] } ∧ (∀ j, j ≠ core → t.core j = s.core j) ∧ ∀ j y, t.ctx j y = s.ctx j y

end Sys2Proof.Claims

/-- R5, R148, R163, R202, R330: what the writes of GENPROF, REWIND and a ring register leave, and when they are refused or wait.
R71, R72, R275, R353, R366: a queue's control register takes all its fields while the queue is empty, and only its watermarks and
ENABLE while it holds records; a launch queue takes its fields while it is not watched, and only an ENABLE of 0 while it is; C3START
starts an Idle c3 in system state, and is ignored otherwise, and before FABID is set and the core's pen configured (R407). R35, R404, R406: a
write of the host that its block's table does not grant, that no link leads to, or before the firmware is accepted, does nothing.
Where the spec leaves it open, the model's choice: assumptions 16, 71, 97; that bits 63:4 of a value for GENPROF are ignored (assumption 118). -/
def Obligations.RegisterWriteEvents : Prop :=
  ((∀ (core ctx value : Nat) (s : State),
     let v := value % 16
     (v = 0 ∨ 3 < v → exec (.genprofWrite core ctx value) s = .next (s.illegalFor core ctx)) ∧
     (1 ≤ v → v ≤ 3 → (s.core core).engDone ctx = false → exec (.genprofWrite core ctx value) s = .next s) ∧
     (1 ≤ v → v ≤ 3 → (s.core core).engDone ctx = true → ∃ t, exec (.genprofWrite core ctx value) s = .next t ∧ OnlyCtx core ctx s t ∧
       t.ctx core ctx = { s.ctx core ctx with genprof := v, ovftab := ovfOfProfile v })) ∧
   (∀ (core value : Nat) (s : State), ∃ t, exec (.rewindWrite core value) s = .next t ∧ OnlyCore core s t ∧
     { t.core core with rewind := 0, shadow := [], bind := none } = { s.core core with rewind := 0, shadow := [], bind := none } ∧
     (t.core core).rewind = value % 1024 ∧ ((s.core core).cut.phase ≠ 0 ∨ (s.core core).bind = none →
       (t.core core).shadow = (s.core core).shadow ∧ (t.core core).bind = (s.core core).bind) ∧
     ∀ b, (s.core core).cut.phase = 0 → (s.core core).bind = some b → (t.core core).bind = some (freedPast (value % 1024) b) ∧
       ∀ e, e ∈ (t.core core).shadow ↔ e ∈ (s.core core).shadow ∧
         ¬(e.inst = b.inst ∧ e.key ∈ ((b.steps.filter Step.retired).map Step.key).reverse.drop (value % 1024))) ∧
   (∀ (core eng value : Nat) (s : State),
     let base := 64 * field value 6 15
     let log := field value 28 4
     let g := s.eng core eng
     let bad := g.head ≠ g.tail ∨ (4 ≤ log ∧ log ≤ 12 ∧ 0x200000 < base + 64 * 2 ^ log)
     (bad → exec (.ringRegisterWrite core eng value) s = .next (s.illegalFor core (if s.curCore = core then s.curCtx else 3))) ∧
     (¬bad → ∃ t, exec (.ringRegisterWrite core eng value) s = .next t ∧ OnlyCore core s t ∧ { t.core core with engs := [] } = { s.core core with engs := [] } ∧
       (∀ e, e ≠ eng → t.eng core e = s.eng core e) ∧
       t.eng core eng = { g with base := base, logsize := log, head := field value 48 16, tail := field value 48 16, apps := [], cmds := [] }))) ∧
  ((∀ (shed n value : Nat) (s : State),
     let q := s.hq shed n
     let ctl : HQ := { q with hiwm := field value 32 16, lowm := field value 16 16, enable := value % 2 == 1 }
     ∃ t, exec (.hqctlWrite shed n value) s = .next t ∧ { t with sheds := [] } = { s with sheds := [] } ∧
       (∀ h, { t.shed h with queues := [] } = { s.shed h with queues := [] }) ∧ (∀ h j, ¬(h = shed ∧ j = n) → t.hq h j = s.hq h j) ∧
       (q.depth ≠ 0 → t.hq shed n = ctl) ∧ (q.depth = 0 → t.hq shed n = { ctl with logsize := field value 8 4, spill := 0 })) ∧
   (∀ (pen n value : Nat) (s : State), s.powered = true → pen < 16 → n < 8 →
     let q : LQ := mget {} (s.pen pen).lqs n
     let en := field value 31 1 == 1
     (¬HostReaches (10 + pen) (0x10 * n + 8) s → exec (.lqctlWrite pen n value) s = .next s) ∧
     (HostReaches (10 + pen) (0x10 * n + 8) s → ∃ t, exec (.lqctlWrite pen n value) s = .next t ∧ { t with pens := [] } = { s.unstage 81 with pens := [] } ∧
       (∀ j, j ≠ pen → t.pen j = s.pen j) ∧ { t.pen pen with lqs := [] } = { s.pen pen with lqs := [] } ∧
       (∀ j, j ≠ n → (mget {} (t.pen pen).lqs j : LQ) = mget {} (s.pen pen).lqs j) ∧
       (q.enable = true → mget {} (t.pen pen).lqs n = { q with enable := en }) ∧
       (q.enable = false → ∃ c, (en = true → c = 0) ∧ mget {} (t.pen pen).lqs n = { q with enable := en, logsize := value % 16, count := c }))) ∧
   (∀ (core value : Nat) (s : State), s.powered = true → core < 864 →
     let c := s.ctx core 3
     let reaches := HostReaches (1 + core / 96) (0x30000 + 0x10 * (core % 96)) s
     (¬reaches → exec (.c3startWrite core value) s = .next s) ∧
     let ready := s.fabSet = true ∧ (s.penOf core).isSome = true ∧ c.st = .idle
     (reaches → ¬ready → exec (.c3startWrite core value) s = .next (s.unstage 81)) ∧
     (reaches → ready → ∃ t, exec (.c3startWrite core value) s = .next t ∧ t.mem = s.mem ∧ t.started = true ∧
       (∀ j y, ¬(j = core ∧ y = 3) → t.ctx j y = s.ctx j y) ∧
       let d := t.ctx core 3
       let p := s.pen ((s.penOf core).getD 16)
       d.st = .running ∧ d.sys = true ∧ d.pc = (BitVec.ofNat 57 value).signExtend 64 ∧ d.tvec = 0 ∧ d.spaceid = (s.core core).c3space ∧
         d.wb0 = p.wb0 ∧ d.wb1 = p.wb1 ∧ ∀ n, d.rd n = c.rd n)))

/-- R332, R333: a trap that waits is taken at its context's boundary: into the handler, or, delegated, by a stop that raises the
context's gate; one in a handler waits on, and so does one whose launch has been answered (R279). A c3 that a double trap stopped is Idle
again, its registers at reset, once the host link resets it.
Where the spec leaves it open, the model's choice: assumption 1 (what c3's registers hold at reset), assumption 29 (the STATE saved behind a
deferred future load). -/
def Obligations.PendingTrapsAndReset : Prop :=
  (∀ (core ctx : Nat) (p : PTrap) (l : List PTrap) (s : State), (s.ctx core ctx).traps = p :: l → (s.ctx core ctx).st ≠ .stopped → p.cls < 256 →
    let c := s.ctx core ctx
    let del := ctx ≠ 3 ∧ c.tctl.getLsbD 8 = true
    let g := c.tctl.toNat % 32
    (c.intrap = true → exec (.trapEntry core ctx) s = .next s) ∧
    (∀ n, c.req = some (gotLaunch, n) → exec (.trapEntry core ctx) s = .next s) ∧
    (¬del → c.intrap = false → c.req = none → ∃ t, exec (.trapEntry core ctx) s = .next t ∧ t.mem = s.mem ∧ (∀ j y, ¬(j = core ∧ y = ctx) → t.ctx j y = s.ctx j y) ∧
      let d := t.ctx core ctx
      d.traps = l ∧ d.sys = true ∧ d.st = .running ∧ d.pc = BitVec.ofNat 64 (c.tvec.toNat / 4 * 4) ∧ d.tpc = c.group ∧ d.intrap = true ∧
        field d.tstat.toNat 56 8 = p.cls ∧ d.tstat.getLsbD 47 = c.sys ∧ field d.tstat.toNat 43 3 = ctxCode (if c.st = .running ∧ c.futureWaits = true then .blocked else c.st) ∧
        (∀ n, d.rd n = c.rd n) ∧ ∀ j, j < 8 → mget 0 d.trec j = BitVec.ofNat 64 (p.image / 2 ^ (64 * j))) ∧
    (del → c.intrap = false → c.req = none → mget 0 (s.core core).gates g < 65535 → ∃ t, exec (.trapEntry core ctx) s = .next t ∧ t.mem = s.mem ∧
      (t.ctx core ctx).st = .stopped ∧ (t.ctx core ctx).why = .delegated ∧ (t.ctx core ctx).pc = c.pc ∧ (t.ctx core ctx).traps = l ∧
      mget 0 (t.core core).gates g = mget 0 (s.core core).gates g + 1)) ∧
  (∀ (core ctx : Nat) (s : State), (s.ctx core ctx).traps = [] → exec (.trapEntry core ctx) s = .next s) ∧
  (∀ (core : Nat) (s : State), s.powered = true →
    let c := s.ctx core 3
    (¬(c.st = .stopped ∧ c.why = .double) → exec (.hostLinkReset core) s = .next s) ∧
    (c.st = .stopped → c.why = .double → c.pend = [] → ∃ t, exec (.hostLinkReset core) s = .next t ∧ t.mem = s.mem ∧
      (∀ j y, ¬(j = core ∧ y = 3) → t.ctx j y = s.ctx j y) ∧ t.ctx core 3 = { ({} : Ctx) with seq := c.seq }))

/-! ### Events: from launch to completion (spec 06, 15) -/

/-- R355, R356, R358: an acceptance of the one host record that is ready, well-formed and not pure, numbers it and advances the queue's
count. A selection takes the head step of the first instance whose effective priority no other one exceeds; it is queued with the
priority it was made under, or stands while its core's queue is full (R359, R361).
Where the spec leaves it open, the model's choice: assumption 26. -/
def Obligations.Launching : Prop :=
  (∀ (pen q r : Nat) (s s1 : State),
    let p := s.pen pen
    let lq : LQ := mget {} p.lqs q
    let rec_ := readLE s.mem lq.slot 64
    let s0 := s.setPen pen { p with lqs := mset p.lqs q { lq with count := lq.count + 1 }, lastQ := q }
    let num := s1.nextInst
    (s.penInsts pen).length < 256 → p.devq = [] → p.refusing = none → q < 8 → (∀ j, j < 8 → (s.lqReady (mget {} p.lqs j) = true ↔ j = q)) →
    field rec_ 0 64 % 64 = 0 → s0.readSpace ⟨p.spaceid, p.wb0, p.wb1, false, p.conf⟩ (distWho p) (field rec_ 0 64) 256 = .ok r s1 →
    recordBad r = false → (∀ j, j < 3 → p.admitted.any (inRange (opEntry r j)) = true) → opPure r = false → p.brkEnable = false →
    num ≠ 0 → (∀ i ∈ s1.insts, i.num ≠ num) → field rec_ 256 1 = 0 →
    ∃ t i, exec (.launchAccept pen) s = .next t ∧ t.insts = s1.insts ++ [i] ∧ t.nextInst = (num + 1) % 2 ^ 32 ∧
      i.num = num ∧ i.pen = pen ∧ i.record = r ∧ i.prio = field r 12 3 ∧ i.spaceid = p.spaceid ∧ i.doneaddr = field rec_ 128 64 ∧
      i.seed = (if field rec_ 258 1 = 1 then field rec_ 192 64 else field r 64 64) ∧ i.cursor = 0 ∧ i.retired = 0 ∧ i.total = opSteps r ∧
      (mget {} (t.pen pen).lqs q : LQ) = { lq with count := lq.count + 1 }) ∧
  (∀ (pen : Nat) (i i' : Inst) (k : Coord) (s : State), s.choose pen = some (i, k, i') →
    i.selectable = true ∧ i.head = some (k, i') ∧ s.mayAssign (s.pen pen) i k = true ∧ ∃ l r, s.penInsts pen = l ++ i :: r ∧
      (∀ j ∈ l, j.selectable = true → ∀ x j', j.head = some (x, j') → s.mayAssign (s.pen pen) j x = true → s.prioOf j < s.prioOf i) ∧
      ∀ j ∈ r, j.selectable = true → ∀ x j', j.head = some (x, j') → s.mayAssign (s.pen pen) j x = true → s.prioOf j ≤ s.prioOf i) ∧
  (∀ (pen core : Nat) (i i' : Inst) (k : Coord) (s : State), (s.pen pen).enable = true → (s.pen pen).cutDecided = false → s.insts = [i] →
    i.pending = none → s.choose pen = some (i, k, i') → s.placeOn i k = some core →
    (64 ≤ (s.core core).waiting → exec (.stepSelect pen) s =
      .next { s with insts := [{ i' with levels := 0, since := s.tick, pending := some (core, k, s.prioOf i) }] }) ∧
    ((s.core core).waiting < 64 → (s.core core).bind = none →
    ∃ t, exec (.stepSelect pen) s = .next t ∧ t.mem = s.mem ∧ (t.core core).stepq = (s.core core).stepq ++ [(i.num, k, s.prioOf i)] ∧
      (∀ j, j ≠ core → (t.core j).stepq = (s.core j).stepq) ∧ t.insts = [{ i' with levels := 0, since := s.tick, began := true, assigned := true }] ∧
      ∀ j y, t.ctx j y = s.ctx j y))

/-- R166, R168, R169, R171, R359, R360, R407, R409: once a C3START has been written, a core with nothing bound takes the steps queued for the instance at the head of its step
queue and starts its role contexts; a step that is done retires. R357, R361, R362: an instance whose steps have all retired ends with its
message; priorities change as PRIOSET and ageing say.
Where the spec leaves it open, the model's choice: assumptions 16, 63, 64. -/
def Obligations.InstancesRun : Prop :=
  (∀ (core pn num prio : Nat) (k : Coord) (rest : List (Nat × Coord × Nat)) (i : Inst) (s : State), (s.core core).stepq = (num, k, prio) :: rest →
    s.penOf core = some pn → s.inst? num = some i → (s.core core).bind = none → (s.core core).pre = none → (s.core core).cut.phase = 0 →
    (∀ x, x < 3 → (s.ctx core x).st = .idle) → (∀ a ∈ (s.pen pn).areas, a.inst ≠ num) → s.awaitsArea pn core = false → (s.pen pn).cutBusy = false → (s.pen pn).cutDone = false →
    (s.pen pn).cutDecided = false → s.started = true →
    ∃ t b, exec (.coreBind core) s = .next t ∧ t.mem = s.mem ∧ (t.core core).bind = some b ∧ b.inst = num ∧ b.base = 0 ∧
      b.depth = field i.record 9 3 + 1 ∧
      b.steps.map Step.key = k :: (rest.filter (fun q => q.1 == num)).map (fun q => q.2.1) ∧ b.steps.all (fun x => !x.retired) = true ∧
      (t.core core).stepq = rest.filter (fun q => q.1 != num) ∧ t.ctx core 3 = s.ctx core 3 ∧
      ∀ x, x < 3 → let d := t.ctx core x
        d.st = .running ∧ d.sys = false ∧ d.iter = 0 ∧ d.pc = BitVec.ofNat 64 (field i.record (320 + 64 * x) 64) ∧
          d.spaceid = i.spaceid ∧ d.wb0 = i.wb0 ∧ d.wb1 = i.wb1 ∧ d.home = field i.record (15 + 3 * x) 3 ∧
          d.rd 1 = BitVec.ofNat 64 (field i.record 1088 64) ∧ (∀ j, j < 8 → d.rd (2 + j) = BitVec.ofNat 64 (field i.record (576 + 64 * j) 64)) ∧
          (∀ j, j < 3 → d.rd (10 + j) = BitVec.ofNat 64 (field i.record (224 + 16 * j) 16)) ∧ ∀ n, 13 ≤ n → d.rd n = (s.ctx core x).rd n) ∧
  (∀ (core : Nat) (b : Bind) (x : Step) (s : State), (s.core core).bind = some b → b.oldest = some x → (s.core core).cut.phase = 0 →
    (x.begun = false → exec (.stepRetire core) s = .next s) ∧
    (x.begun = true → (∀ y, y < 3 → (s.ctx core y).past ((b.steps.filter Step.retired).length - b.base + b.depth - 1) = true ∧
        (s.ctx core y).serves b.inst x.key = false) → (s.core core).engHolds b.inst x.key = false →
      ∃ t, exec (.stepRetire core) s = .next t ∧ t.mem = s.mem ∧ (∀ j y, t.ctx j y = s.ctx j y) ∧
        (t.core core).bind = some (freedPast (s.core core).rewind
          { b with steps := b.steps.map (fun y => if y.key = x.key then { y with retired := true } else y) }) ∧
        t.insts = s.insts.map (fun i => if i.num = b.inst then { i with retired := i.retired + 1 } else i))) ∧
  (∀ (pen : Nat) (i : Inst) (s : State), s.inst? i.num = some i →
    (i.pen ≠ pen ∨ i.wblk.isSome = true → exec (.instanceComplete pen i.num) s = .next s) ∧
    (i.entering = false → i.serving = none → i.ending = none → i.retired ≠ i.total ∨ i.brkHeld = true →
      exec (.instanceComplete pen i.num) s = .next s) ∧
    (i.pen = pen → i.wblk = none → i.entering = false → i.serving = none → i.ending = none → i.retired = i.total → i.brkHeld = false → s.undoes i.num = false → i.pure = false → i.doneaddr = 0 →
      ∃ t, exec (.instanceComplete pen i.num) s = .next t ∧ t.mem = s.mem ∧ t.inst? i.num = none ∧
        t.msgs = (if i.intr = true then (1, pen, i.num) :: s.msgs else s.msgs) ∧ (∀ j y, t.ctx j y = s.ctx j y) ∧
        ∀ c b, c ∈ s.cores.map Prod.fst → (t.core c).bind = some b → b.inst ≠ i.num)) ∧
  (∀ (pen num value : Nat) (i : Inst) (s : State), s.inst? num = some i → i.pen = pen →
    let age := (s.pen pen).age
    (age = 0 ∨ i.head = none ∨ i.pending.isSome = true ∨ s.tick < i.since + 2 ^ (age + 10) → exec (.priorityAgeing pen num) s = .next s) ∧
    (age ≠ 0 → i.head.isSome = true → i.pending = none → i.since + 2 ^ (age + 10) ≤ s.tick → ∃ t, exec (.priorityAgeing pen num) s = .next t ∧
      { t with insts := [] } = { s with insts := [] } ∧ t.inst? num = some { i with levels := min 7 (i.levels + 1), since := i.since + 2 ^ (age + 10) }) ∧
    (s.powered = true → pen < 16 → HostReaches (10 + pen) 0x80 s → value % 2 ^ 32 = num → ∃ t, exec (.priosetWrite pen value) s = .next t ∧ { t with insts := [] } = { s.unstage 81 with insts := [] } ∧
      t.inst? num = some { i with prio := field value 32 3 })) ∧
  (∀ (pen value : Nat) (s : State), s.powered = true → pen < 16 → HostReaches (10 + pen) 0x80 s → s.inst? (value % 2 ^ 32) = none → exec (.priosetWrite pen value) s = .next (s.unstage 81))

/-! ### Events: stops, pre-emptions (spec 05, 14, 15, 17, 21) -/

namespace Sys2Proof.Claims
open Sys2Proof Sys2Proof.Machine

/-- A pen but for its cut controller's registers. -/
def butCut (p : Pen) : Pen :=
  { p with cutreq := 0, cutBusy := false, cutDone := false, cutLate := false, cutNoinst := false, cutL := {}, cutRestored := false,
           cutackCount := 0, cutackBad := false, cutackAccept := false, cutDecided := false }

/-- An area as a restore reads it holds neither engine records nor withdrawn futures. -/
def PlainArea (a : AreaIn) : Prop := hCmds a.head = 0 ∧ ∀ x, x < 3 → field (a.sec x) 128 10 = 0

/-- A role context as its section of an area gives it (R347, R349). -/
def FromSection (a : AreaIn) (x : Nat) (d : Ctx) : Prop :=
  let at_ := secAt x
  d.pc = BitVec.ofNat 64 (field (a.sec x) 448 64) ∧ d.iter = field (a.sec x) 384 64 ∧
    (d.st = if field (a.sec x) 160 3 = 0 then .idle else .running) ∧ d.genprof = field (a.sec x) 168 4 ∧
    d.spaceid = BitVec.ofNat 16 (field (a.sec x) 192 16) ∧
    (∀ n, 1 ≤ n → n < 32 → d.rd n = BitVec.ofNat 64 (readLE a.fixed (at_ + 0x80 + 8 * n) 8) ∧ d.full n = (field (a.sec x) (224 + n) 1 == 0)) ∧
    (∀ n, 1 ≤ n → n < 8 → d.rdP n = (field (a.sec x) (208 + n) 1 == 1)) ∧
    (∀ n, n < 32 → mget 0 d.v n = BitVec.ofNat 4096 (readLE a.fixed (at_ + 0x800 + 512 * n) 512)) ∧
    d.wb0 = BitVec.ofNat 64 (readLE a.fixed (at_ + 0x1C0) 8) ∧ d.tvec = BitVec.ofNat 64 (readLE a.fixed (at_ + 0x180) 8)

end Sys2Proof.Claims

/-- R151, R152, R154, R155, R398: the host's request, when it reaches CUTREQ, stands at the controller, which acknowledges it as it serves it: it
begins a stop, or is refused while one is in progress or when it names instance 0. It reaches each core, which reports its floor; when all have, L is the highest of c, the floors and the distributor's
floor.
Where the spec leaves it open, the model's choice: assumption 27; that the requests of a tick are served as it ends (assumption 3). -/
def Obligations.StopDecided : Prop :=
  (∀ (pen value : Nat) (s : State), s.powered = true → pen < 16 → value < 2 ^ 128 → HostReaches (10 + pen) 0x90 s → HostReaches (10 + pen) 0x98 s →
    ∃ t, exec (.cutreqWrite pen value) s = .next t ∧
      { t with pens := [], staged := [], cutLow := [] } = { s with pens := [], staged := [], cutLow := [] } ∧ (∀ j, j ≠ pen → t.pen j = s.pen j) ∧
      t.pen pen = { s.pen pen with cutAsks := (s.pen pen).cutAsks ++ [(0, value)] }) ∧
  (∀ (pen value : Nat) (s : State), value < 2 ^ 128 →
    let p := s.pen pen
    let num := value / 2 ^ 96
    let ok := num ≠ 0 ∧ p.cutBusy = false
    let t := s.cutAnswer pen (0, value)
    t.mem = s.mem ∧ (∀ j y, t.ctx j y = s.ctx j y) ∧ (∀ j, j ≠ pen → t.pen j = s.pen j) ∧
      butCut (t.pen pen) = butCut p ∧ (t.pen pen).cutackCount = (p.cutackCount + 1) % 2 ^ 32 ∧ (t.pen pen).cutackBad = decide (num = 0) ∧
      (t.pen pen).cutackAccept = decide (num ≠ 0 ∧ p.cutBusy = false) ∧
      (¬ok → (t.pen pen).cutreq = p.cutreq ∧ (t.pen pen).cutBusy = p.cutBusy ∧ (t.pen pen).cutDone = p.cutDone ∧ t.cores = s.cores) ∧
      (ok → (t.pen pen).cutreq = BitVec.ofNat 128 value ∧ (t.pen pen).cutBusy = true ∧ (t.pen pen).cutDone = false ∧ (t.pen pen).cutDecided = false ∧
        (t.pen pen).cutNoinst = !s.running pen num ∧ ∀ c ∈ p.cores, (t.core c).cut = {})) ∧
  (∀ (core pn : Nat) (s : State), s.penOf core = some pn →
    let p := s.pen pn
    let c := s.core core
    let named := p.cutNoinst = false ∧ ∃ b, c.bind = some b ∧ b.inst = p.cutreq.toNat / 2 ^ 96
    (p.cutBusy = false ∨ c.cut.phase ≠ 0 → exec (.stopArrival core) s = .next s) ∧
    (p.cutBusy = true → c.cut.phase = 0 → ∃ t, exec (.stopArrival core) s = .next t ∧ t.mem = s.mem ∧ (∀ j, j ≠ core → t.core j = s.core j) ∧
      { t.core core with cut := {} } = { c with cut := {} } ∧ (t.core core).cut.phase = 1 ∧ (t.core core).cut.floor = c.floor ∧
      (named → (t.core core).cut.c = some (Coord.ofNat p.cutreq.toNat)) ∧ (¬named → (t.core core).cut.c = c.frontier))) ∧
  (∀ (pen : Nat) (s : State),
    let p := s.pen pen
    let c := Coord.ofNat p.cutreq.toNat
    let floorOf (k : Nat) (f : Coord) : Prop := k ∈ p.cores ∧ (s.core k).cut.named = true ∧ (s.core k).cut.floor = some f
    let dist (f : Coord) : Prop := p.cutNoinst = false ∧ ∃ i, s.inst? (p.cutreq.toNat / 2 ^ 96) = some i ∧ i.floor = some f
    ((∃ k ∈ p.cores, (s.core k).cut.phase = 0) → exec (.cutDecision pen) s = .next s) ∧
    (p.cutBusy = true → p.cutDecided = false → (∀ k ∈ p.cores, (s.core k).cut.phase ≠ 0) →
      ∃ t, exec (.cutDecision pen) s = .next t ∧ t.mem = s.mem ∧ (∀ j y, t.ctx j y = s.ctx j y) ∧ (t.pen pen).cutDecided = true ∧
        let l := (t.pen pen).cutL
        c.rank ≤ l.rank ∧ (∀ k f, floorOf k f → f.rank ≤ l.rank) ∧ (∀ f, dist f → f.rank ≤ l.rank) ∧
        (l = c ∨ (∃ k, floorOf k l) ∨ dist l) ∧ ((t.pen pen).cutLate = true ↔ c.rank < l.rank) ∧
        ∀ k ∈ p.cores, (t.core k).cut.phase = 2 ∧ ((s.core k).cut.named = true → (t.core k).cut.l = some l)))

/-- R132, R153, R154, R157, R158, R363, R369, R374: a core that has run its steps at or below L halts: its role contexts stop, a pre-emption under way
ends, a line that a step beyond L wrote has its old value again; a chain in flight ends first, and so does a trap that such a step has met. PENCTL takes its fields, and nothing of a write that has no effect;
after a stop RESUME readies the cores, ABANDON ends the named instance; LATE and L stand until the pen resumes.
Where the spec leaves it open, the model's choice: assumptions 58, 109. -/
def Obligations.StopCarriedOut : Prop :=
  (∀ (core pn : Nat) (l : Coord) (e : Shadow) (b : Bind) (s : State), s.penOf core = some pn →
    let p := s.pen pn
    let c := s.core core
    (c.cut.phase ≠ 3 → c.cut.phase ≠ 2 ∨ p.cutBusy = false ∨ p.cutDecided = false ∨ (∃ x ∈ s.fchains, x.core = core ∧ x.ctx ≠ 3) ∨
        c.faultsFor (fun k => !beyond c.cut.l k) = true →
      exec (.cutHalt core) s = .next s) ∧
    (c.cut.phase = 3 → (∃ k ∈ p.cores, (s.core k).cut.phase ≠ 3) → exec (.cutHalt core) s = .next s) ∧
    (c.cut.phase = 2 → p.cutBusy = true → p.cutDecided = true → c.faultsFor (fun k => !beyond c.cut.l k) = false → (∀ x ∈ s.fchains, x.core = core → x.ctx = 3) → c.bind = some b → c.cut.l = some l → (∀ x ∈ b.steps, x.retired = true ∨ l.rank < x.key.rank) →
      c.stepq = [] → s.allPlaced p = true → (∃ k ∈ p.cores, k ≠ core ∧ (s.core k).cut.phase ≠ 3) →
      c.shadow = [e] → e.inst = b.inst → l.rank < e.key.rank → e.where_ < 2 ^ 46 →
      (∀ x, x < 3 → (c.ctx x).pend = [] ∧ (c.ctx x).req = none) →
      ∃ t, exec (.cutHalt core) s = .next t ∧ (t.core core).cut.phase = 3 ∧ (t.core core).pre = none ∧ StoredAt (e.where_ * 64) 64 e.pre s.mem t.mem ∧ (t.core core).shadow = [] ∧
        t.ctx core 3 = s.ctx core 3 ∧ (∀ j, j ≠ core → t.core j = s.core j) ∧
        (∀ b', (t.core core).bind = some b' → ∀ x ∈ b'.steps, x.retired = true → x.key.rank ≤ l.rank) ∧
        ∀ x, x < 3 → ((s.ctx core x).st = .idle → (t.ctx core x).st = .idle) ∧
          ((s.ctx core x).st ≠ .idle → (t.ctx core x).st = .stopped ∧ (t.ctx core x).why = .cut ∧ (t.ctx core x).preSt = (s.ctx core x).st) ∧
          ∀ n, (t.ctx core x).rd n = (s.ctx core x).rd n)) ∧
  (∀ (pen value : Nat) (s : State) (i : Instr), i = .penctlEnable pen value ∨ i = .penctlResume pen value ∨ i = .penctlAbandon pen value →
    s.powered = true → pen < 16 → HostReaches (10 + pen) 0x88 s →
    let p := s.pen pen
    let p1 : Pen := { p with age := field value 12 4, premode := field value 8 1 == 1, enable := value % 2 == 1 }
    (field value 1 2 = 0 → ∃ t, exec i s = .next t ∧
      { t with pens := [] } = { s.unstage 81 with pens := [] } ∧ t.pen pen = p1 ∧ ∀ j, j ≠ pen → t.pen j = s.pen j) ∧
    (field value 1 2 = 3 ∨ field value 1 2 ≠ 0 ∧ (p.cutDone = false ∨ p.cutBusy = true) → exec i s = .next (s.unstage 81)) ∧
    (p.cutDone = true → p.cutBusy = false → field value 1 2 = 1 → ∃ t, exec i s = .next t ∧ t.mem = s.mem ∧ (t.pen pen).cutDone = false ∧
      (t.pen pen).cutLate = false ∧ (t.pen pen).enable = p1.enable ∧ ∀ c ∈ p.cores,
        (t.core c).gates = [] ∧ (t.core c).ctrs = [] ∧ (t.core c).tiles = [] ∧ (t.core c).cut = {} ∧ t.ctx c 3 = s.ctx c 3 ∧
        (∀ b', (t.core c).bind = some b' → ∀ x ∈ b'.steps, x.retired = true) ∧
        ∀ x, x < 3 → (t.ctx c x).st = .idle ∧ (t.ctx c x).v = [] ∧ (∀ n, (t.ctx c x).full n = true) ∧
          ∀ n, (t.ctx c x).rd n = if 1 ≤ n ∧ n ≤ 12 then (s.ctx c x).rd n else 0) ∧
    (∀ a : Inst, p.cutDone = true → p.cutBusy = false → field value 1 2 = 2 → p.cutNoinst = false → s.insts = [a] → a.pen = pen →
      a.num = p.cutreq.toNat / 2 ^ 96 → a.doneaddr = 0 →
      ∃ t, exec i s = .next t ∧ t.mem = s.mem ∧ t.insts = [] ∧ (t.pen pen).cutDone = false ∧
        (t.pen pen).cutLate = p.cutLate ∧ (t.pen pen).cutL = p.cutL ∧
        t.msgs = if a.intr = true then (1, pen, a.num) :: s.msgs else s.msgs))

/-- R344, R345, R349, R365: the distributor begins a pre-emption of a core for which a step of higher priority has been selected, while
that core has a step to retire or a context that is not Idle; at a
pre-emption at safe points a role context that waits lands where it stands; a restore gives a core the saved steps, and each role context
what its section holds.
Where the spec leaves it open, the model's choice: assumptions 38, 55, 57. -/
def Obligations.Preemption : Prop :=
  (∀ (core : Nat) (b : Bind) (i : Inst) (s : State), (s.core core).pre = none → (s.core core).bind = some b → s.inst? b.inst = some i →
    let p := s.pen ((s.penOf core).getD 16)
    (s.outranks core i = [] → exec (.priorityPreempt core) s = .next s) ∧
    (s.outranks core i ≠ [] → s.raised i.num = false → (∀ x, x < 4 → (s.ctx core x).intrap = false) →
      (p.premode = true → ∀ x, x < 3 → (s.ctx core x).st ≠ .stopped) →
      p.cutBusy = false → p.cutDone = false → (∃ x ∈ b.steps, x.retired = false) ∨ (∃ x, x < 3 ∧ (s.ctx core x).st ≠ .idle) →
      (p.premode = true → (s.core core).psave.toNat % 4096 = 0) →
      let unbegun := b.steps.filter (fun x => !x.begun && !x.retired)
      let kept := b.steps.filter (fun x => x.begun || x.retired)
      ∃ t q, exec (.priorityPreempt core) s = .next t ∧ t.mem = s.mem ∧ (∀ j y, t.ctx j y = s.ctx j y) ∧ (t.core core).pre = some q ∧
        q.byC3 = false ∧ q.safe = p.premode ∧ (p.premode = true → q.area = (s.core core).psave.toNat) ∧
        q.back = unbegun.map (fun x => (x.key, x.prio)) ++ ((s.core core).stepq.filter (fun x => x.1 == b.inst)).map Prod.snd ∧
        q.n0 = b.n ∧ q.noNew0 = b.noNew ∧ q.gone = unbegun ∧
        (t.core core).bind = some { b with steps := kept, n := some (kept.length - b.base), noNew := true } ∧
        (t.core core).stepq = (s.core core).stepq.filter (fun x => x.1 != b.inst) ∧ t.tick = s.tick)) ∧
  (∀ (core ctx : Nat) (b : Bind) (q : Pre) (s : State), ctx < 3 → (s.core core).pre = some q → (s.core core).bind = some b →
    let c := s.ctx core ctx
    (q.safe = false ∨ 8 < b.open_ ∨ c.landed.isSome = true ∨ c.intrap = true → exec (.preemptLanding core ctx) s = .next s) ∧
    (q.safe = true → b.open_ ≤ 8 → c.landed = none → c.intrap = false → c.traps = [] → s.atRep c = false → c.state = .blocked ∨ c.state = .held →
      c.req = none → ∃ t, exec (.preemptLanding core ctx) s = .next t ∧ t.mem = s.mem ∧ (∀ j y, ¬(j = core ∧ y = ctx) → t.ctx j y = s.ctx j y) ∧
        t.ctx core ctx = { c with landed := some { pc := c.group, st := c.state }, wblk := none })) ∧
  (∀ (core k : Nat) (x : Area) (i : Inst) (a : AreaIn) (s s1 : State),
    let pn := (s.penOf core).getD 16
    let p := s.pen pn
    p.areas[k]? = some x → x.core = core → s.inst? x.inst = some i → (∀ y, y < 3 → (s.ctx core y).st = .idle) → (s.core core).pre = none →
    (s.core core).bind = none → p.cutBusy = false → p.cutDone = false → p.enable = true → s.leads pn core x.inst = true →
    (s.core core).cut.phase = 0 → s.heldKept = [] →
    s.loadArea (i.space p.conf) { core := core, ctx := 3 } x.at_ = .ok a s1 → s1.mayRestore core a = true →
    (s1.core core).shadowRoom a = true → PlainArea a →
    ∃ t b, exec (.distributorRestore core k) s = .next t ∧ t.mem = s1.mem ∧ (t.core core).bind = some b ∧ b.inst = hInst a.head ∧ b.steps = a.steps ∧
      b.depth = hStages a.head + 1 ∧ b.n = some (hSteps a.head) ∧ t.ctx core 3 = s1.ctx core 3 ∧
      (t.pen pn).areas = (s1.pen pn).areas.eraseIdx k ∧ (∀ g, g < 32 → mget 0 (t.core core).gates g = readLE a.fixed (0x40 + 2 * g) 2) ∧
      ∀ y, y < 3 → FromSection a y (t.ctx core y))

/-! ### Events: beacons, traces, power, breakpoints (spec 20) -/

namespace Sys2Proof.Claims
open Sys2Proof Sys2Proof.Machine

/-- A pen's trace ring has a free record slot, and its pen is not confidential. -/
def OpenRing (p : Pen) : Prop := p.conf = false ∧ p.trcRoom = true

/-- Where the next record of a trace ring lies (R390). -/
def trcSlot (p : Pen) : Nat := field p.trcbase.toNat 6 46 * 64 + 32 * (p.trctail % 2 ^ field p.trcctl.toNat 24 4)

/-- Package memory and one pen's trace tail changed: a 32-byte record stands in the pen's ring. -/
def RingWritten (pen x : Nat) (s t : State) : Prop :=
  StoredAt (trcSlot (s.pen pen)) 32 x s.mem t.mem ∧ t.pen pen = { s.pen pen with trctail := ((s.pen pen).trctail + 1) % 2 ^ 32 } ∧
    (∀ j, j ≠ pen → t.pen j = s.pen j) ∧ t.cores = s.cores

end Sys2Proof.Claims

/-- R390, R391: a shed's oldest trace record moves to its pen's ring; a shed of no pen loses its power once its buffer is empty, and after
65,536 ticks at the latest, when what it held is counted as lost and told by a record of kind 14; power that returns finds it at reset.
Where the spec leaves it open, the model's choice: assumptions 23, 41. -/
def Obligations.TracesAndPower : Prop :=
  (∀ (die sh pn r : Nat) (l : List Nat) (s : State), sh < 72 → die = dieOfShed sh → s.penOfShed sh = some pn → OpenRing (s.pen pn) →
    (s.shed sh).trace = r :: l → (∀ h, dieOfShed h = die → h ≠ sh → (s.shed h).trace = []) → s.bad = [] →
    (∀ t0, (s.shed sh).draining = some t0 → s.tick < t0 + 65536) →
    ∃ t, exec (.traceDrain die) s = .next t ∧ RingWritten pn r s t ∧
      ((s.shed sh).traceDrop = 0 ∨ (s.shed sh).draining.isSome = true → (t.shed sh).trace = l) ∧
      ((s.shed sh).traceDrop ≠ 0 → (s.shed sh).draining = none → l.length < 512 → (t.shed sh).traceDrop = 0 ∧
        (t.shed sh).trace = l ++ [traceImage s.tick (s.shed sh).traceSeq 0 {} 0xFFFF (s.shed sh).traceDrop 15 0 (12 * sh)]) ∧ (∀ h, h ≠ sh → t.shed h = s.shed h) ∧
      ((s.shed sh).draining.isSome = true ∧ l = [] → (t.shed sh).off = true)) ∧
  (∀ (die : Nat) (s : State), (∀ h, dieOfShed h = die → (s.shed h).trace = []) → exec (.traceDrain die) s = .next s) ∧
  (∀ (sh : Nat) (s : State), sh < 72 → s.penOfShed sh = none → (s.shed sh).draining = none →
    ((s.shed sh).off = true → exec (.shedPowerGate sh) s = .next s) ∧
    ((s.shed sh).off = false → ∃ t, exec (.shedPowerGate sh) s = .next t ∧ t.mem = s.mem ∧ t.cores = s.cores ∧ (∀ h, h ≠ sh → t.shed h = s.shed h) ∧
      (t.shed sh).trace = (s.shed sh).trace ∧ (t.shed sh).mem = (s.shed sh).mem ∧ (t.shed sh).cnt = [] ∧
      ((s.shed sh).trace = [] → (t.shed sh).off = true) ∧ ((s.shed sh).trace ≠ [] → (t.shed sh).off = false ∧ (t.shed sh).draining = some s.tick))) ∧
  (∀ (sh t0 : Nat) (s : State), (s.shed sh).draining = some t0 →
    (s.tick < t0 + 65536 ∨ (s.shed sh).trace = [] → exec (.traceDrainTimeout sh) s = .next s) ∧
    (t0 + 65536 ≤ s.tick → (s.shed sh).trace ≠ [] → ∃ t, exec (.traceDrainTimeout sh) s = .next t ∧ t.mem = s.mem ∧ t.cores = s.cores ∧
      (t.shed sh).off = true ∧ (t.shed sh).trace = [] ∧
      let was := mget (0, 0, 0, 0) (s.die (dieOfShed sh)).lost sh
      let now := mget (0, 0, 0, 0) (t.die (dieOfShed sh)).lost sh
      now.2.2.1 = was.2.2.1 + (s.shed sh).trace.length ∧ now.2.2.2 = s.tick)) ∧
  (∀ (die sh pn q n at_ : Nat) (s : State), (s.die die).lost = [(sh, pn, q, n, at_)] →
    ((s.pen pn).trcRoom = false → exec (.lostRecordWrite die) s = .next s) ∧
    (OpenRing (s.pen pn) → s.bad = [] → ∃ t, exec (.lostRecordWrite die) s = .next t ∧ RingWritten pn (traceImage at_ q 0 {} 0xFFFF n 14 0 (12 * sh)) s t ∧
      (t.die die).lost = [])) ∧
  (∀ (sh : Nat) (s : State),
    ((s.shed sh).off = false → exec (.shedPowerRestore sh) s = .next s) ∧
    ((s.shed sh).off = true → ∃ t, exec (.shedPowerRestore sh) s = .next t ∧ t.mem = s.mem ∧ (t.shed sh).off = false ∧ (t.shed sh).gainedPower = true ∧
      (∀ c, t.core c = if shedOf c = sh then {} else s.core c) ∧ ∀ h, h ≠ sh → t.shed h = s.shed h))

/-- R35, R383, R384, R386, R388, R399: BCNCTL, where the host's write reaches it, sets the interval and ENABLE, but not a new interval while enabled; ENABLE set restarts the counters. A beacon falls on a multiple of 2^K
only; it restarts the counters, and writes a record of each die to the administrator's ring.
R393: BRKCTL sets the breakpoint's ENABLE, and its GO releases an instance that is held; the host reaches no BRKCTL of a confidential
pen (R392).
Where the spec leaves it open, the model's choice: assumptions 60, 61. -/
def Obligations.BeaconsAndBreakpoints : Prop :=
  ((∀ (value : Nat) (s : State), s.powered = true → HostReaches 0 0x08 s →
     let k := field value 16 5
     let en := field value 31 1 == 1
     (s.bcnEnable = true → k ≠ s.bcnK → exec (.bcnctlWrite value) s = .next (s.unstage 81)) ∧
     (s.bcnEnable = false ∨ k = s.bcnK → ∃ t, exec (.bcnctlWrite value) s = .next t ∧ t.bcnEnable = en ∧ t.bcnK = k ∧
       (en = true → s.bcnEnable = false → t.bcnPartial = true ∧ t.bcnLast = s.tick ∧
         (∀ h, (t.shed h).cnt = [] ∧ (t.shed h).fov = []) ∧ ∀ d, (t.die d).cnt = []) ∧ t.mem = s.mem ∧ t.cores = s.cores)) ∧
   (∀ s : State, (s.bcnEnable = false ∨ s.bcnK < 10 ∨ 24 < s.bcnK ∨ s.tick % 2 ^ s.bcnK ≠ 0 ∨ s.tick ≤ s.bcnLast → exec .beacon s = .next s) ∧
     (s.bcnEnable = true → 10 ≤ s.bcnK → s.bcnK ≤ 24 → s.tick % 2 ^ s.bcnK = 0 → s.bcnLast < s.tick →
       ∃ t, exec .beacon s = .next t ∧ t.cores = s.cores ∧ t.bcnPartial = false ∧ t.bcnLast = s.tick ∧ (∀ d, d < 9 → (t.die d).cnt = []) ∧
         (∀ h, h < 72 → (s.shed h).off = false → (s.shed h).draining = none → (∃ p, s.penOfShed h = some p) → (t.shed h).cnt = [] ∧ (t.shed h).fov = [] ∧ (t.shed h).gainedPower = false) ∧
         (s.bcnr.ctl.getLsbD 63 = false → (∀ p ∈ s.pens, p.2.pbcn.ctl.getLsbD 63 = false) → t.mem = s.mem) ∧
         (s.MemOk → s.pens = [] → s.bcnr.ctl.getLsbD 63 = true → 4 ≤ field s.bcnr.ctl.toNat 52 4 → s.bcnr.head = 0 → s.bcnr.tail = 0 →
           t.bcnr = { s.bcnr with tail := 9, drops := 0 } ∧ ∀ d, d < 9 →
             let at_ := field s.bcnr.ctl.toNat 10 42 * 1024 + 1024 * d
             readLE t.mem (at_ + 49) 1 = 1 ∧ readLE t.mem (at_ + 47) 1 = d ∧ readLE t.mem (at_ + 58) 6 = s.tick % 2 ^ 48)))) ∧
  (∀ (pen value : Nat) (s : State) (i : Instr), i = .brkctlGo pen value ∨ i = .brkctlEnable pen value → s.powered = true → pen < 16 →
     HostReaches (10 + pen) 0xE8 s →
     let p : Pen := { s.pen pen with brkEnable := field value 31 1 == 1 }
     ((s.pen pen).conf = true → exec i s = .next (s.unstage 81)) ∧
     ((s.pen pen).conf = false → field value 29 1 = 0 → ∃ t, exec i s = .next t ∧ { t with pens := [] } = { s.unstage 81 with pens := [] } ∧
       t.pen pen = p ∧ ∀ j, j ≠ pen → t.pen j = s.pen j) ∧
     (∀ a : Inst, (s.pen pen).conf = false → field value 29 1 = 1 → s.insts = [a] → a.pen = pen → a.brkHeld = true →
       ∃ t, exec i s = .next t ∧ { t with pens := [], insts := [] } = { s.unstage 81 with pens := [], insts := [] } ∧ t.pen pen = p ∧
         t.insts = [{ a with brkHeld := false, since := s.tick, entering := a.pure }]))

/-! ### Events: register blocks, the host, packets, links, the board controller (spec 04, 13, 15, 21) -/

namespace Sys2Proof.Claims
open Sys2Proof Sys2Proof.Machine

/-- A register access by a master that its block's table admits, to a register that lies there, and to no mailbox (R35, R396); the host
and the board controller make theirs once the firmware is accepted (R406, R407), and the host where its link finds a way (R404). -/
def RegOpen (master addr n : Nat) (s : State) : Prop :=
  s.powered = true ∧ tierOf addr = .regs ∧ regAt addr = true ∧ isMailbox addr = false ∧ s.granted master addr n true = true ∧
    (master = 81 ∨ master = 82 → s.up = true) ∧ (master = 81 → s.hostWay addr = true)

/-- Only the package's memory, which of its lines are bad, and which of its bytes stand encrypted changed: of these, none of the n bytes
at an address. -/
def OnlyMem (a n : Nat) (s t : State) : Prop :=
  { t with mem := [], bad := [], enc := [] } = { s with mem := [], bad := [], enc := [] } ∧
    ∀ p, p ∈ t.enc ↔ p ∈ s.enc ∧ ¬(a ≤ p.1 ∧ p.1 < a + n)

/-- An arrival at a window of a core, with no other one under way, is n bytes within one aligned unit, which translate to one piece of memory and are allowed (R123,
R320). -/
def Arrives (kind : Nat) (w : TWin) (core off n pa : Nat) (x : Xl) (s s1 : State) : Prop :=
  s.arrs = [] ∧ 0 < n ∧ off + n ≤ w.len ∧ (w.base + off) % 2 ^ 64 % 8 + n ≤ 8 ∧
    s.arrive w core kind ((w.base + off) % 2 ^ 64) n = .ok x s1 ∧ x.segs = [(pa, n)] ∧ tierOf pa ≠ .regs

end Sys2Proof.Claims

/-- R35, R396, R398: a low half is staged and changes no register; the high half then writes the whole register, and eight bytes write it
at once; a master that the table does not admit, or an address without a register, changes nothing, and neither does the host or the board
controller before the firmware is accepted (R406, R407), nor a host whose link finds no way to it (R404); the mailbox is refused by name.
R350, R399, R400: the host's write of device memory stores its bytes, its read returns what stands stored there, which is the plain bytes where none of them stands encrypted, and its own write stores in
host memory; without a right in the table nothing happens, and a line with an uncorrectable error reads as it stands; the board controller's mailbox is refused by name.
Where the spec leaves it open, the model's choice: assumptions 16, 31, 68, 71, 76, 89, 121. -/
def Obligations.HostAndRegisterBlocks : Prop :=
  ((∀ (master addr lo hi b off : Nat) (s : State), addr % 8 = 0 → RegOpen master addr 4 s → RegOpen master (addr + 4) 4 s →
     regBlock addr = some (b, off) → off % 8 = 0 → regBlock (addr + 4) = some (b, off + 4) → lo < 2 ^ 32 → hi < 2 ^ 32 →
     ∃ s1, exec (.regWriteLowHalf master addr lo) s = .next s1 ∧ { s1 with staged := [] } = { s with staged := [] } ∧
       exec (.regWriteHighHalf master addr hi) s1 =
         .next (({ s with staged := s.staged.filter (fun x => x.1 != master) } : State).blockWrite master b off (lo + hi * 2 ^ 32) false)) ∧
   (∀ (master addr value b off : Nat) (s : State), addr % 8 = 0 → RegOpen master addr 8 s → regBlock addr = some (b, off) → off % 8 = 0 →
     value < 2 ^ 64 → exec (.registerWrite master addr value) s =
       .next (({ s with staged := s.staged.filter (fun x => x.1 != master) } : State).blockWrite master b off value false)) ∧
   (∀ (master pn value : Nat) (sys : Bool) (s : State), pn < 16 → s.hidden master (10 + pn) 0xD8 sys = false →
       s.hidden master (10 + pn) 0xE0 sys = false →
     (s.blockWrite master (10 + pn) 0xD8 value sys).pen pn = { s.pen pn with trchead := value % 2 ^ 32 } ∧
     (s.blockWrite master (10 + pn) 0xE0 value sys).pen pn = { s.pen pn with brkaddr := BitVec.ofNat 64 (value % 2 ^ 57) } ∧
     s.blockWrite master (10 + pn) 0xA0 value sys = s ∧
     (master ≠ 82 ∨ value % 2 ^ 16 = 0xFFFF ∨ (∃ p ∈ s.pens, p.2.enable = true) → s.blockWrite master 0 0 value sys = s)) ∧
   (∀ (master addr value : Nat) (s : State) (i : Instr), addr % 8 = 0 → s.powered = true →
     (i = .regWriteLowHalf master addr value ∨ i = .regWriteHighHalf master addr value ∨ i = .registerWrite master addr value) →
     (isMailbox addr = false → isMailbox (addr + 4) = false → (regAt addr = false ∧ regAt (addr + 4) = false) ∨
       (∀ a n, s.granted master a n true = false) ∨ ((master = 81 ∨ master = 82) ∧ s.up = false) ∨
       (master = 81 ∧ s.hostWay addr = false ∧ s.hostWay (addr + 4) = false) → exec i s = .next s) ∧
     (isMailbox addr = true → isMailbox (addr + 4) = true → master = 81 ∨ master = 82 → exec i s = .refused .boardMailbox))) ∧
  (∀ (addr n x : Nat) (s : State), s.powered = true →
     (tableOk addr = true → s.hostMay addr n true = true → s.badWrite [(addr, n)] = false →
       ∃ t, exec (.hostWrite addr n x) s = .next t ∧ OnlyMem addr n s t ∧ StoredAt addr n x s.mem t.mem) ∧
     (tableOk addr = true → s.badWrite [(addr, n)] = true → ∃ t, exec (.hostWrite addr n x) s = .next t ∧ t.mem = s.mem ∧ t.bad = s.bad) ∧
     (tableOk addr = true → s.hostMay addr n true = false → exec (.hostWrite addr n x) s = .next s) ∧
     (tableOk addr = true → s.hostMay addr n false = true →
       exec (.hostRead addr n) s = .next { s with hostReads := (addr, s.stored addr n) :: s.hostReads } ∧
       ((∀ p ∈ s.enc, ¬(addr ≤ p.1 ∧ p.1 < addr + n)) → s.stored addr n = readLE s.mem addr n)) ∧
     (tableOk addr = true → s.hostMay addr n false = false → exec (.hostRead addr n) s = .next s) ∧
     (tierOf addr = .host → addr + n ≤ 2 ^ 52 → s.badWrite [(addr, n)] = false → ∃ t, exec (.hostProcessorWrite addr n x) s = .next t ∧
       OnlyMem addr n s t ∧ StoredAt addr n x s.mem t.mem) ∧
     (isMailbox addr = true → exec (.hostWrite addr n x) s = .refused .boardMailbox ∧ exec (.hostRead addr n) s = .refused .boardMailbox))

/-- R115, R122 to R124, R320 to R322: what the packets of puts, gets and remote atomics do where they arrive: with no window there, or one
that ends before their last byte, they are refused with class 0x25 at the first byte that it does not cover, an atomic that is not aligned too, and with no way to it, or for the answer back, with class 0x24 (R404); else a put stores its bytes, and the last part of a put that goes in parts has WLAND count the whole,
a get's bytes come back, an atomic leaves
its result and answers with the old value; an acknowledgement advances WSEEN of the window that the put named by what it sent; a refusal ends its command with a trap, and what is left of a put that is refused ends with it.
Where the spec leaves it open, the model's choice: assumptions 46, 71, 78, 99. -/
def Obligations.FabricPackets : Prop :=
  (∀ (i id core cmd tcore win off cnt : Nat) (bytes : List (BitVec 8)) (s : State),
    let p : Pkt := .put id core cmd s.fabid tcore win off bytes cnt
    s.net[i]? = some p → core < 65536 → s.arrs = [] →
    (s.cutOff core tcore = true → exec (.putArrival i) s = .next ((s.arrEnd i core p (.refusal core cmd 0x24 off)).dropPuts core cmd)) ∧
    (s.cutOff core tcore = false → (s.core tcore).twin? win = none →
      exec (.putArrival i) s = .next ((s.arrEnd i core p (.refusal core cmd 0x25 off)).dropPuts core cmd)) ∧
    (∀ w, s.cutOff core tcore = false → (s.core tcore).twin? win = some w → w.len ≤ off →
      exec (.putArrival i) s = .next ((s.arrEnd i core p (.refusal core cmd 0x25 off)).dropPuts core cmd)) ∧
    (∀ w pa x s1, s.cutOff core tcore = false → (s.core tcore).twin? win = some w → Arrives kWrite w tcore off (w.len - off) pa x s s1 →
      w.len < off + bytes.length → ∃ t, exec (.putArrival i) s = .next t ∧ .refusal core cmd 0x25 w.len ∈ t.net ∧
        (∀ q ∈ t.net, q.partOf core cmd true = false) ∧ ((t.core tcore).twin? win).map (·.land) = ((s1.core tcore).twin? win).map (·.land)) ∧
    (∀ w pa x s1, s.cutOff core tcore = false → (s.core tcore).twin? win = some w → Arrives kWrite w tcore off bytes.length pa x s s1 →
      cnt = 0 ∨ (∀ q ∈ s1.net, q.partOf core cmd false = false) →
      ∃ t, exec (.putArrival i) s = .next t ∧ t.net = s1.net.eraseIdx i ++ [.putAck core win bytes.length cmd] ∧
        (Memory.wf s1.mem = true → ∀ j, byteAt t.mem j = if pa ≤ j ∧ j < pa + bytes.length then bytes.getD (j - pa) 0 else byteAt s1.mem j) ∧
        (t.core tcore).twin? win = some { w with land := w.land + BitVec.ofNat 64 cnt } ∧ ∀ j y, t.ctx j y = s1.ctx j y) ∧
    (∀ w pa x s1, s.cutOff core tcore = false → (s.core tcore).twin? win = some w → Arrives kWrite w tcore off bytes.length pa x s s1 →
      cnt ≠ 0 → (∃ q ∈ s1.net, q.partOf core cmd false = true) →
      ∃ t, exec (.putArrival i) s = .next t ∧ t.net = s1.net ∧ ((t.core tcore).twin? win).map (·.land) = ((s1.core tcore).twin? win).map (·.land))) ∧
  (∀ (i core win n cmd : Nat) (m : Cmd) (w : IWin) (s : State), s.net[i]? = some (.putAck core win n cmd) →
    (s.eng core 4).sent.find? (fun m => m.idx == cmd) = some m → (s.core core).iwin? m.win = some w →
    ∃ t, exec (.putAckArrival i) s = .next t ∧ t.net = (s.net.eraseIdx i).eraseP (Pkt.asks core cmd) ∧ t.mem = s.mem ∧
      (t.core core).iwin? m.win = some { w with seen := w.seen + BitVec.ofNat 64 m.val } ∧
      (t.eng core 4).sent = (s.eng core 4).sent.eraseP (fun m => m.idx == cmd) ∧ ∀ j y, t.ctx j y = s.ctx j y) ∧
  (∀ (i id core cmd tcore win off n : Nat) (s : State), s.net[i]? = some (.getReq id core cmd s.fabid tcore win off n) → core < 65536 → s.arrs = [] →
    (s.cutOff core tcore = true → exec (.getRequestArrival i) s = .next { s with net := s.net.eraseIdx i ++ [.refusal core cmd 0x24 off] }) ∧
    (s.cutOff core tcore = false → (s.core tcore).twin? win = none → exec (.getRequestArrival i) s = .next { s with net := s.net.eraseIdx i ++ [.refusal core cmd 0x25 off] }) ∧
    (∀ w, s.cutOff core tcore = false → (s.core tcore).twin? win = some w → w.len ≤ off → 0 < n →
      exec (.getRequestArrival i) s = .next { s with net := s.net.eraseIdx i ++ [.refusal core cmd 0x25 off] }) ∧
    (∀ w pa x s1, s.cutOff core tcore = false → (s.core tcore).twin? win = some w → Arrives kRead w tcore off (w.len - off) pa x s s1 →
      w.len < off + n → ∃ t, exec (.getRequestArrival i) s = .next t ∧ t.net = s1.net.eraseIdx i ++ [.refusal core cmd 0x25 w.len] ∧ t.mem = s1.mem) ∧
    (∀ w pa x s1, s.cutOff core tcore = false → (s.core tcore).twin? win = some w → Arrives kRead w tcore off n pa x s s1 →
      exec (.getRequestArrival i) s = .next { s1 with net := s1.net.eraseIdx i ++ [.getReply core cmd ((List.range n).map (fun j => byteAt s1.mem (pa + j)))] })) ∧
  (∀ (i core cmd : Nat) (bs : List (BitVec 8)) (s : State), s.net[i]? = some (.getReply core cmd bs) → (∀ m ∈ (s.eng core 4).cmds, m.idx = cmd → s.noWay core m.win = false) →
    ∃ t, exec (.getReplyArrival i) s = .next t ∧ t.net = (s.net.eraseIdx i).eraseP (Pkt.asks core cmd) ∧ t.mem = s.mem ∧ (∀ j y, t.ctx j y = s.ctx j y) ∧
      ∀ m ∈ (t.eng core 4).cmds, m.idx = cmd → m.ok = true ∧
        ∃ v, m.shape = [v] ∧ ∀ j, j < bs.length → BitVec.ofNat 8 (v / 2 ^ (8 * j)) = bs.getD j 0) ∧
  (∀ (i core cmd tcore win off op n b : Nat) (s : State), s.net[i]? = some (.ramo core cmd s.fabid tcore win off op n b) → core < 65536 → s.arrs = [] →
    let refused := fun cls o => exec (.remoteAtomicArrival i) s = .next { s with net := s.net.eraseIdx i ++ [.refusal core cmd cls o] }
    (s.cutOff core tcore = true → refused 0x24 off) ∧
    (s.cutOff core tcore = false → (s.core tcore).twin? win = none → refused 0x25 off) ∧
    (∀ w, s.cutOff core tcore = false → (s.core tcore).twin? win = some w →
      (w.len < off + n → refused 0x25 (max off w.len)) ∧
      (off + n ≤ w.len → off % n ≠ 0 ∨ (w.base + off) % n ≠ 0 → refused 0x25 off))) ∧
  (∀ (i core cmd tcore win off op n b : Nat) (w : TWin) (pa : Nat) (x : Xl) (s s1 : State),
    s.net[i]? = some (.ramo core cmd s.fabid tcore win off op n b) → core < 65536 → s.cutOff core tcore = false → (s.core tcore).twin? win = some w →
    n = 4 ∨ n = 8 → off % n = 0 → (w.base + off) % n = 0 → b < 2 ^ (8 * n) → op ≤ 8 → Arrives kRmw w tcore off n pa x s s1 →
    let old := readLE s1.mem pa n
    ∃ t, exec (.remoteAtomicArrival i) s = .next t ∧ StoredAt pa n (amoResult op (8 * n) old b 0) s1.mem t.mem ∧
      t.net = s1.net.eraseIdx i ++ [.ramoReply core win cmd old n] ∧ (t.core tcore).twin? win = some { w with land := w.land + BitVec.ofNat 64 n }) ∧
  (∀ (i core win cmd old n : Nat) (m : Cmd) (w : IWin) (s : State), s.net[i]? = some (.ramoReply core win cmd old n) →
    (s.eng core 4).cmds.find? (fun m => m.idx == cmd) = some m → (s.core core).iwin? m.win = some w →
    ∃ t, exec (.remoteAtomicArrival i) s = .next t ∧ t.net = (s.net.eraseIdx i).eraseP (Pkt.asks core cmd) ∧ t.mem = s.mem ∧
      (t.core core).iwin? m.win = some { w with seen := w.seen + BitVec.ofNat 64 n } ∧ ∀ m ∈ (t.eng core 4).cmds, m.idx = cmd → m.ok = true ∧ m.val = old) ∧
  (∀ (i core cmd cls off : Nat) (m : Cmd) (s : State), s.net[i]? = some (.refusal core cmd cls off) →
    (s.eng core 4).cmds.find? (fun m => m.idx == cmd && !m.ended) = some m →
    ∃ t, exec (.fabricRefusal i) s = .next t ∧ t.net = (s.net.eraseIdx i).eraseP (Pkt.asks core cmd) ∧ t.mem = s.mem ∧ (t.core core).gates = (s.core core).gates ∧
      ((t.ctx core m.ctx).traps.map PTrap.cls) = (s.ctx core m.ctx).traps.map PTrap.cls ++ [cls] ∧
      (∀ c ∈ (t.eng core 4).cmds, c.idx = m.idx → c.ended = true) ∧ ∀ c ∈ (t.eng core 4).sent, c.idx ≠ cmd)

/-- R177, R178, R367: a member of another package joins, leaves and arrives at this package, its group's home, and a context there asks for
the generation; the answer comes back to a member of this package, and a leave takes effect with its generation.
Where the spec leaves it open, the model's choice: assumptions 43, 78, 103. -/
def Obligations.SpanningGroups : Prop :=
  (∀ (i n m : Nat) (s : State), s.net[i]? = some (.groupMsg n m 2) → s.homeHere n = true →
    let g := s.grp n
    (g.isMember m = false → exec (.spanningGroupMessage i) s = .next { s with net := s.net.eraseIdx i }) ∧
    (g.isMember m = true → g.arrived.contains m = false → (∃ x ∈ g.members, x ≠ m ∧ g.arrived.contains x = false) →
      ∃ t, exec (.spanningGroupMessage i) s = .next t ∧ t.grp n = { g with arrived := g.arrived ++ [m], plain := true } ∧
        t.net = s.net.eraseIdx i ++ [.groupDone n g.gen m 2] ∧ t.cores = s.cores ∧ t.mem = s.mem)) ∧
  (∀ (i n m : Nat) (s : State), s.net[i]? = some (.groupMsg n m 0) → s.homeHere n = true →
    let g := s.grp n
    g.isMember m = false → g.joins.contains m = false → g.arrived = [] →
    ∃ t, exec (.spanningGroupMessage i) s = .next t ∧ t.grp n = { g with members := g.members ++ [m] } ∧
      t.net = s.net.eraseIdx i ++ [.groupDone n g.gen m 0] ∧ t.cores = s.cores ∧ t.mem = s.mem) ∧
  (∀ (i n m : Nat) (s : State), s.net[i]? = some (.groupMsg n m askGen) → s.homeHere n = true →
    exec (.spanningGroupMessage i) s = .next { s with net := s.net.eraseIdx i ++ [.groupDone n (s.grp n).gen m askGen] }) ∧
  (∀ (i n m : Nat) (s : State), s.net[i]? = some (.groupMsg n m 1) → s.homeHere n = true →
    let g := s.grp n
    g.isMember m = true → g.arrived.contains m = false → g.leaves.contains m = false → (∃ x ∈ g.members, x ≠ m ∧ g.arrived.contains x = false) →
    ∃ t, exec (.spanningGroupMessage i) s = .next t ∧ t.grp n = { g with leaves := g.leaves ++ [m], arrived := g.arrived ++ [m] } ∧
      t.net = s.net.eraseIdx i ∧ t.cores = s.cores ∧ t.mem = s.mem) ∧
  (∀ (i n gen m : Nat) (s : State), s.net[i]? = some (.groupDone n gen m 1) → s.foreign m = false →
    ∃ t, exec (.spanningGroupCompletion i) s = .next t ∧ t.net = s.net.eraseIdx i ∧ t.mem = s.mem ∧ t.cores = s.cores ∧
      t.grp n = { s.grp n with members := (s.grp n).members.filter (· != m) }) ∧
  (∀ (i n gen m what : Nat) (s : State), s.net[i]? = some (.groupDone n gen m what) → s.foreign m = false →
    what = 0 ∨ what = 2 ∨ what = askGen →
    let core := m % 4096 / 4
    let ctx := m % 4
    (s.ctx core ctx).req = some (what, 0) →
    ∃ t, exec (.spanningGroupCompletion i) s = .next t ∧ t.net = s.net.eraseIdx i ∧ t.mem = s.mem ∧
      (what = 0 → (t.grp n).isMember m = true) ∧ (what ≠ 0 → t.grp n = s.grp n) ∧
      t.ctx core ctx = { s.ctx core ctx with req := some (what, gen + 1) } ∧ ∀ j y, ¬(j = core ∧ y = ctx) → t.ctx j y = s.ctx j y)

/-- R173, R341, R351, R402, R404, R406: links retry, go out of service with message 4, and come back by retraining; a put under way to another package fails
when no fabric port that its die reaches remains; a pen that is idle takes its next
configuration, once the firmware is accepted, and keeps no more reflection entries than its share, its cached translations and its walks end, and no other pen's do; an image's verdict, which the accepted firmware gives, makes its ranges code or keeps them from running.
Where the spec leaves it open, the model's choice: assumptions 9, 16, 62, 68, 71, 120, 124. -/
def Obligations.LinksAndPens : Prop :=
  (∀ (n : Nat) (s : State), s.powered = true → isLink n = true →
    let l : Link := mget {} s.links n
    (l.up = true → ∃ t, exec (.flitCrcRetry n) s = .next t ∧ { t with links := [] } = { s with links := [] } ∧
      ∀ j, mget {} t.links j = if j = n then { l with retries := l.retries + 1 } else mget {} s.links j) ∧
    (l.up = true → ∃ t, exec (.linkOutOfService n) s = .next t ∧ t.mem = s.mem ∧
      (∀ j, mget {} t.links j = if j = n then { l with up := false, out := true } else mget {} s.links j) ∧
      t.msgs = (4, 0, n) :: s.msgs ∧
      ((∀ core, ({ s with links := t.links } : State).fabricFrom (dieOf core) = true) →
        { t with links := [], msgs := [] } = { s with links := [], msgs := [] }) ∧
      (∀ id core cmd pkg tcore win off bs cnt, s.net = [.put id core cmd pkg tcore win off bs cnt] → core < 65536 → pkg ≠ s.fabid →
        t.net = if ({ s with links := t.links } : State).fabricFrom (dieOf core) then s.net else [.refusal core cmd 0x24 0])) ∧
    (l.up = false → exec (.linkOutOfService n) s = .next s) ∧
    (∃ t, exec (.linkRetrain n) s = .next t ∧ { t with links := [] } = { s with links := [] } ∧
      ∀ j, mget {} t.links j = if j = n then { l with up := true, out := false } else mget {} s.links j)) ∧
  (∀ (pen : Nat) (c : PenCfg) (s : State), s.powered = true → s.penCfgs.find? (fun c => c.pen == pen) = some c → pen < 16 →
    (s.penIdle pen = false → exec (.penConfigure pen) s = .next s) ∧
    ((∃ h ∈ c.sheds, ∃ q, s.penOfShed h = some q ∧ q ≠ pen) → exec (.penConfigure pen) s = .next s) ∧
    (s.up = false → exec (.penConfigure pen) s = .next s) ∧
    (s.up = true → s.penIdle pen = true → (∀ h ∈ c.sheds, h < 72 ∧ (s.penOfShed h = none ∨ s.penOfShed h = some pen)) →
      ∃ t, exec (.penConfigure pen) s = .next t ∧ ((∀ h ∈ (s.pen pen).sheds, (s.shed h).trace = []) → t.mem = s.mem) ∧ t.cores = s.cores ∧
        (∀ j, j ≠ pen → t.pen j = s.pen j) ∧ (∀ h ∈ (s.pen pen).sheds, (t.shed h).trace = []) ∧ (∀ d, (t.die d).heat = (s.die d).heat) ∧
        t.tlb = s.tlb.filter (fun e => e.pen != pen) ∧ t.walks = s.walks.filter (fun k => k.pen != pen) ∧
        let p := t.pen pen
        p.sheds = c.sheds ∧ p.conf = c.conf ∧ p.tenant = c.tenant ∧ p.spaceid = c.spaceid ∧
          p.wb0 = BitVec.ofNat 64 (field c.wb0.toNat 12 40 * 2 ^ 12) ∧ p.wb1 = BitVec.ofNat 64 (field c.wb1.toNat 12 40 * 2 ^ 12) ∧
          p.grpLo = c.grpLo ∧ p.grpHi = c.grpHi ∧ p.spans = c.spans ∧ p.vchan = c.vchan ∧
          (∀ d v, mget 0 c.cspwin d = v → mget 0 p.cspwin d = BitVec.ofNat 64 (field v.toNat 0 7 + field v.toNat 16 7 * 2 ^ 16)) ∧ p.rfcap = c.rfcap ∧
          p.refl.length ≤ c.rfcap ∧ ((s.pen pen).refl.length ≤ c.rfcap → p.refl = (s.pen pen).refl) ∧ p.lqs = (s.pen pen).lqs)) ∧
  (∀ (pen : Nat) (s : State), s.powered = true → s.firmware ≠ some true → exec (.imageAdmission pen) s = .next s) ∧
  (∀ (pen : Nat) (r : ImageReq) (s : State), s.powered = true → s.firmware = some true → s.images.find? (fun r => r.pen == pen) = some r →
    ∃ t, exec (.imageAdmission pen) s = .next t ∧ t.mem = s.mem ∧ t.cores = s.cores ∧ t.verdicts = (pen, r.verdict) :: s.verdicts ∧
      (r.verdict = none → t.pen pen = { s.pen pen with admitted := (s.pen pen).admitted ++ r.ranges }) ∧
      (r.verdict ≠ none → t.pen pen = { s.pen pen with rejected := (s.pen pen).rejected ++ r.ranges }))

/-- R35, R36, R403, R406, R407: access tables and FABID as the board controller writes them once the firmware is accepted; the firmware's acceptance brings up the host
link with message 5, where its version is no less than the fused counter and its signature verifies under the key whose hash is fused, and its rejection keeps it down; power comes up with the tick at 0, and with the memory and the registers of the model's reset; at the shutdown limit it goes; without power every
other event of the host, the links and the board controller is the fault `noPower`.
Where the spec leaves it open, the model's choice: assumptions 1 and 2 (what memory and registers hold when the power comes up), 16, 17, 30, 67, 75. -/
def Obligations.BoardController : Prop :=
  (∀ (target master slot value : Nat) (s : State), s.powered = true → slot < 64 → master < 83 →
    (s.up = false → exec (.accessTableWrite target master slot value) s = .next s) ∧
    (s.up = true → ∃ t, exec (.accessTableWrite target master slot value) s = .next t ∧ { t with ranges := [] } = { s with ranges := [] } ∧
      ∀ r, r ∈ t.ranges ↔ (r ∈ s.ranges ∧ ¬(r.target = target ∧ r.master = master ∧ r.slot = slot)) ∨
        (field value 74 1 = 1 ∧ r = ⟨target, master, slot, field value 0 36 * 65536, field value 36 37 * 65536, field value 73 1 == 1⟩))) ∧
  (∀ (value : Nat) (s : State), s.powered = true →
    let reaches := s.up = true ∧ s.granted 82 (regAddr 0 0) 8 true = true
    (¬reaches → exec (.fabidWrite value) s = .next s) ∧
    (reaches → value % 2 ^ 16 = 0xFFFF ∨ (∃ p ∈ s.pens, p.2.enable = true) → exec (.fabidWrite value) s = .next (s.unstage 82)) ∧
    (reaches → value % 2 ^ 16 ≠ 0xFFFF → (∀ p ∈ s.pens, p.2.enable = false) →
      exec (.fabidWrite value) s = .next { s.unstage 82 with fabid := value % 2 ^ 16, fabSet := true })) ∧
  (∀ s : State, s.powered = true → s.firmware = none →
    exec .firmwareVerify s = .next (if s.fwRollback ≤ s.fwVersion ∧ sha256 s.fwKey = s.fwKeyHash ∧ slhVerify s.fwKey s.fwSigned s.fwSig = true
      then { s with firmware := some true, hostLink := true, msgs := (5, 0, 0) :: s.msgs } else { s with firmware := some false })) ∧
  (∀ s : State, s.powered = false → ∃ t, exec .powerUp s = .next t ∧ t.powered = true ∧ t.tick = 0 ∧ t.mem = [] ∧ t.cores = [] ∧ t.pens = [] ∧
    t.insts = [] ∧ t.firmware = none ∧ t.hostLink = false ∧ t.fwRollback = s.fwRollback ∧ t.hostReads = s.hostReads) ∧
  (∀ (temp : Nat) (s : State), s.powered = true →
    exec (.overTemperature temp) s = .next (if Config.shutdownLimit ≤ temp then { s with overTemp := true, powered := false, hostLink := false }
      else if Config.warnLimit ≤ temp then { s with overTemp := true } else s)) ∧
  (∀ s : State, s.powered = false → ∀ (a b c d : Nat),
    exec .firmwareVerify s = .fault .noPower ∧ exec (.overTemperature a) s = .fault .noPower ∧ exec (.fabidWrite a) s = .fault .noPower ∧
    exec (.accessTableWrite a b c d) s = .fault .noPower ∧ exec (.penConfigure a) s = .fault .noPower ∧ exec (.imageAdmission a) s = .fault .noPower ∧
    exec (.flitCrcRetry a) s = .fault .noPower ∧ exec (.linkOutOfService a) s = .fault .noPower ∧ exec (.linkRetrain a) s = .fault .noPower ∧
    exec (.hostWrite a b c) s = .fault .noPower ∧ exec (.hostRead a b) s = .fault .noPower ∧ exec (.hostProcessorWrite a b c) s = .fault .noPower ∧
    exec (.regWriteLowHalf a b c) s = .fault .noPower ∧ exec (.regWriteHighHalf a b c) s = .fault .noPower ∧ exec (.registerWrite a b c) s = .fault .noPower ∧
    exec (.lqctlWrite a b c) s = .fault .noPower ∧ exec (.c3startWrite a b) s = .fault .noPower ∧ exec (.bcnctlWrite a) s = .fault .noPower ∧
    exec (.hostLinkReset a) s = .fault .noPower ∧ exec (.brkctlGo a b) s = .fault .noPower ∧ exec (.brkctlEnable a b) s = .fault .noPower ∧
    exec (.priosetWrite a b) s = .fault .noPower ∧ exec (.penctlEnable a b) s = .fault .noPower ∧ exec (.penctlResume a b) s = .fault .noPower ∧
    exec (.penctlAbandon a b) s = .fault .noPower ∧ exec (.cutreqWrite a b) s = .fault .noPower)

/-! ### The step, the decoder, every state, reset -/

namespace Sys2Proof.Claims
open Sys2Proof Sys2Proof.Machine

/-- A context waits at no instruction that it has fetched and that has asked for something. -/
def Fetches (core ctx : Nat) (s : State) : Prop := (s.ctx core ctx).req = none ∨ (s.ctx core ctx).asked = none

/-- It is the turn of a context of a powered shed, with no trap that waits for the boundary and no pre-emption that lands here. -/
def Turned (core ctx : Nat) (rest : List Turn) (s : State) : Prop :=
  s.agenda = .issue core ctx :: rest ∧ s.alive core ctx = true ∧ (({ s with agenda := rest } : State).focus core ctx).before core ctx = none

/-- What it fetches from: the state with that turn taken. -/
def fetching (core ctx : Nat) (rest : List Turn) (s : State) : State := ({ s with agenda := rest } : State).focus core ctx

/-- The translated address that a fetch reads, its four bytes in one piece of memory, the access table letting it; a context that stands
Running counts its heat. -/
def FetchesAt (va pa : Nat) (s s1 : State) : Prop :=
  s.admits s.curCore s.curCtx va = true ∧
  (∃ x y, s.xlate s.cur.space (s.whoCtx s.curCore s.curCtx s.cur.group.toNat) kFetch false va 4 = (x, y) ∧ x.busy = false ∧ x.flt = none ∧
    x.regFault va = none ∧ x.segs = [(pa, 4)] ∧
    s1 = if s.cur.st = .running then y.heatAll (y.whoCtx s.curCore s.curCtx 0) s.cur.space va x else y) ∧
  s1.targetCheck s.curCore pa 4 false = none ∧ tierOf pa ≠ .regs

end Sys2Proof.Claims

/-- R212, R221, R227, R230, R273, R275, R279, R332, R344, R384: at its turn a context that may issue runs the instruction that its words at the PC decode to, with
the fields of the word stepped in a repeat; words that decode to none raise class 0x20, a fetch that fails raises the fault's class; a
fetch whose page walk is under way leaves the context where it stands; an instruction that waits for the answer it has asked for goes on and
is not fetched again; a trap that waits is entered first, then a pre-emption lands; the tick
that passes has the stop requests of the tick served in their order (R338), and brings the beacon that falls on it; an event of the agenda runs as its arm says; a package without power does nothing but come up.
Where the spec leaves it open, the model's choice: assumptions 3, 74, 75. -/
def Obligations.StepRunsDecodedInstruction : Prop :=
  (∀ (core ctx w t : Nat) (rest : List Turn) (s s1 : State), Sys2Proof.Claims.Turned core ctx rest s → s.mayIssue core ctx = true →
    Sys2Proof.Claims.Fetches core ctx s → fetchCur (Sys2Proof.Claims.fetching core ctx rest s) = .ok w t s1 →
    (∀ i, decode (s1.cur.stepped w) t = some i → step s = exec i s1) ∧
    (decode (s1.cur.stepped w) t = none → step s = .next (trapCur 0x20 s1))) ∧
  (∀ (core ctx : Nat) (f : Flt) (rest : List Turn) (s s1 : State), Sys2Proof.Claims.Turned core ctx rest s → s.mayIssue core ctx = true →
    Sys2Proof.Claims.Fetches core ctx s →
    (fetchCur (Sys2Proof.Claims.fetching core ctx rest s) = .bad f s1 → step s = .next (trapFetch f s1)) ∧
    (fetchCur (Sys2Proof.Claims.fetching core ctx rest s) = .busy s1 → step s = .next s1)) ∧
  (∀ (core ctx : Nat) (q : Nat × Nat) (i : Instr) (rest : List Turn) (s : State), Sys2Proof.Claims.Turned core ctx rest s → s.mayIssue core ctx = true →
    (s.ctx core ctx).req = some q → (s.ctx core ctx).asked = some i → step s = exec i (Sys2Proof.Claims.fetching core ctx rest s)) ∧
  (∀ (core ctx : Nat) (rest : List Turn) (s : State), Sys2Proof.Claims.Turned core ctx rest s → s.mayIssue core ctx = false →
    step s = .next { s with agenda := rest }) ∧
  (∀ (core ctx : Nat) (rest : List Turn) (s s1 : State), s.agenda = .issue core ctx :: rest → s.alive core ctx = true →
    (({ s with agenda := rest } : State).focus core ctx).takePending core ctx = some s1 →
    step s = .next (s1.modCtx core ctx (fun c => { c with landed := none }))) ∧
  (∀ (core ctx : Nat) (rest : List Turn) (s s1 : State), s.agenda = .issue core ctx :: rest → s.alive core ctx = true →
    (s.ctx core ctx).traps = [] → (Sys2Proof.Claims.fetching core ctx rest s).landed? core ctx = some s1 → step s = .next s1) ∧
  (∀ (rest : List Turn) (s : State), s.agenda = .tick :: rest → s.powered = true →
    step s = exec .beacon { ({ s with agenda := rest } : State).cutServe with tick := s.tick + 1 }) ∧
  (∀ (i : Instr) (rest : List Turn) (s : State), s.agenda = .event i :: rest → s.powered = true → step s = exec i { s with agenda := rest }) ∧
  (∀ (t : Turn) (rest : List Turn) (s : State), s.agenda = t :: rest → s.powered = false → t ≠ .event .powerUp →
    step s = .next { s with agenda := rest })

/-- R212, R221: the words of the instruction are the four bytes, little-endian, at the translated PC and, for a major from 0x40 to 0x77,
the four bytes at the translated PC + 4; a PC that is no multiple of 4 is fetched at as it stands.
Where the spec leaves it open, the model's choice: assumptions 20, 111. -/
def Obligations.FetchReadsTheWords : Prop :=
  ∀ (pa pa2 : Nat) (s s1 s2 : State), Sys2Proof.Claims.FetchesAt s.cur.pc.toNat pa s s1 →
    (field (readLE s1.mem pa 4) 25 7 < 0x40 ∨ 0x77 < field (readLE s1.mem pa 4) 25 7 → fetchCur s = .ok (readLE s1.mem pa 4) 0 s1) ∧
    (0x40 ≤ field (readLE s1.mem pa 4) 25 7 → field (readLE s1.mem pa 4) 25 7 ≤ 0x77 →
      Sys2Proof.Claims.FetchesAt (s1.cur.pc + 4).toNat pa2 s1 s2 →
      fetchCur s = .ok (readLE s1.mem pa 4) (readLE s2.mem pa2 4) s2)

/-- R213 to R229: decoding what an instruction encodes to gives that instruction, with every operand at every value its encoding admits;
and what decodes at all is a well-formed instruction that has words. -/
def Obligations.EncodedInstructionsDecode : Prop :=
  (∀ i : Instr, i.wf = true → i.isEvent = false → decode (encode i).1 (encode i).2 = some i) ∧
  (∀ (w t : Nat) (i : Instr), decode w t = some i → i.wf = true ∧ i.isEvent = false)

/-- Every step, from every state, keeps the canonical form of package memory, of the scratchpads and of the lane slices, so that equal
memories are equal data.
Where the spec leaves it open, the model's choice: assumption 2. -/
def Obligations.MemoriesStayCanonical : Prop :=
  ∀ s t : State, s.MemOk → s.LocalOk → step s = .next t → t.MemOk ∧ t.LocalOk

/-- R5, R43, R98, R102, R202, R282, R334, R355, and the canonical form of memory: what the spec gives of the state after reset.
Where the spec leaves it open, the model's choice: assumption 2. -/
def Obligations.AtReset : Prop :=
  (∀ core x : Nat, (State.reset.ctx core x).genprof = 3 ∧ (State.reset.ctx core x).st = .idle ∧
    (∀ v, mget 0 (State.reset.ctx core x).v v = 0) ∧ (State.reset.ctx core x).ovftab = ovfOfProfile 3) ∧
  (∀ core g : Nat, mget 0 (State.reset.core core).gates g = 0 ∧ mget 0 (State.reset.core core).ctrs g = 0) ∧
  (∀ d : Nat, (State.reset.die d).wbtime = 2 ^ 22) ∧
  (∀ core : Nat, (State.reset.core core).fringLog < 4) ∧
  State.reset.nextInst = 1 ∧ State.reset.tick = 0 ∧ State.reset.insts = [] ∧
  (∀ g : Nat, (State.reset.grp g).gen = 0) ∧
  State.reset.MemOk ∧ State.reset.LocalOk

/-- R215 to R229: worked encodings of spec 09 to 14 decode to the instructions they stand for: `sub s24, s18, s25`; `pandn p3, q0, q1`;
`(p3) shl s19, s17, 5`; `cmp.lt p2, s5, 10`; `extract s5, s6, 8, 16`; `(p3) graise g4`; `barm b1, 8`;
`push hq2, s8`; `(p3) ld.d s13, [s1]`; `st.d.rel.shed [s11], s1`; `fld s7, [s12]`; `mfsr s5, CUTDONE.1`; `cpre s7, [s6]`; the `copy`, `mma`
and `tst` commands n38, n57 and n76; `vwiden`; and undefined words decode to none. -/
def Obligations.DecodedWords : Prop :=
  decode 0x00312641 0 = some (.sub ⟨0, 24, 18, 0, 25, 0⟩) ∧
  decode 0x141C24C0 0 = some (.pandn ⟨0, 3, 8, 0, 9, 0⟩) ∧
  decode 0x0CE71005 0 = some (.shlImm ⟨3, 19, 17, 0, 5⟩) ∧
  decode 0x1212280A 0 = some (.cmpImm ⟨0, 2, 2, 5, 0, 10⟩) ∧
  decode 0x160A63C8 0 = some (.extract ⟨0, 5, 6, 0, 0x3C8⟩) ∧
  decode 0x30C04001 0 = some (.graise ⟨3, 4⟩) ∧
  decode 0x32010008 0 = some (.barmImm ⟨0, 1, 8⟩) ∧
  decode 0x36102000 0 = some (.push ⟨0, 8, 0, 2⟩) ∧
  decode 0x40DA1300 0 = some (.ldGlb ⟨3, 13, 1, 0, 0, 3, 0⟩) ∧
  decode 0x5202B31C 0 = some (.stRel ⟨0, 1, 11, 0, 0, 3, 0, 7⟩) ∧
  decode 0x740EC000 0 = some (.fld ⟨0, 7, 12, 0⟩) ∧
  decode 0x7E0A01A0 0 = some (.mfsr ⟨0, 5, 0, 0, 0x0D⟩) ∧
  decode 0x7E0E600B 0 = some (.cpre ⟨0, 7, 6, 0⟩) ∧
  decode 0xD07011E0 0x02500100 = some (.copy ⟨1, 24, 0, 2, 0, 15, 0⟩ ⟨0, 0, 1, 5, 0, 0, 0, 0x100⟩) ∧
  decode 0xC0727185 0x86220144 = some (.mma 5 ⟨1, 25, 0, 14, 0, 12, 0⟩ ⟨1, 1, 1, 2, 1, 0, 0, 0x144⟩) ∧
  decode 0xC6688800 0x02340000 = some (.tst ⟨1, 20, 0, 17, 0, 0, 0⟩ ⟨0, 0, 1, 3, 2, 0, 0, 0⟩) ∧
  decode 0x98104580 0x00000340 = some (.vwiden ⟨0, 8, 4, 11⟩ ⟨0, 0, 0, 0, 0, 0, 0, 0x340⟩) ∧
  decode 0x7E00000F 0 = none ∧ decode 0xFE000000 0 = none
end

