-- ==== Sys2Proof/Laws/Decode.lean ====
section
/-!
SUPPORT. How fields come out of a packed word: the lowest field is the word's low bits, and every other one is a field of what is
packed above it. The decoder's fields of an encoded instruction simplify with these.
-/
namespace Sys2Proof

/-- The lowest field of a packed word. -/
@[simp] theorem fld_pack_low (n : Nat) (x : BitVec n) (l : List ((n : Nat) × BitVec n)) : fld (pack (⟨n, x⟩ :: l)) 0 n = x.toNat := by
  simp [fld, pack, Nat.add_mul_mod_self_left, Nat.mod_eq_of_lt x.isLt]

/-- A field above the lowest one. -/
theorem fld_pack_high (n lo k : Nat) (x : BitVec n) (l : List ((n : Nat) × BitVec n)) (h : n ≤ lo) :
    fld (pack (⟨n, x⟩ :: l)) lo k = fld (pack l) (lo - n) k := by
  obtain ⟨d, rfl⟩ := Nat.exists_eq_add_of_le h
  simp only [fld, pack, Nat.add_sub_cancel_left, pow_add, ← Nat.div_div_eq_div_mul]
  rw [Nat.add_mul_div_left _ _ (by positivity), Nat.div_eq_of_lt x.isLt, Nat.zero_add]

/-- A field as bits is the field as a number. -/
theorem bits_eq_fld (w lo k : Nat) : bits w lo k = BitVec.ofNat k (fld w lo k) := by
  apply BitVec.eq_of_toNat_eq; simp [bits, fld]

/-- The lowest field of a packed word, as bits. -/
@[simp] theorem bits_pack_low (n : Nat) (x : BitVec n) (l : List ((n : Nat) × BitVec n)) : bits (pack (⟨n, x⟩ :: l)) 0 n = x := by
  simp [bits_eq_fld]

/-- A field above the lowest one, as bits. -/
theorem bits_pack_high (n lo k : Nat) (x : BitVec n) (l : List ((n : Nat) × BitVec n)) (h : n ≤ lo) :
    bits (pack (⟨n, x⟩ :: l)) lo k = bits (pack l) (lo - n) k := by
  simp [bits_eq_fld, fld_pack_high _ _ _ _ _ h]

/-- The words of a tail read back as the tail (R222). -/
@[simp] theorem decTail_encTail (t : Tail) : decTail (encTail t) = t := by
  simp [decTail, encTail, bits_pack_high]

/-- An instruction that passes its checks is the one decoded. -/
theorem checked_eq_some {i j : Instr} : checked i = some j ↔ i = j ∧ i.wf = true := by
  unfold checked; split <;> simp_all

/-- The major opcode, the top seven bits of the word, chooses the table (R213). -/
theorem major_pack_last (x : BitVec 7) : fld (pack [⟨7, x⟩]) 0 7 = x.toNat := fld_pack_low 7 x []

end Sys2Proof
end

