-- ==== Sys2Proof/Laws/Maps.lean ====
section
/-!
SUPPORT. The laws of numbered maps and of bytes: a read after a write of the same place gives what was written, of another
place what stood there; every write keeps the canonical form of memory.
-/
namespace Sys2Proof.Machine

/-! ### Numbered maps -/

@[simp] theorem mget_mset_self {α : Type} (d : α) (m : SMap α) (i : Nat) (x : α) : mget d (mset m i x) i = x := by
  induction m with
  | nil => simp [mset, mget]
  | cons p m ih => obtain ⟨k, v⟩ := p; simp only [mset]; split_ifs <;> simp_all [mget]

theorem mget_mset_ne {α : Type} (d : α) (m : SMap α) {i j : Nat} (x : α) (h : j ≠ i) : mget d (mset m i x) j = mget d m j := by
  induction m with
  | nil => simp [mset, mget, Ne.symm h]
  | cons p m ih =>
    obtain ⟨k, v⟩ := p
    simp only [mset]
    split_ifs <;> simp_all [mget, Ne.symm h]

theorem mget_mset {α : Type} (d : α) (m : SMap α) (i j : Nat) (x : α) :
    mget d (mset m i x) j = if j = i then x else mget d m j := by
  split_ifs with h
  · subst h; simp
  · exact mget_mset_ne d m x h

@[simp] theorem mset_mset_self {α : Type} (m : SMap α) (i : Nat) (x y : α) : mset (mset m i x) i y = mset m i y := by
  induction m with
  | nil => simp [mset]
  | cons p m ih =>
    obtain ⟨k, v⟩ := p
    rcases Nat.lt_trichotomy i k with h | h | h
    · simp [mset, h]
    · subst h; simp [mset]
    · simp [mset, Nat.not_lt.2 (Nat.le_of_lt h), Nat.ne_of_lt h, ih]

/-! ### Bytes -/

theorem wf_tail {k : Nat} {c : BitVec 8} {m : Mem} (h : Memory.wf ((k, c) :: m) = true) : Memory.wf m = true := by
  cases m with
  | nil => rfl
  | cons q m => obtain ⟨j, d⟩ := q; simp only [Memory.wf, Bool.and_eq_true] at h; exact h.2

theorem wf_head {k : Nat} {c : BitVec 8} {m : Mem} (h : Memory.wf ((k, c) :: m) = true) : c ≠ 0 := by
  cases m <;> simp [Memory.wf] at h <;> first | exact h | exact h.1.1

/-- Below the first entry of a memory every byte reads as an unlisted one. -/
theorem byteAt_low {k : Nat} {c : BitVec 8} {m : Mem} (h : Memory.wf ((k, c) :: m) = true) {i : Nat} (hi : i ≤ k) : byteAt m i = 0 := by
  induction m generalizing k c with
  | nil => rfl
  | cons q m ih =>
    obtain ⟨j, d⟩ := q
    simp only [Memory.wf, Bool.and_eq_true, decide_eq_true_eq] at h
    have := ih h.2 (by omega)
    simp [byteAt, this, show j ≠ i by omega]

theorem byteAt_setByte (m : Mem) (a b : Nat) (x : BitVec 8) (h : Memory.wf m = true) :
    byteAt (setByte m a x) b = if b = a then x else byteAt m b := by
  induction m with
  | nil =>
    by_cases hx : x = 0
    · subst hx; simp [setByte, byteAt]
    · simp only [setByte, hx, if_false, byteAt, eq_comm]
  | cons p m ih =>
    obtain ⟨k, c⟩ := p
    have ih := ih (wf_tail h)
    have lo : ∀ i, i ≤ k → byteAt m i = 0 := fun i hi => byteAt_low h hi
    rcases Nat.lt_trichotomy a k with h1 | h1 | h1
    · by_cases hx : x = 0
      · subst hx
        simp only [setByte, h1, if_true, byteAt]
        split_ifs <;> first | omega | rfl | exact lo b (by omega)
      · simp only [setByte, h1, if_true, hx, if_false, byteAt, eq_comm]
    · subst h1
      by_cases hx : x = 0
      · subst hx
        simp only [setByte, Nat.lt_irrefl, if_false, if_true, byteAt]
        split_ifs <;> first | omega | rfl | exact lo b (by omega)
      · simp only [setByte, Nat.lt_irrefl, if_false, if_true, hx, byteAt]
        split_ifs <;> first | rfl | omega
    · simp only [setByte, Nat.not_lt.2 (Nat.le_of_lt h1), if_false, Nat.ne_of_lt h1, byteAt, ih]
      split_ifs <;> first | rfl | omega

theorem wf_cons {k : Nat} {c : BitVec 8} {m : Mem} (hc : c ≠ 0) (h : Memory.wf m = true) (hk : ∀ q ∈ m.head?, k < q.1) :
    Memory.wf ((k, c) :: m) = true := by
  cases m with
  | nil => simpa [Memory.wf] using hc
  | cons q m => obtain ⟨j, d⟩ := q; simp only [Memory.wf, Bool.and_eq_true, decide_eq_true_eq]; simp at hk; exact ⟨⟨by simpa using hc, hk⟩, h⟩

theorem wf_lt {k : Nat} {c : BitVec 8} {m : Mem} (h : Memory.wf ((k, c) :: m) = true) : ∀ q ∈ m.head?, k < q.1 := by
  cases m with
  | nil => simp
  | cons q m => obtain ⟨j, d⟩ := q; simp only [Memory.wf, Bool.and_eq_true, decide_eq_true_eq] at h; simp; exact h.1.2

/-- The first entry after a write lies at or above the lower of the two. -/
theorem setByte_head (m : Mem) (a k : Nat) (x : BitVec 8) (ha : k < a) (hk : ∀ q ∈ m.head?, k < q.1) (h : Memory.wf m = true) :
    ∀ q ∈ (setByte m a x).head?, k < q.1 := by
  cases m with
  | nil => simp only [setByte]; split_ifs <;> simp [ha]
  | cons p m =>
    obtain ⟨j, d⟩ := p
    simp at hk
    have h2 := wf_lt h
    simp only [setByte]
    split_ifs <;> simp_all
    intro q1 q2 hq
    have := h2 q1 q2 hq
    omega

theorem setByte_wf (m : Mem) (a : Nat) (x : BitVec 8) (h : Memory.wf m = true) : Memory.wf (setByte m a x) = true := by
  induction m with
  | nil =>
    simp only [setByte]
    split_ifs with hx
    · rfl
    · exact wf_cons hx rfl (by simp)
  | cons p m ih =>
    obtain ⟨k, c⟩ := p
    have ht := wf_tail h
    simp only [setByte]
    split_ifs with h1 h2 h3 h4
    · exact h
    · exact wf_cons h2 h (by simp [h1])
    · exact ht
    · subst h3; exact wf_cons h4 ht (wf_lt h)
    · exact wf_cons (wf_head h) (ih ht) (setByte_head _ _ _ _ (by omega) (wf_lt h) ht)

@[simp] theorem writeLE_zero (m : Mem) (a x : Nat) : writeLE m a 0 x = m := rfl

theorem writeLE_wf (n a x : Nat) (m : Mem) (h : Memory.wf m = true) : Memory.wf (writeLE m a n x) = true := by
  induction n generalizing m a x with
  | zero => exact h
  | succ n ih => exact ih _ _ _ (setByte_wf _ _ _ h)

/-- A write of n bytes leaves every other byte alone. -/
theorem byteAt_writeLE_off (n a x b : Nat) (m : Mem) (h : Memory.wf m = true) (hb : b < a ∨ a + n ≤ b) :
    byteAt (writeLE m a n x) b = byteAt m b := by
  induction n generalizing m a x with
  | zero => rfl
  | succ n ih =>
    rw [writeLE, ih _ _ _ (setByte_wf _ _ _ h) (by omega), byteAt_setByte _ _ _ _ h, if_neg (by omega)]

/-- A write of n bytes puts the number there, lowest byte first (R8). -/
theorem byteAt_writeLE_on (n a x i : Nat) (m : Mem) (h : Memory.wf m = true) (hi : i < n) :
    byteAt (writeLE m a n x) (a + i) = BitVec.ofNat 8 (x / 256 ^ i) := by
  induction n generalizing m a x i with
  | zero => omega
  | succ n ih =>
    rw [writeLE]
    cases i with
    | zero => rw [byteAt_writeLE_off _ _ _ _ _ (setByte_wf _ _ _ h) (by omega), byteAt_setByte _ _ _ _ h]; simp
    | succ i =>
      have := ih (a + 1) (x / 256) i (setByte m a (BitVec.ofNat 8 x)) (setByte_wf _ _ _ h) (by omega)
      rw [show a + 1 + i = a + (i + 1) by omega] at this
      rw [this, Nat.div_div_eq_div_mul, Nat.pow_succ, Nat.mul_comm]

theorem readLE_lt (m : Mem) (a n : Nat) : readLE m a n < 256 ^ n := by
  induction n generalizing a with
  | zero => simp [readLE]
  | succ n ih =>
    have h1 := ih (a + 1)
    have h2 := (byteAt m a).isLt
    simp only [readLE, Nat.pow_succ]
    omega

/-- A read of what was written. -/
theorem readLE_writeLE (n a x : Nat) (m : Mem) (h : Memory.wf m = true) : readLE (writeLE m a n x) a n = x % 256 ^ n := by
  induction n generalizing m a x with
  | zero => simp [readLE, Nat.mod_one]
  | succ n ih =>
    rw [readLE, writeLE, ih _ _ _ (setByte_wf _ _ _ h), byteAt_writeLE_off _ _ _ _ _ (setByte_wf _ _ _ h) (by omega),
      byteAt_setByte _ _ _ _ h]
    rw [if_pos rfl, BitVec.toNat_ofNat, show (2 : Nat) ^ 8 = 256 from rfl, show 256 ^ (n + 1) = 256 * 256 ^ n by rw [Nat.pow_succ, Nat.mul_comm],
      Nat.mod_mul]

theorem readLE_congr (m m' : Mem) (a n : Nat) (h : ∀ b, a ≤ b → b < a + n → byteAt m b = byteAt m' b) :
    readLE m a n = readLE m' a n := by
  induction n generalizing a with
  | zero => rfl
  | succ n ih => rw [readLE, readLE, h a (by omega) (by omega), ih _ (fun b h1 h2 => h b (by omega) (by omega))]

end Sys2Proof.Machine
end

