-- ==== Sys2Proof/Laws/State.lean ====
section
/-!
SUPPORT. One lemma per field and update: what each update of the state, of a core and of a context leaves as it was, and
what it writes. Later proofs cite these by simp and unfold no record update.
-/
namespace Sys2Proof.Machine

/-! ### Parts of the package -/

@[simp] theorem State.setCore_sheds (s : State) (i : Nat) (c : Core) : (s.setCore i c).sheds = s.sheds := rfl
@[simp] theorem State.setCore_dies (s : State) (i : Nat) (c : Core) : (s.setCore i c).dies = s.dies := rfl
@[simp] theorem State.setCore_pens (s : State) (i : Nat) (c : Core) : (s.setCore i c).pens = s.pens := rfl
@[simp] theorem State.setCore_insts (s : State) (i : Nat) (c : Core) : (s.setCore i c).insts = s.insts := rfl
@[simp] theorem State.setCore_nextInst (s : State) (i : Nat) (c : Core) : (s.setCore i c).nextInst = s.nextInst := rfl
@[simp] theorem State.setCore_groups (s : State) (i : Nat) (c : Core) : (s.setCore i c).groups = s.groups := rfl
@[simp] theorem State.setCore_mem (s : State) (i : Nat) (c : Core) : (s.setCore i c).mem = s.mem := rfl
@[simp] theorem State.setCore_bad (s : State) (i : Nat) (c : Core) : (s.setCore i c).bad = s.bad := rfl
@[simp] theorem State.setCore_tlb (s : State) (i : Nat) (c : Core) : (s.setCore i c).tlb = s.tlb := rfl
@[simp] theorem State.setCore_walks (s : State) (i : Nat) (c : Core) : (s.setCore i c).walks = s.walks := rfl
@[simp] theorem State.setCore_slow (s : State) (i : Nat) (c : Core) : (s.setCore i c).slow = s.slow := rfl
@[simp] theorem State.setCore_enc (s : State) (i : Nat) (c : Core) : (s.setCore i c).enc = s.enc := rfl
@[simp] theorem State.setCore_ranges (s : State) (i : Nat) (c : Core) : (s.setCore i c).ranges = s.ranges := rfl
@[simp] theorem State.setCore_net (s : State) (i : Nat) (c : Core) : (s.setCore i c).net = s.net := rfl
@[simp] theorem State.setCore_nextPkt (s : State) (i : Nat) (c : Core) : (s.setCore i c).nextPkt = s.nextPkt := rfl
@[simp] theorem State.setCore_arrs (s : State) (i : Nat) (c : Core) : (s.setCore i c).arrs = s.arrs := rfl
@[simp] theorem State.setCore_fchains (s : State) (i : Nat) (c : Core) : (s.setCore i c).fchains = s.fchains := rfl
@[simp] theorem State.setCore_links (s : State) (i : Nat) (c : Core) : (s.setCore i c).links = s.links := rfl
@[simp] theorem State.setCore_tick (s : State) (i : Nat) (c : Core) : (s.setCore i c).tick = s.tick := rfl
@[simp] theorem State.setCore_fabid (s : State) (i : Nat) (c : Core) : (s.setCore i c).fabid = s.fabid := rfl
@[simp] theorem State.setCore_powered (s : State) (i : Nat) (c : Core) : (s.setCore i c).powered = s.powered := rfl
@[simp] theorem State.setCore_hostLink (s : State) (i : Nat) (c : Core) : (s.setCore i c).hostLink = s.hostLink := rfl
@[simp] theorem State.setCore_firmware (s : State) (i : Nat) (c : Core) : (s.setCore i c).firmware = s.firmware := rfl
@[simp] theorem State.setCore_fabSet (s : State) (i : Nat) (c : Core) : (s.setCore i c).fabSet = s.fabSet := rfl
@[simp] theorem State.setCore_started (s : State) (i : Nat) (c : Core) : (s.setCore i c).started = s.started := rfl
@[simp] theorem State.setCore_overTemp (s : State) (i : Nat) (c : Core) : (s.setCore i c).overTemp = s.overTemp := rfl
@[simp] theorem State.setCore_bcnEnable (s : State) (i : Nat) (c : Core) : (s.setCore i c).bcnEnable = s.bcnEnable := rfl
@[simp] theorem State.setCore_bcnK (s : State) (i : Nat) (c : Core) : (s.setCore i c).bcnK = s.bcnK := rfl
@[simp] theorem State.setCore_bcnPartial (s : State) (i : Nat) (c : Core) : (s.setCore i c).bcnPartial = s.bcnPartial := rfl
@[simp] theorem State.setCore_bcnLast (s : State) (i : Nat) (c : Core) : (s.setCore i c).bcnLast = s.bcnLast := rfl
@[simp] theorem State.setCore_bcnr (s : State) (i : Nat) (c : Core) : (s.setCore i c).bcnr = s.bcnr := rfl
@[simp] theorem State.setCore_staged (s : State) (i : Nat) (c : Core) : (s.setCore i c).staged = s.staged := rfl
@[simp] theorem State.setCore_cutLow (s : State) (i : Nat) (c : Core) : (s.setCore i c).cutLow = s.cutLow := rfl
@[simp] theorem State.setCore_msgs (s : State) (i : Nat) (c : Core) : (s.setCore i c).msgs = s.msgs := rfl
@[simp] theorem State.setCore_hostReads (s : State) (i : Nat) (c : Core) : (s.setCore i c).hostReads = s.hostReads := rfl
@[simp] theorem State.setCore_hostRecs (s : State) (i : Nat) (c : Core) : (s.setCore i c).hostRecs = s.hostRecs := rfl
@[simp] theorem State.setCore_penCfgs (s : State) (i : Nat) (c : Core) : (s.setCore i c).penCfgs = s.penCfgs := rfl
@[simp] theorem State.setCore_images (s : State) (i : Nat) (c : Core) : (s.setCore i c).images = s.images := rfl
@[simp] theorem State.setCore_verdicts (s : State) (i : Nat) (c : Core) : (s.setCore i c).verdicts = s.verdicts := rfl
@[simp] theorem State.setCore_collKept (s : State) (i : Nat) (c : Core) : (s.setCore i c).collKept = s.collKept := rfl
@[simp] theorem State.setCore_flagKept (s : State) (i : Nat) (c : Core) : (s.setCore i c).flagKept = s.flagKept := rfl
@[simp] theorem State.setCore_heldKept (s : State) (i : Nat) (c : Core) : (s.setCore i c).heldKept = s.heldKept := rfl
@[simp] theorem State.setCore_fwVersion (s : State) (i : Nat) (c : Core) : (s.setCore i c).fwVersion = s.fwVersion := rfl
@[simp] theorem State.setCore_fwHash (s : State) (i : Nat) (c : Core) : (s.setCore i c).fwHash = s.fwHash := rfl
@[simp] theorem State.setCore_fwSig (s : State) (i : Nat) (c : Core) : (s.setCore i c).fwSig = s.fwSig := rfl
@[simp] theorem State.setCore_fwImage (s : State) (i : Nat) (c : Core) : (s.setCore i c).fwImage = s.fwImage := rfl
@[simp] theorem State.setCore_fwKey (s : State) (i : Nat) (c : Core) : (s.setCore i c).fwKey = s.fwKey := rfl
@[simp] theorem State.setCore_fwKeyHash (s : State) (i : Nat) (c : Core) : (s.setCore i c).fwKeyHash = s.fwKeyHash := rfl
@[simp] theorem State.setCore_fwRollback (s : State) (i : Nat) (c : Core) : (s.setCore i c).fwRollback = s.fwRollback := rfl
@[simp] theorem State.setCore_agenda (s : State) (i : Nat) (c : Core) : (s.setCore i c).agenda = s.agenda := rfl
@[simp] theorem State.setCore_curCore (s : State) (i : Nat) (c : Core) : (s.setCore i c).curCore = s.curCore := rfl
@[simp] theorem State.setCore_curCtx (s : State) (i : Nat) (c : Core) : (s.setCore i c).curCtx = s.curCtx := rfl
@[simp] theorem State.setCore_free (s : State) (i : Nat) (c : Core) : (s.setCore i c).free = s.free := rfl
@[simp] theorem State.setCore_turns (s : State) (i : Nat) (c : Core) : (s.setCore i c).turns = s.turns := rfl
@[simp] theorem State.setCore_stamp (s : State) (i : Nat) (c : Core) : (s.setCore i c).stamp = s.stamp := rfl

@[simp] theorem State.setShed_cores (s : State) (i : Nat) (h : Shed) : (s.setShed i h).cores = s.cores := rfl
@[simp] theorem State.setShed_dies (s : State) (i : Nat) (h : Shed) : (s.setShed i h).dies = s.dies := rfl
@[simp] theorem State.setShed_pens (s : State) (i : Nat) (h : Shed) : (s.setShed i h).pens = s.pens := rfl
@[simp] theorem State.setShed_insts (s : State) (i : Nat) (h : Shed) : (s.setShed i h).insts = s.insts := rfl
@[simp] theorem State.setShed_nextInst (s : State) (i : Nat) (h : Shed) : (s.setShed i h).nextInst = s.nextInst := rfl
@[simp] theorem State.setShed_groups (s : State) (i : Nat) (h : Shed) : (s.setShed i h).groups = s.groups := rfl
@[simp] theorem State.setShed_mem (s : State) (i : Nat) (h : Shed) : (s.setShed i h).mem = s.mem := rfl
@[simp] theorem State.setShed_bad (s : State) (i : Nat) (h : Shed) : (s.setShed i h).bad = s.bad := rfl
@[simp] theorem State.setShed_tlb (s : State) (i : Nat) (h : Shed) : (s.setShed i h).tlb = s.tlb := rfl
@[simp] theorem State.setShed_walks (s : State) (i : Nat) (h : Shed) : (s.setShed i h).walks = s.walks := rfl
@[simp] theorem State.setShed_slow (s : State) (i : Nat) (h : Shed) : (s.setShed i h).slow = s.slow := rfl
@[simp] theorem State.setShed_enc (s : State) (i : Nat) (h : Shed) : (s.setShed i h).enc = s.enc := rfl
@[simp] theorem State.setShed_ranges (s : State) (i : Nat) (h : Shed) : (s.setShed i h).ranges = s.ranges := rfl
@[simp] theorem State.setShed_net (s : State) (i : Nat) (h : Shed) : (s.setShed i h).net = s.net := rfl
@[simp] theorem State.setShed_nextPkt (s : State) (i : Nat) (h : Shed) : (s.setShed i h).nextPkt = s.nextPkt := rfl
@[simp] theorem State.setShed_arrs (s : State) (i : Nat) (h : Shed) : (s.setShed i h).arrs = s.arrs := rfl
@[simp] theorem State.setShed_fchains (s : State) (i : Nat) (h : Shed) : (s.setShed i h).fchains = s.fchains := rfl
@[simp] theorem State.setShed_links (s : State) (i : Nat) (h : Shed) : (s.setShed i h).links = s.links := rfl
@[simp] theorem State.setShed_tick (s : State) (i : Nat) (h : Shed) : (s.setShed i h).tick = s.tick := rfl
@[simp] theorem State.setShed_fabid (s : State) (i : Nat) (h : Shed) : (s.setShed i h).fabid = s.fabid := rfl
@[simp] theorem State.setShed_powered (s : State) (i : Nat) (h : Shed) : (s.setShed i h).powered = s.powered := rfl
@[simp] theorem State.setShed_hostLink (s : State) (i : Nat) (h : Shed) : (s.setShed i h).hostLink = s.hostLink := rfl
@[simp] theorem State.setShed_firmware (s : State) (i : Nat) (h : Shed) : (s.setShed i h).firmware = s.firmware := rfl
@[simp] theorem State.setShed_fabSet (s : State) (i : Nat) (h : Shed) : (s.setShed i h).fabSet = s.fabSet := rfl
@[simp] theorem State.setShed_started (s : State) (i : Nat) (h : Shed) : (s.setShed i h).started = s.started := rfl
@[simp] theorem State.setShed_overTemp (s : State) (i : Nat) (h : Shed) : (s.setShed i h).overTemp = s.overTemp := rfl
@[simp] theorem State.setShed_bcnEnable (s : State) (i : Nat) (h : Shed) : (s.setShed i h).bcnEnable = s.bcnEnable := rfl
@[simp] theorem State.setShed_bcnK (s : State) (i : Nat) (h : Shed) : (s.setShed i h).bcnK = s.bcnK := rfl
@[simp] theorem State.setShed_bcnPartial (s : State) (i : Nat) (h : Shed) : (s.setShed i h).bcnPartial = s.bcnPartial := rfl
@[simp] theorem State.setShed_bcnLast (s : State) (i : Nat) (h : Shed) : (s.setShed i h).bcnLast = s.bcnLast := rfl
@[simp] theorem State.setShed_bcnr (s : State) (i : Nat) (h : Shed) : (s.setShed i h).bcnr = s.bcnr := rfl
@[simp] theorem State.setShed_staged (s : State) (i : Nat) (h : Shed) : (s.setShed i h).staged = s.staged := rfl
@[simp] theorem State.setShed_cutLow (s : State) (i : Nat) (h : Shed) : (s.setShed i h).cutLow = s.cutLow := rfl
@[simp] theorem State.setShed_msgs (s : State) (i : Nat) (h : Shed) : (s.setShed i h).msgs = s.msgs := rfl
@[simp] theorem State.setShed_hostReads (s : State) (i : Nat) (h : Shed) : (s.setShed i h).hostReads = s.hostReads := rfl
@[simp] theorem State.setShed_hostRecs (s : State) (i : Nat) (h : Shed) : (s.setShed i h).hostRecs = s.hostRecs := rfl
@[simp] theorem State.setShed_penCfgs (s : State) (i : Nat) (h : Shed) : (s.setShed i h).penCfgs = s.penCfgs := rfl
@[simp] theorem State.setShed_images (s : State) (i : Nat) (h : Shed) : (s.setShed i h).images = s.images := rfl
@[simp] theorem State.setShed_verdicts (s : State) (i : Nat) (h : Shed) : (s.setShed i h).verdicts = s.verdicts := rfl
@[simp] theorem State.setShed_collKept (s : State) (i : Nat) (h : Shed) : (s.setShed i h).collKept = s.collKept := rfl
@[simp] theorem State.setShed_flagKept (s : State) (i : Nat) (h : Shed) : (s.setShed i h).flagKept = s.flagKept := rfl
@[simp] theorem State.setShed_heldKept (s : State) (i : Nat) (h : Shed) : (s.setShed i h).heldKept = s.heldKept := rfl
@[simp] theorem State.setShed_fwVersion (s : State) (i : Nat) (h : Shed) : (s.setShed i h).fwVersion = s.fwVersion := rfl
@[simp] theorem State.setShed_fwHash (s : State) (i : Nat) (h : Shed) : (s.setShed i h).fwHash = s.fwHash := rfl
@[simp] theorem State.setShed_fwSig (s : State) (i : Nat) (h : Shed) : (s.setShed i h).fwSig = s.fwSig := rfl
@[simp] theorem State.setShed_fwImage (s : State) (i : Nat) (h : Shed) : (s.setShed i h).fwImage = s.fwImage := rfl
@[simp] theorem State.setShed_fwKey (s : State) (i : Nat) (h : Shed) : (s.setShed i h).fwKey = s.fwKey := rfl
@[simp] theorem State.setShed_fwKeyHash (s : State) (i : Nat) (h : Shed) : (s.setShed i h).fwKeyHash = s.fwKeyHash := rfl
@[simp] theorem State.setShed_fwRollback (s : State) (i : Nat) (h : Shed) : (s.setShed i h).fwRollback = s.fwRollback := rfl
@[simp] theorem State.setShed_agenda (s : State) (i : Nat) (h : Shed) : (s.setShed i h).agenda = s.agenda := rfl
@[simp] theorem State.setShed_curCore (s : State) (i : Nat) (h : Shed) : (s.setShed i h).curCore = s.curCore := rfl
@[simp] theorem State.setShed_curCtx (s : State) (i : Nat) (h : Shed) : (s.setShed i h).curCtx = s.curCtx := rfl
@[simp] theorem State.setShed_free (s : State) (i : Nat) (h : Shed) : (s.setShed i h).free = s.free := rfl
@[simp] theorem State.setShed_turns (s : State) (i : Nat) (h : Shed) : (s.setShed i h).turns = s.turns := rfl
@[simp] theorem State.setShed_stamp (s : State) (i : Nat) (h : Shed) : (s.setShed i h).stamp = s.stamp := rfl

@[simp] theorem State.setDie_cores (s : State) (i : Nat) (d : Die) : (s.setDie i d).cores = s.cores := rfl
@[simp] theorem State.setDie_sheds (s : State) (i : Nat) (d : Die) : (s.setDie i d).sheds = s.sheds := rfl
@[simp] theorem State.setDie_pens (s : State) (i : Nat) (d : Die) : (s.setDie i d).pens = s.pens := rfl
@[simp] theorem State.setDie_insts (s : State) (i : Nat) (d : Die) : (s.setDie i d).insts = s.insts := rfl
@[simp] theorem State.setDie_nextInst (s : State) (i : Nat) (d : Die) : (s.setDie i d).nextInst = s.nextInst := rfl
@[simp] theorem State.setDie_groups (s : State) (i : Nat) (d : Die) : (s.setDie i d).groups = s.groups := rfl
@[simp] theorem State.setDie_mem (s : State) (i : Nat) (d : Die) : (s.setDie i d).mem = s.mem := rfl
@[simp] theorem State.setDie_bad (s : State) (i : Nat) (d : Die) : (s.setDie i d).bad = s.bad := rfl
@[simp] theorem State.setDie_tlb (s : State) (i : Nat) (d : Die) : (s.setDie i d).tlb = s.tlb := rfl
@[simp] theorem State.setDie_walks (s : State) (i : Nat) (d : Die) : (s.setDie i d).walks = s.walks := rfl
@[simp] theorem State.setDie_slow (s : State) (i : Nat) (d : Die) : (s.setDie i d).slow = s.slow := rfl
@[simp] theorem State.setDie_enc (s : State) (i : Nat) (d : Die) : (s.setDie i d).enc = s.enc := rfl
@[simp] theorem State.setDie_ranges (s : State) (i : Nat) (d : Die) : (s.setDie i d).ranges = s.ranges := rfl
@[simp] theorem State.setDie_net (s : State) (i : Nat) (d : Die) : (s.setDie i d).net = s.net := rfl
@[simp] theorem State.setDie_nextPkt (s : State) (i : Nat) (d : Die) : (s.setDie i d).nextPkt = s.nextPkt := rfl
@[simp] theorem State.setDie_arrs (s : State) (i : Nat) (d : Die) : (s.setDie i d).arrs = s.arrs := rfl
@[simp] theorem State.setDie_fchains (s : State) (i : Nat) (d : Die) : (s.setDie i d).fchains = s.fchains := rfl
@[simp] theorem State.setDie_links (s : State) (i : Nat) (d : Die) : (s.setDie i d).links = s.links := rfl
@[simp] theorem State.setDie_tick (s : State) (i : Nat) (d : Die) : (s.setDie i d).tick = s.tick := rfl
@[simp] theorem State.setDie_fabid (s : State) (i : Nat) (d : Die) : (s.setDie i d).fabid = s.fabid := rfl
@[simp] theorem State.setDie_powered (s : State) (i : Nat) (d : Die) : (s.setDie i d).powered = s.powered := rfl
@[simp] theorem State.setDie_hostLink (s : State) (i : Nat) (d : Die) : (s.setDie i d).hostLink = s.hostLink := rfl
@[simp] theorem State.setDie_firmware (s : State) (i : Nat) (d : Die) : (s.setDie i d).firmware = s.firmware := rfl
@[simp] theorem State.setDie_fabSet (s : State) (i : Nat) (d : Die) : (s.setDie i d).fabSet = s.fabSet := rfl
@[simp] theorem State.setDie_started (s : State) (i : Nat) (d : Die) : (s.setDie i d).started = s.started := rfl
@[simp] theorem State.setDie_overTemp (s : State) (i : Nat) (d : Die) : (s.setDie i d).overTemp = s.overTemp := rfl
@[simp] theorem State.setDie_bcnEnable (s : State) (i : Nat) (d : Die) : (s.setDie i d).bcnEnable = s.bcnEnable := rfl
@[simp] theorem State.setDie_bcnK (s : State) (i : Nat) (d : Die) : (s.setDie i d).bcnK = s.bcnK := rfl
@[simp] theorem State.setDie_bcnPartial (s : State) (i : Nat) (d : Die) : (s.setDie i d).bcnPartial = s.bcnPartial := rfl
@[simp] theorem State.setDie_bcnLast (s : State) (i : Nat) (d : Die) : (s.setDie i d).bcnLast = s.bcnLast := rfl
@[simp] theorem State.setDie_bcnr (s : State) (i : Nat) (d : Die) : (s.setDie i d).bcnr = s.bcnr := rfl
@[simp] theorem State.setDie_staged (s : State) (i : Nat) (d : Die) : (s.setDie i d).staged = s.staged := rfl
@[simp] theorem State.setDie_cutLow (s : State) (i : Nat) (d : Die) : (s.setDie i d).cutLow = s.cutLow := rfl
@[simp] theorem State.setDie_msgs (s : State) (i : Nat) (d : Die) : (s.setDie i d).msgs = s.msgs := rfl
@[simp] theorem State.setDie_hostReads (s : State) (i : Nat) (d : Die) : (s.setDie i d).hostReads = s.hostReads := rfl
@[simp] theorem State.setDie_hostRecs (s : State) (i : Nat) (d : Die) : (s.setDie i d).hostRecs = s.hostRecs := rfl
@[simp] theorem State.setDie_penCfgs (s : State) (i : Nat) (d : Die) : (s.setDie i d).penCfgs = s.penCfgs := rfl
@[simp] theorem State.setDie_images (s : State) (i : Nat) (d : Die) : (s.setDie i d).images = s.images := rfl
@[simp] theorem State.setDie_verdicts (s : State) (i : Nat) (d : Die) : (s.setDie i d).verdicts = s.verdicts := rfl
@[simp] theorem State.setDie_collKept (s : State) (i : Nat) (d : Die) : (s.setDie i d).collKept = s.collKept := rfl
@[simp] theorem State.setDie_flagKept (s : State) (i : Nat) (d : Die) : (s.setDie i d).flagKept = s.flagKept := rfl
@[simp] theorem State.setDie_heldKept (s : State) (i : Nat) (d : Die) : (s.setDie i d).heldKept = s.heldKept := rfl
@[simp] theorem State.setDie_fwVersion (s : State) (i : Nat) (d : Die) : (s.setDie i d).fwVersion = s.fwVersion := rfl
@[simp] theorem State.setDie_fwHash (s : State) (i : Nat) (d : Die) : (s.setDie i d).fwHash = s.fwHash := rfl
@[simp] theorem State.setDie_fwSig (s : State) (i : Nat) (d : Die) : (s.setDie i d).fwSig = s.fwSig := rfl
@[simp] theorem State.setDie_fwImage (s : State) (i : Nat) (d : Die) : (s.setDie i d).fwImage = s.fwImage := rfl
@[simp] theorem State.setDie_fwKey (s : State) (i : Nat) (d : Die) : (s.setDie i d).fwKey = s.fwKey := rfl
@[simp] theorem State.setDie_fwKeyHash (s : State) (i : Nat) (d : Die) : (s.setDie i d).fwKeyHash = s.fwKeyHash := rfl
@[simp] theorem State.setDie_fwRollback (s : State) (i : Nat) (d : Die) : (s.setDie i d).fwRollback = s.fwRollback := rfl
@[simp] theorem State.setDie_agenda (s : State) (i : Nat) (d : Die) : (s.setDie i d).agenda = s.agenda := rfl
@[simp] theorem State.setDie_curCore (s : State) (i : Nat) (d : Die) : (s.setDie i d).curCore = s.curCore := rfl
@[simp] theorem State.setDie_curCtx (s : State) (i : Nat) (d : Die) : (s.setDie i d).curCtx = s.curCtx := rfl
@[simp] theorem State.setDie_free (s : State) (i : Nat) (d : Die) : (s.setDie i d).free = s.free := rfl
@[simp] theorem State.setDie_turns (s : State) (i : Nat) (d : Die) : (s.setDie i d).turns = s.turns := rfl
@[simp] theorem State.setDie_stamp (s : State) (i : Nat) (d : Die) : (s.setDie i d).stamp = s.stamp := rfl

@[simp] theorem State.setPen_cores (s : State) (i : Nat) (p : Pen) : (s.setPen i p).cores = s.cores := rfl
@[simp] theorem State.setPen_sheds (s : State) (i : Nat) (p : Pen) : (s.setPen i p).sheds = s.sheds := rfl
@[simp] theorem State.setPen_dies (s : State) (i : Nat) (p : Pen) : (s.setPen i p).dies = s.dies := rfl
@[simp] theorem State.setPen_insts (s : State) (i : Nat) (p : Pen) : (s.setPen i p).insts = s.insts := rfl
@[simp] theorem State.setPen_nextInst (s : State) (i : Nat) (p : Pen) : (s.setPen i p).nextInst = s.nextInst := rfl
@[simp] theorem State.setPen_groups (s : State) (i : Nat) (p : Pen) : (s.setPen i p).groups = s.groups := rfl
@[simp] theorem State.setPen_mem (s : State) (i : Nat) (p : Pen) : (s.setPen i p).mem = s.mem := rfl
@[simp] theorem State.setPen_bad (s : State) (i : Nat) (p : Pen) : (s.setPen i p).bad = s.bad := rfl
@[simp] theorem State.setPen_tlb (s : State) (i : Nat) (p : Pen) : (s.setPen i p).tlb = s.tlb := rfl
@[simp] theorem State.setPen_walks (s : State) (i : Nat) (p : Pen) : (s.setPen i p).walks = s.walks := rfl
@[simp] theorem State.setPen_slow (s : State) (i : Nat) (p : Pen) : (s.setPen i p).slow = s.slow := rfl
@[simp] theorem State.setPen_enc (s : State) (i : Nat) (p : Pen) : (s.setPen i p).enc = s.enc := rfl
@[simp] theorem State.setPen_ranges (s : State) (i : Nat) (p : Pen) : (s.setPen i p).ranges = s.ranges := rfl
@[simp] theorem State.setPen_net (s : State) (i : Nat) (p : Pen) : (s.setPen i p).net = s.net := rfl
@[simp] theorem State.setPen_nextPkt (s : State) (i : Nat) (p : Pen) : (s.setPen i p).nextPkt = s.nextPkt := rfl
@[simp] theorem State.setPen_arrs (s : State) (i : Nat) (p : Pen) : (s.setPen i p).arrs = s.arrs := rfl
@[simp] theorem State.setPen_fchains (s : State) (i : Nat) (p : Pen) : (s.setPen i p).fchains = s.fchains := rfl
@[simp] theorem State.setPen_links (s : State) (i : Nat) (p : Pen) : (s.setPen i p).links = s.links := rfl
@[simp] theorem State.setPen_tick (s : State) (i : Nat) (p : Pen) : (s.setPen i p).tick = s.tick := rfl
@[simp] theorem State.setPen_fabid (s : State) (i : Nat) (p : Pen) : (s.setPen i p).fabid = s.fabid := rfl
@[simp] theorem State.setPen_powered (s : State) (i : Nat) (p : Pen) : (s.setPen i p).powered = s.powered := rfl
@[simp] theorem State.setPen_hostLink (s : State) (i : Nat) (p : Pen) : (s.setPen i p).hostLink = s.hostLink := rfl
@[simp] theorem State.setPen_firmware (s : State) (i : Nat) (p : Pen) : (s.setPen i p).firmware = s.firmware := rfl
@[simp] theorem State.setPen_fabSet (s : State) (i : Nat) (p : Pen) : (s.setPen i p).fabSet = s.fabSet := rfl
@[simp] theorem State.setPen_started (s : State) (i : Nat) (p : Pen) : (s.setPen i p).started = s.started := rfl
@[simp] theorem State.setPen_overTemp (s : State) (i : Nat) (p : Pen) : (s.setPen i p).overTemp = s.overTemp := rfl
@[simp] theorem State.setPen_bcnEnable (s : State) (i : Nat) (p : Pen) : (s.setPen i p).bcnEnable = s.bcnEnable := rfl
@[simp] theorem State.setPen_bcnK (s : State) (i : Nat) (p : Pen) : (s.setPen i p).bcnK = s.bcnK := rfl
@[simp] theorem State.setPen_bcnPartial (s : State) (i : Nat) (p : Pen) : (s.setPen i p).bcnPartial = s.bcnPartial := rfl
@[simp] theorem State.setPen_bcnLast (s : State) (i : Nat) (p : Pen) : (s.setPen i p).bcnLast = s.bcnLast := rfl
@[simp] theorem State.setPen_bcnr (s : State) (i : Nat) (p : Pen) : (s.setPen i p).bcnr = s.bcnr := rfl
@[simp] theorem State.setPen_staged (s : State) (i : Nat) (p : Pen) : (s.setPen i p).staged = s.staged := rfl
@[simp] theorem State.setPen_cutLow (s : State) (i : Nat) (p : Pen) : (s.setPen i p).cutLow = s.cutLow := rfl
@[simp] theorem State.setPen_msgs (s : State) (i : Nat) (p : Pen) : (s.setPen i p).msgs = s.msgs := rfl
@[simp] theorem State.setPen_hostReads (s : State) (i : Nat) (p : Pen) : (s.setPen i p).hostReads = s.hostReads := rfl
@[simp] theorem State.setPen_hostRecs (s : State) (i : Nat) (p : Pen) : (s.setPen i p).hostRecs = s.hostRecs := rfl
@[simp] theorem State.setPen_penCfgs (s : State) (i : Nat) (p : Pen) : (s.setPen i p).penCfgs = s.penCfgs := rfl
@[simp] theorem State.setPen_images (s : State) (i : Nat) (p : Pen) : (s.setPen i p).images = s.images := rfl
@[simp] theorem State.setPen_verdicts (s : State) (i : Nat) (p : Pen) : (s.setPen i p).verdicts = s.verdicts := rfl
@[simp] theorem State.setPen_collKept (s : State) (i : Nat) (p : Pen) : (s.setPen i p).collKept = s.collKept := rfl
@[simp] theorem State.setPen_flagKept (s : State) (i : Nat) (p : Pen) : (s.setPen i p).flagKept = s.flagKept := rfl
@[simp] theorem State.setPen_heldKept (s : State) (i : Nat) (p : Pen) : (s.setPen i p).heldKept = s.heldKept := rfl
@[simp] theorem State.setPen_fwVersion (s : State) (i : Nat) (p : Pen) : (s.setPen i p).fwVersion = s.fwVersion := rfl
@[simp] theorem State.setPen_fwHash (s : State) (i : Nat) (p : Pen) : (s.setPen i p).fwHash = s.fwHash := rfl
@[simp] theorem State.setPen_fwSig (s : State) (i : Nat) (p : Pen) : (s.setPen i p).fwSig = s.fwSig := rfl
@[simp] theorem State.setPen_fwImage (s : State) (i : Nat) (p : Pen) : (s.setPen i p).fwImage = s.fwImage := rfl
@[simp] theorem State.setPen_fwKey (s : State) (i : Nat) (p : Pen) : (s.setPen i p).fwKey = s.fwKey := rfl
@[simp] theorem State.setPen_fwKeyHash (s : State) (i : Nat) (p : Pen) : (s.setPen i p).fwKeyHash = s.fwKeyHash := rfl
@[simp] theorem State.setPen_fwRollback (s : State) (i : Nat) (p : Pen) : (s.setPen i p).fwRollback = s.fwRollback := rfl
@[simp] theorem State.setPen_agenda (s : State) (i : Nat) (p : Pen) : (s.setPen i p).agenda = s.agenda := rfl
@[simp] theorem State.setPen_curCore (s : State) (i : Nat) (p : Pen) : (s.setPen i p).curCore = s.curCore := rfl
@[simp] theorem State.setPen_curCtx (s : State) (i : Nat) (p : Pen) : (s.setPen i p).curCtx = s.curCtx := rfl
@[simp] theorem State.setPen_free (s : State) (i : Nat) (p : Pen) : (s.setPen i p).free = s.free := rfl
@[simp] theorem State.setPen_turns (s : State) (i : Nat) (p : Pen) : (s.setPen i p).turns = s.turns := rfl
@[simp] theorem State.setPen_stamp (s : State) (i : Nat) (p : Pen) : (s.setPen i p).stamp = s.stamp := rfl

@[simp] theorem State.setGrp_cores (s : State) (g : Nat) (x : Grp) : (s.setGrp g x).cores = s.cores := rfl
@[simp] theorem State.setGrp_sheds (s : State) (g : Nat) (x : Grp) : (s.setGrp g x).sheds = s.sheds := rfl
@[simp] theorem State.setGrp_dies (s : State) (g : Nat) (x : Grp) : (s.setGrp g x).dies = s.dies := rfl
@[simp] theorem State.setGrp_pens (s : State) (g : Nat) (x : Grp) : (s.setGrp g x).pens = s.pens := rfl
@[simp] theorem State.setGrp_insts (s : State) (g : Nat) (x : Grp) : (s.setGrp g x).insts = s.insts := rfl
@[simp] theorem State.setGrp_nextInst (s : State) (g : Nat) (x : Grp) : (s.setGrp g x).nextInst = s.nextInst := rfl
@[simp] theorem State.setGrp_mem (s : State) (g : Nat) (x : Grp) : (s.setGrp g x).mem = s.mem := rfl
@[simp] theorem State.setGrp_bad (s : State) (g : Nat) (x : Grp) : (s.setGrp g x).bad = s.bad := rfl
@[simp] theorem State.setGrp_tlb (s : State) (g : Nat) (x : Grp) : (s.setGrp g x).tlb = s.tlb := rfl
@[simp] theorem State.setGrp_walks (s : State) (g : Nat) (x : Grp) : (s.setGrp g x).walks = s.walks := rfl
@[simp] theorem State.setGrp_slow (s : State) (g : Nat) (x : Grp) : (s.setGrp g x).slow = s.slow := rfl
@[simp] theorem State.setGrp_enc (s : State) (g : Nat) (x : Grp) : (s.setGrp g x).enc = s.enc := rfl
@[simp] theorem State.setGrp_ranges (s : State) (g : Nat) (x : Grp) : (s.setGrp g x).ranges = s.ranges := rfl
@[simp] theorem State.setGrp_net (s : State) (g : Nat) (x : Grp) : (s.setGrp g x).net = s.net := rfl
@[simp] theorem State.setGrp_nextPkt (s : State) (g : Nat) (x : Grp) : (s.setGrp g x).nextPkt = s.nextPkt := rfl
@[simp] theorem State.setGrp_arrs (s : State) (g : Nat) (x : Grp) : (s.setGrp g x).arrs = s.arrs := rfl
@[simp] theorem State.setGrp_fchains (s : State) (g : Nat) (x : Grp) : (s.setGrp g x).fchains = s.fchains := rfl
@[simp] theorem State.setGrp_links (s : State) (g : Nat) (x : Grp) : (s.setGrp g x).links = s.links := rfl
@[simp] theorem State.setGrp_tick (s : State) (g : Nat) (x : Grp) : (s.setGrp g x).tick = s.tick := rfl
@[simp] theorem State.setGrp_fabid (s : State) (g : Nat) (x : Grp) : (s.setGrp g x).fabid = s.fabid := rfl
@[simp] theorem State.setGrp_powered (s : State) (g : Nat) (x : Grp) : (s.setGrp g x).powered = s.powered := rfl
@[simp] theorem State.setGrp_hostLink (s : State) (g : Nat) (x : Grp) : (s.setGrp g x).hostLink = s.hostLink := rfl
@[simp] theorem State.setGrp_firmware (s : State) (g : Nat) (x : Grp) : (s.setGrp g x).firmware = s.firmware := rfl
@[simp] theorem State.setGrp_fabSet (s : State) (g : Nat) (x : Grp) : (s.setGrp g x).fabSet = s.fabSet := rfl
@[simp] theorem State.setGrp_started (s : State) (g : Nat) (x : Grp) : (s.setGrp g x).started = s.started := rfl
@[simp] theorem State.setGrp_overTemp (s : State) (g : Nat) (x : Grp) : (s.setGrp g x).overTemp = s.overTemp := rfl
@[simp] theorem State.setGrp_bcnEnable (s : State) (g : Nat) (x : Grp) : (s.setGrp g x).bcnEnable = s.bcnEnable := rfl
@[simp] theorem State.setGrp_bcnK (s : State) (g : Nat) (x : Grp) : (s.setGrp g x).bcnK = s.bcnK := rfl
@[simp] theorem State.setGrp_bcnPartial (s : State) (g : Nat) (x : Grp) : (s.setGrp g x).bcnPartial = s.bcnPartial := rfl
@[simp] theorem State.setGrp_bcnLast (s : State) (g : Nat) (x : Grp) : (s.setGrp g x).bcnLast = s.bcnLast := rfl
@[simp] theorem State.setGrp_bcnr (s : State) (g : Nat) (x : Grp) : (s.setGrp g x).bcnr = s.bcnr := rfl
@[simp] theorem State.setGrp_staged (s : State) (g : Nat) (x : Grp) : (s.setGrp g x).staged = s.staged := rfl
@[simp] theorem State.setGrp_cutLow (s : State) (g : Nat) (x : Grp) : (s.setGrp g x).cutLow = s.cutLow := rfl
@[simp] theorem State.setGrp_msgs (s : State) (g : Nat) (x : Grp) : (s.setGrp g x).msgs = s.msgs := rfl
@[simp] theorem State.setGrp_hostReads (s : State) (g : Nat) (x : Grp) : (s.setGrp g x).hostReads = s.hostReads := rfl
@[simp] theorem State.setGrp_hostRecs (s : State) (g : Nat) (x : Grp) : (s.setGrp g x).hostRecs = s.hostRecs := rfl
@[simp] theorem State.setGrp_penCfgs (s : State) (g : Nat) (x : Grp) : (s.setGrp g x).penCfgs = s.penCfgs := rfl
@[simp] theorem State.setGrp_images (s : State) (g : Nat) (x : Grp) : (s.setGrp g x).images = s.images := rfl
@[simp] theorem State.setGrp_verdicts (s : State) (g : Nat) (x : Grp) : (s.setGrp g x).verdicts = s.verdicts := rfl
@[simp] theorem State.setGrp_collKept (s : State) (g : Nat) (x : Grp) : (s.setGrp g x).collKept = s.collKept := rfl
@[simp] theorem State.setGrp_flagKept (s : State) (g : Nat) (x : Grp) : (s.setGrp g x).flagKept = s.flagKept := rfl
@[simp] theorem State.setGrp_heldKept (s : State) (g : Nat) (x : Grp) : (s.setGrp g x).heldKept = s.heldKept := rfl
@[simp] theorem State.setGrp_fwVersion (s : State) (g : Nat) (x : Grp) : (s.setGrp g x).fwVersion = s.fwVersion := rfl
@[simp] theorem State.setGrp_fwHash (s : State) (g : Nat) (x : Grp) : (s.setGrp g x).fwHash = s.fwHash := rfl
@[simp] theorem State.setGrp_fwSig (s : State) (g : Nat) (x : Grp) : (s.setGrp g x).fwSig = s.fwSig := rfl
@[simp] theorem State.setGrp_fwImage (s : State) (g : Nat) (x : Grp) : (s.setGrp g x).fwImage = s.fwImage := rfl
@[simp] theorem State.setGrp_fwKey (s : State) (g : Nat) (x : Grp) : (s.setGrp g x).fwKey = s.fwKey := rfl
@[simp] theorem State.setGrp_fwKeyHash (s : State) (g : Nat) (x : Grp) : (s.setGrp g x).fwKeyHash = s.fwKeyHash := rfl
@[simp] theorem State.setGrp_fwRollback (s : State) (g : Nat) (x : Grp) : (s.setGrp g x).fwRollback = s.fwRollback := rfl
@[simp] theorem State.setGrp_agenda (s : State) (g : Nat) (x : Grp) : (s.setGrp g x).agenda = s.agenda := rfl
@[simp] theorem State.setGrp_curCore (s : State) (g : Nat) (x : Grp) : (s.setGrp g x).curCore = s.curCore := rfl
@[simp] theorem State.setGrp_curCtx (s : State) (g : Nat) (x : Grp) : (s.setGrp g x).curCtx = s.curCtx := rfl
@[simp] theorem State.setGrp_free (s : State) (g : Nat) (x : Grp) : (s.setGrp g x).free = s.free := rfl
@[simp] theorem State.setGrp_turns (s : State) (g : Nat) (x : Grp) : (s.setGrp g x).turns = s.turns := rfl
@[simp] theorem State.setGrp_stamp (s : State) (g : Nat) (x : Grp) : (s.setGrp g x).stamp = s.stamp := rfl

@[simp] theorem State.setCtx_sheds (s : State) (i x : Nat) (t : Ctx) : (s.setCtx i x t).sheds = s.sheds := rfl
@[simp] theorem State.setCtx_dies (s : State) (i x : Nat) (t : Ctx) : (s.setCtx i x t).dies = s.dies := rfl
@[simp] theorem State.setCtx_pens (s : State) (i x : Nat) (t : Ctx) : (s.setCtx i x t).pens = s.pens := rfl
@[simp] theorem State.setCtx_insts (s : State) (i x : Nat) (t : Ctx) : (s.setCtx i x t).insts = s.insts := rfl
@[simp] theorem State.setCtx_nextInst (s : State) (i x : Nat) (t : Ctx) : (s.setCtx i x t).nextInst = s.nextInst := rfl
@[simp] theorem State.setCtx_groups (s : State) (i x : Nat) (t : Ctx) : (s.setCtx i x t).groups = s.groups := rfl
@[simp] theorem State.setCtx_mem (s : State) (i x : Nat) (t : Ctx) : (s.setCtx i x t).mem = s.mem := rfl
@[simp] theorem State.setCtx_bad (s : State) (i x : Nat) (t : Ctx) : (s.setCtx i x t).bad = s.bad := rfl
@[simp] theorem State.setCtx_tlb (s : State) (i x : Nat) (t : Ctx) : (s.setCtx i x t).tlb = s.tlb := rfl
@[simp] theorem State.setCtx_walks (s : State) (i x : Nat) (t : Ctx) : (s.setCtx i x t).walks = s.walks := rfl
@[simp] theorem State.setCtx_slow (s : State) (i x : Nat) (t : Ctx) : (s.setCtx i x t).slow = s.slow := rfl
@[simp] theorem State.setCtx_enc (s : State) (i x : Nat) (t : Ctx) : (s.setCtx i x t).enc = s.enc := rfl
@[simp] theorem State.setCtx_ranges (s : State) (i x : Nat) (t : Ctx) : (s.setCtx i x t).ranges = s.ranges := rfl
@[simp] theorem State.setCtx_net (s : State) (i x : Nat) (t : Ctx) : (s.setCtx i x t).net = s.net := rfl
@[simp] theorem State.setCtx_nextPkt (s : State) (i x : Nat) (t : Ctx) : (s.setCtx i x t).nextPkt = s.nextPkt := rfl
@[simp] theorem State.setCtx_arrs (s : State) (i x : Nat) (t : Ctx) : (s.setCtx i x t).arrs = s.arrs := rfl
@[simp] theorem State.setCtx_fchains (s : State) (i x : Nat) (t : Ctx) : (s.setCtx i x t).fchains = s.fchains := rfl
@[simp] theorem State.setCtx_links (s : State) (i x : Nat) (t : Ctx) : (s.setCtx i x t).links = s.links := rfl
@[simp] theorem State.setCtx_tick (s : State) (i x : Nat) (t : Ctx) : (s.setCtx i x t).tick = s.tick := rfl
@[simp] theorem State.setCtx_fabid (s : State) (i x : Nat) (t : Ctx) : (s.setCtx i x t).fabid = s.fabid := rfl
@[simp] theorem State.setCtx_powered (s : State) (i x : Nat) (t : Ctx) : (s.setCtx i x t).powered = s.powered := rfl
@[simp] theorem State.setCtx_hostLink (s : State) (i x : Nat) (t : Ctx) : (s.setCtx i x t).hostLink = s.hostLink := rfl
@[simp] theorem State.setCtx_firmware (s : State) (i x : Nat) (t : Ctx) : (s.setCtx i x t).firmware = s.firmware := rfl
@[simp] theorem State.setCtx_fabSet (s : State) (i x : Nat) (t : Ctx) : (s.setCtx i x t).fabSet = s.fabSet := rfl
@[simp] theorem State.setCtx_started (s : State) (i x : Nat) (t : Ctx) : (s.setCtx i x t).started = s.started := rfl
@[simp] theorem State.setCtx_overTemp (s : State) (i x : Nat) (t : Ctx) : (s.setCtx i x t).overTemp = s.overTemp := rfl
@[simp] theorem State.setCtx_bcnEnable (s : State) (i x : Nat) (t : Ctx) : (s.setCtx i x t).bcnEnable = s.bcnEnable := rfl
@[simp] theorem State.setCtx_bcnK (s : State) (i x : Nat) (t : Ctx) : (s.setCtx i x t).bcnK = s.bcnK := rfl
@[simp] theorem State.setCtx_bcnPartial (s : State) (i x : Nat) (t : Ctx) : (s.setCtx i x t).bcnPartial = s.bcnPartial := rfl
@[simp] theorem State.setCtx_bcnLast (s : State) (i x : Nat) (t : Ctx) : (s.setCtx i x t).bcnLast = s.bcnLast := rfl
@[simp] theorem State.setCtx_bcnr (s : State) (i x : Nat) (t : Ctx) : (s.setCtx i x t).bcnr = s.bcnr := rfl
@[simp] theorem State.setCtx_staged (s : State) (i x : Nat) (t : Ctx) : (s.setCtx i x t).staged = s.staged := rfl
@[simp] theorem State.setCtx_cutLow (s : State) (i x : Nat) (t : Ctx) : (s.setCtx i x t).cutLow = s.cutLow := rfl
@[simp] theorem State.setCtx_msgs (s : State) (i x : Nat) (t : Ctx) : (s.setCtx i x t).msgs = s.msgs := rfl
@[simp] theorem State.setCtx_hostReads (s : State) (i x : Nat) (t : Ctx) : (s.setCtx i x t).hostReads = s.hostReads := rfl
@[simp] theorem State.setCtx_hostRecs (s : State) (i x : Nat) (t : Ctx) : (s.setCtx i x t).hostRecs = s.hostRecs := rfl
@[simp] theorem State.setCtx_penCfgs (s : State) (i x : Nat) (t : Ctx) : (s.setCtx i x t).penCfgs = s.penCfgs := rfl
@[simp] theorem State.setCtx_images (s : State) (i x : Nat) (t : Ctx) : (s.setCtx i x t).images = s.images := rfl
@[simp] theorem State.setCtx_verdicts (s : State) (i x : Nat) (t : Ctx) : (s.setCtx i x t).verdicts = s.verdicts := rfl
@[simp] theorem State.setCtx_collKept (s : State) (i x : Nat) (t : Ctx) : (s.setCtx i x t).collKept = s.collKept := rfl
@[simp] theorem State.setCtx_flagKept (s : State) (i x : Nat) (t : Ctx) : (s.setCtx i x t).flagKept = s.flagKept := rfl
@[simp] theorem State.setCtx_heldKept (s : State) (i x : Nat) (t : Ctx) : (s.setCtx i x t).heldKept = s.heldKept := rfl
@[simp] theorem State.setCtx_fwVersion (s : State) (i x : Nat) (t : Ctx) : (s.setCtx i x t).fwVersion = s.fwVersion := rfl
@[simp] theorem State.setCtx_fwHash (s : State) (i x : Nat) (t : Ctx) : (s.setCtx i x t).fwHash = s.fwHash := rfl
@[simp] theorem State.setCtx_fwSig (s : State) (i x : Nat) (t : Ctx) : (s.setCtx i x t).fwSig = s.fwSig := rfl
@[simp] theorem State.setCtx_fwImage (s : State) (i x : Nat) (t : Ctx) : (s.setCtx i x t).fwImage = s.fwImage := rfl
@[simp] theorem State.setCtx_fwKey (s : State) (i x : Nat) (t : Ctx) : (s.setCtx i x t).fwKey = s.fwKey := rfl
@[simp] theorem State.setCtx_fwKeyHash (s : State) (i x : Nat) (t : Ctx) : (s.setCtx i x t).fwKeyHash = s.fwKeyHash := rfl
@[simp] theorem State.setCtx_fwRollback (s : State) (i x : Nat) (t : Ctx) : (s.setCtx i x t).fwRollback = s.fwRollback := rfl
@[simp] theorem State.setCtx_agenda (s : State) (i x : Nat) (t : Ctx) : (s.setCtx i x t).agenda = s.agenda := rfl
@[simp] theorem State.setCtx_curCore (s : State) (i x : Nat) (t : Ctx) : (s.setCtx i x t).curCore = s.curCore := rfl
@[simp] theorem State.setCtx_curCtx (s : State) (i x : Nat) (t : Ctx) : (s.setCtx i x t).curCtx = s.curCtx := rfl
@[simp] theorem State.setCtx_free (s : State) (i x : Nat) (t : Ctx) : (s.setCtx i x t).free = s.free := rfl
@[simp] theorem State.setCtx_turns (s : State) (i x : Nat) (t : Ctx) : (s.setCtx i x t).turns = s.turns := rfl
@[simp] theorem State.setCtx_stamp (s : State) (i x : Nat) (t : Ctx) : (s.setCtx i x t).stamp = s.stamp := rfl

@[simp] theorem State.modCtx_sheds (s : State) (i x : Nat) (f : Ctx → Ctx) : (s.modCtx i x f).sheds = s.sheds := rfl
@[simp] theorem State.modCtx_dies (s : State) (i x : Nat) (f : Ctx → Ctx) : (s.modCtx i x f).dies = s.dies := rfl
@[simp] theorem State.modCtx_pens (s : State) (i x : Nat) (f : Ctx → Ctx) : (s.modCtx i x f).pens = s.pens := rfl
@[simp] theorem State.modCtx_insts (s : State) (i x : Nat) (f : Ctx → Ctx) : (s.modCtx i x f).insts = s.insts := rfl
@[simp] theorem State.modCtx_nextInst (s : State) (i x : Nat) (f : Ctx → Ctx) : (s.modCtx i x f).nextInst = s.nextInst := rfl
@[simp] theorem State.modCtx_groups (s : State) (i x : Nat) (f : Ctx → Ctx) : (s.modCtx i x f).groups = s.groups := rfl
@[simp] theorem State.modCtx_mem (s : State) (i x : Nat) (f : Ctx → Ctx) : (s.modCtx i x f).mem = s.mem := rfl
@[simp] theorem State.modCtx_bad (s : State) (i x : Nat) (f : Ctx → Ctx) : (s.modCtx i x f).bad = s.bad := rfl
@[simp] theorem State.modCtx_tlb (s : State) (i x : Nat) (f : Ctx → Ctx) : (s.modCtx i x f).tlb = s.tlb := rfl
@[simp] theorem State.modCtx_walks (s : State) (i x : Nat) (f : Ctx → Ctx) : (s.modCtx i x f).walks = s.walks := rfl
@[simp] theorem State.modCtx_slow (s : State) (i x : Nat) (f : Ctx → Ctx) : (s.modCtx i x f).slow = s.slow := rfl
@[simp] theorem State.modCtx_enc (s : State) (i x : Nat) (f : Ctx → Ctx) : (s.modCtx i x f).enc = s.enc := rfl
@[simp] theorem State.modCtx_ranges (s : State) (i x : Nat) (f : Ctx → Ctx) : (s.modCtx i x f).ranges = s.ranges := rfl
@[simp] theorem State.modCtx_net (s : State) (i x : Nat) (f : Ctx → Ctx) : (s.modCtx i x f).net = s.net := rfl
@[simp] theorem State.modCtx_nextPkt (s : State) (i x : Nat) (f : Ctx → Ctx) : (s.modCtx i x f).nextPkt = s.nextPkt := rfl
@[simp] theorem State.modCtx_arrs (s : State) (i x : Nat) (f : Ctx → Ctx) : (s.modCtx i x f).arrs = s.arrs := rfl
@[simp] theorem State.modCtx_fchains (s : State) (i x : Nat) (f : Ctx → Ctx) : (s.modCtx i x f).fchains = s.fchains := rfl
@[simp] theorem State.modCtx_links (s : State) (i x : Nat) (f : Ctx → Ctx) : (s.modCtx i x f).links = s.links := rfl
@[simp] theorem State.modCtx_tick (s : State) (i x : Nat) (f : Ctx → Ctx) : (s.modCtx i x f).tick = s.tick := rfl
@[simp] theorem State.modCtx_fabid (s : State) (i x : Nat) (f : Ctx → Ctx) : (s.modCtx i x f).fabid = s.fabid := rfl
@[simp] theorem State.modCtx_powered (s : State) (i x : Nat) (f : Ctx → Ctx) : (s.modCtx i x f).powered = s.powered := rfl
@[simp] theorem State.modCtx_hostLink (s : State) (i x : Nat) (f : Ctx → Ctx) : (s.modCtx i x f).hostLink = s.hostLink := rfl
@[simp] theorem State.modCtx_firmware (s : State) (i x : Nat) (f : Ctx → Ctx) : (s.modCtx i x f).firmware = s.firmware := rfl
@[simp] theorem State.modCtx_fabSet (s : State) (i x : Nat) (f : Ctx → Ctx) : (s.modCtx i x f).fabSet = s.fabSet := rfl
@[simp] theorem State.modCtx_started (s : State) (i x : Nat) (f : Ctx → Ctx) : (s.modCtx i x f).started = s.started := rfl
@[simp] theorem State.modCtx_overTemp (s : State) (i x : Nat) (f : Ctx → Ctx) : (s.modCtx i x f).overTemp = s.overTemp := rfl
@[simp] theorem State.modCtx_bcnEnable (s : State) (i x : Nat) (f : Ctx → Ctx) : (s.modCtx i x f).bcnEnable = s.bcnEnable := rfl
@[simp] theorem State.modCtx_bcnK (s : State) (i x : Nat) (f : Ctx → Ctx) : (s.modCtx i x f).bcnK = s.bcnK := rfl
@[simp] theorem State.modCtx_bcnPartial (s : State) (i x : Nat) (f : Ctx → Ctx) : (s.modCtx i x f).bcnPartial = s.bcnPartial := rfl
@[simp] theorem State.modCtx_bcnLast (s : State) (i x : Nat) (f : Ctx → Ctx) : (s.modCtx i x f).bcnLast = s.bcnLast := rfl
@[simp] theorem State.modCtx_bcnr (s : State) (i x : Nat) (f : Ctx → Ctx) : (s.modCtx i x f).bcnr = s.bcnr := rfl
@[simp] theorem State.modCtx_staged (s : State) (i x : Nat) (f : Ctx → Ctx) : (s.modCtx i x f).staged = s.staged := rfl
@[simp] theorem State.modCtx_cutLow (s : State) (i x : Nat) (f : Ctx → Ctx) : (s.modCtx i x f).cutLow = s.cutLow := rfl
@[simp] theorem State.modCtx_msgs (s : State) (i x : Nat) (f : Ctx → Ctx) : (s.modCtx i x f).msgs = s.msgs := rfl
@[simp] theorem State.modCtx_hostReads (s : State) (i x : Nat) (f : Ctx → Ctx) : (s.modCtx i x f).hostReads = s.hostReads := rfl
@[simp] theorem State.modCtx_hostRecs (s : State) (i x : Nat) (f : Ctx → Ctx) : (s.modCtx i x f).hostRecs = s.hostRecs := rfl
@[simp] theorem State.modCtx_penCfgs (s : State) (i x : Nat) (f : Ctx → Ctx) : (s.modCtx i x f).penCfgs = s.penCfgs := rfl
@[simp] theorem State.modCtx_images (s : State) (i x : Nat) (f : Ctx → Ctx) : (s.modCtx i x f).images = s.images := rfl
@[simp] theorem State.modCtx_verdicts (s : State) (i x : Nat) (f : Ctx → Ctx) : (s.modCtx i x f).verdicts = s.verdicts := rfl
@[simp] theorem State.modCtx_collKept (s : State) (i x : Nat) (f : Ctx → Ctx) : (s.modCtx i x f).collKept = s.collKept := rfl
@[simp] theorem State.modCtx_flagKept (s : State) (i x : Nat) (f : Ctx → Ctx) : (s.modCtx i x f).flagKept = s.flagKept := rfl
@[simp] theorem State.modCtx_heldKept (s : State) (i x : Nat) (f : Ctx → Ctx) : (s.modCtx i x f).heldKept = s.heldKept := rfl
@[simp] theorem State.modCtx_fwVersion (s : State) (i x : Nat) (f : Ctx → Ctx) : (s.modCtx i x f).fwVersion = s.fwVersion := rfl
@[simp] theorem State.modCtx_fwHash (s : State) (i x : Nat) (f : Ctx → Ctx) : (s.modCtx i x f).fwHash = s.fwHash := rfl
@[simp] theorem State.modCtx_fwSig (s : State) (i x : Nat) (f : Ctx → Ctx) : (s.modCtx i x f).fwSig = s.fwSig := rfl
@[simp] theorem State.modCtx_fwImage (s : State) (i x : Nat) (f : Ctx → Ctx) : (s.modCtx i x f).fwImage = s.fwImage := rfl
@[simp] theorem State.modCtx_fwKey (s : State) (i x : Nat) (f : Ctx → Ctx) : (s.modCtx i x f).fwKey = s.fwKey := rfl
@[simp] theorem State.modCtx_fwKeyHash (s : State) (i x : Nat) (f : Ctx → Ctx) : (s.modCtx i x f).fwKeyHash = s.fwKeyHash := rfl
@[simp] theorem State.modCtx_fwRollback (s : State) (i x : Nat) (f : Ctx → Ctx) : (s.modCtx i x f).fwRollback = s.fwRollback := rfl
@[simp] theorem State.modCtx_agenda (s : State) (i x : Nat) (f : Ctx → Ctx) : (s.modCtx i x f).agenda = s.agenda := rfl
@[simp] theorem State.modCtx_curCore (s : State) (i x : Nat) (f : Ctx → Ctx) : (s.modCtx i x f).curCore = s.curCore := rfl
@[simp] theorem State.modCtx_curCtx (s : State) (i x : Nat) (f : Ctx → Ctx) : (s.modCtx i x f).curCtx = s.curCtx := rfl
@[simp] theorem State.modCtx_free (s : State) (i x : Nat) (f : Ctx → Ctx) : (s.modCtx i x f).free = s.free := rfl
@[simp] theorem State.modCtx_turns (s : State) (i x : Nat) (f : Ctx → Ctx) : (s.modCtx i x f).turns = s.turns := rfl
@[simp] theorem State.modCtx_stamp (s : State) (i x : Nat) (f : Ctx → Ctx) : (s.modCtx i x f).stamp = s.stamp := rfl

@[simp] theorem State.modCore_sheds (s : State) (i : Nat) (f : Core → Core) : (s.modCore i f).sheds = s.sheds := rfl
@[simp] theorem State.modCore_dies (s : State) (i : Nat) (f : Core → Core) : (s.modCore i f).dies = s.dies := rfl
@[simp] theorem State.modCore_pens (s : State) (i : Nat) (f : Core → Core) : (s.modCore i f).pens = s.pens := rfl
@[simp] theorem State.modCore_insts (s : State) (i : Nat) (f : Core → Core) : (s.modCore i f).insts = s.insts := rfl
@[simp] theorem State.modCore_nextInst (s : State) (i : Nat) (f : Core → Core) : (s.modCore i f).nextInst = s.nextInst := rfl
@[simp] theorem State.modCore_groups (s : State) (i : Nat) (f : Core → Core) : (s.modCore i f).groups = s.groups := rfl
@[simp] theorem State.modCore_mem (s : State) (i : Nat) (f : Core → Core) : (s.modCore i f).mem = s.mem := rfl
@[simp] theorem State.modCore_bad (s : State) (i : Nat) (f : Core → Core) : (s.modCore i f).bad = s.bad := rfl
@[simp] theorem State.modCore_tlb (s : State) (i : Nat) (f : Core → Core) : (s.modCore i f).tlb = s.tlb := rfl
@[simp] theorem State.modCore_walks (s : State) (i : Nat) (f : Core → Core) : (s.modCore i f).walks = s.walks := rfl
@[simp] theorem State.modCore_slow (s : State) (i : Nat) (f : Core → Core) : (s.modCore i f).slow = s.slow := rfl
@[simp] theorem State.modCore_enc (s : State) (i : Nat) (f : Core → Core) : (s.modCore i f).enc = s.enc := rfl
@[simp] theorem State.modCore_ranges (s : State) (i : Nat) (f : Core → Core) : (s.modCore i f).ranges = s.ranges := rfl
@[simp] theorem State.modCore_net (s : State) (i : Nat) (f : Core → Core) : (s.modCore i f).net = s.net := rfl
@[simp] theorem State.modCore_nextPkt (s : State) (i : Nat) (f : Core → Core) : (s.modCore i f).nextPkt = s.nextPkt := rfl
@[simp] theorem State.modCore_arrs (s : State) (i : Nat) (f : Core → Core) : (s.modCore i f).arrs = s.arrs := rfl
@[simp] theorem State.modCore_fchains (s : State) (i : Nat) (f : Core → Core) : (s.modCore i f).fchains = s.fchains := rfl
@[simp] theorem State.modCore_links (s : State) (i : Nat) (f : Core → Core) : (s.modCore i f).links = s.links := rfl
@[simp] theorem State.modCore_tick (s : State) (i : Nat) (f : Core → Core) : (s.modCore i f).tick = s.tick := rfl
@[simp] theorem State.modCore_fabid (s : State) (i : Nat) (f : Core → Core) : (s.modCore i f).fabid = s.fabid := rfl
@[simp] theorem State.modCore_powered (s : State) (i : Nat) (f : Core → Core) : (s.modCore i f).powered = s.powered := rfl
@[simp] theorem State.modCore_hostLink (s : State) (i : Nat) (f : Core → Core) : (s.modCore i f).hostLink = s.hostLink := rfl
@[simp] theorem State.modCore_firmware (s : State) (i : Nat) (f : Core → Core) : (s.modCore i f).firmware = s.firmware := rfl
@[simp] theorem State.modCore_fabSet (s : State) (i : Nat) (f : Core → Core) : (s.modCore i f).fabSet = s.fabSet := rfl
@[simp] theorem State.modCore_started (s : State) (i : Nat) (f : Core → Core) : (s.modCore i f).started = s.started := rfl
@[simp] theorem State.modCore_overTemp (s : State) (i : Nat) (f : Core → Core) : (s.modCore i f).overTemp = s.overTemp := rfl
@[simp] theorem State.modCore_bcnEnable (s : State) (i : Nat) (f : Core → Core) : (s.modCore i f).bcnEnable = s.bcnEnable := rfl
@[simp] theorem State.modCore_bcnK (s : State) (i : Nat) (f : Core → Core) : (s.modCore i f).bcnK = s.bcnK := rfl
@[simp] theorem State.modCore_bcnPartial (s : State) (i : Nat) (f : Core → Core) : (s.modCore i f).bcnPartial = s.bcnPartial := rfl
@[simp] theorem State.modCore_bcnLast (s : State) (i : Nat) (f : Core → Core) : (s.modCore i f).bcnLast = s.bcnLast := rfl
@[simp] theorem State.modCore_bcnr (s : State) (i : Nat) (f : Core → Core) : (s.modCore i f).bcnr = s.bcnr := rfl
@[simp] theorem State.modCore_staged (s : State) (i : Nat) (f : Core → Core) : (s.modCore i f).staged = s.staged := rfl
@[simp] theorem State.modCore_cutLow (s : State) (i : Nat) (f : Core → Core) : (s.modCore i f).cutLow = s.cutLow := rfl
@[simp] theorem State.modCore_msgs (s : State) (i : Nat) (f : Core → Core) : (s.modCore i f).msgs = s.msgs := rfl
@[simp] theorem State.modCore_hostReads (s : State) (i : Nat) (f : Core → Core) : (s.modCore i f).hostReads = s.hostReads := rfl
@[simp] theorem State.modCore_hostRecs (s : State) (i : Nat) (f : Core → Core) : (s.modCore i f).hostRecs = s.hostRecs := rfl
@[simp] theorem State.modCore_penCfgs (s : State) (i : Nat) (f : Core → Core) : (s.modCore i f).penCfgs = s.penCfgs := rfl
@[simp] theorem State.modCore_images (s : State) (i : Nat) (f : Core → Core) : (s.modCore i f).images = s.images := rfl
@[simp] theorem State.modCore_verdicts (s : State) (i : Nat) (f : Core → Core) : (s.modCore i f).verdicts = s.verdicts := rfl
@[simp] theorem State.modCore_collKept (s : State) (i : Nat) (f : Core → Core) : (s.modCore i f).collKept = s.collKept := rfl
@[simp] theorem State.modCore_flagKept (s : State) (i : Nat) (f : Core → Core) : (s.modCore i f).flagKept = s.flagKept := rfl
@[simp] theorem State.modCore_heldKept (s : State) (i : Nat) (f : Core → Core) : (s.modCore i f).heldKept = s.heldKept := rfl
@[simp] theorem State.modCore_fwVersion (s : State) (i : Nat) (f : Core → Core) : (s.modCore i f).fwVersion = s.fwVersion := rfl
@[simp] theorem State.modCore_fwHash (s : State) (i : Nat) (f : Core → Core) : (s.modCore i f).fwHash = s.fwHash := rfl
@[simp] theorem State.modCore_fwSig (s : State) (i : Nat) (f : Core → Core) : (s.modCore i f).fwSig = s.fwSig := rfl
@[simp] theorem State.modCore_fwImage (s : State) (i : Nat) (f : Core → Core) : (s.modCore i f).fwImage = s.fwImage := rfl
@[simp] theorem State.modCore_fwKey (s : State) (i : Nat) (f : Core → Core) : (s.modCore i f).fwKey = s.fwKey := rfl
@[simp] theorem State.modCore_fwKeyHash (s : State) (i : Nat) (f : Core → Core) : (s.modCore i f).fwKeyHash = s.fwKeyHash := rfl
@[simp] theorem State.modCore_fwRollback (s : State) (i : Nat) (f : Core → Core) : (s.modCore i f).fwRollback = s.fwRollback := rfl
@[simp] theorem State.modCore_agenda (s : State) (i : Nat) (f : Core → Core) : (s.modCore i f).agenda = s.agenda := rfl
@[simp] theorem State.modCore_curCore (s : State) (i : Nat) (f : Core → Core) : (s.modCore i f).curCore = s.curCore := rfl
@[simp] theorem State.modCore_curCtx (s : State) (i : Nat) (f : Core → Core) : (s.modCore i f).curCtx = s.curCtx := rfl
@[simp] theorem State.modCore_free (s : State) (i : Nat) (f : Core → Core) : (s.modCore i f).free = s.free := rfl
@[simp] theorem State.modCore_turns (s : State) (i : Nat) (f : Core → Core) : (s.modCore i f).turns = s.turns := rfl
@[simp] theorem State.modCore_stamp (s : State) (i : Nat) (f : Core → Core) : (s.modCore i f).stamp = s.stamp := rfl

@[simp] theorem State.onCur_sheds (s : State) (f : Ctx → Ctx) : (s.onCur f).sheds = s.sheds := rfl
@[simp] theorem State.onCur_dies (s : State) (f : Ctx → Ctx) : (s.onCur f).dies = s.dies := rfl
@[simp] theorem State.onCur_pens (s : State) (f : Ctx → Ctx) : (s.onCur f).pens = s.pens := rfl
@[simp] theorem State.onCur_insts (s : State) (f : Ctx → Ctx) : (s.onCur f).insts = s.insts := rfl
@[simp] theorem State.onCur_nextInst (s : State) (f : Ctx → Ctx) : (s.onCur f).nextInst = s.nextInst := rfl
@[simp] theorem State.onCur_groups (s : State) (f : Ctx → Ctx) : (s.onCur f).groups = s.groups := rfl
@[simp] theorem State.onCur_mem (s : State) (f : Ctx → Ctx) : (s.onCur f).mem = s.mem := rfl
@[simp] theorem State.onCur_bad (s : State) (f : Ctx → Ctx) : (s.onCur f).bad = s.bad := rfl
@[simp] theorem State.onCur_tlb (s : State) (f : Ctx → Ctx) : (s.onCur f).tlb = s.tlb := rfl
@[simp] theorem State.onCur_walks (s : State) (f : Ctx → Ctx) : (s.onCur f).walks = s.walks := rfl
@[simp] theorem State.onCur_slow (s : State) (f : Ctx → Ctx) : (s.onCur f).slow = s.slow := rfl
@[simp] theorem State.onCur_enc (s : State) (f : Ctx → Ctx) : (s.onCur f).enc = s.enc := rfl
@[simp] theorem State.onCur_ranges (s : State) (f : Ctx → Ctx) : (s.onCur f).ranges = s.ranges := rfl
@[simp] theorem State.onCur_net (s : State) (f : Ctx → Ctx) : (s.onCur f).net = s.net := rfl
@[simp] theorem State.onCur_nextPkt (s : State) (f : Ctx → Ctx) : (s.onCur f).nextPkt = s.nextPkt := rfl
@[simp] theorem State.onCur_arrs (s : State) (f : Ctx → Ctx) : (s.onCur f).arrs = s.arrs := rfl
@[simp] theorem State.onCur_fchains (s : State) (f : Ctx → Ctx) : (s.onCur f).fchains = s.fchains := rfl
@[simp] theorem State.onCur_links (s : State) (f : Ctx → Ctx) : (s.onCur f).links = s.links := rfl
@[simp] theorem State.onCur_tick (s : State) (f : Ctx → Ctx) : (s.onCur f).tick = s.tick := rfl
@[simp] theorem State.onCur_fabid (s : State) (f : Ctx → Ctx) : (s.onCur f).fabid = s.fabid := rfl
@[simp] theorem State.onCur_powered (s : State) (f : Ctx → Ctx) : (s.onCur f).powered = s.powered := rfl
@[simp] theorem State.onCur_hostLink (s : State) (f : Ctx → Ctx) : (s.onCur f).hostLink = s.hostLink := rfl
@[simp] theorem State.onCur_firmware (s : State) (f : Ctx → Ctx) : (s.onCur f).firmware = s.firmware := rfl
@[simp] theorem State.onCur_fabSet (s : State) (f : Ctx → Ctx) : (s.onCur f).fabSet = s.fabSet := rfl
@[simp] theorem State.onCur_started (s : State) (f : Ctx → Ctx) : (s.onCur f).started = s.started := rfl
@[simp] theorem State.onCur_overTemp (s : State) (f : Ctx → Ctx) : (s.onCur f).overTemp = s.overTemp := rfl
@[simp] theorem State.onCur_bcnEnable (s : State) (f : Ctx → Ctx) : (s.onCur f).bcnEnable = s.bcnEnable := rfl
@[simp] theorem State.onCur_bcnK (s : State) (f : Ctx → Ctx) : (s.onCur f).bcnK = s.bcnK := rfl
@[simp] theorem State.onCur_bcnPartial (s : State) (f : Ctx → Ctx) : (s.onCur f).bcnPartial = s.bcnPartial := rfl
@[simp] theorem State.onCur_bcnLast (s : State) (f : Ctx → Ctx) : (s.onCur f).bcnLast = s.bcnLast := rfl
@[simp] theorem State.onCur_bcnr (s : State) (f : Ctx → Ctx) : (s.onCur f).bcnr = s.bcnr := rfl
@[simp] theorem State.onCur_staged (s : State) (f : Ctx → Ctx) : (s.onCur f).staged = s.staged := rfl
@[simp] theorem State.onCur_cutLow (s : State) (f : Ctx → Ctx) : (s.onCur f).cutLow = s.cutLow := rfl
@[simp] theorem State.onCur_msgs (s : State) (f : Ctx → Ctx) : (s.onCur f).msgs = s.msgs := rfl
@[simp] theorem State.onCur_hostReads (s : State) (f : Ctx → Ctx) : (s.onCur f).hostReads = s.hostReads := rfl
@[simp] theorem State.onCur_hostRecs (s : State) (f : Ctx → Ctx) : (s.onCur f).hostRecs = s.hostRecs := rfl
@[simp] theorem State.onCur_penCfgs (s : State) (f : Ctx → Ctx) : (s.onCur f).penCfgs = s.penCfgs := rfl
@[simp] theorem State.onCur_images (s : State) (f : Ctx → Ctx) : (s.onCur f).images = s.images := rfl
@[simp] theorem State.onCur_verdicts (s : State) (f : Ctx → Ctx) : (s.onCur f).verdicts = s.verdicts := rfl
@[simp] theorem State.onCur_collKept (s : State) (f : Ctx → Ctx) : (s.onCur f).collKept = s.collKept := rfl
@[simp] theorem State.onCur_flagKept (s : State) (f : Ctx → Ctx) : (s.onCur f).flagKept = s.flagKept := rfl
@[simp] theorem State.onCur_heldKept (s : State) (f : Ctx → Ctx) : (s.onCur f).heldKept = s.heldKept := rfl
@[simp] theorem State.onCur_fwVersion (s : State) (f : Ctx → Ctx) : (s.onCur f).fwVersion = s.fwVersion := rfl
@[simp] theorem State.onCur_fwHash (s : State) (f : Ctx → Ctx) : (s.onCur f).fwHash = s.fwHash := rfl
@[simp] theorem State.onCur_fwSig (s : State) (f : Ctx → Ctx) : (s.onCur f).fwSig = s.fwSig := rfl
@[simp] theorem State.onCur_fwImage (s : State) (f : Ctx → Ctx) : (s.onCur f).fwImage = s.fwImage := rfl
@[simp] theorem State.onCur_fwKey (s : State) (f : Ctx → Ctx) : (s.onCur f).fwKey = s.fwKey := rfl
@[simp] theorem State.onCur_fwKeyHash (s : State) (f : Ctx → Ctx) : (s.onCur f).fwKeyHash = s.fwKeyHash := rfl
@[simp] theorem State.onCur_fwRollback (s : State) (f : Ctx → Ctx) : (s.onCur f).fwRollback = s.fwRollback := rfl
@[simp] theorem State.onCur_agenda (s : State) (f : Ctx → Ctx) : (s.onCur f).agenda = s.agenda := rfl
@[simp] theorem State.onCur_curCore (s : State) (f : Ctx → Ctx) : (s.onCur f).curCore = s.curCore := rfl
@[simp] theorem State.onCur_curCtx (s : State) (f : Ctx → Ctx) : (s.onCur f).curCtx = s.curCtx := rfl
@[simp] theorem State.onCur_free (s : State) (f : Ctx → Ctx) : (s.onCur f).free = s.free := rfl
@[simp] theorem State.onCur_turns (s : State) (f : Ctx → Ctx) : (s.onCur f).turns = s.turns := rfl
@[simp] theorem State.onCur_stamp (s : State) (f : Ctx → Ctx) : (s.onCur f).stamp = s.stamp := rfl

@[simp] theorem State.setCur_sheds (s : State) (t : Ctx) : (s.setCur t).sheds = s.sheds := rfl
@[simp] theorem State.setCur_dies (s : State) (t : Ctx) : (s.setCur t).dies = s.dies := rfl
@[simp] theorem State.setCur_pens (s : State) (t : Ctx) : (s.setCur t).pens = s.pens := rfl
@[simp] theorem State.setCur_insts (s : State) (t : Ctx) : (s.setCur t).insts = s.insts := rfl
@[simp] theorem State.setCur_nextInst (s : State) (t : Ctx) : (s.setCur t).nextInst = s.nextInst := rfl
@[simp] theorem State.setCur_groups (s : State) (t : Ctx) : (s.setCur t).groups = s.groups := rfl
@[simp] theorem State.setCur_mem (s : State) (t : Ctx) : (s.setCur t).mem = s.mem := rfl
@[simp] theorem State.setCur_bad (s : State) (t : Ctx) : (s.setCur t).bad = s.bad := rfl
@[simp] theorem State.setCur_tlb (s : State) (t : Ctx) : (s.setCur t).tlb = s.tlb := rfl
@[simp] theorem State.setCur_walks (s : State) (t : Ctx) : (s.setCur t).walks = s.walks := rfl
@[simp] theorem State.setCur_slow (s : State) (t : Ctx) : (s.setCur t).slow = s.slow := rfl
@[simp] theorem State.setCur_enc (s : State) (t : Ctx) : (s.setCur t).enc = s.enc := rfl
@[simp] theorem State.setCur_ranges (s : State) (t : Ctx) : (s.setCur t).ranges = s.ranges := rfl
@[simp] theorem State.setCur_net (s : State) (t : Ctx) : (s.setCur t).net = s.net := rfl
@[simp] theorem State.setCur_nextPkt (s : State) (t : Ctx) : (s.setCur t).nextPkt = s.nextPkt := rfl
@[simp] theorem State.setCur_arrs (s : State) (t : Ctx) : (s.setCur t).arrs = s.arrs := rfl
@[simp] theorem State.setCur_fchains (s : State) (t : Ctx) : (s.setCur t).fchains = s.fchains := rfl
@[simp] theorem State.setCur_links (s : State) (t : Ctx) : (s.setCur t).links = s.links := rfl
@[simp] theorem State.setCur_tick (s : State) (t : Ctx) : (s.setCur t).tick = s.tick := rfl
@[simp] theorem State.setCur_fabid (s : State) (t : Ctx) : (s.setCur t).fabid = s.fabid := rfl
@[simp] theorem State.setCur_powered (s : State) (t : Ctx) : (s.setCur t).powered = s.powered := rfl
@[simp] theorem State.setCur_hostLink (s : State) (t : Ctx) : (s.setCur t).hostLink = s.hostLink := rfl
@[simp] theorem State.setCur_firmware (s : State) (t : Ctx) : (s.setCur t).firmware = s.firmware := rfl
@[simp] theorem State.setCur_fabSet (s : State) (t : Ctx) : (s.setCur t).fabSet = s.fabSet := rfl
@[simp] theorem State.setCur_started (s : State) (t : Ctx) : (s.setCur t).started = s.started := rfl
@[simp] theorem State.setCur_overTemp (s : State) (t : Ctx) : (s.setCur t).overTemp = s.overTemp := rfl
@[simp] theorem State.setCur_bcnEnable (s : State) (t : Ctx) : (s.setCur t).bcnEnable = s.bcnEnable := rfl
@[simp] theorem State.setCur_bcnK (s : State) (t : Ctx) : (s.setCur t).bcnK = s.bcnK := rfl
@[simp] theorem State.setCur_bcnPartial (s : State) (t : Ctx) : (s.setCur t).bcnPartial = s.bcnPartial := rfl
@[simp] theorem State.setCur_bcnLast (s : State) (t : Ctx) : (s.setCur t).bcnLast = s.bcnLast := rfl
@[simp] theorem State.setCur_bcnr (s : State) (t : Ctx) : (s.setCur t).bcnr = s.bcnr := rfl
@[simp] theorem State.setCur_staged (s : State) (t : Ctx) : (s.setCur t).staged = s.staged := rfl
@[simp] theorem State.setCur_cutLow (s : State) (t : Ctx) : (s.setCur t).cutLow = s.cutLow := rfl
@[simp] theorem State.setCur_msgs (s : State) (t : Ctx) : (s.setCur t).msgs = s.msgs := rfl
@[simp] theorem State.setCur_hostReads (s : State) (t : Ctx) : (s.setCur t).hostReads = s.hostReads := rfl
@[simp] theorem State.setCur_hostRecs (s : State) (t : Ctx) : (s.setCur t).hostRecs = s.hostRecs := rfl
@[simp] theorem State.setCur_penCfgs (s : State) (t : Ctx) : (s.setCur t).penCfgs = s.penCfgs := rfl
@[simp] theorem State.setCur_images (s : State) (t : Ctx) : (s.setCur t).images = s.images := rfl
@[simp] theorem State.setCur_verdicts (s : State) (t : Ctx) : (s.setCur t).verdicts = s.verdicts := rfl
@[simp] theorem State.setCur_collKept (s : State) (t : Ctx) : (s.setCur t).collKept = s.collKept := rfl
@[simp] theorem State.setCur_flagKept (s : State) (t : Ctx) : (s.setCur t).flagKept = s.flagKept := rfl
@[simp] theorem State.setCur_heldKept (s : State) (t : Ctx) : (s.setCur t).heldKept = s.heldKept := rfl
@[simp] theorem State.setCur_fwVersion (s : State) (t : Ctx) : (s.setCur t).fwVersion = s.fwVersion := rfl
@[simp] theorem State.setCur_fwHash (s : State) (t : Ctx) : (s.setCur t).fwHash = s.fwHash := rfl
@[simp] theorem State.setCur_fwSig (s : State) (t : Ctx) : (s.setCur t).fwSig = s.fwSig := rfl
@[simp] theorem State.setCur_fwImage (s : State) (t : Ctx) : (s.setCur t).fwImage = s.fwImage := rfl
@[simp] theorem State.setCur_fwKey (s : State) (t : Ctx) : (s.setCur t).fwKey = s.fwKey := rfl
@[simp] theorem State.setCur_fwKeyHash (s : State) (t : Ctx) : (s.setCur t).fwKeyHash = s.fwKeyHash := rfl
@[simp] theorem State.setCur_fwRollback (s : State) (t : Ctx) : (s.setCur t).fwRollback = s.fwRollback := rfl
@[simp] theorem State.setCur_agenda (s : State) (t : Ctx) : (s.setCur t).agenda = s.agenda := rfl
@[simp] theorem State.setCur_curCore (s : State) (t : Ctx) : (s.setCur t).curCore = s.curCore := rfl
@[simp] theorem State.setCur_curCtx (s : State) (t : Ctx) : (s.setCur t).curCtx = s.curCtx := rfl
@[simp] theorem State.setCur_free (s : State) (t : Ctx) : (s.setCur t).free = s.free := rfl
@[simp] theorem State.setCur_turns (s : State) (t : Ctx) : (s.setCur t).turns = s.turns := rfl
@[simp] theorem State.setCur_stamp (s : State) (t : Ctx) : (s.setCur t).stamp = s.stamp := rfl

@[simp] theorem State.setEng_sheds (s : State) (i e : Nat) (g : Eng) : (s.setEng i e g).sheds = s.sheds := rfl
@[simp] theorem State.setEng_dies (s : State) (i e : Nat) (g : Eng) : (s.setEng i e g).dies = s.dies := rfl
@[simp] theorem State.setEng_pens (s : State) (i e : Nat) (g : Eng) : (s.setEng i e g).pens = s.pens := rfl
@[simp] theorem State.setEng_insts (s : State) (i e : Nat) (g : Eng) : (s.setEng i e g).insts = s.insts := rfl
@[simp] theorem State.setEng_nextInst (s : State) (i e : Nat) (g : Eng) : (s.setEng i e g).nextInst = s.nextInst := rfl
@[simp] theorem State.setEng_groups (s : State) (i e : Nat) (g : Eng) : (s.setEng i e g).groups = s.groups := rfl
@[simp] theorem State.setEng_mem (s : State) (i e : Nat) (g : Eng) : (s.setEng i e g).mem = s.mem := rfl
@[simp] theorem State.setEng_bad (s : State) (i e : Nat) (g : Eng) : (s.setEng i e g).bad = s.bad := rfl
@[simp] theorem State.setEng_tlb (s : State) (i e : Nat) (g : Eng) : (s.setEng i e g).tlb = s.tlb := rfl
@[simp] theorem State.setEng_walks (s : State) (i e : Nat) (g : Eng) : (s.setEng i e g).walks = s.walks := rfl
@[simp] theorem State.setEng_slow (s : State) (i e : Nat) (g : Eng) : (s.setEng i e g).slow = s.slow := rfl
@[simp] theorem State.setEng_enc (s : State) (i e : Nat) (g : Eng) : (s.setEng i e g).enc = s.enc := rfl
@[simp] theorem State.setEng_ranges (s : State) (i e : Nat) (g : Eng) : (s.setEng i e g).ranges = s.ranges := rfl
@[simp] theorem State.setEng_net (s : State) (i e : Nat) (g : Eng) : (s.setEng i e g).net = s.net := rfl
@[simp] theorem State.setEng_nextPkt (s : State) (i e : Nat) (g : Eng) : (s.setEng i e g).nextPkt = s.nextPkt := rfl
@[simp] theorem State.setEng_arrs (s : State) (i e : Nat) (g : Eng) : (s.setEng i e g).arrs = s.arrs := rfl
@[simp] theorem State.setEng_fchains (s : State) (i e : Nat) (g : Eng) : (s.setEng i e g).fchains = s.fchains := rfl
@[simp] theorem State.setEng_links (s : State) (i e : Nat) (g : Eng) : (s.setEng i e g).links = s.links := rfl
@[simp] theorem State.setEng_tick (s : State) (i e : Nat) (g : Eng) : (s.setEng i e g).tick = s.tick := rfl
@[simp] theorem State.setEng_fabid (s : State) (i e : Nat) (g : Eng) : (s.setEng i e g).fabid = s.fabid := rfl
@[simp] theorem State.setEng_powered (s : State) (i e : Nat) (g : Eng) : (s.setEng i e g).powered = s.powered := rfl
@[simp] theorem State.setEng_hostLink (s : State) (i e : Nat) (g : Eng) : (s.setEng i e g).hostLink = s.hostLink := rfl
@[simp] theorem State.setEng_firmware (s : State) (i e : Nat) (g : Eng) : (s.setEng i e g).firmware = s.firmware := rfl
@[simp] theorem State.setEng_fabSet (s : State) (i e : Nat) (g : Eng) : (s.setEng i e g).fabSet = s.fabSet := rfl
@[simp] theorem State.setEng_started (s : State) (i e : Nat) (g : Eng) : (s.setEng i e g).started = s.started := rfl
@[simp] theorem State.setEng_overTemp (s : State) (i e : Nat) (g : Eng) : (s.setEng i e g).overTemp = s.overTemp := rfl
@[simp] theorem State.setEng_bcnEnable (s : State) (i e : Nat) (g : Eng) : (s.setEng i e g).bcnEnable = s.bcnEnable := rfl
@[simp] theorem State.setEng_bcnK (s : State) (i e : Nat) (g : Eng) : (s.setEng i e g).bcnK = s.bcnK := rfl
@[simp] theorem State.setEng_bcnPartial (s : State) (i e : Nat) (g : Eng) : (s.setEng i e g).bcnPartial = s.bcnPartial := rfl
@[simp] theorem State.setEng_bcnLast (s : State) (i e : Nat) (g : Eng) : (s.setEng i e g).bcnLast = s.bcnLast := rfl
@[simp] theorem State.setEng_bcnr (s : State) (i e : Nat) (g : Eng) : (s.setEng i e g).bcnr = s.bcnr := rfl
@[simp] theorem State.setEng_staged (s : State) (i e : Nat) (g : Eng) : (s.setEng i e g).staged = s.staged := rfl
@[simp] theorem State.setEng_cutLow (s : State) (i e : Nat) (g : Eng) : (s.setEng i e g).cutLow = s.cutLow := rfl
@[simp] theorem State.setEng_msgs (s : State) (i e : Nat) (g : Eng) : (s.setEng i e g).msgs = s.msgs := rfl
@[simp] theorem State.setEng_hostReads (s : State) (i e : Nat) (g : Eng) : (s.setEng i e g).hostReads = s.hostReads := rfl
@[simp] theorem State.setEng_hostRecs (s : State) (i e : Nat) (g : Eng) : (s.setEng i e g).hostRecs = s.hostRecs := rfl
@[simp] theorem State.setEng_penCfgs (s : State) (i e : Nat) (g : Eng) : (s.setEng i e g).penCfgs = s.penCfgs := rfl
@[simp] theorem State.setEng_images (s : State) (i e : Nat) (g : Eng) : (s.setEng i e g).images = s.images := rfl
@[simp] theorem State.setEng_verdicts (s : State) (i e : Nat) (g : Eng) : (s.setEng i e g).verdicts = s.verdicts := rfl
@[simp] theorem State.setEng_collKept (s : State) (i e : Nat) (g : Eng) : (s.setEng i e g).collKept = s.collKept := rfl
@[simp] theorem State.setEng_flagKept (s : State) (i e : Nat) (g : Eng) : (s.setEng i e g).flagKept = s.flagKept := rfl
@[simp] theorem State.setEng_heldKept (s : State) (i e : Nat) (g : Eng) : (s.setEng i e g).heldKept = s.heldKept := rfl
@[simp] theorem State.setEng_fwVersion (s : State) (i e : Nat) (g : Eng) : (s.setEng i e g).fwVersion = s.fwVersion := rfl
@[simp] theorem State.setEng_fwHash (s : State) (i e : Nat) (g : Eng) : (s.setEng i e g).fwHash = s.fwHash := rfl
@[simp] theorem State.setEng_fwSig (s : State) (i e : Nat) (g : Eng) : (s.setEng i e g).fwSig = s.fwSig := rfl
@[simp] theorem State.setEng_fwImage (s : State) (i e : Nat) (g : Eng) : (s.setEng i e g).fwImage = s.fwImage := rfl
@[simp] theorem State.setEng_fwKey (s : State) (i e : Nat) (g : Eng) : (s.setEng i e g).fwKey = s.fwKey := rfl
@[simp] theorem State.setEng_fwKeyHash (s : State) (i e : Nat) (g : Eng) : (s.setEng i e g).fwKeyHash = s.fwKeyHash := rfl
@[simp] theorem State.setEng_fwRollback (s : State) (i e : Nat) (g : Eng) : (s.setEng i e g).fwRollback = s.fwRollback := rfl
@[simp] theorem State.setEng_agenda (s : State) (i e : Nat) (g : Eng) : (s.setEng i e g).agenda = s.agenda := rfl
@[simp] theorem State.setEng_curCore (s : State) (i e : Nat) (g : Eng) : (s.setEng i e g).curCore = s.curCore := rfl
@[simp] theorem State.setEng_curCtx (s : State) (i e : Nat) (g : Eng) : (s.setEng i e g).curCtx = s.curCtx := rfl
@[simp] theorem State.setEng_free (s : State) (i e : Nat) (g : Eng) : (s.setEng i e g).free = s.free := rfl
@[simp] theorem State.setEng_turns (s : State) (i e : Nat) (g : Eng) : (s.setEng i e g).turns = s.turns := rfl
@[simp] theorem State.setEng_stamp (s : State) (i e : Nat) (g : Eng) : (s.setEng i e g).stamp = s.stamp := rfl

@[simp] theorem State.focus_cores (s : State) (i x : Nat) : (s.focus i x).cores = s.cores := rfl
@[simp] theorem State.focus_sheds (s : State) (i x : Nat) : (s.focus i x).sheds = s.sheds := rfl
@[simp] theorem State.focus_dies (s : State) (i x : Nat) : (s.focus i x).dies = s.dies := rfl
@[simp] theorem State.focus_pens (s : State) (i x : Nat) : (s.focus i x).pens = s.pens := rfl
@[simp] theorem State.focus_insts (s : State) (i x : Nat) : (s.focus i x).insts = s.insts := rfl
@[simp] theorem State.focus_nextInst (s : State) (i x : Nat) : (s.focus i x).nextInst = s.nextInst := rfl
@[simp] theorem State.focus_groups (s : State) (i x : Nat) : (s.focus i x).groups = s.groups := rfl
@[simp] theorem State.focus_mem (s : State) (i x : Nat) : (s.focus i x).mem = s.mem := rfl
@[simp] theorem State.focus_bad (s : State) (i x : Nat) : (s.focus i x).bad = s.bad := rfl
@[simp] theorem State.focus_tlb (s : State) (i x : Nat) : (s.focus i x).tlb = s.tlb := rfl
@[simp] theorem State.focus_walks (s : State) (i x : Nat) : (s.focus i x).walks = s.walks := rfl
@[simp] theorem State.focus_slow (s : State) (i x : Nat) : (s.focus i x).slow = s.slow := rfl
@[simp] theorem State.focus_enc (s : State) (i x : Nat) : (s.focus i x).enc = s.enc := rfl
@[simp] theorem State.focus_ranges (s : State) (i x : Nat) : (s.focus i x).ranges = s.ranges := rfl
@[simp] theorem State.focus_net (s : State) (i x : Nat) : (s.focus i x).net = s.net := rfl
@[simp] theorem State.focus_nextPkt (s : State) (i x : Nat) : (s.focus i x).nextPkt = s.nextPkt := rfl
@[simp] theorem State.focus_arrs (s : State) (i x : Nat) : (s.focus i x).arrs = s.arrs := rfl
@[simp] theorem State.focus_fchains (s : State) (i x : Nat) : (s.focus i x).fchains = s.fchains := rfl
@[simp] theorem State.focus_links (s : State) (i x : Nat) : (s.focus i x).links = s.links := rfl
@[simp] theorem State.focus_tick (s : State) (i x : Nat) : (s.focus i x).tick = s.tick := rfl
@[simp] theorem State.focus_fabid (s : State) (i x : Nat) : (s.focus i x).fabid = s.fabid := rfl
@[simp] theorem State.focus_powered (s : State) (i x : Nat) : (s.focus i x).powered = s.powered := rfl
@[simp] theorem State.focus_hostLink (s : State) (i x : Nat) : (s.focus i x).hostLink = s.hostLink := rfl
@[simp] theorem State.focus_firmware (s : State) (i x : Nat) : (s.focus i x).firmware = s.firmware := rfl
@[simp] theorem State.focus_fabSet (s : State) (i x : Nat) : (s.focus i x).fabSet = s.fabSet := rfl
@[simp] theorem State.focus_started (s : State) (i x : Nat) : (s.focus i x).started = s.started := rfl
@[simp] theorem State.focus_overTemp (s : State) (i x : Nat) : (s.focus i x).overTemp = s.overTemp := rfl
@[simp] theorem State.focus_bcnEnable (s : State) (i x : Nat) : (s.focus i x).bcnEnable = s.bcnEnable := rfl
@[simp] theorem State.focus_bcnK (s : State) (i x : Nat) : (s.focus i x).bcnK = s.bcnK := rfl
@[simp] theorem State.focus_bcnPartial (s : State) (i x : Nat) : (s.focus i x).bcnPartial = s.bcnPartial := rfl
@[simp] theorem State.focus_bcnLast (s : State) (i x : Nat) : (s.focus i x).bcnLast = s.bcnLast := rfl
@[simp] theorem State.focus_bcnr (s : State) (i x : Nat) : (s.focus i x).bcnr = s.bcnr := rfl
@[simp] theorem State.focus_staged (s : State) (i x : Nat) : (s.focus i x).staged = s.staged := rfl
@[simp] theorem State.focus_cutLow (s : State) (i x : Nat) : (s.focus i x).cutLow = s.cutLow := rfl
@[simp] theorem State.focus_msgs (s : State) (i x : Nat) : (s.focus i x).msgs = s.msgs := rfl
@[simp] theorem State.focus_hostReads (s : State) (i x : Nat) : (s.focus i x).hostReads = s.hostReads := rfl
@[simp] theorem State.focus_hostRecs (s : State) (i x : Nat) : (s.focus i x).hostRecs = s.hostRecs := rfl
@[simp] theorem State.focus_penCfgs (s : State) (i x : Nat) : (s.focus i x).penCfgs = s.penCfgs := rfl
@[simp] theorem State.focus_images (s : State) (i x : Nat) : (s.focus i x).images = s.images := rfl
@[simp] theorem State.focus_verdicts (s : State) (i x : Nat) : (s.focus i x).verdicts = s.verdicts := rfl
@[simp] theorem State.focus_collKept (s : State) (i x : Nat) : (s.focus i x).collKept = s.collKept := rfl
@[simp] theorem State.focus_flagKept (s : State) (i x : Nat) : (s.focus i x).flagKept = s.flagKept := rfl
@[simp] theorem State.focus_heldKept (s : State) (i x : Nat) : (s.focus i x).heldKept = s.heldKept := rfl
@[simp] theorem State.focus_fwVersion (s : State) (i x : Nat) : (s.focus i x).fwVersion = s.fwVersion := rfl
@[simp] theorem State.focus_fwHash (s : State) (i x : Nat) : (s.focus i x).fwHash = s.fwHash := rfl
@[simp] theorem State.focus_fwSig (s : State) (i x : Nat) : (s.focus i x).fwSig = s.fwSig := rfl
@[simp] theorem State.focus_fwImage (s : State) (i x : Nat) : (s.focus i x).fwImage = s.fwImage := rfl
@[simp] theorem State.focus_fwKey (s : State) (i x : Nat) : (s.focus i x).fwKey = s.fwKey := rfl
@[simp] theorem State.focus_fwKeyHash (s : State) (i x : Nat) : (s.focus i x).fwKeyHash = s.fwKeyHash := rfl
@[simp] theorem State.focus_fwRollback (s : State) (i x : Nat) : (s.focus i x).fwRollback = s.fwRollback := rfl
@[simp] theorem State.focus_agenda (s : State) (i x : Nat) : (s.focus i x).agenda = s.agenda := rfl
@[simp] theorem State.focus_free (s : State) (i x : Nat) : (s.focus i x).free = s.free := rfl
@[simp] theorem State.focus_turns (s : State) (i x : Nat) : (s.focus i x).turns = s.turns := rfl
@[simp] theorem State.focus_stamp (s : State) (i x : Nat) : (s.focus i x).stamp = s.stamp := rfl
@[simp] theorem State.focus_curCore (s : State) (i x : Nat) : (s.focus i x).curCore = i := rfl
@[simp] theorem State.focus_curCtx (s : State) (i x : Nat) : (s.focus i x).curCtx = x := rfl

/-! ### What an update writes -/

@[simp] theorem State.core_setCore (s : State) (i j : Nat) (c : Core) : (s.setCore i c).core j = if j = i then c else s.core j := mget_mset _ _ _ _ _
@[simp] theorem State.shed_setShed (s : State) (i j : Nat) (h : Shed) : (s.setShed i h).shed j = if j = i then h else s.shed j := mget_mset _ _ _ _ _
@[simp] theorem State.die_setDie (s : State) (i j : Nat) (d : Die) : (s.setDie i d).die j = if j = i then d else s.die j := mget_mset _ _ _ _ _
@[simp] theorem State.pen_setPen (s : State) (i j : Nat) (p : Pen) : (s.setPen i p).pen j = if j = i then p else s.pen j := mget_mset _ _ _ _ _
@[simp] theorem State.grp_setGrp (s : State) (i j : Nat) (g : Grp) : (s.setGrp i g).grp j = if j = i then g else s.grp j := mget_mset _ _ _ _ _
@[simp] theorem Core.ctx_setCtx (c : Core) (x y : Nat) (t : Ctx) : (c.setCtx x t).ctx y = if y = x then t else c.ctx y := mget_mset _ _ _ _ _
@[simp] theorem Core.eng_setEng (c : Core) (x y : Nat) (g : Eng) : (c.setEng x g).eng y = if y = x then g else c.eng y := mget_mset _ _ _ _ _
@[simp] theorem Core.eng_setCtx (c : Core) (x y : Nat) (t : Ctx) : (c.setCtx x t).eng y = c.eng y := rfl
@[simp] theorem Core.ctx_setEng (c : Core) (x y : Nat) (g : Eng) : (c.setEng x g).ctx y = c.ctx y := rfl

@[simp] theorem State.ctx_setCtx (s : State) (i x j y : Nat) (t : Ctx) :
    (s.setCtx i x t).ctx j y = if j = i ∧ y = x then t else s.ctx j y := by
  by_cases h : j = i
  · subst h; simp [State.ctx, State.setCtx]
  · simp [State.ctx, State.setCtx, h]

@[simp] theorem State.ctx_modCtx (s : State) (i x j y : Nat) (f : Ctx → Ctx) :
    (s.modCtx i x f).ctx j y = if j = i ∧ y = x then f (s.ctx i x) else s.ctx j y := State.ctx_setCtx _ _ _ _ _ _

@[simp] theorem State.cur_setCur (s : State) (t : Ctx) : (s.setCur t).cur = t := by simp [State.cur, State.setCur]
@[simp] theorem State.cur_onCur (s : State) (f : Ctx → Ctx) : (s.onCur f).cur = f s.cur := State.cur_setCur _ _

@[simp] theorem State.ctx_setCur (s : State) (t : Ctx) (j y : Nat) :
    (s.setCur t).ctx j y = if j = s.curCore ∧ y = s.curCtx then t else s.ctx j y := State.ctx_setCtx _ _ _ _ _ _

@[simp] theorem State.setCore_setCore (s : State) (i : Nat) (c d : Core) : (s.setCore i c).setCore i d = s.setCore i d := by
  simp [State.setCore]

@[simp] theorem State.setCtx_setCtx (s : State) (i x : Nat) (t u : Ctx) : (s.setCtx i x t).setCtx i x u = s.setCtx i x u := by
  simp [State.setCtx, Core.setCtx]

@[simp] theorem State.setCur_setCur (s : State) (t u : Ctx) : (s.setCur t).setCur u = s.setCur u := State.setCtx_setCtx _ _ _ _ _

theorem State.core_setCtx (s : State) (i x j : Nat) (t : Ctx) :
    (s.setCtx i x t).core j = if j = i then (s.core i).setCtx x t else s.core j := State.core_setCore _ _ _ _

@[simp] theorem Core.setCtx_engs (c : Core) (x : Nat) (t : Ctx) : (c.setCtx x t).engs = c.engs := rfl
@[simp] theorem Core.setCtx_gates (c : Core) (x : Nat) (t : Ctx) : (c.setCtx x t).gates = c.gates := rfl
@[simp] theorem Core.setCtx_gwait (c : Core) (x : Nat) (t : Ctx) : (c.setCtx x t).gwait = c.gwait := rfl
@[simp] theorem Core.setCtx_ctrs (c : Core) (x : Nat) (t : Ctx) : (c.setCtx x t).ctrs = c.ctrs := rfl
@[simp] theorem Core.setCtx_tiles (c : Core) (x : Nat) (t : Ctx) : (c.setCtx x t).tiles = c.tiles := rfl
@[simp] theorem Core.setCtx_sp (c : Core) (x : Nat) (t : Ctx) : (c.setCtx x t).sp = c.sp := rfl
@[simp] theorem Core.setCtx_lanes (c : Core) (x : Nat) (t : Ctx) : (c.setCtx x t).lanes = c.lanes := rfl
@[simp] theorem Core.setCtx_rewind (c : Core) (x : Nat) (t : Ctx) : (c.setCtx x t).rewind = c.rewind := rfl
@[simp] theorem Core.setCtx_mrowp (c : Core) (x : Nat) (t : Ctx) : (c.setCtx x t).mrowp = c.mrowp := rfl
@[simp] theorem Core.setCtx_psave (c : Core) (x : Nat) (t : Ctx) : (c.setCtx x t).psave = c.psave := rfl
@[simp] theorem Core.setCtx_fringBase (c : Core) (x : Nat) (t : Ctx) : (c.setCtx x t).fringBase = c.fringBase := rfl
@[simp] theorem Core.setCtx_fringLog (c : Core) (x : Nat) (t : Ctx) : (c.setCtx x t).fringLog = c.fringLog := rfl
@[simp] theorem Core.setCtx_frtail (c : Core) (x : Nat) (t : Ctx) : (c.setCtx x t).frtail = c.frtail := rfl
@[simp] theorem Core.setCtx_frhead (c : Core) (x : Nat) (t : Ctx) : (c.setCtx x t).frhead = c.frhead := rfl
@[simp] theorem Core.setCtx_recSeq (c : Core) (x : Nat) (t : Ctx) : (c.setCtx x t).recSeq = c.recSeq := rfl
@[simp] theorem Core.setCtx_twin (c : Core) (x : Nat) (t : Ctx) : (c.setCtx x t).twin = c.twin := rfl
@[simp] theorem Core.setCtx_iwin (c : Core) (x : Nat) (t : Ctx) : (c.setCtx x t).iwin = c.iwin := rfl
@[simp] theorem Core.setCtx_shadow (c : Core) (x : Nat) (t : Ctx) : (c.setCtx x t).shadow = c.shadow := rfl
@[simp] theorem Core.setCtx_bind (c : Core) (x : Nat) (t : Ctx) : (c.setCtx x t).bind = c.bind := rfl
@[simp] theorem Core.setCtx_stepq (c : Core) (x : Nat) (t : Ctx) : (c.setCtx x t).stepq = c.stepq := rfl
@[simp] theorem Core.setCtx_frInst (c : Core) (x : Nat) (t : Ctx) : (c.setCtx x t).frInst = c.frInst := rfl
@[simp] theorem Core.setCtx_frKey (c : Core) (x : Nat) (t : Ctx) : (c.setCtx x t).frKey = c.frKey := rfl
@[simp] theorem Core.setCtx_cut (c : Core) (x : Nat) (t : Ctx) : (c.setCtx x t).cut = c.cut := rfl
@[simp] theorem Core.setCtx_pre (c : Core) (x : Nat) (t : Ctx) : (c.setCtx x t).pre = c.pre := rfl
@[simp] theorem Core.setCtx_c3start (c : Core) (x : Nat) (t : Ctx) : (c.setCtx x t).c3start = c.c3start := rfl
@[simp] theorem Core.setCtx_c3space (c : Core) (x : Nat) (t : Ctx) : (c.setCtx x t).c3space = c.c3space := rfl
@[simp] theorem State.setCtx_core_engs (s : State) (i x j : Nat) (t : Ctx) : ((s.setCtx i x t).core j).engs = (s.core j).engs := by
  rw [State.core_setCtx]; split_ifs with h <;> simp [h]
@[simp] theorem State.setCtx_core_gates (s : State) (i x j : Nat) (t : Ctx) : ((s.setCtx i x t).core j).gates = (s.core j).gates := by
  rw [State.core_setCtx]; split_ifs with h <;> simp [h]
@[simp] theorem State.setCtx_core_gwait (s : State) (i x j : Nat) (t : Ctx) : ((s.setCtx i x t).core j).gwait = (s.core j).gwait := by
  rw [State.core_setCtx]; split_ifs with h <;> simp [h]
@[simp] theorem State.setCtx_core_ctrs (s : State) (i x j : Nat) (t : Ctx) : ((s.setCtx i x t).core j).ctrs = (s.core j).ctrs := by
  rw [State.core_setCtx]; split_ifs with h <;> simp [h]
@[simp] theorem State.setCtx_core_tiles (s : State) (i x j : Nat) (t : Ctx) : ((s.setCtx i x t).core j).tiles = (s.core j).tiles := by
  rw [State.core_setCtx]; split_ifs with h <;> simp [h]
@[simp] theorem State.setCtx_core_sp (s : State) (i x j : Nat) (t : Ctx) : ((s.setCtx i x t).core j).sp = (s.core j).sp := by
  rw [State.core_setCtx]; split_ifs with h <;> simp [h]
@[simp] theorem State.setCtx_core_lanes (s : State) (i x j : Nat) (t : Ctx) : ((s.setCtx i x t).core j).lanes = (s.core j).lanes := by
  rw [State.core_setCtx]; split_ifs with h <;> simp [h]
@[simp] theorem State.setCtx_core_rewind (s : State) (i x j : Nat) (t : Ctx) : ((s.setCtx i x t).core j).rewind = (s.core j).rewind := by
  rw [State.core_setCtx]; split_ifs with h <;> simp [h]
@[simp] theorem State.setCtx_core_mrowp (s : State) (i x j : Nat) (t : Ctx) : ((s.setCtx i x t).core j).mrowp = (s.core j).mrowp := by
  rw [State.core_setCtx]; split_ifs with h <;> simp [h]
@[simp] theorem State.setCtx_core_psave (s : State) (i x j : Nat) (t : Ctx) : ((s.setCtx i x t).core j).psave = (s.core j).psave := by
  rw [State.core_setCtx]; split_ifs with h <;> simp [h]
@[simp] theorem State.setCtx_core_fringBase (s : State) (i x j : Nat) (t : Ctx) : ((s.setCtx i x t).core j).fringBase = (s.core j).fringBase := by
  rw [State.core_setCtx]; split_ifs with h <;> simp [h]
@[simp] theorem State.setCtx_core_fringLog (s : State) (i x j : Nat) (t : Ctx) : ((s.setCtx i x t).core j).fringLog = (s.core j).fringLog := by
  rw [State.core_setCtx]; split_ifs with h <;> simp [h]
@[simp] theorem State.setCtx_core_frtail (s : State) (i x j : Nat) (t : Ctx) : ((s.setCtx i x t).core j).frtail = (s.core j).frtail := by
  rw [State.core_setCtx]; split_ifs with h <;> simp [h]
@[simp] theorem State.setCtx_core_frhead (s : State) (i x j : Nat) (t : Ctx) : ((s.setCtx i x t).core j).frhead = (s.core j).frhead := by
  rw [State.core_setCtx]; split_ifs with h <;> simp [h]
@[simp] theorem State.setCtx_core_recSeq (s : State) (i x j : Nat) (t : Ctx) : ((s.setCtx i x t).core j).recSeq = (s.core j).recSeq := by
  rw [State.core_setCtx]; split_ifs with h <;> simp [h]
@[simp] theorem State.setCtx_core_twin (s : State) (i x j : Nat) (t : Ctx) : ((s.setCtx i x t).core j).twin = (s.core j).twin := by
  rw [State.core_setCtx]; split_ifs with h <;> simp [h]
@[simp] theorem State.setCtx_core_iwin (s : State) (i x j : Nat) (t : Ctx) : ((s.setCtx i x t).core j).iwin = (s.core j).iwin := by
  rw [State.core_setCtx]; split_ifs with h <;> simp [h]
@[simp] theorem State.setCtx_core_shadow (s : State) (i x j : Nat) (t : Ctx) : ((s.setCtx i x t).core j).shadow = (s.core j).shadow := by
  rw [State.core_setCtx]; split_ifs with h <;> simp [h]
@[simp] theorem State.setCtx_core_bind (s : State) (i x j : Nat) (t : Ctx) : ((s.setCtx i x t).core j).bind = (s.core j).bind := by
  rw [State.core_setCtx]; split_ifs with h <;> simp [h]
@[simp] theorem State.setCtx_core_stepq (s : State) (i x j : Nat) (t : Ctx) : ((s.setCtx i x t).core j).stepq = (s.core j).stepq := by
  rw [State.core_setCtx]; split_ifs with h <;> simp [h]
@[simp] theorem State.setCtx_core_frInst (s : State) (i x j : Nat) (t : Ctx) : ((s.setCtx i x t).core j).frInst = (s.core j).frInst := by
  rw [State.core_setCtx]; split_ifs with h <;> simp [h]
@[simp] theorem State.setCtx_core_frKey (s : State) (i x j : Nat) (t : Ctx) : ((s.setCtx i x t).core j).frKey = (s.core j).frKey := by
  rw [State.core_setCtx]; split_ifs with h <;> simp [h]
@[simp] theorem State.setCtx_core_cut (s : State) (i x j : Nat) (t : Ctx) : ((s.setCtx i x t).core j).cut = (s.core j).cut := by
  rw [State.core_setCtx]; split_ifs with h <;> simp [h]
@[simp] theorem State.setCtx_core_pre (s : State) (i x j : Nat) (t : Ctx) : ((s.setCtx i x t).core j).pre = (s.core j).pre := by
  rw [State.core_setCtx]; split_ifs with h <;> simp [h]
@[simp] theorem State.setCtx_core_c3start (s : State) (i x j : Nat) (t : Ctx) : ((s.setCtx i x t).core j).c3start = (s.core j).c3start := by
  rw [State.core_setCtx]; split_ifs with h <;> simp [h]
@[simp] theorem State.setCtx_core_c3space (s : State) (i x j : Nat) (t : Ctx) : ((s.setCtx i x t).core j).c3space = (s.core j).c3space := by
  rw [State.core_setCtx]; split_ifs with h <;> simp [h]

/-! ### Contexts -/

theorem Ctx.wr_eq (c : Ctx) (n : Nat) (x : Dword) (h : n ≠ 0) : c.wr n x = { c with s := mset c.s n x } := by simp [Ctx.wr, h]

@[simp] theorem Ctx.wr_zero (c : Ctx) (x : Dword) : c.wr 0 x = c := rfl
@[simp] theorem Ctx.rd_zero (c : Ctx) : c.rd 0 = 0 := rfl

/-- A read after a write (R188, R235): s0 reads zero whatever is written to it. -/
theorem Ctx.rd_wr (c : Ctx) (n m : Nat) (x : Dword) : (c.wr n x).rd m = if m = n ∧ n ≠ 0 then x else c.rd m := by
  by_cases hn : n = 0
  · simp [hn]
  · by_cases hm : m = 0
    · simp [hm, Ctx.rd, Ne.symm hn]
    · simp [Ctx.rd, Ctx.wr, hn, hm, mget_mset]

theorem Ctx.rdP_wrP (c : Ctx) (n m : Nat) (x : Bool) : (c.wrP n x).rdP m = if m = n ∧ n ≠ 0 then x else c.rdP m := by
  by_cases hn : n = 0
  · simp [hn, Ctx.wrP]
  · by_cases hm : m = 0
    · simp [hm, Ctx.rdP, Ne.symm hn]
    · simp only [Ctx.rdP, Ctx.wrP, hn, if_false, mget_mset]; split_ifs <;> simp_all

theorem Ctx.full_mark (c : Ctx) (n m : Nat) (e : Bool) : (c.mark n e).full m = if m = n ∧ n ≠ 0 then !e else c.full m := by
  by_cases hn : n = 0
  · simp [hn, Ctx.mark]
  · by_cases hm : m = 0
    · simp [hm, Ctx.full, Ne.symm hn]
    · simp only [Ctx.full, Ctx.mark, hn, if_false, mget_mset]; split_ifs <;> simp_all

@[simp] theorem Ctx.wr_sE (c : Ctx) (n : Nat) (x : Dword) : (c.wr n x).sE = c.sE := by unfold Ctx.wr; split_ifs <;> rfl
@[simp] theorem Ctx.wr_p (c : Ctx) (n : Nat) (x : Dword) : (c.wr n x).p = c.p := by unfold Ctx.wr; split_ifs <;> rfl
@[simp] theorem Ctx.wr_pE (c : Ctx) (n : Nat) (x : Dword) : (c.wr n x).pE = c.pE := by unfold Ctx.wr; split_ifs <;> rfl
@[simp] theorem Ctx.wr_q (c : Ctx) (n : Nat) (x : Dword) : (c.wr n x).q = c.q := by unfold Ctx.wr; split_ifs <;> rfl
@[simp] theorem Ctx.wr_k (c : Ctx) (n : Nat) (x : Dword) : (c.wr n x).k = c.k := by unfold Ctx.wr; split_ifs <;> rfl
@[simp] theorem Ctx.wr_iter (c : Ctx) (n : Nat) (x : Dword) : (c.wr n x).iter = c.iter := by unfold Ctx.wr; split_ifs <;> rfl
@[simp] theorem Ctx.wr_n (c : Ctx) (n : Nat) (x : Dword) : (c.wr n x).n = c.n := by unfold Ctx.wr; split_ifs <;> rfl
@[simp] theorem Ctx.wr_pc (c : Ctx) (n : Nat) (x : Dword) : (c.wr n x).pc = c.pc := by unfold Ctx.wr; split_ifs <;> rfl
@[simp] theorem Ctx.wr_st (c : Ctx) (n : Nat) (x : Dword) : (c.wr n x).st = c.st := by unfold Ctx.wr; split_ifs <;> rfl
@[simp] theorem Ctx.wr_why (c : Ctx) (n : Nat) (x : Dword) : (c.wr n x).why = c.why := by unfold Ctx.wr; split_ifs <;> rfl
@[simp] theorem Ctx.wr_preSt (c : Ctx) (n : Nat) (x : Dword) : (c.wr n x).preSt = c.preSt := by unfold Ctx.wr; split_ifs <;> rfl
@[simp] theorem Ctx.wr_sys (c : Ctx) (n : Nat) (x : Dword) : (c.wr n x).sys = c.sys := by unfold Ctx.wr; split_ifs <;> rfl
@[simp] theorem Ctx.wr_conf (c : Ctx) (n : Nat) (x : Dword) : (c.wr n x).conf = c.conf := by unfold Ctx.wr; split_ifs <;> rfl
@[simp] theorem Ctx.wr_genprof (c : Ctx) (n : Nat) (x : Dword) : (c.wr n x).genprof = c.genprof := by unfold Ctx.wr; split_ifs <;> rfl
@[simp] theorem Ctx.wr_ovftab (c : Ctx) (n : Nat) (x : Dword) : (c.wr n x).ovftab = c.ovftab := by unfold Ctx.wr; split_ifs <;> rfl
@[simp] theorem Ctx.wr_aflags (c : Ctx) (n : Nat) (x : Dword) : (c.wr n x).aflags = c.aflags := by unfold Ctx.wr; split_ifs <;> rfl
@[simp] theorem Ctx.wr_hl0 (c : Ctx) (n : Nat) (x : Dword) : (c.wr n x).hl0 = c.hl0 := by unfold Ctx.wr; split_ifs <;> rfl
@[simp] theorem Ctx.wr_hl1 (c : Ctx) (n : Nat) (x : Dword) : (c.wr n x).hl1 = c.hl1 := by unfold Ctx.wr; split_ifs <;> rfl
@[simp] theorem Ctx.wr_wb0 (c : Ctx) (n : Nat) (x : Dword) : (c.wr n x).wb0 = c.wb0 := by unfold Ctx.wr; split_ifs <;> rfl
@[simp] theorem Ctx.wr_wb1 (c : Ctx) (n : Nat) (x : Dword) : (c.wr n x).wb1 = c.wb1 := by unfold Ctx.wr; split_ifs <;> rfl
@[simp] theorem Ctx.wr_spaceid (c : Ctx) (n : Nat) (x : Dword) : (c.wr n x).spaceid = c.spaceid := by unfold Ctx.wr; split_ifs <;> rfl
@[simp] theorem Ctx.wr_tvec (c : Ctx) (n : Nat) (x : Dword) : (c.wr n x).tvec = c.tvec := by unfold Ctx.wr; split_ifs <;> rfl
@[simp] theorem Ctx.wr_tpc (c : Ctx) (n : Nat) (x : Dword) : (c.wr n x).tpc = c.tpc := by unfold Ctx.wr; split_ifs <;> rfl
@[simp] theorem Ctx.wr_tstat (c : Ctx) (n : Nat) (x : Dword) : (c.wr n x).tstat = c.tstat := by unfold Ctx.wr; split_ifs <;> rfl
@[simp] theorem Ctx.wr_tctl (c : Ctx) (n : Nat) (x : Dword) : (c.wr n x).tctl = c.tctl := by unfold Ctx.wr; split_ifs <;> rfl
@[simp] theorem Ctx.wr_tscr (c : Ctx) (n : Nat) (x : Dword) : (c.wr n x).tscr = c.tscr := by unfold Ctx.wr; split_ifs <;> rfl
@[simp] theorem Ctx.wr_trec (c : Ctx) (n : Nat) (x : Dword) : (c.wr n x).trec = c.trec := by unfold Ctx.wr; split_ifs <;> rfl
@[simp] theorem Ctx.wr_v (c : Ctx) (n : Nat) (x : Dword) : (c.wr n x).v = c.v := by unfold Ctx.wr; split_ifs <;> rfl
@[simp] theorem Ctx.wr_pend (c : Ctx) (n : Nat) (x : Dword) : (c.wr n x).pend = c.pend := by unfold Ctx.wr; split_ifs <;> rfl
@[simp] theorem Ctx.wr_seq (c : Ctx) (n : Nat) (x : Dword) : (c.wr n x).seq = c.seq := by unfold Ctx.wr; split_ifs <;> rfl
@[simp] theorem Ctx.wr_traps (c : Ctx) (n : Nat) (x : Dword) : (c.wr n x).traps = c.traps := by unfold Ctx.wr; split_ifs <;> rfl
@[simp] theorem Ctx.wr_pfx (c : Ctx) (n : Nat) (x : Dword) : (c.wr n x).pfx = c.pfx := by unfold Ctx.wr; split_ifs <;> rfl
@[simp] theorem Ctx.wr_home (c : Ctx) (n : Nat) (x : Dword) : (c.wr n x).home = c.home := by unfold Ctx.wr; split_ifs <;> rfl
@[simp] theorem Ctx.wr_finished (c : Ctx) (n : Nat) (x : Dword) : (c.wr n x).finished = c.finished := by unfold Ctx.wr; split_ifs <;> rfl
@[simp] theorem Ctx.wr_atIter (c : Ctx) (n : Nat) (x : Dword) : (c.wr n x).atIter = c.atIter := by unfold Ctx.wr; split_ifs <;> rfl
@[simp] theorem Ctx.wr_req (c : Ctx) (n : Nat) (x : Dword) : (c.wr n x).req = c.req := by unfold Ctx.wr; split_ifs <;> rfl
@[simp] theorem Ctx.wr_asked (c : Ctx) (n : Nat) (x : Dword) : (c.wr n x).asked = c.asked := by unfold Ctx.wr; split_ifs <;> rfl
@[simp] theorem Ctx.wr_own (c : Ctx) (n : Nat) (x : Dword) : (c.wr n x).own = c.own := by unfold Ctx.wr; split_ifs <;> rfl
@[simp] theorem Ctx.wr_trapAt (c : Ctx) (n : Nat) (x : Dword) : (c.wr n x).trapAt = c.trapAt := by unfold Ctx.wr; split_ifs <;> rfl
@[simp] theorem Ctx.wr_wblk (c : Ctx) (n : Nat) (x : Dword) : (c.wr n x).wblk = c.wblk := by unfold Ctx.wr; split_ifs <;> rfl
@[simp] theorem Ctx.wr_landed (c : Ctx) (n : Nat) (x : Dword) : (c.wr n x).landed = c.landed := by unfold Ctx.wr; split_ifs <;> rfl
@[simp] theorem Ctx.wrP_s (c : Ctx) (n : Nat) (x : Bool) : (c.wrP n x).s = c.s := by unfold Ctx.wrP; split_ifs <;> rfl
@[simp] theorem Ctx.wrP_sE (c : Ctx) (n : Nat) (x : Bool) : (c.wrP n x).sE = c.sE := by unfold Ctx.wrP; split_ifs <;> rfl
@[simp] theorem Ctx.wrP_pE (c : Ctx) (n : Nat) (x : Bool) : (c.wrP n x).pE = c.pE := by unfold Ctx.wrP; split_ifs <;> rfl
@[simp] theorem Ctx.wrP_q (c : Ctx) (n : Nat) (x : Bool) : (c.wrP n x).q = c.q := by unfold Ctx.wrP; split_ifs <;> rfl
@[simp] theorem Ctx.wrP_k (c : Ctx) (n : Nat) (x : Bool) : (c.wrP n x).k = c.k := by unfold Ctx.wrP; split_ifs <;> rfl
@[simp] theorem Ctx.wrP_iter (c : Ctx) (n : Nat) (x : Bool) : (c.wrP n x).iter = c.iter := by unfold Ctx.wrP; split_ifs <;> rfl
@[simp] theorem Ctx.wrP_n (c : Ctx) (n : Nat) (x : Bool) : (c.wrP n x).n = c.n := by unfold Ctx.wrP; split_ifs <;> rfl
@[simp] theorem Ctx.wrP_pc (c : Ctx) (n : Nat) (x : Bool) : (c.wrP n x).pc = c.pc := by unfold Ctx.wrP; split_ifs <;> rfl
@[simp] theorem Ctx.wrP_st (c : Ctx) (n : Nat) (x : Bool) : (c.wrP n x).st = c.st := by unfold Ctx.wrP; split_ifs <;> rfl
@[simp] theorem Ctx.wrP_why (c : Ctx) (n : Nat) (x : Bool) : (c.wrP n x).why = c.why := by unfold Ctx.wrP; split_ifs <;> rfl
@[simp] theorem Ctx.wrP_preSt (c : Ctx) (n : Nat) (x : Bool) : (c.wrP n x).preSt = c.preSt := by unfold Ctx.wrP; split_ifs <;> rfl
@[simp] theorem Ctx.wrP_sys (c : Ctx) (n : Nat) (x : Bool) : (c.wrP n x).sys = c.sys := by unfold Ctx.wrP; split_ifs <;> rfl
@[simp] theorem Ctx.wrP_conf (c : Ctx) (n : Nat) (x : Bool) : (c.wrP n x).conf = c.conf := by unfold Ctx.wrP; split_ifs <;> rfl
@[simp] theorem Ctx.wrP_genprof (c : Ctx) (n : Nat) (x : Bool) : (c.wrP n x).genprof = c.genprof := by unfold Ctx.wrP; split_ifs <;> rfl
@[simp] theorem Ctx.wrP_ovftab (c : Ctx) (n : Nat) (x : Bool) : (c.wrP n x).ovftab = c.ovftab := by unfold Ctx.wrP; split_ifs <;> rfl
@[simp] theorem Ctx.wrP_aflags (c : Ctx) (n : Nat) (x : Bool) : (c.wrP n x).aflags = c.aflags := by unfold Ctx.wrP; split_ifs <;> rfl
@[simp] theorem Ctx.wrP_hl0 (c : Ctx) (n : Nat) (x : Bool) : (c.wrP n x).hl0 = c.hl0 := by unfold Ctx.wrP; split_ifs <;> rfl
@[simp] theorem Ctx.wrP_hl1 (c : Ctx) (n : Nat) (x : Bool) : (c.wrP n x).hl1 = c.hl1 := by unfold Ctx.wrP; split_ifs <;> rfl
@[simp] theorem Ctx.wrP_wb0 (c : Ctx) (n : Nat) (x : Bool) : (c.wrP n x).wb0 = c.wb0 := by unfold Ctx.wrP; split_ifs <;> rfl
@[simp] theorem Ctx.wrP_wb1 (c : Ctx) (n : Nat) (x : Bool) : (c.wrP n x).wb1 = c.wb1 := by unfold Ctx.wrP; split_ifs <;> rfl
@[simp] theorem Ctx.wrP_spaceid (c : Ctx) (n : Nat) (x : Bool) : (c.wrP n x).spaceid = c.spaceid := by unfold Ctx.wrP; split_ifs <;> rfl
@[simp] theorem Ctx.wrP_tvec (c : Ctx) (n : Nat) (x : Bool) : (c.wrP n x).tvec = c.tvec := by unfold Ctx.wrP; split_ifs <;> rfl
@[simp] theorem Ctx.wrP_tpc (c : Ctx) (n : Nat) (x : Bool) : (c.wrP n x).tpc = c.tpc := by unfold Ctx.wrP; split_ifs <;> rfl
@[simp] theorem Ctx.wrP_tstat (c : Ctx) (n : Nat) (x : Bool) : (c.wrP n x).tstat = c.tstat := by unfold Ctx.wrP; split_ifs <;> rfl
@[simp] theorem Ctx.wrP_tctl (c : Ctx) (n : Nat) (x : Bool) : (c.wrP n x).tctl = c.tctl := by unfold Ctx.wrP; split_ifs <;> rfl
@[simp] theorem Ctx.wrP_tscr (c : Ctx) (n : Nat) (x : Bool) : (c.wrP n x).tscr = c.tscr := by unfold Ctx.wrP; split_ifs <;> rfl
@[simp] theorem Ctx.wrP_trec (c : Ctx) (n : Nat) (x : Bool) : (c.wrP n x).trec = c.trec := by unfold Ctx.wrP; split_ifs <;> rfl
@[simp] theorem Ctx.wrP_v (c : Ctx) (n : Nat) (x : Bool) : (c.wrP n x).v = c.v := by unfold Ctx.wrP; split_ifs <;> rfl
@[simp] theorem Ctx.wrP_pend (c : Ctx) (n : Nat) (x : Bool) : (c.wrP n x).pend = c.pend := by unfold Ctx.wrP; split_ifs <;> rfl
@[simp] theorem Ctx.wrP_seq (c : Ctx) (n : Nat) (x : Bool) : (c.wrP n x).seq = c.seq := by unfold Ctx.wrP; split_ifs <;> rfl
@[simp] theorem Ctx.wrP_traps (c : Ctx) (n : Nat) (x : Bool) : (c.wrP n x).traps = c.traps := by unfold Ctx.wrP; split_ifs <;> rfl
@[simp] theorem Ctx.wrP_pfx (c : Ctx) (n : Nat) (x : Bool) : (c.wrP n x).pfx = c.pfx := by unfold Ctx.wrP; split_ifs <;> rfl
@[simp] theorem Ctx.wrP_home (c : Ctx) (n : Nat) (x : Bool) : (c.wrP n x).home = c.home := by unfold Ctx.wrP; split_ifs <;> rfl
@[simp] theorem Ctx.wrP_finished (c : Ctx) (n : Nat) (x : Bool) : (c.wrP n x).finished = c.finished := by unfold Ctx.wrP; split_ifs <;> rfl
@[simp] theorem Ctx.wrP_atIter (c : Ctx) (n : Nat) (x : Bool) : (c.wrP n x).atIter = c.atIter := by unfold Ctx.wrP; split_ifs <;> rfl
@[simp] theorem Ctx.wrP_req (c : Ctx) (n : Nat) (x : Bool) : (c.wrP n x).req = c.req := by unfold Ctx.wrP; split_ifs <;> rfl
@[simp] theorem Ctx.wrP_asked (c : Ctx) (n : Nat) (x : Bool) : (c.wrP n x).asked = c.asked := by unfold Ctx.wrP; split_ifs <;> rfl
@[simp] theorem Ctx.wrP_own (c : Ctx) (n : Nat) (x : Bool) : (c.wrP n x).own = c.own := by unfold Ctx.wrP; split_ifs <;> rfl
@[simp] theorem Ctx.wrP_trapAt (c : Ctx) (n : Nat) (x : Bool) : (c.wrP n x).trapAt = c.trapAt := by unfold Ctx.wrP; split_ifs <;> rfl
@[simp] theorem Ctx.wrP_wblk (c : Ctx) (n : Nat) (x : Bool) : (c.wrP n x).wblk = c.wblk := by unfold Ctx.wrP; split_ifs <;> rfl
@[simp] theorem Ctx.wrP_landed (c : Ctx) (n : Nat) (x : Bool) : (c.wrP n x).landed = c.landed := by unfold Ctx.wrP; split_ifs <;> rfl
@[simp] theorem Ctx.mark_s (c : Ctx) (n : Nat) (e : Bool) : (c.mark n e).s = c.s := by unfold Ctx.mark; split_ifs <;> rfl
@[simp] theorem Ctx.mark_p (c : Ctx) (n : Nat) (e : Bool) : (c.mark n e).p = c.p := by unfold Ctx.mark; split_ifs <;> rfl
@[simp] theorem Ctx.mark_pE (c : Ctx) (n : Nat) (e : Bool) : (c.mark n e).pE = c.pE := by unfold Ctx.mark; split_ifs <;> rfl
@[simp] theorem Ctx.mark_q (c : Ctx) (n : Nat) (e : Bool) : (c.mark n e).q = c.q := by unfold Ctx.mark; split_ifs <;> rfl
@[simp] theorem Ctx.mark_k (c : Ctx) (n : Nat) (e : Bool) : (c.mark n e).k = c.k := by unfold Ctx.mark; split_ifs <;> rfl
@[simp] theorem Ctx.mark_iter (c : Ctx) (n : Nat) (e : Bool) : (c.mark n e).iter = c.iter := by unfold Ctx.mark; split_ifs <;> rfl
@[simp] theorem Ctx.mark_n (c : Ctx) (n : Nat) (e : Bool) : (c.mark n e).n = c.n := by unfold Ctx.mark; split_ifs <;> rfl
@[simp] theorem Ctx.mark_pc (c : Ctx) (n : Nat) (e : Bool) : (c.mark n e).pc = c.pc := by unfold Ctx.mark; split_ifs <;> rfl
@[simp] theorem Ctx.mark_st (c : Ctx) (n : Nat) (e : Bool) : (c.mark n e).st = c.st := by unfold Ctx.mark; split_ifs <;> rfl
@[simp] theorem Ctx.mark_why (c : Ctx) (n : Nat) (e : Bool) : (c.mark n e).why = c.why := by unfold Ctx.mark; split_ifs <;> rfl
@[simp] theorem Ctx.mark_preSt (c : Ctx) (n : Nat) (e : Bool) : (c.mark n e).preSt = c.preSt := by unfold Ctx.mark; split_ifs <;> rfl
@[simp] theorem Ctx.mark_sys (c : Ctx) (n : Nat) (e : Bool) : (c.mark n e).sys = c.sys := by unfold Ctx.mark; split_ifs <;> rfl
@[simp] theorem Ctx.mark_conf (c : Ctx) (n : Nat) (e : Bool) : (c.mark n e).conf = c.conf := by unfold Ctx.mark; split_ifs <;> rfl
@[simp] theorem Ctx.mark_genprof (c : Ctx) (n : Nat) (e : Bool) : (c.mark n e).genprof = c.genprof := by unfold Ctx.mark; split_ifs <;> rfl
@[simp] theorem Ctx.mark_ovftab (c : Ctx) (n : Nat) (e : Bool) : (c.mark n e).ovftab = c.ovftab := by unfold Ctx.mark; split_ifs <;> rfl
@[simp] theorem Ctx.mark_aflags (c : Ctx) (n : Nat) (e : Bool) : (c.mark n e).aflags = c.aflags := by unfold Ctx.mark; split_ifs <;> rfl
@[simp] theorem Ctx.mark_hl0 (c : Ctx) (n : Nat) (e : Bool) : (c.mark n e).hl0 = c.hl0 := by unfold Ctx.mark; split_ifs <;> rfl
@[simp] theorem Ctx.mark_hl1 (c : Ctx) (n : Nat) (e : Bool) : (c.mark n e).hl1 = c.hl1 := by unfold Ctx.mark; split_ifs <;> rfl
@[simp] theorem Ctx.mark_wb0 (c : Ctx) (n : Nat) (e : Bool) : (c.mark n e).wb0 = c.wb0 := by unfold Ctx.mark; split_ifs <;> rfl
@[simp] theorem Ctx.mark_wb1 (c : Ctx) (n : Nat) (e : Bool) : (c.mark n e).wb1 = c.wb1 := by unfold Ctx.mark; split_ifs <;> rfl
@[simp] theorem Ctx.mark_spaceid (c : Ctx) (n : Nat) (e : Bool) : (c.mark n e).spaceid = c.spaceid := by unfold Ctx.mark; split_ifs <;> rfl
@[simp] theorem Ctx.mark_tvec (c : Ctx) (n : Nat) (e : Bool) : (c.mark n e).tvec = c.tvec := by unfold Ctx.mark; split_ifs <;> rfl
@[simp] theorem Ctx.mark_tpc (c : Ctx) (n : Nat) (e : Bool) : (c.mark n e).tpc = c.tpc := by unfold Ctx.mark; split_ifs <;> rfl
@[simp] theorem Ctx.mark_tstat (c : Ctx) (n : Nat) (e : Bool) : (c.mark n e).tstat = c.tstat := by unfold Ctx.mark; split_ifs <;> rfl
@[simp] theorem Ctx.mark_tctl (c : Ctx) (n : Nat) (e : Bool) : (c.mark n e).tctl = c.tctl := by unfold Ctx.mark; split_ifs <;> rfl
@[simp] theorem Ctx.mark_tscr (c : Ctx) (n : Nat) (e : Bool) : (c.mark n e).tscr = c.tscr := by unfold Ctx.mark; split_ifs <;> rfl
@[simp] theorem Ctx.mark_trec (c : Ctx) (n : Nat) (e : Bool) : (c.mark n e).trec = c.trec := by unfold Ctx.mark; split_ifs <;> rfl
@[simp] theorem Ctx.mark_v (c : Ctx) (n : Nat) (e : Bool) : (c.mark n e).v = c.v := by unfold Ctx.mark; split_ifs <;> rfl
@[simp] theorem Ctx.mark_pend (c : Ctx) (n : Nat) (e : Bool) : (c.mark n e).pend = c.pend := by unfold Ctx.mark; split_ifs <;> rfl
@[simp] theorem Ctx.mark_seq (c : Ctx) (n : Nat) (e : Bool) : (c.mark n e).seq = c.seq := by unfold Ctx.mark; split_ifs <;> rfl
@[simp] theorem Ctx.mark_traps (c : Ctx) (n : Nat) (e : Bool) : (c.mark n e).traps = c.traps := by unfold Ctx.mark; split_ifs <;> rfl
@[simp] theorem Ctx.mark_pfx (c : Ctx) (n : Nat) (e : Bool) : (c.mark n e).pfx = c.pfx := by unfold Ctx.mark; split_ifs <;> rfl
@[simp] theorem Ctx.mark_home (c : Ctx) (n : Nat) (e : Bool) : (c.mark n e).home = c.home := by unfold Ctx.mark; split_ifs <;> rfl
@[simp] theorem Ctx.mark_finished (c : Ctx) (n : Nat) (e : Bool) : (c.mark n e).finished = c.finished := by unfold Ctx.mark; split_ifs <;> rfl
@[simp] theorem Ctx.mark_atIter (c : Ctx) (n : Nat) (e : Bool) : (c.mark n e).atIter = c.atIter := by unfold Ctx.mark; split_ifs <;> rfl
@[simp] theorem Ctx.mark_req (c : Ctx) (n : Nat) (e : Bool) : (c.mark n e).req = c.req := by unfold Ctx.mark; split_ifs <;> rfl
@[simp] theorem Ctx.mark_asked (c : Ctx) (n : Nat) (e : Bool) : (c.mark n e).asked = c.asked := by unfold Ctx.mark; split_ifs <;> rfl
@[simp] theorem Ctx.mark_own (c : Ctx) (n : Nat) (e : Bool) : (c.mark n e).own = c.own := by unfold Ctx.mark; split_ifs <;> rfl
@[simp] theorem Ctx.mark_trapAt (c : Ctx) (n : Nat) (e : Bool) : (c.mark n e).trapAt = c.trapAt := by unfold Ctx.mark; split_ifs <;> rfl
@[simp] theorem Ctx.mark_wblk (c : Ctx) (n : Nat) (e : Bool) : (c.mark n e).wblk = c.wblk := by unfold Ctx.mark; split_ifs <;> rfl
@[simp] theorem Ctx.mark_landed (c : Ctx) (n : Nat) (e : Bool) : (c.mark n e).landed = c.landed := by unfold Ctx.mark; split_ifs <;> rfl

/-- The loop turn-back changes the pc and the loop slots only (R252). -/
theorem Ctx.loopEnd_eq (c : Ctx) (e : Dword) : c.loopEnd e = { c with pc := (c.loopEnd e).pc, hl0 := (c.loopEnd e).hl0, hl1 := (c.loopEnd e).hl1 } := by
  unfold Ctx.loopEnd
  by_cases h : (c.hl1.active && c.hl1.last == e && decide (1 < c.hl1.count.toNat)) = true
  · simp only [h, if_true]
  · simp only [h, Bool.false_eq_true, if_false]
    split_ifs <;> rfl

/-- Falling through changes the pc, the loop slots, the prefixes and what the context waits on (R227, R252). -/
theorem Ctx.fall_eq (c : Ctx) (w : Nat) : c.fall w =
    { c with st := .running, req := none, wblk := none, pfx := (c.fall w).pfx, pc := (c.fall w).pc, hl0 := (c.fall w).hl0, hl1 := (c.fall w).hl1 } := by
  unfold Ctx.fall
  cases h : c.pfx.rep with
  | none => simp only [h]; rw [Ctx.loopEnd_eq]
  | some r =>
    simp only [h]
    split_ifs
    · rfl
    · rw [Ctx.loopEnd_eq]

@[simp] theorem Ctx.fall_st (c : Ctx) (w : Nat) : (c.fall w).st = .running := by rw [Ctx.fall_eq]
@[simp] theorem Ctx.fall_req (c : Ctx) (w : Nat) : (c.fall w).req = none := by rw [Ctx.fall_eq]
@[simp] theorem Ctx.fall_wblk (c : Ctx) (w : Nat) : (c.fall w).wblk = none := by rw [Ctx.fall_eq]
@[simp] theorem Ctx.fall_s (c : Ctx) (w : Nat) : (c.fall w).s = c.s := by rw [Ctx.fall_eq]
@[simp] theorem Ctx.fall_sE (c : Ctx) (w : Nat) : (c.fall w).sE = c.sE := by rw [Ctx.fall_eq]
@[simp] theorem Ctx.fall_p (c : Ctx) (w : Nat) : (c.fall w).p = c.p := by rw [Ctx.fall_eq]
@[simp] theorem Ctx.fall_pE (c : Ctx) (w : Nat) : (c.fall w).pE = c.pE := by rw [Ctx.fall_eq]
@[simp] theorem Ctx.fall_q (c : Ctx) (w : Nat) : (c.fall w).q = c.q := by rw [Ctx.fall_eq]
@[simp] theorem Ctx.fall_k (c : Ctx) (w : Nat) : (c.fall w).k = c.k := by rw [Ctx.fall_eq]
@[simp] theorem Ctx.fall_iter (c : Ctx) (w : Nat) : (c.fall w).iter = c.iter := by rw [Ctx.fall_eq]
@[simp] theorem Ctx.fall_n (c : Ctx) (w : Nat) : (c.fall w).n = c.n := by rw [Ctx.fall_eq]
@[simp] theorem Ctx.fall_why (c : Ctx) (w : Nat) : (c.fall w).why = c.why := by rw [Ctx.fall_eq]
@[simp] theorem Ctx.fall_preSt (c : Ctx) (w : Nat) : (c.fall w).preSt = c.preSt := by rw [Ctx.fall_eq]
@[simp] theorem Ctx.fall_sys (c : Ctx) (w : Nat) : (c.fall w).sys = c.sys := by rw [Ctx.fall_eq]
@[simp] theorem Ctx.fall_conf (c : Ctx) (w : Nat) : (c.fall w).conf = c.conf := by rw [Ctx.fall_eq]
@[simp] theorem Ctx.fall_genprof (c : Ctx) (w : Nat) : (c.fall w).genprof = c.genprof := by rw [Ctx.fall_eq]
@[simp] theorem Ctx.fall_ovftab (c : Ctx) (w : Nat) : (c.fall w).ovftab = c.ovftab := by rw [Ctx.fall_eq]
@[simp] theorem Ctx.fall_aflags (c : Ctx) (w : Nat) : (c.fall w).aflags = c.aflags := by rw [Ctx.fall_eq]
@[simp] theorem Ctx.fall_wb0 (c : Ctx) (w : Nat) : (c.fall w).wb0 = c.wb0 := by rw [Ctx.fall_eq]
@[simp] theorem Ctx.fall_wb1 (c : Ctx) (w : Nat) : (c.fall w).wb1 = c.wb1 := by rw [Ctx.fall_eq]
@[simp] theorem Ctx.fall_spaceid (c : Ctx) (w : Nat) : (c.fall w).spaceid = c.spaceid := by rw [Ctx.fall_eq]
@[simp] theorem Ctx.fall_tvec (c : Ctx) (w : Nat) : (c.fall w).tvec = c.tvec := by rw [Ctx.fall_eq]
@[simp] theorem Ctx.fall_tpc (c : Ctx) (w : Nat) : (c.fall w).tpc = c.tpc := by rw [Ctx.fall_eq]
@[simp] theorem Ctx.fall_tstat (c : Ctx) (w : Nat) : (c.fall w).tstat = c.tstat := by rw [Ctx.fall_eq]
@[simp] theorem Ctx.fall_tctl (c : Ctx) (w : Nat) : (c.fall w).tctl = c.tctl := by rw [Ctx.fall_eq]
@[simp] theorem Ctx.fall_tscr (c : Ctx) (w : Nat) : (c.fall w).tscr = c.tscr := by rw [Ctx.fall_eq]
@[simp] theorem Ctx.fall_trec (c : Ctx) (w : Nat) : (c.fall w).trec = c.trec := by rw [Ctx.fall_eq]
@[simp] theorem Ctx.fall_v (c : Ctx) (w : Nat) : (c.fall w).v = c.v := by rw [Ctx.fall_eq]
@[simp] theorem Ctx.fall_pend (c : Ctx) (w : Nat) : (c.fall w).pend = c.pend := by rw [Ctx.fall_eq]
@[simp] theorem Ctx.fall_seq (c : Ctx) (w : Nat) : (c.fall w).seq = c.seq := by rw [Ctx.fall_eq]
@[simp] theorem Ctx.fall_traps (c : Ctx) (w : Nat) : (c.fall w).traps = c.traps := by rw [Ctx.fall_eq]
@[simp] theorem Ctx.fall_home (c : Ctx) (w : Nat) : (c.fall w).home = c.home := by rw [Ctx.fall_eq]
@[simp] theorem Ctx.fall_finished (c : Ctx) (w : Nat) : (c.fall w).finished = c.finished := by rw [Ctx.fall_eq]
@[simp] theorem Ctx.fall_atIter (c : Ctx) (w : Nat) : (c.fall w).atIter = c.atIter := by rw [Ctx.fall_eq]
@[simp] theorem Ctx.fall_asked (c : Ctx) (w : Nat) : (c.fall w).asked = c.asked := by rw [Ctx.fall_eq]
@[simp] theorem Ctx.fall_own (c : Ctx) (w : Nat) : (c.fall w).own = c.own := by rw [Ctx.fall_eq]
@[simp] theorem Ctx.fall_trapAt (c : Ctx) (w : Nat) : (c.fall w).trapAt = c.trapAt := by rw [Ctx.fall_eq]
@[simp] theorem Ctx.fall_landed (c : Ctx) (w : Nat) : (c.fall w).landed = c.landed := by rw [Ctx.fall_eq]

@[simp] theorem Ctx.fall_rd (c : Ctx) (w n : Nat) : (c.fall w).rd n = c.rd n := by simp [Ctx.rd]
@[simp] theorem Ctx.fall_rdP (c : Ctx) (w n : Nat) : (c.fall w).rdP n = c.rdP n := by simp [Ctx.rdP]
@[simp] theorem Ctx.fall_full (c : Ctx) (w n : Nat) : (c.fall w).full n = c.full n := by simp [Ctx.full]
@[simp] theorem Ctx.fall_fullP (c : Ctx) (w n : Nat) : (c.fall w).fullP n = c.fullP n := by simp [Ctx.fullP]

/-- Falling through outside a repeat and outside a loop end reaches the next word. -/
theorem Ctx.fall_plain (c : Ctx) (w : Nat) (hr : c.pfx.rep = none) (h0 : c.hl0.active = false) (h1 : c.hl1.active = false) :
    c.fall w = { c with st := .running, req := none, wblk := none, pfx := {}, pc := c.pc + dw (4 * w) } := by
  simp [Ctx.fall, hr, Ctx.loopEnd, h0, h1]

/-! ### Falling through, in the package -/

@[simp] theorem cur_fall (w : Nat) (s : State) : (fall w s).cur = s.cur.fall w := State.cur_setCur _ _
theorem fall_eq (w : Nat) (s : State) : fall w s = s.setCur (s.cur.fall w) := rfl

@[simp] theorem fall_sheds (w : Nat) (s : State) : (fall w s).sheds = s.sheds := rfl
@[simp] theorem fall_dies (w : Nat) (s : State) : (fall w s).dies = s.dies := rfl
@[simp] theorem fall_pens (w : Nat) (s : State) : (fall w s).pens = s.pens := rfl
@[simp] theorem fall_insts (w : Nat) (s : State) : (fall w s).insts = s.insts := rfl
@[simp] theorem fall_nextInst (w : Nat) (s : State) : (fall w s).nextInst = s.nextInst := rfl
@[simp] theorem fall_groups (w : Nat) (s : State) : (fall w s).groups = s.groups := rfl
@[simp] theorem fall_mem (w : Nat) (s : State) : (fall w s).mem = s.mem := rfl
@[simp] theorem fall_bad (w : Nat) (s : State) : (fall w s).bad = s.bad := rfl
@[simp] theorem fall_tlb (w : Nat) (s : State) : (fall w s).tlb = s.tlb := rfl
@[simp] theorem fall_walks (w : Nat) (s : State) : (fall w s).walks = s.walks := rfl
@[simp] theorem fall_slow (w : Nat) (s : State) : (fall w s).slow = s.slow := rfl
@[simp] theorem fall_enc (w : Nat) (s : State) : (fall w s).enc = s.enc := rfl
@[simp] theorem fall_ranges (w : Nat) (s : State) : (fall w s).ranges = s.ranges := rfl
@[simp] theorem fall_net (w : Nat) (s : State) : (fall w s).net = s.net := rfl
@[simp] theorem fall_nextPkt (w : Nat) (s : State) : (fall w s).nextPkt = s.nextPkt := rfl
@[simp] theorem fall_arrs (w : Nat) (s : State) : (fall w s).arrs = s.arrs := rfl
@[simp] theorem fall_fchains (w : Nat) (s : State) : (fall w s).fchains = s.fchains := rfl
@[simp] theorem fall_links (w : Nat) (s : State) : (fall w s).links = s.links := rfl
@[simp] theorem fall_tick (w : Nat) (s : State) : (fall w s).tick = s.tick := rfl
@[simp] theorem fall_fabid (w : Nat) (s : State) : (fall w s).fabid = s.fabid := rfl
@[simp] theorem fall_powered (w : Nat) (s : State) : (fall w s).powered = s.powered := rfl
@[simp] theorem fall_hostLink (w : Nat) (s : State) : (fall w s).hostLink = s.hostLink := rfl
@[simp] theorem fall_firmware (w : Nat) (s : State) : (fall w s).firmware = s.firmware := rfl
@[simp] theorem fall_fabSet (w : Nat) (s : State) : (fall w s).fabSet = s.fabSet := rfl
@[simp] theorem fall_started (w : Nat) (s : State) : (fall w s).started = s.started := rfl
@[simp] theorem fall_overTemp (w : Nat) (s : State) : (fall w s).overTemp = s.overTemp := rfl
@[simp] theorem fall_bcnEnable (w : Nat) (s : State) : (fall w s).bcnEnable = s.bcnEnable := rfl
@[simp] theorem fall_bcnK (w : Nat) (s : State) : (fall w s).bcnK = s.bcnK := rfl
@[simp] theorem fall_bcnPartial (w : Nat) (s : State) : (fall w s).bcnPartial = s.bcnPartial := rfl
@[simp] theorem fall_bcnLast (w : Nat) (s : State) : (fall w s).bcnLast = s.bcnLast := rfl
@[simp] theorem fall_bcnr (w : Nat) (s : State) : (fall w s).bcnr = s.bcnr := rfl
@[simp] theorem fall_staged (w : Nat) (s : State) : (fall w s).staged = s.staged := rfl
@[simp] theorem fall_cutLow (w : Nat) (s : State) : (fall w s).cutLow = s.cutLow := rfl
@[simp] theorem fall_msgs (w : Nat) (s : State) : (fall w s).msgs = s.msgs := rfl
@[simp] theorem fall_hostReads (w : Nat) (s : State) : (fall w s).hostReads = s.hostReads := rfl
@[simp] theorem fall_hostRecs (w : Nat) (s : State) : (fall w s).hostRecs = s.hostRecs := rfl
@[simp] theorem fall_penCfgs (w : Nat) (s : State) : (fall w s).penCfgs = s.penCfgs := rfl
@[simp] theorem fall_images (w : Nat) (s : State) : (fall w s).images = s.images := rfl
@[simp] theorem fall_verdicts (w : Nat) (s : State) : (fall w s).verdicts = s.verdicts := rfl
@[simp] theorem fall_collKept (w : Nat) (s : State) : (fall w s).collKept = s.collKept := rfl
@[simp] theorem fall_flagKept (w : Nat) (s : State) : (fall w s).flagKept = s.flagKept := rfl
@[simp] theorem fall_heldKept (w : Nat) (s : State) : (fall w s).heldKept = s.heldKept := rfl
@[simp] theorem fall_fwVersion (w : Nat) (s : State) : (fall w s).fwVersion = s.fwVersion := rfl
@[simp] theorem fall_fwHash (w : Nat) (s : State) : (fall w s).fwHash = s.fwHash := rfl
@[simp] theorem fall_fwSig (w : Nat) (s : State) : (fall w s).fwSig = s.fwSig := rfl
@[simp] theorem fall_fwImage (w : Nat) (s : State) : (fall w s).fwImage = s.fwImage := rfl
@[simp] theorem fall_fwKey (w : Nat) (s : State) : (fall w s).fwKey = s.fwKey := rfl
@[simp] theorem fall_fwKeyHash (w : Nat) (s : State) : (fall w s).fwKeyHash = s.fwKeyHash := rfl
@[simp] theorem fall_fwRollback (w : Nat) (s : State) : (fall w s).fwRollback = s.fwRollback := rfl
@[simp] theorem fall_agenda (w : Nat) (s : State) : (fall w s).agenda = s.agenda := rfl
@[simp] theorem fall_curCore (w : Nat) (s : State) : (fall w s).curCore = s.curCore := rfl
@[simp] theorem fall_curCtx (w : Nat) (s : State) : (fall w s).curCtx = s.curCtx := rfl
@[simp] theorem fall_free (w : Nat) (s : State) : (fall w s).free = s.free := rfl
@[simp] theorem fall_turns (w : Nat) (s : State) : (fall w s).turns = s.turns := rfl
@[simp] theorem fall_stamp (w : Nat) (s : State) : (fall w s).stamp = s.stamp := rfl

end Sys2Proof.Machine
end

