-- ==== Sys2Proof/Laws/Guard.lean ====
section
/-!
SUPPORT. What the guard of issue comes to: one lemma per verdict, and what each says of the registers, the predicate, the
prefixes and the privilege.
-/
namespace Sys2Proof.Machine

/-- An instruction has its effect exactly when nothing keeps it from it (R92, R93, R213, R230, R332). -/
theorem Ctx.verdict_go (c : Ctx) (n : Need) : c.verdict n = .go ↔
    n.undef = false ∧ c.pfx.legal n = true ∧ c.fullP n.p = true ∧ c.rdP n.p = true ∧ (n.sys = true → c.sys = true) ∧
      (∀ r ∈ n.src, c.full r.1 = true) ∧ (∀ r ∈ n.psrc, r.1 < 8 → c.fullP r.1 = true) ∧
      (∀ r ∈ n.dst, c.full r = true) ∧ ∀ r ∈ n.pdst, c.fullP r = true := by
  unfold Ctx.verdict
  split_ifs with h1 h2 h3 h4 h5 h6 <;> simp only [false_iff, true_iff]
  · intro h; simp_all
  · intro h; simp_all
  · intro h; simp_all
  · intro h; simp_all
  · rintro ⟨-, -, -, -, -, hs, hp, -, -⟩
    simp only [Bool.or_eq_true, List.any_eq_true, Bool.and_eq_true, Bool.not_eq_true', decide_eq_true_eq] at h5
    rcases h5 with ⟨r, hr, -, h⟩ | ⟨r, hr, ⟨-, h8⟩, h⟩
    · simp [hs r hr] at h
    · simp [hp r hr h8] at h
  · rintro ⟨-, -, -, -, -, hs, hp, hd, hq⟩
    simp only [Bool.or_eq_true, List.any_eq_true, Bool.and_eq_true, Bool.not_eq_true', decide_eq_true_eq] at h6
    rcases h6 with ((⟨r, hr, h⟩ | ⟨r, hr, h8, h⟩) | ⟨r, hr, h⟩) | ⟨r, hr, h⟩
    · simp [hs r hr] at h
    · simp [hp r hr h8] at h
    · simp [hd r hr] at h
    · simp [hq r hr] at h
  · simp only [Bool.or_eq_true, List.any_eq_true, Bool.not_eq_true', decide_eq_true_eq, not_or, not_exists, not_and, Bool.and_eq_true,
      Bool.not_eq_false] at h1 h2 h3 h4 h6
    obtain ⟨⟨⟨a, b⟩, d⟩, e⟩ := h6
    exact ⟨by simpa using h1.1, h1.2, by simpa using h2, by simpa using h3, fun hs => by simpa [hs] using h4, a, b, d, e⟩

theorem guard_go {n : Need} {s : State} (k : State → State) (h : s.cur.verdict n = .go) : guard n s k = .next (k s) := by simp [guard, h]
theorem guard_skip {n : Need} {s : State} (k : State → State) (h : s.cur.verdict n = .skip) : guard n s k = .next (fall n.words s) := by
  simp [guard, h]
theorem guard_wait {n : Need} {s : State} (k : State → State) (h : s.cur.verdict n = .wait) : guard n s k = .next (blockCur s) := by
  simp [guard, h]
theorem guard_trap {n : Need} {s : State} {c : Nat} (k : State → State) (h : s.cur.verdict n = .trap c) : guard n s k = .next (trapCur c s) := by
  simp [guard, h]

/-- The guard always answers a next state. -/
theorem guard_next (n : Need) (s : State) (k : State → State) : ∃ t, guard n s k = .next t := by
  unfold guard; split <;> exact ⟨_, rfl⟩

/-- An undefined encoding, or prefixes that the instruction does not take, trap whatever the predicate (R230). -/
theorem Ctx.verdict_undef (c : Ctx) (n : Need) (h : n.undef = true ∨ c.pfx.legal n = false) : c.verdict n = .trap 0x20 := by
  unfold Ctx.verdict; rcases h with h | h <;> simp [h]

/-- A false predicate leaves the instruction without effect (R213). -/
theorem Ctx.verdict_skip (c : Ctx) (n : Need) (hu : n.undef = false) (hl : c.pfx.legal n = true) (hf : c.fullP n.p = true)
    (hp : c.rdP n.p = false) : c.verdict n = .skip := by
  unfold Ctx.verdict; simp [hu, hl, hf, hp]

/-- A privileged instruction in program state traps (R327, R332). -/
theorem Ctx.verdict_priv (c : Ctx) (n : Need) (hu : n.undef = false) (hl : c.pfx.legal n = true) (hf : c.fullP n.p = true)
    (hp : c.rdP n.p = true) (hs : n.sys = true) (hc : c.sys = false) : c.verdict n = .trap 0x31 := by
  unfold Ctx.verdict; simp [hu, hl, hf, hp, hs, hc]

/-! ### Writing a register or a predicate and going on -/

theorem setS_eq (d : Nat) (v : Ctx → Dword) (s : State) : setS d v s = s.setCur ((s.cur.wr d (v s.cur)).fall 1) := by
  simp [setS, fall, State.onCur]

theorem setP_eq (d : Nat) (v : Ctx → Bool) (s : State) : setP d v s = s.setCur ((s.cur.wrP d (v s.cur)).fall 1) := by
  simp [setP, fall, State.onCur]

theorem fall_onCur (w : Nat) (f : Ctx → Ctx) (s : State) : fall w (s.onCur f) = s.setCur ((f s.cur).fall w) := by
  simp [fall, State.onCur]

end Sys2Proof.Machine
end

