-- ==== Sys2Proof/Laws/Images.lean ====
section
/-!
SUPPORT. The operations that move whole ranges of memory (save areas, spec 14 R345, R349) keep its canonical form.
-/
namespace Sys2Proof.Machine

/-- The canonical form, said of neighbours: every byte listed is not zero, and every address is below those after it. -/
theorem wf_iff (m : Mem) : Memory.wf m = true ↔ (∀ c ∈ m, c.2 ≠ 0) ∧ m.Pairwise (fun a b => a.1 < b.1) := by
  induction m with
  | nil => simp [Memory.wf]
  | cons c m ih =>
    obtain ⟨k, b⟩ := c
    constructor
    · intro h
      have ht := ih.1 (wf_tail h)
      refine ⟨fun c hc => ?_, List.pairwise_cons.2 ⟨fun c hc => ?_, ht.2⟩⟩
      · rcases List.mem_cons.1 hc with rfl | hc
        · exact wf_head h
        · exact ht.1 c hc
      · have hl := wf_lt h
        cases m with
        | nil => simp at hc
        | cons d m =>
          have hd := hl d (by simp)
          rcases List.mem_cons.1 hc with rfl | hc
          · exact hd
          · exact lt_trans hd ((List.pairwise_cons.1 ht.2).1 c hc)
    · rintro ⟨h0, hp⟩
      obtain ⟨hp1, hp2⟩ := List.pairwise_cons.1 hp
      refine wf_cons (h0 (k, b) (by simp)) (ih.2 ⟨fun c hc => h0 c (by simp [hc]), hp2⟩) ?_
      intro q hq
      exact hp1 q (List.mem_of_mem_head? hq)

theorem wf_filter (p : Host.Cell → Bool) {m : Mem} (h : Memory.wf m = true) : Memory.wf (m.filter p) = true := by
  rw [wf_iff] at h ⊢
  exact ⟨fun c hc => h.1 c (List.mem_filter.1 hc).1, h.2.filter p⟩
theorem foldl_setByte_wf (f : Host.Cell → Nat) (l : List Host.Cell) {m : Mem} (h : Memory.wf m = true) :
    Memory.wf (l.foldl (fun m c => setByte m (f c) c.2) m) = true := by
  induction l generalizing m with
  | nil => exact h
  | cons c l ih => exact ih (setByte_wf _ _ _ h)
theorem memPut_wf (m : Mem) (a n : Nat) (x : Mem) (h : Memory.wf m = true) : Memory.wf (memPut m a n x) = true :=
  foldl_setByte_wf (fun c => a + c.1) _ (wf_filter _ h)
theorem memCut_mem {m : Mem} {a n : Nat} {c : Host.Cell} : c ∈ memCut m a n ↔ c.1 < n ∧ (c.1 + a, c.2) ∈ m := by
  obtain ⟨k, b⟩ := c
  simp only [memCut, List.mem_map, List.mem_filter, decide_eq_true_eq]
  constructor
  · rintro ⟨⟨j, y⟩, ⟨hj, h1, h2⟩, e⟩
    simp only [Prod.mk.injEq] at e
    obtain ⟨rfl, rfl⟩ := e
    dsimp only at h1 h2 ⊢
    exact ⟨by omega, by rw [Nat.sub_add_cancel h1]; exact hj⟩
  · rintro ⟨h1, h2⟩
    exact ⟨(k + a, b), ⟨h2, by dsimp only at h1 ⊢; omega, by dsimp only at h1 ⊢; omega⟩, by simp⟩
theorem memCut_wf (m : Mem) (a n : Nat) (h : Memory.wf m = true) : Memory.wf (memCut m a n) = true := by
  rw [wf_iff] at h ⊢
  refine ⟨fun c hc => h.1 (c.1 + a, c.2) (memCut_mem.1 hc).2, ?_⟩
  rw [memCut, List.pairwise_map]
  refine (h.2.filter _).imp_of_mem ?_
  intro c d hc _ hlt
  have := (List.mem_filter.1 hc).2
  simp only [decide_eq_true_eq] at this
  dsimp only
  have hd := hlt
  omega
theorem putImage_wf (img : Mem) (l : List (Nat × Nat)) (m : Mem) (off : Nat) (h : Memory.wf m = true) : Memory.wf (putImage img m off l) = true := by
  induction l generalizing m off with
  | nil => exact h
  | cons g l ih => exact ih _ _ (memPut_wf _ _ _ _ h)
theorem getImage_low (m : Mem) (l : List (Nat × Nat)) (off : Nat) : ∀ c ∈ getImage m off l, off ≤ c.1 := by
  induction l generalizing off with
  | nil => simp [getImage]
  | cons g l ih =>
    obtain ⟨pa, n⟩ := g
    intro c hc
    simp only [getImage, List.mem_append, List.mem_map] at hc
    rcases hc with ⟨d, -, rfl⟩ | hc
    · exact Nat.le_add_left _ _
    · exact le_trans (Nat.le_add_right _ _) (ih _ c hc)
theorem getImage_wf (m : Mem) (l : List (Nat × Nat)) (off : Nat) (h : Memory.wf m = true) : Memory.wf (getImage m off l) = true := by
  induction l generalizing off with
  | nil => rfl
  | cons g l ih =>
    obtain ⟨pa, n⟩ := g
    have h1 := (wf_iff _).1 (memCut_wf m pa n h)
    have h2 := (wf_iff _).1 (ih (off + n))
    rw [wf_iff]
    simp only [getImage]
    refine ⟨fun c hc => ?_, List.pairwise_append.2 ⟨?_, h2.2, fun c hc d hd => ?_⟩⟩
    · rcases List.mem_append.1 hc with hc | hc
      · obtain ⟨d, hd, rfl⟩ := List.mem_map.1 hc; exact h1.1 d hd
      · exact h2.1 c hc
    · rw [List.pairwise_map]; exact h1.2.imp (fun hlt => by dsimp only; omega)
    · obtain ⟨e, he, rfl⟩ := List.mem_map.1 hc
      have := (memCut_mem.1 he).1
      have hl := getImage_low m l (off + n) d hd
      dsimp only
      omega

end Sys2Proof.Machine
end

