-- ==== Sys2Proof/Laws/Walk.lean ====
section
/-!
SUPPORT. What recording, tracing and translating can change, said once each as an equation: the state after is the state
before but for the named fields.
-/
namespace Sys2Proof.Machine

/-! ### Trace and records -/

/-- A trace record changes a shed's buffer only (R390). -/
theorem State.traceShed_eq (s : State) (core inst : Nat) (key : Coord) (ord arg kind ctx : Nat) :
    ∃ m, s.traceShed core inst key ord arg kind ctx = { s with sheds := m } := by
  unfold State.traceShed
  cases s.penOf core with
  | none => exact ⟨_, rfl⟩
  | some p => simp only []; split_ifs <;> exact ⟨_, rfl⟩

theorem State.traceCtx_eq (s : State) (core ctx inst : Nat) (key : Coord) (ord arg kind : Nat) :
    ∃ m, s.traceCtx core ctx inst key ord arg kind = { s with sheds := m } := by
  unfold State.traceCtx
  split_ifs
  · exact State.traceShed_eq _ _ _ _ _ _ _ _
  · exact ⟨_, rfl⟩

/-- Writing a record changes its core, and a shed's overflow count (R333). -/
theorem State.writeRec_eq (s : State) (core : Nat) (r : FRec) :
    ∃ c h, (s.writeRec core r).2 = { s with cores := c, sheds := h } := by
  unfold State.writeRec
  simp only []
  generalize (s.core core).appendRec _ = x
  obtain ⟨c, ok⟩ := x
  cases ok <;> exact ⟨_, _, rfl⟩

theorem State.pendTrap_eq (s : State) (core ctx : Nat) (r : FRec) :
    ∃ c h, s.pendTrap core ctx r = { s with cores := c, sheds := h } := by
  obtain ⟨c, h, e⟩ := State.writeRec_eq s core { r with ctx := ctx }
  unfold State.pendTrap
  simp only []
  rw [e]
  exact ⟨_, _, rfl⟩

/-! ### Translation -/

theorem State.markEntry_eq (s : State) (a e : Nat) (w : Bool) : ∃ m, s.markEntry a e w = { s with mem := m } := by
  unfold State.markEntry; simp only []; split_ifs <;> exact ⟨_, rfl⟩

theorem State.cache_eq (s : State) (pen : Nat) (sp : Space) (va e : Nat) : ∃ m, s.cache pen sp va e = { s with tlb := m } := by
  unfold State.cache; simp only []; split_ifs <;> exact ⟨_, rfl⟩

/-- Counting heat changes the heat tables of the dies only (R37, R38). -/
theorem State.heatCount_eq (s : State) (die pen : Nat) (sp : Space) (va e lines : Nat) :
    ∃ m, s.heatCount die pen sp va e lines = { s with dies := m } := by
  unfold State.heatCount
  simp only []
  repeat' split
  all_goals exact ⟨_, rfl⟩

theorem State.heatWarm_eq (s : State) (w : Who) (sp : Space) (l : List Warm) : ∃ m, s.heatWarm w sp l = { s with dies := m } := by
  unfold State.heatWarm
  generalize (l.foldl joinWarm []).filter _ = l
  induction l generalizing s with
  | nil => exact ⟨_, rfl⟩
  | cons x l ih =>
    obtain ⟨m, h⟩ := State.heatCount_eq s w.onDie (s.walkPen w) sp x.va x.leaf x.lines
    rw [List.foldl_cons, h]
    obtain ⟨m', h'⟩ := ih { s with dies := m }
    exact ⟨m', h'⟩

theorem State.heatAll_eq (s : State) (w : Who) (sp : Space) (va : Nat) (x : Xl) : ∃ m, s.heatAll w sp va x = { s with dies := m } :=
  State.heatWarm_eq _ _ _ _

@[simp] theorem State.cache_mem (s : State) (pen : Nat) (sp : Space) (va e : Nat) : (s.cache pen sp va e).mem = s.mem := by
  obtain ⟨d, h⟩ := State.cache_eq s pen sp va e; rw [h]

theorem State.useLeaf_eq (s : State) (sp : Space) (w : Who) (kind : Nat) (home : Bool) (va e level : Nat) (a : Option Nat) :
    ∃ m l, (s.useLeaf sp w kind home va e level a).2 = { s with mem := m, tlb := l } := by
  unfold State.useLeaf
  simp only []
  repeat' split
  all_goals first
    | exact ⟨_, _, rfl⟩
    | (rename_i a
       obtain ⟨m, hm⟩ := State.markEntry_eq s a e (kind == 1 || kind == 2)
       rw [hm]
       obtain ⟨l, hl⟩ := State.cache_eq { s with mem := m } (s.walkPen w) sp va (readLE m a 8)
       exact ⟨_, _, hl⟩)

theorem State.useWalk_eq (s : State) (sp : Space) (w : Who) (kind : Nat) (home : Bool) (va : Nat) (r : WRes) :
    ∃ m l, (s.useWalk sp w kind home va r).2 = { s with mem := m, tlb := l } := by
  cases r with
  | bad c l => exact ⟨_, _, rfl⟩
  | leaf e l a => exact State.useLeaf_eq _ _ _ _ _ _ _ _ _

theorem State.newWalk_eq (s : State) (sp : Space) (w : Who) (kind : Nat) (home : Bool) (va : Nat) :
    ∃ m l k n, (s.newWalk sp w kind home va).2 = { s with mem := m, tlb := l, walks := k, slow := n } := by
  unfold State.newWalk
  split_ifs
  · exact ⟨_, _, _, _, rfl⟩
  · exact ⟨_, _, _, _, rfl⟩
  · obtain ⟨m, l, h⟩ := State.useWalk_eq s sp w kind home va (s.walkOn w.onDie sp va)
    exact ⟨m, l, _, _, h⟩

theorem State.useResult_eq (s : State) (sp : Space) (w : Who) (kind : Nat) (home : Bool) (va : Nat) (k : Walk) :
    ∃ m l ws n, (s.useResult sp w kind home va k).2 = { s with mem := m, tlb := l, walks := ws, slow := n } := by
  have new := State.newWalk_eq s sp w kind home va
  unfold State.useResult
  repeat' split
  all_goals first
    | exact new
    | exact ⟨_, _, _, _, rfl⟩
    | (obtain ⟨m, l, h⟩ := State.useLeaf_eq s sp w kind home va _ _ none; exact ⟨m, l, _, _, h⟩)

theorem State.endWalk_eq (s : State) (k : Walk) : ∃ ws, s.endWalk k = { s with walks := ws } := ⟨_, rfl⟩

theorem State.walkMiss_eq (s : State) (sp : Space) (w : Who) (kind : Nat) (home : Bool) (va : Nat) :
    ∃ m l k n, (s.walkMiss sp w kind home va).2 = { s with mem := m, tlb := l, walks := k, slow := n } := by
  unfold State.walkMiss
  split
  · exact State.newWalk_eq _ _ _ _ _ _
  · rename_i k _
    obtain ⟨ws, e⟩ := State.endWalk_eq s k
    split_ifs
    · exact ⟨_, _, _, _, rfl⟩
    · obtain ⟨m, l, ws', n, h⟩ := State.useResult_eq (s.endWalk k) sp w kind home va k
      rw [h, e]; exact ⟨_, _, _, _, rfl⟩
    · obtain ⟨m, l, h⟩ := State.useWalk_eq (s.endWalk k) sp w kind home va (s.resumeWalk k va)
      rw [h, e]; exact ⟨_, _, _, _, rfl⟩

/-- A translation changes page-table entries in memory, cached translations, walks, and the counter of free values. -/
theorem State.xlatePiece_eq (s : State) (sp : Space) (w : Who) (kind : Nat) (home : Bool) (va : Nat) :
    ∃ m l k n f, (s.xlatePiece sp w kind home va).2 = { s with mem := m, tlb := l, walks := k, slow := n, free := f } := by
  have use := fun (s : State) e level a => State.useLeaf_eq s sp w kind home va e level a
  have miss := fun (s : State) => State.walkMiss_eq s sp w kind home va
  unfold State.xlatePiece
  simp only []
  repeat' split
  all_goals first
    | exact ⟨_, _, _, _, _, rfl⟩
    | (obtain ⟨m, l, k, n, h⟩ := miss _; rw [h]; exact ⟨_, _, _, _, _, rfl⟩)
    | (obtain ⟨m, l, h⟩ := use _ _ _ _; rw [h]; exact ⟨_, _, _, _, _, rfl⟩)

theorem State.xlateAll_eq (sp : Space) (w : Who) (kind : Nat) (home : Bool) (l : List (Nat × Nat)) (s : State) :
    ∃ m t k n f, (s.xlateAll sp w kind home l).2 = { s with mem := m, tlb := t, walks := k, slow := n, free := f } := by
  induction l generalizing s with
  | nil => exact ⟨_, _, _, _, _, rfl⟩
  | cons p l ih =>
    obtain ⟨va, n⟩ := p
    obtain ⟨m, t, k, n1, f, h⟩ := State.xlatePiece_eq s sp w kind home va
    obtain ⟨m2, t2, k2, n2, f2, h2⟩ := ih (s.xlatePiece sp w kind home va).2
    simp only [State.xlateAll]
    split <;> (simp only [h2]; rw [h]; exact ⟨_, _, _, _, _, rfl⟩)

theorem State.xlate_eq (s : State) (sp : Space) (w : Who) (kind : Nat) (home : Bool) (va n : Nat) :
    ∃ m t k j f, (s.xlate sp w kind home va n).2 = { s with mem := m, tlb := t, walks := k, slow := j, free := f } := by
  unfold State.xlate
  simp only []
  split_ifs <;> exact State.xlateAll_eq _ _ _ _ _ _

@[simp] theorem State.xlate_cores (s : State) (sp : Space) (w : Who) (kind : Nat) (home : Bool) (va n : Nat) :
    (s.xlate sp w kind home va n).2.cores = s.cores := by
  obtain ⟨m, t, k, j, f, h⟩ := State.xlate_eq s sp w kind home va n; rw [h]
@[simp] theorem State.xlate_curCore (s : State) (sp : Space) (w : Who) (kind : Nat) (home : Bool) (va n : Nat) :
    (s.xlate sp w kind home va n).2.curCore = s.curCore := by
  obtain ⟨m, t, k, j, f, h⟩ := State.xlate_eq s sp w kind home va n; rw [h]
@[simp] theorem State.xlate_curCtx (s : State) (sp : Space) (w : Who) (kind : Nat) (home : Bool) (va n : Nat) :
    (s.xlate sp w kind home va n).2.curCtx = s.curCtx := by
  obtain ⟨m, t, k, j, f, h⟩ := State.xlate_eq s sp w kind home va n; rw [h]
@[simp] theorem State.xlate_insts (s : State) (sp : Space) (w : Who) (kind : Nat) (home : Bool) (va n : Nat) :
    (s.xlate sp w kind home va n).2.insts = s.insts := by
  obtain ⟨m, t, k, j, f, h⟩ := State.xlate_eq s sp w kind home va n; rw [h]

theorem State.cur_congr {s t : State} (h1 : t.cores = s.cores) (h2 : t.curCore = s.curCore) (h3 : t.curCtx = s.curCtx) : t.cur = s.cur := by
  simp [State.cur, State.ctx, State.core, h1, h2, h3]

@[simp] theorem State.xlate_cur (s : State) (sp : Space) (w : Who) (kind : Nat) (home : Bool) (va n : Nat) :
    (s.xlate sp w kind home va n).2.cur = s.cur := State.cur_congr (by simp) (by simp) (by simp)

@[simp] theorem State.xlate_core (s : State) (sp : Space) (w : Who) (kind : Nat) (home : Bool) (va n i : Nat) :
    (s.xlate sp w kind home va n).2.core i = s.core i := by simp [State.core]

/-- A fetch changes no more than a translation, and counts heat. -/
theorem State.fetchWord_eq (s : State) (core ctx va : Nat) (again : Bool) :
    ∃ m t k n d f, (s.fetchWord core ctx va again).2 = { s with mem := m, tlb := t, walks := k, slow := n, dies := d, free := f } := by
  have hx := State.xlate_eq s (s.ctx core ctx).space (s.whoCtx core ctx (s.ctx core ctx).group.toNat) kFetch false va 4
  unfold State.fetchWord
  dsimp only
  generalize s.xlate (s.ctx core ctx).space (s.whoCtx core ctx (s.ctx core ctx).group.toNat) kFetch false va 4 = r at hx ⊢
  obtain ⟨x, s1⟩ := r
  obtain ⟨m, t, k, n, f, h⟩ := hx
  dsimp only at h ⊢
  have heat := State.heatAll_eq s1 (s1.whoCtx core ctx 0) (s.ctx core ctx).space va x
  generalize s1.heatAll (s1.whoCtx core ctx 0) (s.ctx core ctx).space va x = s2 at heat ⊢
  obtain ⟨d, rfl⟩ := heat
  subst h
  repeat' split
  all_goals exact ⟨_, _, _, _, _, _, rfl⟩

/-! ### Translation keeps memory's canonical form -/

theorem State.markEntry_wf (s : State) (a e : Nat) (w : Bool) (h : Memory.wf s.mem = true) : Memory.wf (s.markEntry a e w).mem = true := by
  unfold State.markEntry
  simp only []
  repeat' split
  all_goals first | exact h | exact writeLE_wf _ _ _ _ h

theorem State.useLeaf_wf (s : State) (sp : Space) (w : Who) (kind : Nat) (home : Bool) (va e level : Nat) (a : Option Nat)
    (h : Memory.wf s.mem = true) : Memory.wf (s.useLeaf sp w kind home va e level a).2.mem = true := by
  unfold State.useLeaf
  simp only []
  repeat' split
  all_goals first | exact h | (rw [State.cache_mem]; exact State.markEntry_wf _ _ _ _ h)

theorem State.useWalk_wf (s : State) (sp : Space) (w : Who) (kind : Nat) (home : Bool) (va : Nat) (r : WRes) (h : Memory.wf s.mem = true) :
    Memory.wf (s.useWalk sp w kind home va r).2.mem = true := by
  cases r with
  | bad c l => exact h
  | leaf e l a => exact State.useLeaf_wf _ _ _ _ _ _ _ _ _ h

theorem State.newWalk_wf (s : State) (sp : Space) (w : Who) (kind : Nat) (home : Bool) (va : Nat) (h : Memory.wf s.mem = true) :
    Memory.wf (s.newWalk sp w kind home va).2.mem = true := by
  unfold State.newWalk
  split_ifs
  · exact h
  · exact h
  · exact State.useWalk_wf _ _ _ _ _ _ _ h

theorem State.useResult_wf (s : State) (sp : Space) (w : Who) (kind : Nat) (home : Bool) (va : Nat) (k : Walk) (h : Memory.wf s.mem = true) :
    Memory.wf (s.useResult sp w kind home va k).2.mem = true := by
  have new := State.newWalk_wf s sp w kind home va h
  unfold State.useResult
  repeat' split
  all_goals first | exact new | exact h | exact State.useLeaf_wf _ _ _ _ _ _ _ _ _ h

theorem State.walkMiss_wf (s : State) (sp : Space) (w : Who) (kind : Nat) (home : Bool) (va : Nat) (h : Memory.wf s.mem = true) :
    Memory.wf (s.walkMiss sp w kind home va).2.mem = true := by
  unfold State.walkMiss
  split
  · exact State.newWalk_wf _ _ _ _ _ _ h
  · split_ifs
    · exact h
    · exact State.useResult_wf _ _ _ _ _ _ _ h
    · exact State.useWalk_wf _ _ _ _ _ _ _ h

theorem State.xlatePiece_wf (s : State) (sp : Space) (w : Who) (kind : Nat) (home : Bool) (va : Nat) (h : Memory.wf s.mem = true) :
    Memory.wf (s.xlatePiece sp w kind home va).2.mem = true := by
  unfold State.xlatePiece
  simp only []
  repeat' split
  all_goals first | exact h | exact State.walkMiss_wf _ _ _ _ _ _ h | exact State.useLeaf_wf _ _ _ _ _ _ _ _ _ h

theorem State.xlateAll_wf (sp : Space) (w : Who) (kind : Nat) (home : Bool) (l : List (Nat × Nat)) (s : State) (h : Memory.wf s.mem = true) :
    Memory.wf (s.xlateAll sp w kind home l).2.mem = true := by
  induction l generalizing s with
  | nil => exact h
  | cons p l ih =>
    obtain ⟨va, n⟩ := p
    simp only [State.xlateAll]
    split <;> exact ih _ (State.xlatePiece_wf _ _ _ _ _ _ h)

theorem State.xlate_wf (s : State) (sp : Space) (w : Who) (kind : Nat) (home : Bool) (va n : Nat) (h : Memory.wf s.mem = true) :
    Memory.wf (s.xlate sp w kind home va n).2.mem = true := by
  unfold State.xlate
  simp only []
  split_ifs <;> exact State.xlateAll_wf _ _ _ _ _ _ h

@[simp] theorem State.heatAll_mem (s : State) (w : Who) (sp : Space) (va : Nat) (x : Xl) : (s.heatAll w sp va x).mem = s.mem := by
  obtain ⟨m, h⟩ := State.heatAll_eq s w sp va x; rw [h]

theorem State.fetchWord_wf (s : State) (core ctx va : Nat) (again : Bool) (h : Memory.wf s.mem = true) :
    Memory.wf (s.fetchWord core ctx va again).2.mem = true := by
  have x := State.xlate_wf s (s.ctx core ctx).space (s.whoCtx core ctx (s.ctx core ctx).group.toNat) kFetch false va 4 h
  unfold State.fetchWord
  dsimp only
  generalize s.xlate (s.ctx core ctx).space (s.whoCtx core ctx (s.ctx core ctx).group.toNat) kFetch false va 4 = r at x ⊢
  obtain ⟨y, s1⟩ := r
  dsimp only at x ⊢
  have heat := State.heatAll_mem s1 (s1.whoCtx core ctx 0) (s.ctx core ctx).space va y
  generalize s1.heatAll (s1.whoCtx core ctx 0) (s.ctx core ctx).space va y = s2 at heat ⊢
  rw [← heat] at x
  have z := heat ▸ x
  repeat' split
  all_goals first | exact h | exact x | exact z

end Sys2Proof.Machine
end

