-- ==== Sys2Proof/Laws/Ops.lean ====
section
/-!
SUPPORT. What the shared operations can do, said once each: gates and counters by cases, traps by what they leave alone, and
that every operation which writes a memory keeps the canonical forms.
-/
namespace Sys2Proof.Machine

/-! ### Gates and counters -/

/-- A raise adds one unit, or finds the gate at its maximum and changes nothing (R98, R100). -/
theorem Core.raiseGate_cases (c : Core) (g : Nat) :
    (c.raiseGate g = (true, c) ∧ gateMax ≤ mget 0 c.gates g) ∨
    (c.raiseGate g = (false, { c with gates := mset c.gates g (mget 0 c.gates g + 1) }) ∧ mget 0 c.gates g < gateMax) := by
  unfold Core.raiseGate
  by_cases h : mget 0 c.gates g ≥ gateMax
  · exact .inl ⟨by simp [h], h⟩
  · exact .inr ⟨by simp [h], by omega⟩

/-- An await takes a unit and waits no more, goes on waiting, or begins to wait (R98, R100). -/
theorem Core.awaitGate_cases (c : Core) (g agent tick : Nat) :
    (c.awaitGate g agent tick = (true, { c.dropWait agent with gates := mset c.gates g (mget 0 c.gates g - 1) }) ∧ 0 < mget 0 c.gates g) ∨
    c.awaitGate g agent tick = (false, c) ∨ c.awaitGate g agent tick = (false, { c with gwait := insertWait (g, agent, tick) c.gwait }) := by
  unfold Core.awaitGate
  simp only []
  split_ifs with h1 h2
  · exact .inl ⟨rfl, by omega⟩
  · exact .inr (.inl rfl)
  · exact .inr (.inr rfl)

/-- A counter is armed exactly when the sum stays in the signed 32-bit range (R102, R104). -/
theorem Core.arm_eq_some {c c' : Core} {b : Nat} {n : Int} : c.arm b n = some c' ↔
    (-2 ^ 31 ≤ n ∧ n < 2 ^ 31 ∧ -2 ^ 31 ≤ mget 0 c.ctrs b + n ∧ mget 0 c.ctrs b + n < 2 ^ 31) ∧ c' = { c with ctrs := mset c.ctrs b (mget 0 c.ctrs b + n) } := by
  unfold Core.arm
  simp only []
  split_ifs with h
  · constructor
    · intro e; cases e
    · rintro ⟨h', -⟩; omega
  · simp only [Option.some.injEq]
    exact ⟨fun e => ⟨by omega, e.symm⟩, fun e => e.2.symm⟩

/-- A delivery subtracts, and stops at the least count (R102, R104). -/
theorem Core.deliver_cases (c : Core) (b n : Nat) :
    (c.deliver b n = (true, { c with ctrs := mset c.ctrs b (-2 ^ 31) }) ∧ mget 0 c.ctrs b - (n : Int) < -2 ^ 31) ∨
    (c.deliver b n = (false, { c with ctrs := mset c.ctrs b (mget 0 c.ctrs b - (n : Int)) }) ∧ -2 ^ 31 ≤ mget 0 c.ctrs b - (n : Int)) := by
  unfold Core.deliver
  by_cases h : mget 0 c.ctrs b - (n : Int) < -2 ^ 31
  · exact .inl ⟨by simp only [h, if_true], h⟩
  · exact .inr ⟨by simp only [h, if_false], by omega⟩

@[simp] theorem Core.raiseGate_sp (c : Core) (g : Nat) : (c.raiseGate g).2.sp = c.sp := by
  unfold Core.raiseGate; dsimp only; split_ifs <;> rfl
@[simp] theorem Core.raiseGate_lanes (c : Core) (g : Nat) : (c.raiseGate g).2.lanes = c.lanes := by
  unfold Core.raiseGate; dsimp only; split_ifs <;> rfl
@[simp] theorem Core.raiseGate_ctxs (c : Core) (g : Nat) : (c.raiseGate g).2.ctxs = c.ctxs := by
  unfold Core.raiseGate; dsimp only; split_ifs <;> rfl
@[simp] theorem Core.awaitGate_sp (c : Core) (g agent tick : Nat) : (c.awaitGate g agent tick).2.sp = c.sp := by
  unfold Core.awaitGate; dsimp only; split_ifs <;> rfl
@[simp] theorem Core.awaitGate_ctxs (c : Core) (g agent tick : Nat) : (c.awaitGate g agent tick).2.ctxs = c.ctxs := by
  unfold Core.awaitGate; dsimp only; split_ifs <;> rfl
@[simp] theorem Core.deliver_sp (c : Core) (b n : Nat) : (c.deliver b n).2.sp = c.sp := by
  rcases c.deliver_cases b n with ⟨h, -⟩ | ⟨h, -⟩ <;> rw [h]
@[simp] theorem Core.deliver_ctxs (c : Core) (b n : Nat) : (c.deliver b n).2.ctxs = c.ctxs := by
  rcases c.deliver_cases b n with ⟨h, -⟩ | ⟨h, -⟩ <;> rw [h]

/-! ### Canonical memories -/

/-- Every memory keeps its canonical form. -/
def State.Canon (s : State) : Prop := s.MemOk ∧ s.LocalOk

theorem State.Canon.congr {s t : State} (h : s.Canon) (h0 : t.mem = s.mem) (h1 : t.cores = s.cores) (h2 : t.sheds = s.sheds) (h3 : t.dies = s.dies) : t.Canon := by
  unfold State.Canon State.MemOk State.LocalOk State.core State.shed State.die at *
  rw [h0, h1, h2, h3]; exact h
theorem State.Canon.setMem {s : State} (h : s.Canon) {m : Mem} (hm : Memory.wf m = true) : ({ s with mem := m } : State).Canon := ⟨hm, h.2⟩
theorem State.Canon.setCore {s : State} (h : s.Canon) (i : Nat) {c : Core} (hc : Memory.wf c.sp = true) (hl : c.lanes = (s.core i).lanes := by rfl) : (s.setCore i c).Canon := by
  refine ⟨h.1, fun j => ?_, h.2.2.1, h.2.2.2⟩
  rw [State.core_setCore]; split_ifs with e
  · exact ⟨hc, by rw [hl]; exact (h.2.1 i).2⟩
  · exact h.2.1 j
theorem State.Canon.setShed {s : State} (h : s.Canon) (i : Nat) {x : Shed} (hx : Memory.wf x.mem = true) : (s.setShed i x).Canon := by
  refine ⟨h.1, h.2.1, fun j => ?_, h.2.2.2⟩
  rw [State.shed_setShed]; split_ifs
  · exact hx
  · exact h.2.2.1 j
theorem State.Canon.setDie {s : State} (h : s.Canon) (i : Nat) {d : Die} (hd : Memory.wf d.csp = true) : (s.setDie i d).Canon := by
  refine ⟨h.1, h.2.1, h.2.2.1, fun j => ?_⟩
  rw [State.die_setDie]; split_ifs
  · exact hd
  · exact h.2.2.2 j
theorem State.Canon.core {s : State} (h : s.Canon) (i : Nat) : Memory.wf (s.core i).sp = true := (h.2.1 i).1
theorem State.Canon.lanes {s : State} (h : s.Canon) (i : Nat) : Memory.wf (s.core i).lanes = true := (h.2.1 i).2
theorem State.Canon.shed {s : State} (h : s.Canon) (i : Nat) : Memory.wf (s.shed i).mem = true := h.2.2.1 i
theorem State.Canon.die {s : State} (h : s.Canon) (i : Nat) : Memory.wf (s.die i).csp = true := h.2.2.2 i
theorem State.Canon.setCtx {s : State} (h : s.Canon) (i x : Nat) (t : Ctx) : (s.setCtx i x t).Canon := h.setCore i (h.core i)
theorem State.Canon.modCtx {s : State} (h : s.Canon) (i x : Nat) (f : Ctx → Ctx) : (s.modCtx i x f).Canon := h.setCtx i x _
theorem State.Canon.setCur {s : State} (h : s.Canon) (t : Ctx) : (s.setCur t).Canon := h.setCtx _ _ _
theorem State.Canon.onCur {s : State} (h : s.Canon) (f : Ctx → Ctx) : (s.onCur f).Canon := h.setCur _
theorem State.Canon.modCore {s : State} (h : s.Canon) (i : Nat) {f : Core → Core} (hf : (f (s.core i)).sp = (s.core i).sp)
    (hl : (f (s.core i)).lanes = (s.core i).lanes := by rfl) : (s.modCore i f).Canon := h.setCore i (by rw [hf]; exact h.core i) hl
theorem State.Canon.fall {s : State} (h : s.Canon) (w : Nat) : (fall w s).Canon := h.setCur _
theorem State.Canon.blockCur {s : State} (h : s.Canon) : (blockCur s).Canon := h.setCur _
theorem State.Canon.holdCur {s : State} (h : s.Canon) : (holdCur s).Canon := h.setCur _

/-- A write of a space, of one piece and of several (R12). -/
theorem State.Canon.wrSpc {s : State} (h : s.Canon) (core spc a n x : Nat) : (s.wrSpc core spc a n x).Canon := by
  unfold State.wrSpc
  split
  · exact h.setCore core (writeLE_wf _ _ _ _ (h.core core))
  · exact h.setShed _ (writeLE_wf _ _ _ _ (h.shed _))
  · exact h.setDie _ (writeLE_wf _ _ _ _ (h.die _))
  · exact h.setMem (writeLE_wf _ _ _ _ h.1)
theorem State.Canon.wrSegs {s : State} (h : s.Canon) (core spc : Nat) (l : List (Nat × Nat)) (x : Nat) : (s.wrSegs core spc l x).Canon := by
  induction l generalizing s x with
  | nil => exact h
  | cons g l ih => exact ih (h.wrSpc core spc g.1 g.2 _) _
theorem State.Canon.clearBad {s : State} (h : s.Canon) (l : List (Nat × Nat)) : (s.clearBad l).Canon := h.congr rfl rfl rfl rfl
theorem State.Canon.untouched {s : State} (h : s.Canon) (t : State) : (s.untouched t).Canon := h.congr rfl rfl rfl rfl
theorem State.Canon.modInst {s : State} (h : s.Canon) (n : Nat) (f : Inst → Inst) : (s.modInst n f).Canon := h.congr rfl rfl rfl rfl
/-- A shadow entry's line as it was before (R76, R153). -/
theorem State.Canon.restoreLine {s : State} (h : s.Canon) (pen : Nat) (e : Shadow) : (s.restoreLine pen e).Canon := by
  unfold State.restoreLine
  simp only []
  split
  · refine h.setShed _ ?_; dsimp only; exact writeLE_wf _ _ _ _ (h.shed _)
  · refine h.setDie _ ?_; dsimp only; exact writeLE_wf _ _ _ _ (h.die _)
  · exact (h.setMem (writeLE_wf 64 _ e.pre s.mem h.1)).clearBad _
/-- An entry taken for a line (R77, R149). -/
theorem State.Canon.logLine {s t : State} (h : s.Canon) {core spc inst a : Nat} {k : Coord} (e : s.logLine core spc inst k a = .ok t) : t.Canon := by
  have hc : ∀ c : Core, Grant.ok (s.setCore core c) = .ok t → c.sp = (s.core core).sp → c.lanes = (s.core core).lanes → t.Canon := by
    rintro c ⟨⟩ hc hl; exact h.setCore core (by rw [hc]; exact h.core core) hl
  have hs : Grant.ok s = .ok t → t.Canon := by rintro ⟨⟩; exact h
  unfold State.logLine at e
  generalize shadowLine core spc a = w at e
  dsimp only at e
  split at e
  · exact hs e
  · split at e
    · exact hs e
    · split_ifs at e
      · exact hs e
      · exact hc _ e rfl rfl
      · exact hc _ e rfl rfl
      · split at e
        · cases e
        · exact hc _ e rfl rfl
theorem State.Canon.logAll {s t : State} (h : s.Canon) {core spc inst : Nat} {k : Coord} {l : List Nat} (e : s.logAll core spc inst k l = .ok t) : t.Canon := by
  induction l generalizing s with
  | nil => cases e; exact h
  | cons a l ih =>
    unfold State.logAll at e
    split at e
    · rename_i s1 h1; exact ih (h.logLine h1) e
    · rename_i g hg; exact absurd e (hg t)
theorem State.Canon.logWrite {s t : State} (h : s.Canon) {core ctx spc inst : Nat} {k : Coord} {l : List (Nat × Nat)}
    (e : s.logWrite core ctx spc inst k l = .ok t) : t.Canon := by
  unfold State.logWrite at e
  split_ifs at e
  · cases e; exact h
  · exact h.logAll e
theorem State.Canon.commit {s : State} (h : s.Canon) (core ctx : Nat) (k : Coord) : (s.commit core ctx k).Canon := by
  unfold State.commit; split_ifs
  · exact h
  · exact h.modCore _ rfl

/-! ### Records and traps -/

theorem Core.appendRec_wf (c : Core) (image : Nat) (h : Memory.wf c.sp = true) : Memory.wf (c.appendRec image).1.sp = true := by
  unfold Core.appendRec; split_ifs
  · dsimp only; exact writeLE_wf _ _ _ _ h
  · exact h
@[simp] theorem Core.appendRec_lanes (c : Core) (image : Nat) : (c.appendRec image).1.lanes = c.lanes := by
  unfold Core.appendRec; split_ifs <;> rfl
theorem State.Canon.writeRec {s : State} (h : s.Canon) (core : Nat) (r : FRec) : (s.writeRec core r).2.Canon := by
  unfold State.writeRec
  simp only []
  split_ifs
  · exact h.setCore core ((s.core core).appendRec_wf _ (h.core core)) ((s.core core).appendRec_lanes _)
  · have h1 := h.setCore core (c := { ((s.core core).appendRec { r with seq := (s.core core).recSeq, tick := s.tick, core := core }.image).1 with
      recSeq := ((s.core core).recSeq + 1) % 256 }) ((s.core core).appendRec_wf _ (h.core core)) ((s.core core).appendRec_lanes _)
    exact h1.setShed _ (h1.shed _)
theorem State.Canon.pendTrap {s : State} (h : s.Canon) (core ctx : Nat) (r : FRec) : (s.pendTrap core ctx r).Canon := (h.writeRec core _).modCtx _ _ _
theorem State.Canon.recordOnly {s : State} (h : s.Canon) (core ctx : Nat) (r : FRec) : (s.recordOnly core ctx r).Canon := h.writeRec core _
@[simp] theorem Shed.pushTrace_mem (h : Shed) (f : Nat → Nat) : (h.pushTrace f).mem = h.mem := by unfold Shed.pushTrace; split_ifs <;> rfl
theorem State.Canon.traceShed {s : State} (h : s.Canon) (core inst : Nat) (key : Coord) (ord arg kind ctx : Nat) : (s.traceShed core inst key ord arg kind ctx).Canon := by
  unfold State.traceShed
  split
  · exact h
  · simp only []
    split_ifs
    · exact h
    · exact h.setShed _ (by rw [Shed.pushTrace_mem]; exact h.shed _)
theorem State.Canon.traceCtx {s : State} (h : s.Canon) (core ctx inst : Nat) (key : Coord) (ord arg kind : Nat) : (s.traceCtx core ctx inst key ord arg kind).Canon := by
  unfold State.traceCtx; split_ifs
  · exact h.traceShed _ _ _ _ _ _ _
  · exact h
theorem State.Canon.toHost {s : State} (h : s.Canon) (core image : Nat) (conf : Bool) : (s.toHost core image conf).Canon := h.congr rfl rfl rfl rfl
theorem State.Canon.takeTrap {s : State} (h : s.Canon) (core ctx cls image : Nat) (double : Bool) (tpc : Dword) (pst : CtxSt) :
    (s.takeTrap core ctx cls image double tpc pst).Canon := by
  unfold State.takeTrap
  simp only []
  have h1 := (h.traceCtx core ctx (image / 2 ^ 224 % 2 ^ 32) (Coord.ofNat (image / 2 ^ 128)) 0xFFFF cls 4).modCore core (f := fun k => k.dropWait ctx) rfl
  split_ifs
  · exact (h1.setCtx core ctx _).modCore core (Core.raiseGate_sp _ _) (Core.raiseGate_lanes _ _)
  · exact (h1.setCtx core ctx _).modCore core (Core.raiseGate_sp _ _) (Core.raiseGate_lanes _ _)
  · exact (h1.setCtx core ctx _).toHost _ _ _
  · exact h1.setCtx core ctx _
theorem State.Canon.ownTrap {s : State} (h : s.Canon) (core ctx : Nat) (r : FRec) (tpc : Dword) (pst : CtxSt) : (s.ownTrap core ctx r tpc pst).Canon := by
  unfold State.ownTrap; exact ((h.writeRec core _).modCtx core ctx _).takeTrap _ _ _ _ _ _ _
theorem State.Canon.trapCur {s : State} (h : s.Canon) (cls : Nat) : (trapCur cls s).Canon := h.ownTrap _ _ _ _ _
theorem State.Canon.trapAccess {s : State} (h : s.Canon) (kind va n : Nat) (f : Flt) : (trapAccess kind va n f s).Canon := h.ownTrap _ _ _ _ _

/-- An instruction keeps the canonical forms when its effect does. -/
theorem State.Canon.guard {s t : State} (h : s.Canon) {n : Need} {k : State → State} (hk : (k s).Canon) (e : guard n s k = .next t) : t.Canon := by
  unfold Machine.guard at e
  split at e <;> cases e
  · exact hk
  · exact h.fall _
  · exact h.blockCur
  · exact h.trapCur _

/-- Taking a trap changes one context, its core's gates and waits, a shed's trace buffer, and what the host is sent (R333). -/
theorem State.takeTrap_eq (s : State) (core ctx cls image : Nat) (double : Bool) (tpc : Dword) (pst : CtxSt) :
    ∃ c h m r, s.takeTrap core ctx cls image double tpc pst = { s with cores := c, sheds := h, msgs := m, hostRecs := r } := by
  unfold State.takeTrap
  simp only []
  obtain ⟨m, e⟩ := s.traceCtx_eq core ctx (image / 2 ^ 224 % 2 ^ 32) (Coord.ofNat (image / 2 ^ 128)) 0xFFFF cls 4
  rw [e]
  split_ifs <;> exact ⟨_, _, _, _, rfl⟩
@[simp] theorem State.takeTrap_mem (s : State) (core ctx cls image : Nat) (double : Bool) (tpc : Dword) (pst : CtxSt) :
    (s.takeTrap core ctx cls image double tpc pst).mem = s.mem := by
  obtain ⟨c, h, m, r, e⟩ := s.takeTrap_eq core ctx cls image double tpc pst; rw [e]
@[simp] theorem State.ownTrap_mem (s : State) (core ctx : Nat) (r : FRec) (tpc : Dword) (pst : CtxSt) : (s.ownTrap core ctx r tpc pst).mem = s.mem := by
  unfold State.ownTrap
  simp only [State.takeTrap_mem, State.modCtx_mem]
  obtain ⟨c, h, e⟩ := s.writeRec_eq core _
  rw [e]
@[simp] theorem trapCur_mem (cls : Nat) (s : State) : (trapCur cls s).mem = s.mem := State.ownTrap_mem _ _ _ _ _ _

/-! ### Appending a command -/

theorem Core.append_wf (c : Core) (e ctx tick : Nat) (entry : List Nat) (h : Memory.wf c.sp = true) : Memory.wf (c.append e ctx tick entry).sp = true := by
  unfold Core.append; dsimp only; exact writeLE_wf _ _ _ _ h
theorem State.Canon.appendCur {s : State} (h : s.Canon) (e cmd : Nat) (t : Tail) (a b c : Nat) (ret : Option Nat) : (appendCur e cmd t a b c ret s).Canon := by
  unfold Machine.appendCur
  simp only []
  split
  · exact h.trapCur _
  · split_ifs
    · exact h.trapCur _
    · exact h.blockCur
    · have h1 : (s.modCore s.curCore (·.append e s.curCtx s.tick (ringEntry cmd (tailWord t) a b c ‹Nat› ‹Coord› s.curCtx))).Canon :=
        h.setCore _ (Core.append_wf _ _ _ _ _ (h.core _))
      split
      · exact (h1.onCur _).fall 2
      · exact h1.fall 2

/-! ### Translating, and issuing an access -/

theorem State.Canon.heatCount {s : State} (h : s.Canon) (die pen : Nat) (sp : Space) (va e lines : Nat) : (s.heatCount die pen sp va e lines).Canon := by
  have hd : ∀ d : Die, d.csp = (s.die die).csp → (s.setDie die d).Canon := fun d e => h.setDie die (by rw [e]; exact h.die die)
  unfold State.heatCount
  dsimp only
  repeat' split
  all_goals first | exact h | exact hd _ rfl
theorem State.Canon.cache {s : State} (h : s.Canon) (pen : Nat) (sp : Space) (va e : Nat) : (s.cache pen sp va e).Canon := by
  obtain ⟨m, e⟩ := s.cache_eq pen sp va e; rw [e]; exact h.congr rfl rfl rfl rfl
theorem State.Canon.markEntry {s : State} (h : s.Canon) (a e : Nat) (w : Bool) : (s.markEntry a e w).Canon := by
  obtain ⟨m, hm⟩ := s.markEntry_eq a e w
  have := s.markEntry_wf a e w h.1
  rw [hm] at this ⊢; exact h.setMem this
theorem State.Canon.xlate {s : State} (h : s.Canon) (sp : Space) (w : Who) (kind : Nat) (home : Bool) (va n : Nat) : (s.xlate sp w kind home va n).2.Canon := by
  have hm := s.xlate_wf sp w kind home va n h.1
  obtain ⟨m, t, k, j, f, e⟩ := s.xlate_eq sp w kind home va n
  rw [e] at hm ⊢
  exact (h.setMem hm).congr rfl rfl rfl rfl
theorem State.Canon.heatAll {s : State} (h : s.Canon) (w : Who) (sp : Space) (va : Nat) (x : Xl) : (s.heatAll w sp va x).Canon := by
  unfold State.heatAll State.heatWarm
  generalize (List.foldl joinWarm [] _).filter _ = l
  induction l generalizing s with
  | nil => exact h
  | cons p l ih => exact ih (h.heatCount _ _ _ _ _ _)
theorem State.Canon.purity {s : State} (h : s.Canon) (w : Who) (sp : Space) (how : Pure) (kind va n : Nat) (ps : List (Nat × Nat × Nat)) :
    (s.purity w sp how kind va n ps).Canon := by
  unfold State.purity
  split
  · exact h
  · rename_i i _
    dsimp only
    split
    · exact h
    · generalize hs : (if (how == .load && i.watch.any (fun r => overlaps va n r.1 r.2)) = true then
        s.modInst w.inst (fun i => { i with watched := true }) else s) = s1
      have h1 : s1.Canon := by
        rw [← hs]; split
        · exact h.modInst _ _
        · exact h
      split
      · refine State.Canon.recordOnly (State.Canon.modInst ?_ _ _) _ _ _
        split
        · exact h1.setShed _ (h1.shed _)
        · exact h1
      · exact h1
/-- A local access waits, ends in a trap, or stands in the list of the context that goes on (R255). -/
theorem State.Canon.localCur {s : State} (h : s.Canon) (kind spc va n : Nat) (a : Acc) : (localCur kind spc va n a s).Canon := by
  unfold Machine.localCur
  split
  · exact h.trapAccess _ _ _ _
  · dsimp only
    split
    · exact h.blockCur
    · exact (h.onCur _).fall 1
/-- So does a global one, or its context parks or is held. -/
theorem State.Canon.globalCur {s : State} (h : s.Canon) (kind : Nat) (home held : Bool) (how : Pure) (va n : Nat) (a : Acc) :
    (globalCur kind home held how va n a s).Canon := by
  have hx := h.xlate s.cur.space s.whoAcc kind home va n
  unfold Machine.globalCur
  dsimp only
  split
  · exact h.blockCur
  split
  · exact hx.blockCur
  split
  · exact hx.trapAccess _ _ _ _
  · exact (h.untouched _).trapAccess _ _ _ _
  · exact (hx.onCur _).blockCur
  · split
    · exact hx.fall 1
    · exact hx.holdCur
    · exact (((hx.heatAll _ _ _ _).purity _ _ _ _ _ _ _).onCur _).fall 1
theorem State.Canon.accessCur {s : State} (h : s.Canon) (write : Bool) (spc va n : Nat) (a : Acc) : (accessCur write spc va n a s).Canon := by
  unfold Machine.accessCur
  dsimp only
  split
  · exact h.globalCur _ _ _ _ _ _ _
  · exact h.localCur _ _ _ _ _

end Sys2Proof.Machine
end

