-- ==== Sys2Proof/Laws/PerInstr.lean ====
section
/-!
SUPPORT. One lemma for each instruction: its words are 32-bit numbers (R212, R221).
-/
namespace Sys2Proof

/-- What is packed from fields of 32 bits in all is a 32-bit number. -/
theorem pack_lt (l : List ((n : Nat) × BitVec n)) : pack l < 2 ^ (l.map (fun x => x.1)).sum := by
  induction l with
  | nil => simp [pack]
  | cons x l ih =>
    obtain ⟨n, x⟩ := x
    simp only [pack, List.map_cons, List.sum_cons, pow_add]
    have hx := x.isLt
    calc x.toNat + 2 ^ n * pack l < 2 ^ n + 2 ^ n * pack l := by omega
      _ = 2 ^ n * (pack l + 1) := by ring
      _ ≤ _ := Nat.mul_le_mul_left _ ih

/-- Fields of 32 bits in all. -/
theorem pack32 {l : List ((n : Nat) × BitVec n)} (h : (l.map (fun x => x.1)).sum = 32) : pack l < 2 ^ 32 := h ▸ pack_lt l

/-- A tail is a 32-bit number (R222). -/
theorem tail32 (t : Tail) : encTail t < 2 ^ 32 := pack32 rfl

/-- No second word, and no word at all. -/
theorem zero32 : 0 < 2 ^ 32 := by decide

namespace Laws.Sizes

/-- The words of the instruction are 32-bit numbers. -/
def Statement (i : Instr) : Prop := (encode i).1 < 2 ^ 32 ∧ (encode i).2 < 2 ^ 32

theorem add (f : FR) : Statement (.add f) := ⟨pack32 rfl, zero32⟩
theorem sub (f : FR) : Statement (.sub f) := ⟨pack32 rfl, zero32⟩
theorem mul (f : FR) : Statement (.mul f) := ⟨pack32 rfl, zero32⟩
theorem mulh (f : FR) : Statement (.mulh f) := ⟨pack32 rfl, zero32⟩
theorem mulhu (f : FR) : Statement (.mulhu f) := ⟨pack32 rfl, zero32⟩
theorem div (f : FR) : Statement (.div f) := ⟨pack32 rfl, zero32⟩
theorem divu (f : FR) : Statement (.divu f) := ⟨pack32 rfl, zero32⟩
theorem rem (f : FR) : Statement (.rem f) := ⟨pack32 rfl, zero32⟩
theorem remu (f : FR) : Statement (.remu f) := ⟨pack32 rfl, zero32⟩
theorem and (f : FR) : Statement (.and f) := ⟨pack32 rfl, zero32⟩
theorem or (f : FR) : Statement (.or f) := ⟨pack32 rfl, zero32⟩
theorem xor (f : FR) : Statement (.xor f) := ⟨pack32 rfl, zero32⟩
theorem andn (f : FR) : Statement (.andn f) := ⟨pack32 rfl, zero32⟩
theorem shl (f : FR) : Statement (.shl f) := ⟨pack32 rfl, zero32⟩
theorem shr (f : FR) : Statement (.shr f) := ⟨pack32 rfl, zero32⟩
theorem sra (f : FR) : Statement (.sra f) := ⟨pack32 rfl, zero32⟩
theorem rotr (f : FR) : Statement (.rotr f) := ⟨pack32 rfl, zero32⟩
theorem min (f : FR) : Statement (.min f) := ⟨pack32 rfl, zero32⟩
theorem max (f : FR) : Statement (.max f) := ⟨pack32 rfl, zero32⟩
theorem minu (f : FR) : Statement (.minu f) := ⟨pack32 rfl, zero32⟩
theorem maxu (f : FR) : Statement (.maxu f) := ⟨pack32 rfl, zero32⟩
theorem adds (f : FR) : Statement (.adds f) := ⟨pack32 rfl, zero32⟩
theorem subs (f : FR) : Statement (.subs f) := ⟨pack32 rfl, zero32⟩
theorem addsu (f : FR) : Statement (.addsu f) := ⟨pack32 rfl, zero32⟩
theorem subsu (f : FR) : Statement (.subsu f) := ⟨pack32 rfl, zero32⟩
theorem addImm (f : FI) : Statement (.addImm f) := ⟨pack32 rfl, zero32⟩
theorem mulImm (f : FI) : Statement (.mulImm f) := ⟨pack32 rfl, zero32⟩
theorem andImm (f : FI) : Statement (.andImm f) := ⟨pack32 rfl, zero32⟩
theorem orImm (f : FI) : Statement (.orImm f) := ⟨pack32 rfl, zero32⟩
theorem xorImm (f : FI) : Statement (.xorImm f) := ⟨pack32 rfl, zero32⟩
theorem shlImm (f : FSh) : Statement (.shlImm f) := ⟨pack32 rfl, zero32⟩
theorem shrImm (f : FSh) : Statement (.shrImm f) := ⟨pack32 rfl, zero32⟩
theorem sraImm (f : FSh) : Statement (.sraImm f) := ⟨pack32 rfl, zero32⟩
theorem rotrImm (f : FSh) : Statement (.rotrImm f) := ⟨pack32 rfl, zero32⟩
theorem movK (f : FK) : Statement (.movK f) := ⟨pack32 rfl, zero32⟩
theorem wpos (f : FD) : Statement (.wpos f) := ⟨pack32 rfl, zero32⟩
theorem wnum (f : FD) : Statement (.wnum f) := ⟨pack32 rfl, zero32⟩
theorem cmp (f : FC) : Statement (.cmp f) := ⟨pack32 rfl, zero32⟩
theorem cmpImm (f : FCI) : Statement (.cmpImm f) := ⟨pack32 rfl, zero32⟩
theorem pand (f : FP) : Statement (.pand f) := ⟨pack32 rfl, zero32⟩
theorem por (f : FP) : Statement (.por f) := ⟨pack32 rfl, zero32⟩
theorem pxor (f : FP) : Statement (.pxor f) := ⟨pack32 rfl, zero32⟩
theorem pandn (f : FP) : Statement (.pandn f) := ⟨pack32 rfl, zero32⟩
theorem pnor (f : FP) : Statement (.pnor f) := ⟨pack32 rfl, zero32⟩
theorem pnand (f : FP) : Statement (.pnand f) := ⟨pack32 rfl, zero32⟩
theorem pmov (f : FP1) : Statement (.pmov f) := ⟨pack32 rfl, zero32⟩
theorem pnot (f : FP1) : Statement (.pnot f) := ⟨pack32 rfl, zero32⟩
theorem extract (f : FI) : Statement (.extract f) := ⟨pack32 rfl, zero32⟩
theorem insert (f : FI) : Statement (.insert f) := ⟨pack32 rfl, zero32⟩
theorem popc (f : FU) : Statement (.popc f) := ⟨pack32 rfl, zero32⟩
theorem clz (f : FU) : Statement (.clz f) := ⟨pack32 rfl, zero32⟩
theorem ctz (f : FU) : Statement (.ctz f) := ⟨pack32 rfl, zero32⟩
theorem brev (f : FU) : Statement (.brev f) := ⟨pack32 rfl, zero32⟩
theorem bswap (f : FU) : Statement (.bswap f) := ⟨pack32 rfl, zero32⟩
theorem br (f : FB) : Statement (.br f) := ⟨pack32 rfl, zero32⟩
theorem call (f : FB) : Statement (.call f) := ⟨pack32 rfl, zero32⟩
theorem jmp (f : FJ) : Statement (.jmp f) := ⟨pack32 rfl, zero32⟩
theorem callr (f : FJ) : Statement (.callr f) := ⟨pack32 rfl, zero32⟩
theorem loop (f : FLoop) : Statement (.loop f) := ⟨pack32 rfl, zero32⟩
theorem lend (f : FN0) : Statement (.lend f) := ⟨pack32 rfl, zero32⟩
theorem iter (f : FB) : Statement (.iter f) := ⟨pack32 rfl, zero32⟩
theorem rep (f : FRep) : Statement (.rep f) := ⟨pack32 rfl, zero32⟩
theorem xim (f : FXim) : Statement (.xim f) := ⟨pack32 rfl, zero32⟩
theorem spt (f : FSpt) : Statement (.spt f) := ⟨pack32 rfl, zero32⟩
theorem gwait (f : FG) : Statement (.gwait f) := ⟨pack32 rfl, zero32⟩
theorem graise (f : FG) : Statement (.graise f) := ⟨pack32 rfl, zero32⟩
theorem gread (f : FGD) : Statement (.gread f) := ⟨pack32 rfl, zero32⟩
theorem barmImm (f : FBarmI) : Statement (.barmImm f) := ⟨pack32 rfl, zero32⟩
theorem barm (f : FBarm) : Statement (.barm f) := ⟨pack32 rfl, zero32⟩
theorem bwait (f : FBw) : Statement (.bwait f) := ⟨pack32 rfl, zero32⟩
theorem bread (f : FBr) : Statement (.bread f) := ⟨pack32 rfl, zero32⟩
theorem join (f : FJ) : Statement (.join f) := ⟨pack32 rfl, zero32⟩
theorem leave (f : FJ) : Statement (.leave f) := ⟨pack32 rfl, zero32⟩
theorem arrive (f : FU) : Statement (.arrive f) := ⟨pack32 rfl, zero32⟩
theorem wait (f : FAB) : Statement (.wait f) := ⟨pack32 rfl, zero32⟩
theorem push (f : FPush) : Statement (.push f) := ⟨pack32 rfl, zero32⟩
theorem pop (f : FPop) : Statement (.pop f) := ⟨pack32 rfl, zero32⟩
theorem pushTry (f : FPushT) : Statement (.pushTry f) := ⟨pack32 rfl, zero32⟩
theorem popTry (f : FPopT) : Statement (.popTry f) := ⟨pack32 rfl, zero32⟩
theorem launch (f : FU) : Statement (.launch f) := ⟨pack32 rfl, zero32⟩
theorem chainLd (f : FChL) : Statement (.chainLd f) := ⟨pack32 rfl, zero32⟩
theorem chainAdd (f : FChA) : Statement (.chainAdd f) := ⟨pack32 rfl, zero32⟩
theorem chainSwap (f : FChA) : Statement (.chainSwap f) := ⟨pack32 rfl, zero32⟩
theorem wwaitSeen (f : FWw) : Statement (.wwaitSeen f) := ⟨pack32 rfl, zero32⟩
theorem wwaitLand (f : FWw) : Statement (.wwaitLand f) := ⟨pack32 rfl, zero32⟩
theorem wreadSent (f : FWr) : Statement (.wreadSent f) := ⟨pack32 rfl, zero32⟩
theorem wreadSeen (f : FWr) : Statement (.wreadSeen f) := ⟨pack32 rfl, zero32⟩
theorem wreadLand (f : FWr) : Statement (.wreadLand f) := ⟨pack32 rfl, zero32⟩
theorem ldGlb (f : FM) : Statement (.ldGlb f) := ⟨pack32 rfl, zero32⟩
theorem ldSp (f : FM) : Statement (.ldSp f) := ⟨pack32 rfl, zero32⟩
theorem ldSh (f : FM) : Statement (.ldSh f) := ⟨pack32 rfl, zero32⟩
theorem ldChip (f : FM) : Statement (.ldChip f) := ⟨pack32 rfl, zero32⟩
theorem stGlb (f : FM) : Statement (.stGlb f) := ⟨pack32 rfl, zero32⟩
theorem stSp (f : FM) : Statement (.stSp f) := ⟨pack32 rfl, zero32⟩
theorem stSh (f : FM) : Statement (.stSh f) := ⟨pack32 rfl, zero32⟩
theorem stChip (f : FM) : Statement (.stChip f) := ⟨pack32 rfl, zero32⟩
theorem ldAcq (f : FMO) : Statement (.ldAcq f) := ⟨pack32 rfl, zero32⟩
theorem stRel (f : FMO) : Statement (.stRel f) := ⟨pack32 rfl, zero32⟩
theorem fence (f : FFence) : Statement (.fence f) := ⟨pack32 rfl, zero32⟩
theorem mark (f : FN0) : Statement (.mark f) := ⟨pack32 rfl, zero32⟩
theorem amoAdd (f : FA) : Statement (.amoAdd f) := ⟨pack32 rfl, zero32⟩
theorem amoAnd (f : FA) : Statement (.amoAnd f) := ⟨pack32 rfl, zero32⟩
theorem amoOr (f : FA) : Statement (.amoOr f) := ⟨pack32 rfl, zero32⟩
theorem amoXor (f : FA) : Statement (.amoXor f) := ⟨pack32 rfl, zero32⟩
theorem amoMin (f : FA) : Statement (.amoMin f) := ⟨pack32 rfl, zero32⟩
theorem amoMax (f : FA) : Statement (.amoMax f) := ⟨pack32 rfl, zero32⟩
theorem amoMinu (f : FA) : Statement (.amoMinu f) := ⟨pack32 rfl, zero32⟩
theorem amoMaxu (f : FA) : Statement (.amoMaxu f) := ⟨pack32 rfl, zero32⟩
theorem amoSwap (f : FA) : Statement (.amoSwap f) := ⟨pack32 rfl, zero32⟩
theorem amoCas (f : FA) : Statement (.amoCas f) := ⟨pack32 rfl, zero32⟩
theorem redAdd (f : FRed) : Statement (.redAdd f) := ⟨pack32 rfl, zero32⟩
theorem redAnd (f : FRed) : Statement (.redAnd f) := ⟨pack32 rfl, zero32⟩
theorem redOr (f : FRed) : Statement (.redOr f) := ⟨pack32 rfl, zero32⟩
theorem redXor (f : FRed) : Statement (.redXor f) := ⟨pack32 rfl, zero32⟩
theorem redMin (f : FRed) : Statement (.redMin f) := ⟨pack32 rfl, zero32⟩
theorem redMax (f : FRed) : Statement (.redMax f) := ⟨pack32 rfl, zero32⟩
theorem redMinu (f : FRed) : Statement (.redMinu f) := ⟨pack32 rfl, zero32⟩
theorem redMaxu (f : FRed) : Statement (.redMaxu f) := ⟨pack32 rfl, zero32⟩
theorem fld (f : FU) : Statement (.fld f) := ⟨pack32 rfl, zero32⟩
theorem fldTake (f : FU) : Statement (.fldTake f) := ⟨pack32 rfl, zero32⟩
theorem ffill (f : FAB) : Statement (.ffill f) := ⟨pack32 rfl, zero32⟩
theorem xsumAdd (f : FXa) : Statement (.xsumAdd f) := ⟨pack32 rfl, zero32⟩
theorem xsumMerge (f : FXm) : Statement (.xsumMerge f) := ⟨pack32 rfl, zero32⟩
theorem xsumRead (f : FXr) : Statement (.xsumRead f) := ⟨pack32 rfl, zero32⟩
theorem xsumReadClr (f : FXr) : Statement (.xsumReadClr f) := ⟨pack32 rfl, zero32⟩
theorem mfsr (f : FMf) : Statement (.mfsr f) := ⟨pack32 rfl, zero32⟩
theorem mtsr (f : FMt) : Statement (.mtsr f) := ⟨pack32 rfl, zero32⟩
theorem setovf (f : FJ) : Statement (.setovf f) := ⟨pack32 rfl, zero32⟩
theorem trap (f : FTrap) : Statement (.trap f) := ⟨pack32 rfl, zero32⟩
theorem tret (f : FN0) : Statement (.tret f) := ⟨pack32 rfl, zero32⟩
theorem stop (f : FStop) : Statement (.stop f) := ⟨pack32 rfl, zero32⟩
theorem tinvalPg (f : FAB) : Statement (.tinvalPg f) := ⟨pack32 rfl, zero32⟩
theorem tinvalSp (f : FB1) : Statement (.tinvalSp f) := ⟨pack32 rfl, zero32⟩
theorem tinvalAll (f : FN0) : Statement (.tinvalAll f) := ⟨pack32 rfl, zero32⟩
theorem rfinv (f : FAB) : Statement (.rfinv f) := ⟨pack32 rfl, zero32⟩
theorem rfclr (f : FN0) : Statement (.rfclr f) := ⟨pack32 rfl, zero32⟩
theorem cpre (f : FU) : Statement (.cpre f) := ⟨pack32 rfl, zero32⟩
theorem cres (f : FJ) : Statement (.cres f) := ⟨pack32 rfl, zero32⟩
theorem cresume (f : FCr) : Statement (.cresume f) := ⟨pack32 rfl, zero32⟩
theorem vld (f : FES) (t : Tail) : Statement (.vld f t) := ⟨pack32 rfl, tail32 _⟩
theorem vst (f : FES) (t : Tail) : Statement (.vst f t) := ⟨pack32 rfl, tail32 _⟩
theorem vldStr (f : FES) (t : Tail) : Statement (.vldStr f t) := ⟨pack32 rfl, tail32 _⟩
theorem vstStr (f : FES) (t : Tail) : Statement (.vstStr f t) := ⟨pack32 rfl, tail32 _⟩
theorem vldl (f : FES) (t : Tail) : Statement (.vldl f t) := ⟨pack32 rfl, tail32 _⟩
theorem vstl (f : FES) (t : Tail) : Statement (.vstl f t) := ⟨pack32 rfl, tail32 _⟩
theorem vldlX (f : FES) (t : Tail) : Statement (.vldlX f t) := ⟨pack32 rfl, tail32 _⟩
theorem vstlX (f : FES) (t : Tail) : Statement (.vstlX f t) := ⟨pack32 rfl, tail32 _⟩
theorem vgather (f : FES) (t : Tail) : Statement (.vgather f t) := ⟨pack32 rfl, tail32 _⟩
theorem vscatter (f : FES) (t : Tail) : Statement (.vscatter f t) := ⟨pack32 rfl, tail32 _⟩
theorem vamoAdd (ret : BitVec 1) (f : FES) (t : Tail) : Statement (.vamoAdd ret f t) := ⟨pack32 rfl, tail32 _⟩
theorem vamoMin (ret : BitVec 1) (f : FES) (t : Tail) : Statement (.vamoMin ret f t) := ⟨pack32 rfl, tail32 _⟩
theorem vamoMax (ret : BitVec 1) (f : FES) (t : Tail) : Statement (.vamoMax ret f t) := ⟨pack32 rfl, tail32 _⟩
theorem vamoAnd (ret : BitVec 1) (f : FES) (t : Tail) : Statement (.vamoAnd ret f t) := ⟨pack32 rfl, tail32 _⟩
theorem vamoOr (ret : BitVec 1) (f : FES) (t : Tail) : Statement (.vamoOr ret f t) := ⟨pack32 rfl, tail32 _⟩
theorem vamoXor (ret : BitVec 1) (f : FES) (t : Tail) : Statement (.vamoXor ret f t) := ⟨pack32 rfl, tail32 _⟩
theorem vamoSwap (ret : BitVec 1) (f : FES) (t : Tail) : Statement (.vamoSwap ret f t) := ⟨pack32 rfl, tail32 _⟩
theorem vamoXsum (ret : BitVec 1) (f : FES) (t : Tail) : Statement (.vamoXsum ret f t) := ⟨pack32 rfl, tail32 _⟩
theorem vadd (f : FEV) (t : Tail) : Statement (.vadd f t) := ⟨pack32 rfl, tail32 _⟩
theorem vsub (f : FEV) (t : Tail) : Statement (.vsub f t) := ⟨pack32 rfl, tail32 _⟩
theorem vadds (f : FEV) (t : Tail) : Statement (.vadds f t) := ⟨pack32 rfl, tail32 _⟩
theorem vsubs (f : FEV) (t : Tail) : Statement (.vsubs f t) := ⟨pack32 rfl, tail32 _⟩
theorem vmul (f : FEV) (t : Tail) : Statement (.vmul f t) := ⟨pack32 rfl, tail32 _⟩
theorem vmulh (f : FEV) (t : Tail) : Statement (.vmulh f t) := ⟨pack32 rfl, tail32 _⟩
theorem vmin (f : FEV) (t : Tail) : Statement (.vmin f t) := ⟨pack32 rfl, tail32 _⟩
theorem vmax (f : FEV) (t : Tail) : Statement (.vmax f t) := ⟨pack32 rfl, tail32 _⟩
theorem vand (f : FEV) (t : Tail) : Statement (.vand f t) := ⟨pack32 rfl, tail32 _⟩
theorem vor (f : FEV) (t : Tail) : Statement (.vor f t) := ⟨pack32 rfl, tail32 _⟩
theorem vxor (f : FEV) (t : Tail) : Statement (.vxor f t) := ⟨pack32 rfl, tail32 _⟩
theorem vandn (f : FEV) (t : Tail) : Statement (.vandn f t) := ⟨pack32 rfl, tail32 _⟩
theorem vabs (f : FEV) (t : Tail) : Statement (.vabs f t) := ⟨pack32 rfl, tail32 _⟩
theorem vneg (f : FEV) (t : Tail) : Statement (.vneg f t) := ⟨pack32 rfl, tail32 _⟩
theorem vavg (f : FEV) (t : Tail) : Statement (.vavg f t) := ⟨pack32 rfl, tail32 _⟩
theorem vabsd (f : FEV) (t : Tail) : Statement (.vabsd f t) := ⟨pack32 rfl, tail32 _⟩
theorem vaddS (f : FES) (t : Tail) : Statement (.vaddS f t) := ⟨pack32 rfl, tail32 _⟩
theorem vsubS (f : FES) (t : Tail) : Statement (.vsubS f t) := ⟨pack32 rfl, tail32 _⟩
theorem vaddsS (f : FES) (t : Tail) : Statement (.vaddsS f t) := ⟨pack32 rfl, tail32 _⟩
theorem vsubsS (f : FES) (t : Tail) : Statement (.vsubsS f t) := ⟨pack32 rfl, tail32 _⟩
theorem vmulS (f : FES) (t : Tail) : Statement (.vmulS f t) := ⟨pack32 rfl, tail32 _⟩
theorem vmulhS (f : FES) (t : Tail) : Statement (.vmulhS f t) := ⟨pack32 rfl, tail32 _⟩
theorem vminS (f : FES) (t : Tail) : Statement (.vminS f t) := ⟨pack32 rfl, tail32 _⟩
theorem vmaxS (f : FES) (t : Tail) : Statement (.vmaxS f t) := ⟨pack32 rfl, tail32 _⟩
theorem vandS (f : FES) (t : Tail) : Statement (.vandS f t) := ⟨pack32 rfl, tail32 _⟩
theorem vorS (f : FES) (t : Tail) : Statement (.vorS f t) := ⟨pack32 rfl, tail32 _⟩
theorem vxorS (f : FES) (t : Tail) : Statement (.vxorS f t) := ⟨pack32 rfl, tail32 _⟩
theorem vandnS (f : FES) (t : Tail) : Statement (.vandnS f t) := ⟨pack32 rfl, tail32 _⟩
theorem vavgS (f : FES) (t : Tail) : Statement (.vavgS f t) := ⟨pack32 rfl, tail32 _⟩
theorem vabsdS (f : FES) (t : Tail) : Statement (.vabsdS f t) := ⟨pack32 rfl, tail32 _⟩
theorem vfadd (f : FEV) (t : Tail) : Statement (.vfadd f t) := ⟨pack32 rfl, tail32 _⟩
theorem vfsub (f : FEV) (t : Tail) : Statement (.vfsub f t) := ⟨pack32 rfl, tail32 _⟩
theorem vfmul (f : FEV) (t : Tail) : Statement (.vfmul f t) := ⟨pack32 rfl, tail32 _⟩
theorem vfdiv (f : FEV) (t : Tail) : Statement (.vfdiv f t) := ⟨pack32 rfl, tail32 _⟩
theorem vfmin (f : FEV) (t : Tail) : Statement (.vfmin f t) := ⟨pack32 rfl, tail32 _⟩
theorem vfmax (f : FEV) (t : Tail) : Statement (.vfmax f t) := ⟨pack32 rfl, tail32 _⟩
theorem vfabs (f : FEV) (t : Tail) : Statement (.vfabs f t) := ⟨pack32 rfl, tail32 _⟩
theorem vfneg (f : FEV) (t : Tail) : Statement (.vfneg f t) := ⟨pack32 rfl, tail32 _⟩
theorem vfaddS (f : FES) (t : Tail) : Statement (.vfaddS f t) := ⟨pack32 rfl, tail32 _⟩
theorem vfsubS (f : FES) (t : Tail) : Statement (.vfsubS f t) := ⟨pack32 rfl, tail32 _⟩
theorem vfmulS (f : FES) (t : Tail) : Statement (.vfmulS f t) := ⟨pack32 rfl, tail32 _⟩
theorem vfdivS (f : FES) (t : Tail) : Statement (.vfdivS f t) := ⟨pack32 rfl, tail32 _⟩
theorem vfminS (f : FES) (t : Tail) : Statement (.vfminS f t) := ⟨pack32 rfl, tail32 _⟩
theorem vfmaxS (f : FES) (t : Tail) : Statement (.vfmaxS f t) := ⟨pack32 rfl, tail32 _⟩
theorem vfma (f : FEV) (t : Tail) : Statement (.vfma f t) := ⟨pack32 rfl, tail32 _⟩
theorem vfms (f : FEV) (t : Tail) : Statement (.vfms f t) := ⟨pack32 rfl, tail32 _⟩
theorem vfnma (f : FEV) (t : Tail) : Statement (.vfnma f t) := ⟨pack32 rfl, tail32 _⟩
theorem vfnms (f : FEV) (t : Tail) : Statement (.vfnms f t) := ⟨pack32 rfl, tail32 _⟩
theorem vmac (f : FEV) (t : Tail) : Statement (.vmac f t) := ⟨pack32 rfl, tail32 _⟩
theorem vmacs (f : FEV) (t : Tail) : Statement (.vmacs f t) := ⟨pack32 rfl, tail32 _⟩
theorem vcmpEq (f : FEV) (t : Tail) : Statement (.vcmpEq f t) := ⟨pack32 rfl, tail32 _⟩
theorem vcmpNe (f : FEV) (t : Tail) : Statement (.vcmpNe f t) := ⟨pack32 rfl, tail32 _⟩
theorem vcmpLt (f : FEV) (t : Tail) : Statement (.vcmpLt f t) := ⟨pack32 rfl, tail32 _⟩
theorem vcmpLe (f : FEV) (t : Tail) : Statement (.vcmpLe f t) := ⟨pack32 rfl, tail32 _⟩
theorem vcmpGt (f : FEV) (t : Tail) : Statement (.vcmpGt f t) := ⟨pack32 rfl, tail32 _⟩
theorem vcmpGe (f : FEV) (t : Tail) : Statement (.vcmpGe f t) := ⟨pack32 rfl, tail32 _⟩
theorem vcmpUn (f : FEV) (t : Tail) : Statement (.vcmpUn f t) := ⟨pack32 rfl, tail32 _⟩
theorem vsel (f : FEV) (t : Tail) : Statement (.vsel f t) := ⟨pack32 rfl, tail32 _⟩
theorem vshl (f : FEV) (t : Tail) : Statement (.vshl f t) := ⟨pack32 rfl, tail32 _⟩
theorem vshr (f : FEV) (t : Tail) : Statement (.vshr f t) := ⟨pack32 rfl, tail32 _⟩
theorem vsra (f : FEV) (t : Tail) : Statement (.vsra f t) := ⟨pack32 rfl, tail32 _⟩
theorem vrotr (f : FEV) (t : Tail) : Statement (.vrotr f t) := ⟨pack32 rfl, tail32 _⟩
theorem vshlImm (f : FEV) (t : Tail) : Statement (.vshlImm f t) := ⟨pack32 rfl, tail32 _⟩
theorem vshrImm (f : FEV) (t : Tail) : Statement (.vshrImm f t) := ⟨pack32 rfl, tail32 _⟩
theorem vsraImm (f : FEV) (t : Tail) : Statement (.vsraImm f t) := ⟨pack32 rfl, tail32 _⟩
theorem vrotrImm (f : FEV) (t : Tail) : Statement (.vrotrImm f t) := ⟨pack32 rfl, tail32 _⟩
theorem vcvt (f : FEV) (t : Tail) : Statement (.vcvt f t) := ⟨pack32 rfl, tail32 _⟩
theorem vcvtWrap (f : FEV) (t : Tail) : Statement (.vcvtWrap f t) := ⟨pack32 rfl, tail32 _⟩
theorem vwiden (f : FEV) (t : Tail) : Statement (.vwiden f t) := ⟨pack32 rfl, tail32 _⟩
theorem vnarrow (f : FEV) (t : Tail) : Statement (.vnarrow f t) := ⟨pack32 rfl, tail32 _⟩
theorem vnarrowWrap (f : FEV) (t : Tail) : Statement (.vnarrowWrap f t) := ⟨pack32 rfl, tail32 _⟩
theorem vrsum (f : FEV) (t : Tail) : Statement (.vrsum f t) := ⟨pack32 rfl, tail32 _⟩
theorem vrmin (f : FEV) (t : Tail) : Statement (.vrmin f t) := ⟨pack32 rfl, tail32 _⟩
theorem vrmax (f : FEV) (t : Tail) : Statement (.vrmax f t) := ⟨pack32 rfl, tail32 _⟩
theorem vrand (f : FEV) (t : Tail) : Statement (.vrand f t) := ⟨pack32 rfl, tail32 _⟩
theorem vror (f : FEV) (t : Tail) : Statement (.vror f t) := ⟨pack32 rfl, tail32 _⟩
theorem vrxor (f : FEV) (t : Tail) : Statement (.vrxor f t) := ⟨pack32 rfl, tail32 _⟩
theorem vscanSum (f : FEV) (t : Tail) : Statement (.vscanSum f t) := ⟨pack32 rfl, tail32 _⟩
theorem vscanMin (f : FEV) (t : Tail) : Statement (.vscanMin f t) := ⟨pack32 rfl, tail32 _⟩
theorem vscanMax (f : FEV) (t : Tail) : Statement (.vscanMax f t) := ⟨pack32 rfl, tail32 _⟩
theorem vperm (f : FEV) (t : Tail) : Statement (.vperm f t) := ⟨pack32 rfl, tail32 _⟩
theorem vzipLo (f : FEV) (t : Tail) : Statement (.vzipLo f t) := ⟨pack32 rfl, tail32 _⟩
theorem vzipHi (f : FEV) (t : Tail) : Statement (.vzipHi f t) := ⟨pack32 rfl, tail32 _⟩
theorem vunzipEv (f : FEV) (t : Tail) : Statement (.vunzipEv f t) := ⟨pack32 rfl, tail32 _⟩
theorem vunzipOd (f : FEV) (t : Tail) : Statement (.vunzipOd f t) := ⟨pack32 rfl, tail32 _⟩
theorem vrev (f : FEV) (t : Tail) : Statement (.vrev f t) := ⟨pack32 rfl, tail32 _⟩
theorem vbcast (f : FEV) (t : Tail) : Statement (.vbcast f t) := ⟨pack32 rfl, tail32 _⟩
theorem vtrd (f : FET) (t : Tail) : Statement (.vtrd f t) := ⟨pack32 rfl, tail32 _⟩
theorem vtwr (f : FET) (t : Tail) : Statement (.vtwr f t) := ⟨pack32 rfl, tail32 _⟩
theorem vtacc (f : FET) (t : Tail) : Statement (.vtacc f t) := ⟨pack32 rfl, tail32 _⟩
theorem vexp2 (f : FEV) (t : Tail) : Statement (.vexp2 f t) := ⟨pack32 rfl, tail32 _⟩
theorem vlog2 (f : FEV) (t : Tail) : Statement (.vlog2 f t) := ⟨pack32 rfl, tail32 _⟩
theorem vrcp (f : FEV) (t : Tail) : Statement (.vrcp f t) := ⟨pack32 rfl, tail32 _⟩
theorem vrsqrt (f : FEV) (t : Tail) : Statement (.vrsqrt f t) := ⟨pack32 rfl, tail32 _⟩
theorem vsqrt (f : FEV) (t : Tail) : Statement (.vsqrt f t) := ⟨pack32 rfl, tail32 _⟩
theorem vsinpi (f : FEV) (t : Tail) : Statement (.vsinpi f t) := ⟨pack32 rfl, tail32 _⟩
theorem vcospi (f : FEV) (t : Tail) : Statement (.vcospi f t) := ⟨pack32 rfl, tail32 _⟩
theorem vtanh (f : FEV) (t : Tail) : Statement (.vtanh f t) := ⟨pack32 rfl, tail32 _⟩
theorem vsigm (f : FEV) (t : Tail) : Statement (.vsigm f t) := ⟨pack32 rfl, tail32 _⟩
theorem vexp (f : FEV) (t : Tail) : Statement (.vexp f t) := ⟨pack32 rfl, tail32 _⟩
theorem vlog (f : FEV) (t : Tail) : Statement (.vlog f t) := ⟨pack32 rfl, tail32 _⟩
theorem mma (fmtb : BitVec 4) (f : FES) (t : Tail) : Statement (.mma fmtb f t) := ⟨pack32 rfl, tail32 _⟩
theorem mmas (fmtb : BitVec 4) (f : FES) (t : Tail) : Statement (.mmas fmtb f t) := ⟨pack32 rfl, tail32 _⟩
theorem tld (f : FES) (t : Tail) : Statement (.tld f t) := ⟨pack32 rfl, tail32 _⟩
theorem tst (f : FES) (t : Tail) : Statement (.tst f t) := ⟨pack32 rfl, tail32 _⟩
theorem tzero (f : FES) (t : Tail) : Statement (.tzero f t) := ⟨pack32 rfl, tail32 _⟩
theorem spub (f : FES) (t : Tail) : Statement (.spub f t) := ⟨pack32 rfl, tail32 _⟩
theorem ssub (f : FES) (t : Tail) : Statement (.ssub f t) := ⟨pack32 rfl, tail32 _⟩
theorem sunsub (f : FES) (t : Tail) : Statement (.sunsub f t) := ⟨pack32 rfl, tail32 _⟩
theorem copy (f : FES) (t : Tail) : Statement (.copy f t) := ⟨pack32 rfl, tail32 _⟩
theorem copySt (f : FES) (t : Tail) : Statement (.copySt f t) := ⟨pack32 rfl, tail32 _⟩
theorem mcast (f : FES) (t : Tail) : Statement (.mcast f t) := ⟨pack32 rfl, tail32 _⟩
theorem fill (f : FES) (t : Tail) : Statement (.fill f t) := ⟨pack32 rfl, tail32 _⟩
theorem cvcopy (f : FES) (t : Tail) : Statement (.cvcopy f t) := ⟨pack32 rfl, tail32 _⟩
theorem wtgt (f : FES) (t : Tail) : Statement (.wtgt f t) := ⟨pack32 rfl, tail32 _⟩
theorem wini (f : FES) (t : Tail) : Statement (.wini f t) := ⟨pack32 rfl, tail32 _⟩
theorem wclose (f : FES) (t : Tail) : Statement (.wclose f t) := ⟨pack32 rfl, tail32 _⟩
theorem put (f : FES) (t : Tail) : Statement (.put f t) := ⟨pack32 rfl, tail32 _⟩
theorem get (f : FES) (t : Tail) : Statement (.get f t) := ⟨pack32 rfl, tail32 _⟩
theorem ramoAdd (f : FES) (t : Tail) : Statement (.ramoAdd f t) := ⟨pack32 rfl, tail32 _⟩
theorem ramoAnd (f : FES) (t : Tail) : Statement (.ramoAnd f t) := ⟨pack32 rfl, tail32 _⟩
theorem ramoOr (f : FES) (t : Tail) : Statement (.ramoOr f t) := ⟨pack32 rfl, tail32 _⟩
theorem ramoXor (f : FES) (t : Tail) : Statement (.ramoXor f t) := ⟨pack32 rfl, tail32 _⟩
theorem ramoMin (f : FES) (t : Tail) : Statement (.ramoMin f t) := ⟨pack32 rfl, tail32 _⟩
theorem ramoMax (f : FES) (t : Tail) : Statement (.ramoMax f t) := ⟨pack32 rfl, tail32 _⟩
theorem ramoMinu (f : FES) (t : Tail) : Statement (.ramoMinu f t) := ⟨pack32 rfl, tail32 _⟩
theorem ramoMaxu (f : FES) (t : Tail) : Statement (.ramoMaxu f t) := ⟨pack32 rfl, tail32 _⟩
theorem ramoSwap (f : FES) (t : Tail) : Statement (.ramoSwap f t) := ⟨pack32 rfl, tail32 _⟩
theorem fchain (f : FES) (t : Tail) : Statement (.fchain f t) := ⟨pack32 rfl, tail32 _⟩
theorem collSum (ty : BitVec 2) (f : FES) (t : Tail) : Statement (.collSum ty f t) := ⟨pack32 rfl, tail32 _⟩
theorem collMin (ty : BitVec 2) (f : FES) (t : Tail) : Statement (.collMin ty f t) := ⟨pack32 rfl, tail32 _⟩
theorem collMax (ty : BitVec 2) (f : FES) (t : Tail) : Statement (.collMax ty f t) := ⟨pack32 rfl, tail32 _⟩
theorem queueRefill (shed q : Nat) : Statement (.queueRefill shed q) := ⟨zero32, zero32⟩
theorem queueWithdrawal (core ctx : Nat) : Statement (.queueWithdrawal core ctx) := ⟨zero32, zero32⟩
theorem chainStep (id : Nat) : Statement (.chainStep id) := ⟨zero32, zero32⟩
theorem engineCommandStart (core eng : Nat) : Statement (.engineCommandStart core eng) := ⟨zero32, zero32⟩
theorem engineCommandComplete (core eng : Nat) : Statement (.engineCommandComplete core eng) := ⟨zero32, zero32⟩
theorem multicastDestComplete (core dest : Nat) : Statement (.multicastDestComplete core dest) := ⟨zero32, zero32⟩
theorem resultArrival (core ctx seq : Nat) : Statement (.resultArrival core ctx seq) := ⟨zero32, zero32⟩
theorem pageWalk (core ctx va kind : Nat) : Statement (.pageWalk core ctx va kind) := ⟨zero32, zero32⟩
theorem heatNotificationAppend (die pen : Nat) : Statement (.heatNotificationAppend die pen) := ⟨zero32, zero32⟩
theorem writerRetry (core agent : Nat) : Statement (.writerRetry core agent) := ⟨zero32, zero32⟩
theorem writeBlockTimeout (core agent : Nat) : Statement (.writeBlockTimeout core agent) := ⟨zero32, zero32⟩
theorem homeSliceOperation (core ctx seq : Nat) : Statement (.homeSliceOperation core ctx seq) := ⟨zero32, zero32⟩
theorem futureReissue (core ctx seq : Nat) : Statement (.futureReissue core ctx seq) := ⟨zero32, zero32⟩
theorem futureWithdrawal (core ctx seq : Nat) : Statement (.futureWithdrawal core ctx seq) := ⟨zero32, zero32⟩
theorem patrolScrub (line : Nat) : Statement (.patrolScrub line) := ⟨zero32, zero32⟩
theorem stepRetire (core : Nat) : Statement (.stepRetire core) := ⟨zero32, zero32⟩
theorem stopArrival (core : Nat) : Statement (.stopArrival core) := ⟨zero32, zero32⟩
theorem cutDecision (pen : Nat) : Statement (.cutDecision pen) := ⟨zero32, zero32⟩
theorem cutHalt (core : Nat) : Statement (.cutHalt core) := ⟨zero32, zero32⟩
theorem cutreqWrite (pen value : Nat) : Statement (.cutreqWrite pen value) := ⟨zero32, zero32⟩
theorem trapEntry (core ctx : Nat) : Statement (.trapEntry core ctx) := ⟨zero32, zero32⟩
theorem genprofWrite (core ctx value : Nat) : Statement (.genprofWrite core ctx value) := ⟨zero32, zero32⟩
theorem rewindWrite (core value : Nat) : Statement (.rewindWrite core value) := ⟨zero32, zero32⟩
theorem ringRegisterWrite (core eng value : Nat) : Statement (.ringRegisterWrite core eng value) := ⟨zero32, zero32⟩
theorem hqctlWrite (shed q value : Nat) : Statement (.hqctlWrite shed q value) := ⟨zero32, zero32⟩
theorem heatclrWrite (die pen value : Nat) : Statement (.heatclrWrite die pen value) := ⟨zero32, zero32⟩
theorem launchAccept (pen : Nat) : Statement (.launchAccept pen) := ⟨zero32, zero32⟩
theorem stepSelect (pen : Nat) : Statement (.stepSelect pen) := ⟨zero32, zero32⟩
theorem coreBind (core : Nat) : Statement (.coreBind core) := ⟨zero32, zero32⟩
theorem instanceComplete (pen opinst : Nat) : Statement (.instanceComplete pen opinst) := ⟨zero32, zero32⟩
theorem priorityAgeing (pen opinst : Nat) : Statement (.priorityAgeing pen opinst) := ⟨zero32, zero32⟩
theorem priosetWrite (pen value : Nat) : Statement (.priosetWrite pen value) := ⟨zero32, zero32⟩
theorem priorityPreempt (core : Nat) : Statement (.priorityPreempt core) := ⟨zero32, zero32⟩
theorem preemptLanding (core ctx : Nat) : Statement (.preemptLanding core ctx) := ⟨zero32, zero32⟩
theorem distributorRestore (core area : Nat) : Statement (.distributorRestore core area) := ⟨zero32, zero32⟩
theorem penctlEnable (pen value : Nat) : Statement (.penctlEnable pen value) := ⟨zero32, zero32⟩
theorem penctlResume (pen value : Nat) : Statement (.penctlResume pen value) := ⟨zero32, zero32⟩
theorem penctlAbandon (pen value : Nat) : Statement (.penctlAbandon pen value) := ⟨zero32, zero32⟩
theorem lqctlWrite (pen q value : Nat) : Statement (.lqctlWrite pen q value) := ⟨zero32, zero32⟩
theorem c3startWrite (core value : Nat) : Statement (.c3startWrite core value) := ⟨zero32, zero32⟩
theorem bcnctlWrite (value : Nat) : Statement (.bcnctlWrite value) := ⟨zero32, zero32⟩
theorem beacon : Statement (.beacon) := ⟨zero32, zero32⟩
theorem traceDrain (die : Nat) : Statement (.traceDrain die) := ⟨zero32, zero32⟩
theorem shedPowerGate (shed : Nat) : Statement (.shedPowerGate shed) := ⟨zero32, zero32⟩
theorem traceDrainTimeout (shed : Nat) : Statement (.traceDrainTimeout shed) := ⟨zero32, zero32⟩
theorem lostRecordWrite (die : Nat) : Statement (.lostRecordWrite die) := ⟨zero32, zero32⟩
theorem brkctlGo (pen value : Nat) : Statement (.brkctlGo pen value) := ⟨zero32, zero32⟩
theorem brkctlEnable (pen value : Nat) : Statement (.brkctlEnable pen value) := ⟨zero32, zero32⟩
theorem regWriteLowHalf (master addr value : Nat) : Statement (.regWriteLowHalf master addr value) := ⟨zero32, zero32⟩
theorem regWriteHighHalf (master addr value : Nat) : Statement (.regWriteHighHalf master addr value) := ⟨zero32, zero32⟩
theorem registerWrite (master addr value : Nat) : Statement (.registerWrite master addr value) := ⟨zero32, zero32⟩
theorem hostWrite (addr len value : Nat) : Statement (.hostWrite addr len value) := ⟨zero32, zero32⟩
theorem hostRead (addr len : Nat) : Statement (.hostRead addr len) := ⟨zero32, zero32⟩
theorem hostProcessorWrite (addr len value : Nat) : Statement (.hostProcessorWrite addr len value) := ⟨zero32, zero32⟩
theorem putArrival (pkt : Nat) : Statement (.putArrival pkt) := ⟨zero32, zero32⟩
theorem putAckArrival (pkt : Nat) : Statement (.putAckArrival pkt) := ⟨zero32, zero32⟩
theorem getRequestArrival (pkt : Nat) : Statement (.getRequestArrival pkt) := ⟨zero32, zero32⟩
theorem getReplyArrival (pkt : Nat) : Statement (.getReplyArrival pkt) := ⟨zero32, zero32⟩
theorem remoteAtomicArrival (pkt : Nat) : Statement (.remoteAtomicArrival pkt) := ⟨zero32, zero32⟩
theorem fabricRefusal (pkt : Nat) : Statement (.fabricRefusal pkt) := ⟨zero32, zero32⟩
theorem spanningGroupMessage (pkt : Nat) : Statement (.spanningGroupMessage pkt) := ⟨zero32, zero32⟩
theorem flitCrcRetry (link : Nat) : Statement (.flitCrcRetry link) := ⟨zero32, zero32⟩
theorem linkOutOfService (link : Nat) : Statement (.linkOutOfService link) := ⟨zero32, zero32⟩
theorem linkRetrain (link : Nat) : Statement (.linkRetrain link) := ⟨zero32, zero32⟩
theorem penConfigure (pen : Nat) : Statement (.penConfigure pen) := ⟨zero32, zero32⟩
theorem accessTableWrite (target master slot value : Nat) : Statement (.accessTableWrite target master slot value) := ⟨zero32, zero32⟩
theorem fabidWrite (value : Nat) : Statement (.fabidWrite value) := ⟨zero32, zero32⟩
theorem firmwareVerify : Statement (.firmwareVerify) := ⟨zero32, zero32⟩
theorem powerUp : Statement (.powerUp) := ⟨zero32, zero32⟩
theorem overTemperature (temp : Nat) : Statement (.overTemperature temp) := ⟨zero32, zero32⟩
theorem imageAdmission (pen : Nat) : Statement (.imageAdmission pen) := ⟨zero32, zero32⟩
theorem hostLinkReset (core : Nat) : Statement (.hostLinkReset core) := ⟨zero32, zero32⟩
theorem shedPowerRestore (shed : Nat) : Statement (.shedPowerRestore shed) := ⟨zero32, zero32⟩
theorem spanningGroupCompletion (pkt : Nat) : Statement (.spanningGroupCompletion pkt) := ⟨zero32, zero32⟩

end Laws.Sizes

end Sys2Proof
end

