-- ==== Sys2Proof/Tests/Slice0.lean ====
section
/-!
SUPPORT. Tests, and for each statement of the obligations that has hypotheses a witness that meets them, clause by clause. Expected values
come from the worked encodings and examples of the spec or from its tables by hand.
-/
namespace Sys2Proof.Tests
open Sys2Proof Sys2Proof.Machine Sys2Proof.Claims
set_option Elab.async false

/-- A package with power in which it is the turn of context x of core 0, which is c. -/
def st (c : Ctx) (x : Nat := 3) : State := ({ powered := true, curCtx := x } : State).setCtx 0 x c

/-- The same with the rest of core 0 as k. -/
def stc (k : Core) (c : Ctx) (x : Nat := 3) : State := ({ powered := true, curCtx := x } : State).setCore 0 (k.setCtx x c)

/-- A context in system state. -/
def sysCtx : Ctx := { sys := true }

/-- Nothing keeps an instruction back when the guard says so. -/
theorem ready {n : Need} {c : Ctx} (h : c.verdict n = .go) : Ready n c := (Ctx.verdict_go c n).1 h

/-! ### Well-formedness: an ill-formed term for each check -/

theorem test_wf_len : (Instr.loop ⟨0, 1, 0, 0⟩).wf = false := by decide
theorem test_wf_ord : (Instr.spt ⟨0xFFFF, 0⟩).wf = false := by decide
theorem test_wf_coordinate : (Instr.movK ⟨0, 1, 6⟩).wf = false := by decide
theorem test_wf_pushRegister : (Instr.push ⟨0, 6, 0, 1⟩).wf = false ∧ (Instr.pop ⟨0, 6, 1⟩).wf = false ∧ (Instr.pushTry ⟨0, 6, 0, 1, 1⟩).wf = false ∧
    (Instr.popTry ⟨0, 6, 1, 1⟩).wf = false := by decide
theorem test_wf_loadWidth : (Instr.ldGlb ⟨0, 1, 2, 0, 1, 3, 0⟩).wf = false ∧ (Instr.ldSp ⟨0, 1, 2, 0, 1, 3, 0⟩).wf = false ∧
    (Instr.ldSh ⟨0, 1, 2, 0, 1, 3, 0⟩).wf = false ∧ (Instr.ldChip ⟨0, 1, 2, 0, 1, 3, 0⟩).wf = false := by decide
theorem test_wf_acquire : (Instr.ldAcq ⟨0, 1, 2, 0, 0, 3, 0, 0⟩).wf = false ∧ (Instr.ldAcq ⟨0, 1, 2, 0, 0, 3, 0, 6⟩).wf = false ∧
    (Instr.ldAcq ⟨0, 1, 2, 0, 1, 3, 0, 1⟩).wf = false := by decide
theorem test_wf_release : (Instr.stRel ⟨0, 1, 2, 0, 0, 3, 0, 5⟩).wf = false ∧ (Instr.stRel ⟨0, 1, 2, 0, 0, 3, 0, 11⟩).wf = false := by decide
theorem test_wf_scope : (Instr.fence ⟨0, 1, 1, 5⟩).wf = false := by decide
theorem test_wf_atomicResult : (Instr.amoAdd ⟨0, 0, 1, 0, 2, 0, 0, 1⟩).wf = false ∧ (Instr.amoCas ⟨0, 0, 1, 0, 2, 0, 0, 1⟩).wf = false ∧
    (Instr.amoCas ⟨0, 1, 1, 0, 3, 0, 0, 1⟩).wf = false := by decide
theorem test_wf_reductionOrder : (Instr.redAdd ⟨0, 1, 0, 2, 0, 1, 1⟩).wf = false ∧ (Instr.redMaxu ⟨0, 1, 0, 2, 0, 11, 1⟩).wf = false := by decide
theorem test_wf_sum : (Instr.xsumAdd ⟨0, 3, 1, 0, 2, 0, 0⟩).wf = false ∧ (Instr.xsumMerge ⟨0, 1, 0, 2, 0, 5⟩).wf = false ∧
    (Instr.xsumRead ⟨0, 1, 2, 0, 3, 0, 0⟩).wf = false ∧ (Instr.xsumRead ⟨0, 1, 2, 0, 0, 6, 0⟩).wf = false ∧
    (Instr.xsumReadClr ⟨0, 1, 2, 0, 0, 0, 6⟩).wf = false := by decide
theorem test_wf_chain : (Instr.chainLd ⟨0, 1, 3, 0, 0, 0, 0⟩).wf = false ∧ (Instr.chainAdd ⟨0, 1, 30, 0, 0, 0⟩).wf = false ∧
    (Instr.chainSwap ⟨0, 1, 2, 0, 0, 6⟩).wf = false := by decide
theorem test_wf_srn : (Instr.mfsr ⟨0, 1, 0, 0, 0x3C⟩).wf = false ∧ (Instr.mfsr ⟨0, 1, 0, 1, 4⟩).wf = false ∧ (Instr.mtsr ⟨0, 1, 0, 0, 0, 0x80⟩).wf = false := by
  decide
theorem test_wf_stop : (Instr.stop ⟨0, 1, 3, 0⟩).wf = false := by decide
theorem test_wf_tail : (Instr.vld ⟨0, 1, 0, 2, 0, 3, 0⟩ ⟨0, 1, 0, 0, 0, 0, 0, 0⟩).wf = false ∧ (Instr.mma 5 ⟨0, 1, 0, 2, 0, 3, 0⟩ ⟨0, 0, 0, 1, 0, 0, 0, 0⟩).wf = false ∧
    (Instr.copy ⟨0, 1, 0, 2, 0, 3, 0⟩ ⟨0, 0, 0, 0, 0, 0, 1, 0⟩).wf = false ∧ (Instr.vtrd ⟨0, 1, 2, 0, 0, 0, 0⟩ ⟨0, 0, 0, 0, 0, 0, 63, 0⟩).wf = false := by decide

/-! ### Decoding: words of the spec's worked encodings, others than the obligation's, at least one a family -/

/-- `mul s12, s12, 3`, `max s12, s12, s13` and `min s12, s12, s14` (q95, q98, q99). -/
theorem test_decode_arithmetic : decode 0x0418C003 0 = some (.mulImm ⟨0, 12, 12, 0, 3⟩) ∧ decode 0x0018C352 0 = some (.max ⟨0, 12, 12, 0, 13, 0⟩) ∧
    decode 0x0018C391 0 = some (.min ⟨0, 12, 12, 0, 14, 0⟩) := ⟨rfl, rfl, rfl⟩
/-- `cmp.ge p2, s17, s18` (m37) and `pmov p1, q0` (n30). -/
theorem test_decode_predicates : decode 0x10138A40 0 = some (.cmp ⟨0, 2, 3, 17, 0, 18, 0⟩) ∧ decode 0x140C0180 0 = some (.pmov ⟨0, 1, 8, 0⟩) := ⟨rfl, rfl⟩
/-- `(p1) mov s15, k0` (n33). -/
theorem test_decode_walker : decode 0x0E5E0000 0 = some (.movK ⟨1, 15, 0⟩) := rfl
/-- `iter ldtop` (n42, OFF -25) and `loop s13, mend` (m93). -/
theorem test_decode_control : decode 0x283FFFE7 0 = some (.iter ⟨0, BitVec.ofInt 22 (-25)⟩) ∧ decode 0x260D000A 0 = some (.loop ⟨0, 13, 0, 10⟩) := ⟨rfl, rfl⟩
/-- The `rep` example of R226 and the `xim` of n26. -/
theorem test_decode_prefixes : decode 0x2A035000 0 = some (.rep ⟨3, 1, 1, 0, 0⟩) ∧ decode 0x2C000380 0 = some (.xim ⟨0x380⟩) := ⟨rfl, rfl⟩
/-- `spt 1, 0`. -/
theorem test_decode_safePoint : decode 0x2E000040 0 = some (.spt ⟨1, 0⟩) := rfl
/-- `gwait g4` (m30), `(p6) barm b0, s14` (m87), `(p6) bwait b0` (m88). -/
theorem test_decode_sync : decode 0x30004000 0 = some (.gwait ⟨0, 4⟩) ∧ decode 0x33805C00 0 = some (.barm ⟨6, 0, 14, 0⟩) ∧
    decode 0x33808000 0 = some (.bwait ⟨6, 0⟩) := ⟨rfl, rfl, rfl⟩
/-- `pop s16, hq2` and `launch s8, s9` (p03). -/
theorem test_decode_queues : decode 0x36202001 0 = some (.pop ⟨0, 16, 2⟩) ∧ decode 0x38109000 0 = some (.launch ⟨0, 8, 9, 0⟩) := ⟨rfl, rfl⟩
/-- `ld.w.s s23, [s23-4]` (m47), `ld.w.s s16, sh[s20]` (m94), `(p2) st.w sh[s22], s16` (m97). -/
theorem test_decode_memory : decode 0x402F76FC 0 = some (.ldGlb ⟨0, 23, 23, 0, 1, 2, 0xFC⟩) ∧ decode 0x44214600 0 = some (.ldSh ⟨0, 16, 20, 0, 1, 2, 0⟩) ∧
    decode 0x4CA16200 0 = some (.stSh ⟨2, 16, 22, 0, 0, 2, 0⟩) := ⟨rfl, rfl, rfl⟩
/-- The example load of R258: T 6, A 3, FT 1, SZ 2, SPC 2, OS 4. -/
theorem test_decode_acquire : decode 0x500C3690 0 = some (.ldAcq ⟨0, 6, 3, 0, 1, 2, 2, 4⟩) := rfl
/-- `ffill [s12], s7` (p13). -/
theorem test_decode_future : decode 0x7600C1C0 0 = some (.ffill ⟨0, 12, 0, 7, 0⟩) := rfl
/-- `setovf s4`, `trap 7`, `tret`, `stop p2, s8`, `cres [s6]` (p21). -/
theorem test_decode_system : decode 0x7E004002 0 = some (.setovf ⟨0, 4, 0⟩) ∧ decode 0x7E0000E3 0 = some (.trap ⟨0, 7⟩) ∧ decode 0x7E000004 0 = some (.tret ⟨0⟩) ∧
    decode 0x7E108005 0 = some (.stop ⟨0, 2, 8, 0⟩) ∧ decode 0x7E00600C 0 = some (.cres ⟨0, 6, 0⟩) := ⟨rfl, rfl, rfl, rfl, rfl⟩
/-- `vst sp[0x4000], v1 raise g4` without its prefix, and `vrsum.n32 s5, v1` (p73). -/
theorem test_decode_vector : decode 0x80000801 0x02400100 = some (.vst ⟨0, 0, 0, 1, 0, 0, 0⟩ ⟨0, 0, 1, 4, 0, 0, 0, 0x100⟩) ∧
    decode 0x9A0A1000 0x000201C0 = some (.vrsum ⟨0, 5, 1, 0⟩ ⟨0, 0, 0, 0, 1, 0, 0, 0x1C0⟩) := ⟨rfl, rfl⟩
/-- `copy sp[s20], [s2], s21 b0` (p51), with CE, CTR 0 and SPC 1. -/
theorem test_decode_copy : decode 0xD02812A0 0x00010100 = some (.copy ⟨0, 20, 0, 2, 0, 21, 0⟩ ⟨0, 0, 0, 0, 0, 1, 0, 0x100⟩) := rfl
/-- What withFetchWord places is what the next step decodes: `trap 7` enters the handler of c3 with class 0x33 (R337). -/
theorem test_step_first : ((match step (State.reset.withFetchWord 32 0x7E0000E3) with
    | .next t => some ((mget 0 (t.ctx 0 3).trec 0).toNat / 2 ^ 56, (t.ctx 0 3).tpc)
    | _ => none) : Option (Nat × Dword)) = some (0x33, 0x15004) := by rfl

/-! ### Witnesses: scalar arithmetic, control flow -/

/-- RegisterOperations, WhatHoldsBack: a plain form, s0 as destination, an undefined FN at the boundary. -/
theorem witness_registerOperations : Ready (FR.need ⟨0, 5, 1, 0, 2, 0⟩) sysCtx ∧ Ready (FR.need ⟨0, 0, 1, 0, 2, 0⟩) sysCtx ∧
    (fld (sysCtx.stepped 25) 25 7 = 0 ∧ 25 ≤ fld (sysCtx.stepped 25) 0 5) := ⟨ready (by decide +kernel), ready (by decide +kernel), by decide +kernel⟩
/-- ImmediateOperations: an immediate, a shift under a prefix of zero, a prefix that is not zero, a word with a reserved bit. -/
theorem witness_immediateOperations : Ready (FI.need ⟨0, 5, 1, 0, 0x400⟩) sysCtx ∧ Ready (FSh.need ⟨0, 5, 1, 0, 63⟩ false) sysCtx ∧
    (∀ x ∈ sysCtx.pfx.xims, x = 0) ∧ (∃ x ∈ ({ pfx := { active := true, xims := [1] } } : Ctx).pfx.xims, x ≠ 0) ∧
    (fld (sysCtx.stepped 0x0C000100) 25 7 = 6 ∧ fld (sysCtx.stepped 0x0C000100) 8 3 ≠ 0) :=
  ⟨ready (by decide +kernel), ready (by decide +kernel), by simp [sysCtx], ⟨1, by simp, by decide⟩, by decide +kernel⟩
/-- ComparesAndPredicates: true and false predicates, a `pmov` word with a second source. -/
theorem witness_comparesAndPredicates : Ready (FC.need ⟨0, 1, 7, 1, 0, 2, 0⟩) sysCtx ∧ Ready (FCI.need ⟨0, 0, 0, 1, 0, 0x3FF⟩) sysCtx ∧
    Ready (FP.need ⟨0, 1, 15, 0, 1, 0⟩) sysCtx ∧ Ready (FP1.need ⟨0, 1, 8, 0⟩) sysCtx ∧
    (sysCtx.pfx.legal (FC.need ⟨1, 1, 0, 1, 0, 2, 0⟩) = true ∧ sysCtx.fullP 1 = true ∧ sysCtx.rdP 1 = false) ∧
    sysCtx.pfx.legal (FCI.need ⟨1, 1, 0, 1, 0, 2⟩) = true ∧
    (fld (sysCtx.stepped 0x14000380) 25 7 = 0x0A ∧ 6 ≤ fld (sysCtx.stepped 0x14000380) 6 3 ∧ fld (sysCtx.stepped 0x14000380) 9 5 ≠ 0) := by
  unfold Ready; decide +kernel

/-- BitFieldsAndCounts: fields that end at bit 63, one that passes it, the reserved bits of V, words of the major that are none. -/
theorem witness_bitFields : Ready (FI.need ⟨0, 5, 6, 0, 0x7E0⟩) sysCtx ∧ Ready (FU.need ⟨0, 5, 6, 0⟩) sysCtx ∧
    (immCat 11 0x7E0 [] % 64 + (immCat 11 0x7E0 [] / 64 % 64 + 1) = 64 ∧ immCat 11 0x7E0 [] < 2 ^ 12) ∧
    64 < immCat 11 0x7E1 [] % 64 + (immCat 11 0x7E1 [] / 64 % 64 + 1) ∧ 2 ^ 13 ≤ immCat 11 0 [4] ∧ 2 ^ 12 ≤ immCat 11 0 [2] ∧ immCat 11 0 [2] < 2 ^ 13 ∧
    (fld (sysCtx.stepped 0x1A000005) 25 7 = 0x0D ∧ 5 ≤ fld (sysCtx.stepped 0x1A000005) 0 5) ∧
    (fld (sysCtx.stepped 0x1A000020) 25 7 = 0x0D ∧ fld (sysCtx.stepped 0x1A000020) 5 6 ≠ 0) := by
  unfold Ready; decide +kernel

/-- The package where a code page holds an `spt` at 0x1_5000 and an `add` at 0x1_5004, with s1 of its context 3 as the target. -/
noncomputable def coded (a : Dword) : State :=
  let s := { State.reset.withFetchWord 64 0x2E000040 with curCore := 0, curCtx := 3 }
  s.setCur (s.cur.wr 1 a)
/-- A fetch that answers a word. -/
theorem fetched {p : Fetched × State} {w m : Nat} (h : p.1 = .word w) (hm : field w 25 7 = m) : ∃ w' s1, p = (.word w', s1) ∧ field w' 25 7 = m :=
  ⟨w, p.2, by rw [← h], hm⟩
/-- What an indirect branch needs, or a call. -/
def jumpNeed (b : Bool) : Need := { p := 0, rep := some (true, true, true, false), src := [(1, false)], dst := if b then [23] else [] }
theorem codedGo (b : Bool) : (coded 0x15000).cur.verdict (jumpNeed b) = .go ∧ (coded 0x15004).cur.verdict (jumpNeed b) = .go ∧
    (sysCtx.wr 1 2).verdict (jumpNeed b) = .go := by cases b <;> decide +kernel
/-- ControlTransfers: a branch and a call; an indirect transfer to an aligned `spt`, to another word, to a misaligned address. -/
theorem witness_controlTransfers : (Ready { p := 0, xim := 1 } sysCtx ∧ Ready { p := 0, xim := 1, dst := [23] } sysCtx) ∧
    (∀ b, Ready (jumpNeed b) (coded 0x15000).cur ∧ Ready (jumpNeed b) (coded 0x15004).cur ∧ Ready (jumpNeed b) (sysCtx.wr 1 2)) ∧
    ((coded 0x15000).cur.rd 1 = 0x15000 ∧ (coded 0x15004).cur.rd 1 = 0x15004 ∧ (sysCtx.wr 1 2).rd 1 = 2) ∧
    (∃ w s1, (coded 0x15000).fetchWord 0 3 0x15000 = (.word w, s1) ∧ field w 25 7 = 0x17) ∧
    ∃ w s1, (coded 0x15004).fetchWord 0 3 0x15004 = (.word w, s1) ∧ field w 25 7 = 0 := by
  refine ⟨?_, fun b => ⟨ready (codedGo b).1, ready (codedGo b).2.1, ready (codedGo b).2.2⟩, ?_, fetched (by rfl) (by decide), fetched (by rfl) (by decide)⟩
  · unfold Ready; decide +kernel
  · decide +kernel
/-- HardwareLoops: a count of zero, one with a free slot, one with both slots active, a false predicate. -/
theorem witness_loops : Ready { p := 0, src := [(1, false)] } sysCtx ∧ sysCtx.rd 1 = 0 ∧
    ((sysCtx.wr 1 1).rd 1 ≠ 0 ∧ (sysCtx.wr 1 1).hl1.active = false ∧ Ready { p := 0, src := [(1, false)] } (sysCtx.wr 1 1)) ∧
    (let c : Ctx := { sysCtx.wr 1 1 with hl0 := { active := true, count := 1 }, hl1 := { active := true, count := 1 } }
     c.rd 1 ≠ 0 ∧ c.hl1.active = true ∧ Ready { p := 0, src := [(1, false)] } c) ∧
    (sysCtx.pfx = {} ∧ sysCtx.fullP 1 = true ∧ sysCtx.rdP 1 = false) ∧ Ready { p := 0 } sysCtx := by
  unfold Ready; decide +kernel

/-- FallingThrough: within a repeat, and after its last index. -/
theorem witness_fallingThrough : (∃ r, ({ pfx := { rep := some ⟨3, 1, 0, 0, 0⟩, k := 2 } } : Ctx).pfx.rep = some r ∧ 2 < r.cnt.toNat) ∧
    (∀ r, ({ pfx := { rep := some ⟨3, 1, 0, 0, 0⟩, k := 3 } } : Ctx).pfx.rep = some r → r.cnt.toNat ≤ 3) :=
  ⟨⟨_, rfl, by decide +kernel⟩, fun r h => by cases h; decide⟩
/-- PrefixesAndSafePoint: no prefix, one before, two before; a word of the register format. -/
theorem witness_prefixes : sysCtx.pfx.active = false ∧ ({ xims := [7] } : Pfx).xims.length < 2 ∧ 2 ≤ ({ xims := [7, 8] } : Pfx).xims.length ∧
    Ready { p := 0 } sysCtx ∧ ((1 : BitVec 16) ≠ 0xFFFF) ∧ (0x00312641 < 2 ^ 32 ∧ field 0x00312641 25 7 = 0) := by
  unfold Ready; decide +kernel

/-- A role context c0 whose core holds one step of instance 1. -/
def roleBind (n : Option Nat) : Bind := { inst := 1, steps := [{ key := {}, begun := true }, { key := {} }], n := n }
/-- Iterations: in c3; past the last iteration; at one still to come, with N told and not told, its step known or not. -/
theorem witness_iterations : Ready (walkNeed 0 5) sysCtx ∧ Ready { p := 0, xim := 1 } sysCtx ∧
    (∀ j, j < 8 → sysCtx.full (24 + j) = true) ∧
    ((∃ n, (roleBind (some 1)).n = some n ∧ n + (roleBind (some 1)).depth - 1 < 2) ∧ ∃ n, (roleBind (some 2)).n = some n ∧ 1 ≤ n + (roleBind (some 2)).depth - 1) ∧
    ((roleBind none).n = none ∧ ((roleBind none).steps[(roleBind none).base + 1]?).isSome = true ∧ (roleBind none).steps[(roleBind none).base + 2]? = none) ∧
    ((stc { bind := some (roleBind none) } sysCtx 0).core 0).bind = some (roleBind none) :=
  ⟨ready (by decide +kernel), ready (by decide +kernel), by decide +kernel, ⟨⟨1, rfl, by decide +kernel⟩, ⟨2, rfl, by decide +kernel⟩⟩, ⟨rfl, rfl, rfl⟩, by rfl⟩

/-! ### Witnesses: synchronisation -/

/-- Gates: a count of one, of zero, of 65,534 and of 65,535, with nobody waiting and no access outstanding. -/
theorem witness_gates : Ready { p := 0 } sysCtx ∧ Ready { p := 0, dst := [5] } sysCtx ∧ (st sysCtx).cutDrops 0 3 sysCtx.k = false ∧
    FirstAt 4 (stc { gates := [(4, 1)] } sysCtx) ∧ mget 0 ((stc { gates := [(4, 1)] } sysCtx).core 0).gates 4 = 1 ∧
    mget 0 ((st sysCtx).core 0).gates 4 = 0 ∧ sysCtx.drained = true ∧ mget 0 ((stc { gates := [(4, 65534)] } sysCtx).core 0).gates 4 < 65535 ∧
    65535 ≤ mget 0 ((stc { gates := [(4, 65535)] } sysCtx).core 0).gates 4 := by
  unfold Ready FirstAt; decide +kernel

/-- ArrivalCounters: sums at both ends of the range, sums past them, a count of 0 and another. -/
theorem witness_counters : Ready { p := 0, xim := 1 } sysCtx ∧ Ready { p := 0, src := [(1, false)] } sysCtx ∧ immS 14 1 [] = 1 ∧ immS 14 0x3FFF [] = -1 ∧
    (mget 0 ((stc { ctrs := [(1, 2 ^ 31 - 2)] } sysCtx).core 0).ctrs 1 + 1 < 2 ^ 31) ∧ (2 ^ 31 ≤ mget 0 ((stc { ctrs := [(1, 2 ^ 31 - 1)] } sysCtx).core 0).ctrs 1 + 1) ∧
    (mget 0 ((stc { ctrs := [(1, -2 ^ 31)] } sysCtx).core 0).ctrs 1 + -1 < -2 ^ 31) ∧ (-2 ^ 31 ≤ mget 0 ((stc { ctrs := [(1, -2 ^ 31 + 1)] } sysCtx).core 0).ctrs 1 + -1) ∧
    mget 0 ((st sysCtx).core 0).ctrs 1 = 0 ∧ mget 0 ((stc { ctrs := [(1, 8)] } sysCtx).core 0).ctrs 1 ≠ 0 ∧ (st sysCtx).cutDrops 0 3 sysCtx.k = false := by
  unfold Ready; decide +kernel

/-! ### Witnesses: groups, queues, windows -/

/-- A package where pen 1 has shed 0, groups 0 to 100 and a spanning subrange, core 0's c3 has s1, and group 5 is g. -/
def grpSt (s1 : Dword) (g : Grp) (spans : List (Nat × Nat × Nat) := []) : State :=
  { st (sysCtx.wr 1 s1) with pens := [(1, { sheds := [0], grpHi := 100, spans := spans })], groups := [(5, g)] }
/-- The same with every fabric port out of service. -/
def alone (s : State) : State := { s with links := (List.range 36).map (fun i => (i, ({ up := false } : Link))) }
/-- A context with an access that it has not performed. -/
def undrained : Ctx := { sysCtx with pend := [{ seq := 0, op := .load false, cls := 4, va := 0x15000, segs := [(0x15000, 8)], len := 8, dst := some 5 }] }
/-- Groups: a join of an empty group, of one it is a member of, and of one in which another member has arrived, with nobody else waiting; the
same where the join has waited, and where its generation has ended; a leave and an arrive with another member to come, ones that are the
last, a second arrival; an undrained leave; waits on the present generation and on another, with its home here, and at another package,
reachable and not, before and after the answer. -/
theorem witness_groups : (Ready { p := 0, src := [(1, false)] } (sysCtx.wr 1 5) ∧ Ready { p := 0, src := [(1, false)], dst := [2] } (sysCtx.wr 1 5) ∧
    Ready { p := 0, src := [(1, false), (2, false)] } (sysCtx.wr 1 5) ∧ GroupReady 5 (grpSt 5 {}) ∧ GroupReady 100 (grpSt 100 {}) ∧ GroupHeld 5 (grpSt 5 {} [(5, 5, 1)])) ∧
    ((grpSt 5 {}).cur.req = none ∧ ((grpSt 5 {}).grp 5).members.contains 3 = false ∧ (grpSt 5 {}).member 0 3 = 3 ∧ (grpSt 5 {}).memberships 3 < 8 ∧
      ((grpSt 5 { members := [3] }).grp 5).members.contains 3 = true ∧
      (let s := grpSt 5 { members := [7, 8], arrived := [7] }
       GroupReady 5 s ∧ (s.grp 5).members.contains 3 = false ∧ (s.grp 5).arrived ≠ [] ∧ s.memberships 3 < 8)) ∧
    (let w := fun (g : Grp) => (grpSt 5 g).setCur { sysCtx.wr 1 5 with req := some (0, 0) }
     Ready { p := 0, src := [(1, false)] } (w {}).cur ∧ GroupReady 5 (w { members := [7, 8], arrived := [7] }) ∧ (w {}).cur.req = some (0, 0) ∧
       ((w { members := [3] }).grp 5).members.contains 3 = true ∧ ((w { members := [7, 8], arrived := [7] }).grp 5).arrived ≠ []) ∧
    (Outstanding ((grpSt 5 { members := [3, 7] }).grp 5) 3 ∧ (grpSt 5 {}).cur.drained = true ∧ undrained.drained = false ∧
      ¬Outstanding ((grpSt 5 { members := [3, 7], arrived := [7], joins := [11] }).grp 5) 3 ∧
      (∀ x ∈ ((grpSt 5 { members := [3, 7], arrived := [7], joins := [11] }).grp 5).joins, (grpSt 5 {}).joinBarred x = false) ∧
      ((grpSt 5 { members := [3, 7], arrived := [3] }).grp 5).arrived.contains 3 = true) ∧
    (grpSt 5 {}).groupOk 0 5 = true ∧ (grpSt 5 {}).cutDrops 0 3 {} = false ∧
    ((grpSt 5 { gen := 1 }).grp 5).gen ≠ ((sysCtx.wr 1 5).rd 2).toNat % 2 ^ 16 ∧ ((grpSt 5 {}).grp 5).gen = ((sysCtx.wr 1 5).rd 2).toNat % 2 ^ 16 ∧
    (grpSt 5 {}).reachable (dieOf 0) ((grpSt 5 {}).groupHome 0 5) = true ∧ (let s := alone (grpSt 5 {} [(5, 5, 1)])
      s.groupOk 0 5 = true ∧ s.remoteGroup 0 5 = true ∧ s.reachable (dieOf 0) (s.groupHome 0 5) = false) ∧
    (let s := grpSt 5 {} [(5, 5, 1)]
     s.groupOk 0 5 = true ∧ s.remoteGroup 0 5 = true ∧ s.reachable (dieOf 0) (s.groupHome 0 5) = true ∧ s.cur.req = none) ∧
    (({ sysCtx.wr 1 5 with req := some (6, 4) } : Ctx).req = some (6, 3 + 1) ∧ 3 ≠ ((sysCtx.wr 1 5).rd 2).toNat % 2 ^ 16 ∧
      ({ sysCtx.wr 1 5 with req := some (6, 1) } : Ctx).req = some (6, 0 + 1) ∧ 0 = ((sysCtx.wr 1 5).rd 2).toNat % 2 ^ 16) := by
  unfold Ready GroupReady GroupHeld Outstanding; and_intros
  all_goals decide +kernel

/-- A package where queue 2 of shed 0 is q. -/
def queueSt (q : HQ) : State := { st sysCtx with sheds := [(0, { queues := [(2, q)] })], pens := [(1, { sheds := [0] })] }
/-- What a launch needs. -/
def launchNeed : Need := { p := 0, src := [(1, false)], dst := [2] }
/-- A context that waits for a record in s28 to s31. -/
def popper : Ctx := { sysCtx.markRecord 28 true with req := some (5, 28) }
/-- QueuesAndDeviceLaunch: a push with room at both ends, one without; a pop with and without a record, and one that waits; the four ways of
`launch`. -/
theorem witness_queues : HeldReady (queueSt { enable := true }) ∧
    (Ready { p := 0, src := [8, 9, 10, 11].map (fun r => (r, false)), pdst := [1] } sysCtx ∧ Ready { p := 0, dst := [28, 29, 30, 31], pdst := [0] } sysCtx ∧
      Ready { p := 0 } popper ∧ popper.full 28 = false) ∧
    ((queueSt { enable := true }).hq 0 2 = { enable := true } ∧ sysCtx.drained = true ∧
      (({ enable := true, chip := List.replicate 31 7 } : HQ).ring = 0 ∧ ({ enable := true, chip := List.replicate 31 7 } : HQ).chip.length < 32) ∧
      ({ enable := true, chip := List.replicate 32 7 } : HQ).capacity ≤ ({ enable := true, chip := List.replicate 32 7 } : HQ).depth) ∧
    (Ready { p := 0, src := [8, 9, 10, 11].map (fun r => (r, false)), pdst := [1] } undrained ∧ undrained.drained = false ∧
      HeldReady ((queueSt { enable := true }).setCur undrained)) ∧
    Ready launchNeed (sysCtx.wr 1 64) ∧ Ready launchNeed { sysCtx with req := some (4, 9) } ∧ Ready launchNeed { sysCtx with req := some (4, 0) } ∧
    ((sysCtx.wr 1 64).req = none ∧ ((sysCtx.wr 1 64).rd 1).toNat % 64 = 0 ∧ ((sysCtx.wr 1 65).rd 1).toNat % 64 ≠ 0 ∧
      (queueSt {}).penOf 0 = some 1 ∧ ((queueSt {}).pen 1).devRoom 0 = true) := by
  have np : ∀ s : State, s.curCtx = 3 → NotPure s := fun s h => .inl h
  unfold Ready HeldReady; and_intros
  all_goals first | exact np _ rfl | decide +kernel
/-- Windows: a count at its operand, and one below it. -/
theorem witness_windows : Ready { p := 0, dst := [2] } sysCtx ∧ Ready { p := 0, src := [(1, false)] } (sysCtx.wr 1 1) ∧ (st sysCtx).cutDrops 0 3 sysCtx.k = false ∧
    (sysCtx.rd 1).toNat ≤ (((st sysCtx).core 0).wseen 63).toNat ∧ (((st sysCtx).core 0).wseen 63).toNat < ((sysCtx.wr 1 1).rd 1).toNat ∧
    (sysCtx.rd 1).toNat ≤ (((st sysCtx).core 0).wland 63).toNat ∧ (((st sysCtx).core 0).wland 63).toNat < ((sysCtx.wr 1 1).rd 1).toNat := by
  unfold Ready; decide +kernel

/-! ### Witnesses: memory -/

/-- A package with a page at 0x1_5000 whose leaf has the low bits r and the bits f above, mapped for c3 of core 0, which has s1. -/
def mapped (r f : Nat) (s1 : Dword) : State :=
  let m := writeLE [] 0x10000 8 0x11001
  let m := writeLE m 0x11000 8 0x12001
  let m := writeLE m 0x12000 8 0x13001
  let m := writeLE m 0x13000 8 0x14001
  let m := writeLE m 0x140A8 8 (0x15000 + r + f)
  { st { (sysCtx.wr 1 s1) with wb0 := 0x10000 } with mem := m, ranges := [⟨0, 0, 0, 0, 0x20000, true⟩] }
/-- A page that control cores may read and write. -/
def rw : Nat := 0x8F
def cMask : Nat := 2 ^ 56
/-- How an access of c3 at an address translates. -/
def xl (s : State) (kind : Nat) (home : Bool) (va n : Nat) : Xl := (s.xlate s.cur.space s.whoAcc kind home va n).1

/-- GlobalLoadsAndStores, AtomicsIssue, SumsAndFuturesIssue: what is ready; a misaligned operand; an acquire pending; a walk that
takes longer, and one that a pending `mark` keeps from its entries; a fault of the translation (no read right, then no agent right); a page
that blocks writes; an access that goes through, at both ends of the page. -/
theorem witness_global : (Ready (ldNeed ⟨0, 5, 1, 0, 0, 3, 0⟩) (mapped rw cMask 0x15FF8).cur ∧ Ready (stNeed ⟨0, 5, 1, 0, 0, 3, 0⟩) (mapped rw cMask 0x15000).cur ∧
      eaOf ⟨0, 5, 1, 0, 0, 3, 0⟩ (mapped rw cMask 0x15FF8) = 0x15FF8 ∧ 0x15FF4 % 8 ≠ 0) ∧
    (({ sysCtx with pend := [{ seq := 0, op := .load false, acq := some 3 }] } : Ctx).acqHeld = true ∧ (mapped rw cMask 0).cur.acqHeld = false) ∧
    ((xl { mapped rw cMask 0x15000 with slow := 1 } kRead false 0x15000 8).busy = true ∧
      (let s := mapped rw cMask 0x15000
       let m := s.setCur { s.cur with pend := [{ seq := 0, op := .load false, cls := 4 }, { seq := 1, op := .mark }] }
       m.whoAcc.cached = true ∧ m.cur.acqHeld = false ∧ (xl m kRead false 0x15000 8).busy = true) ∧
      (xl (mapped 0x8B cMask 0x15000) kWrite false 0x15000 8).flt = some ⟨0x02, 0x15000, 0⟩ ∧
      (xl (mapped rw 0 0x15000) kRead false 0x15000 8).flt = some ⟨0x03, 0x15000, 0⟩ ∧
      (xl (mapped rw (cMask + 2 ^ 62) 0x15000) kWrite false 0x15000 8).wait = some 0x15000) ∧
    (let x := xl (mapped rw cMask 0x15FF8) kRead false 0x15FF8 8
     x.flt = none ∧ x.segs = [(0x15FF8, 8)] ∧ x.busy = false ∧ x.regFault 0x15FF8 = none) ∧
    (let x := xl (mapped rw cMask 0x15000) kRmw true 0x15000 16
     x.flt = none ∧ x.wait = none ∧ x.busy = false) ∧ (mapped rw cMask 0x15000).held 0 3 (mapped rw cMask 0x15000).cur.k = .ok ∧ NotPure (mapped rw cMask 0x15000) := by
  refine ⟨?_, ?_, ?_, ?_, ?_, ?_, Or.inl rfl⟩ <;> (try unfold Ready) <;> decide +kernel
/-- GlobalLoadsAndStores: an access of two bytes of a register of the package's block; reads of CUTDONE, of RFCTL and of the TAIL registers, which acquire, and
of a neighbour. -/
theorem witness_registerFault : ({ segs := [(0xF00000000000, 2)] } : Xl).regFault 0x15000 = some ⟨0x29, 0x15000, 7⟩ ∧
    regAcq [(regAddr 10 0xA8, 8)] = true ∧ regAcq [(regAddr 25 0xB8, 8)] = true ∧ regAcq [(regAddr 10 0xD0, 8)] = true ∧ regAcq [(regAddr 0 0x20, 8)] = true ∧
    regAcq [(regAddr 10 0x110, 8)] = true ∧ regAcq [(regAddr 25 0xB0, 8)] = false := by decide +kernel
/-- LocalLoadsAndStores: the last dword of the core scratchpad, and one that passes its end; of the other two spaces likewise. -/
theorem witness_local : Ready (ldNeed ⟨0, 5, 1, 0, 0, 3, 0⟩) (sysCtx.wr 1 0x1FFFF8) ∧ eaOf ⟨0, 5, 1, 0, 0, 3, 0⟩ (st (sysCtx.wr 1 0x1FFFF8)) = 0x1FFFF8 ∧
    0x1FFFF8 + 8 ≤ (st sysCtx).spaceSize 0 1 ∧ (st sysCtx).spaceSize 0 1 < 0x1FFFF9 + 8 ∧ 0 + 8 ≤ (st sysCtx).spaceSize 0 2 ∧ (st sysCtx).spaceSize 0 2 < 2 ^ 40 := by
  unfold Ready; decide +kernel

/-- AtomicsIssue, SumsAndFuturesIssue: the needs of the forms; `xsum.merge` of two lines of the page. -/
theorem witness_atomics : Ready { p := 0, rep := some (true, true, true, false), src := [(1, false), (2, false)], dst := [3] } (mapped rw cMask 0x15000).cur ∧
    Ready { p := 0, undef := decide ((2 : BitVec 5).toNat % 2 = 1), rep := some (true, true, true, false), src := [(1, false), (2, false), (3, false)], dst := [3] }
      (mapped rw cMask 0x15000).cur ∧ Ready { p := 0, src := [(1, false), (1, false)] } (mapped rw cMask 0x15000).cur ∧
    (xl (mapped rw cMask 0x15000) kRead true 0x15000 64).flt = none ∧ (xl (mapped rw cMask 0x15000) kRmw true 0x15FC0 64).flt = none ∧
    (xl (mapped rw cMask 0x15000) kRmw true 0x15FC0 64).regFault 0x15FC0 = none := by
  unfold Ready; decide +kernel

/-- An access waiting in the list of a context. -/
def older : Acc := { seq := 0, op := .load false, cls := 4, va := 0x15000, segs := [(0x15000, 8)], len := 8, dst := some 5 }
/-- What `chain.ld` and the chains with a final atomic need. -/
def chNeed (b : Bool) : Need :=
  if b then { p := 0, undef := decide ((8 : BitVec 5).toNat % 2 = 1 ∨ (8 : BitVec 5).toNat = 30), src := [(8, false), (9, false), (10, false)], dst := [5] }
  else { p := 0, undef := decide ((8 : BitVec 5).toNat % 2 = 1), src := [(8, false), (9, false)], dst := [5] }
/-- A core that holds two steps in progress, of which the second is past the oldest. -/
def twoSteps : Core := { bind := some { inst := 1, steps := [{ key := {}, begun := true }, { key := { k0 := 1 }, begun := true }] } }
/-- ChainsAndOrder: chains that may start, one that is held and one of a step past a stop; `mark` and `fence` with nothing and with one access
before them. -/
theorem witness_chains : (∀ b, Ready (chNeed b) sysCtx) ∧ Ready { p := 0 } { sysCtx with pend := [older] } ∧
    Ready { p := 0, undef := decide (5 ≤ (4 : BitVec 3).toNat) } sysCtx ∧
    ((st sysCtx).held 0 3 {} = .ok ∧ (stc twoSteps sysCtx 0).held 0 0 { k0 := 1 } = .stall ∧
      (stc { twoSteps with cut := { phase := 2, named := true, l := some {} } } sysCtx 0).held 0 0 { k0 := 1 } = .drop) ∧
    sysCtx.pend = [] ∧ sysCtx.acqHeld = false ∧
    ({ sysCtx with pend := [{ seq := 0, op := .load false, acq := some 3 }] } : Ctx).acqHeld = true ∧ older.isOrder = false ∧ older.performed = false ∧ older.cls % 16 ≠ 0 ∧ (15 : BitVec 5).toNat / 16 % 2 = 0 ∧
    older.cls &&& (4 : BitVec 5).toNat ≠ 0 := by
  unfold Ready; and_intros
  all_goals decide +kernel

/-! ### Witnesses: accesses performed -/

/-- A context whose list holds one access. -/
def withAcc (a : Acc) : State := { st { sysCtx with pend := [a], spaceid := 7 } with ranges := [⟨0, 0, 0, 0, 0x20000, true⟩] }
/-- The package with no link between two dies. -/
def cutLinks (s : State) : State := { s with links := (List.range 208).map (fun i => (i, ({ up := false } : Link))) }
/-- Translation: a non-canonical address and both ends of what is canonical; an agent that may use what is cached alone; a walk that finds
none, and one that finds a leaf; a leaf that fails and one that passes its checks; a home that no link reaches; the kinds of leaf of the
second half. -/
theorem witness_translation : ¬(2 ^ 56 < 2 ^ 56 ∨ 2 ^ 64 - 2 ^ 56 ≤ 2 ^ 56) ∧ (2 ^ 56 - 1 < 2 ^ 56 ∨ (2 ^ 64 - 2 ^ 56 ≤ 2 ^ 56 - 1 ∧ true = true)) ∧
    (∀ t ∈ (mapped rw cMask 0).tlb, t.covers (((mapped rw cMask 0).penOf 0).getD 16) 0 0x15000 = false) ∧ 0x15FF8 % 4096 + 8 ≤ 4096 ∧
    (mapped rw cMask 0).walks = [] ∧ (mapped rw cMask 0).slow = 0 ∧ ({ mapped rw cMask 0 with slow := 1 } : State).slow ≠ 0 ∧
    (({ (mapped rw cMask 0).whoCtx 0 3 0 with cached := true } : Who).cached = true ∧ ((mapped rw cMask 0).whoCtx 0 3 0).cached = false) ∧
    (mapped rw cMask 0).walkOn 0 (mapped rw cMask 0).cur.space 0x17000 = .bad 0x01 0 ∧
    (mapped rw cMask 0).walkOn 0 (mapped rw cMask 0).cur.space 0x15000 = .leaf (0x15000 + rw + cMask) 0 0x140A8 ∧ ((mapped rw cMask 0).whoCtx 0 3 0).onDie = 0 ∧
    leafCheck (mapped rw cMask 0).cur.space ((mapped rw cMask 0).whoCtx 0 3 0) kRead false (0x15000 + rw + cMask) 0x15000 = none ∧
    leafCheck (mapped rw cMask 0).cur.space ((mapped rw cMask 0).whoCtx 0 3 0) kRead false (0x15000 + rw) 0x15000 = some 0x03 ∧
    (kWrite == 1) = true ∧ field (0x15000 + rw + cMask + 2 ^ 62) 62 1 = 1 ∧ (mapped rw cMask 0).routed 0 (homeDie 0x15000) = true ∧
    (let s := cutLinks { mapped rw cMask 0 with mem := writeLE (mapped rw cMask 0).mem 0x140A8 8 (2 ^ 33 + rw + cMask) }
     s.walkOn 0 s.cur.space 0x15000 = .leaf (2 ^ 33 + rw + cMask) 0 0x140A8 ∧ s.routed 0 (homeDie (leafPa (2 ^ 33 + rw + cMask) 0x15000)) = false) ∧
    ((mapped rw cMask 0).whoCtx 0 3 0).eng ≠ 5 := by
  decide +kernel

/-- A store of eight bytes at an address of a space. -/
def aStore (spc pa : Nat) : Acc := { seq := 0, op := .store, spc := spc, va := pa, segs := [(pa, 8)], len := 8, data := 2 ^ 64 - 1, cls := 2 }
/-- A write that is logged or need not be. -/
def logs (s : State) (spc : Nat) (segs : List (Nat × Nat)) : Bool := match s.logWrite 0 3 spc 0 {} segs with
  | .ok _ => true
  | _ => false
theorem logs_ok {s : State} {spc : Nat} {segs : List (Nat × Nat)} (h : logs s spc segs = true) : ∃ s1, s.logWrite 0 3 spc 0 {} segs = .ok s1 := by
  unfold logs at h; split at h
  · exact ⟨_, ‹_›⟩
  · cases h
/-- A misaligned store of two bytes of which those in `l` are written. -/
def aTorn (l : List Nat) : Acc := { aStore 1 1 with segs := [(1, 2)], len := 2, ans := l }
/-- StoresPerformed: a misaligned store with both bytes to write and with one left; a home that no link reaches. -/
theorem witness_storesTorn : (∀ l ∈ [[], [1]], Next 0 3 0 (aTorn l) (withAcc (aTorn l)) ∧ (aTorn l).op = .store ∧ (aTorn l).bad = [] ∧ (aTorn l).ans.Nodup ∧
      (∀ j ∈ (aTorn l).ans, j < 2) ∧ (aTorn l).ans.length < 2) ∧ ¬Atomic 1 2 ∧ ([1].length + 1 = 2 ∧ ([] : List Nat).length + 1 < 2) ∧
    (let s := cutLinks (withAcc (aStore 0 (2 ^ 33)))
     Next 0 3 0 (aStore 0 (2 ^ 33)) s ∧ Atomic (2 ^ 33) 8 ∧ s.routed (dieOf 0) (homeDie (2 ^ 33)) = false) := by
  unfold Next Atomic; decide +kernel
/-- StoresPerformed: to package memory that the access table allows and refuses, to the core scratchpad's end, to shed-shared memory. -/
theorem witness_storesPerformed : (Next 0 3 0 (aStore 0 0x15000) (withAcc (aStore 0 0x15000)) ∧ Next 0 3 0 (aStore 1 0x1FFFF8) (withAcc (aStore 1 0x1FFFF8)) ∧
      Next 0 3 0 (aStore 2 0) (withAcc (aStore 2 0))) ∧
    ((aStore 0 0x15000).data < 2 ^ (8 * 8) ∧ (aStore 0 0x15000).ans = [] ∧ (aStore 0 0x15000).bad = [] ∧ field (aStore 0 0x15000).leaf 8 2 = 0) ∧
    (logs (withAcc (aStore 0 0x15000)) 0 [(0x15000, 8)] = true ∧ logs (withAcc (aStore 1 0x1FFFF8)) 1 [(0x1FFFF8, 8)] = true ∧
      logs (withAcc (aStore 2 0)) 2 [(0, 8)] = true) ∧
    (withAcc (aStore 0 0x15000)).granted (shedOf 0) 0x15000 8 true = true ∧ (withAcc (aStore 0 0x20000)).granted (shedOf 0) 0x20000 8 true = false ∧
    (withAcc (aStore 0 0x15000)).badWrite [(0x15000, 8)] = false ∧ tierOf 0x15000 ≠ .regs ∧ Atomic 0x15000 8 ∧ Atomic 0x1FFFF8 8 ∧ Atomic 0 8 ∧
    (withAcc (aStore 0 0x15000)).routed (dieOf 0) (homeDie 0x15000) = true := by
  unfold Next Atomic; decide +kernel
/-- LoadsArrive: loads of eight bytes and of one, of each space. -/
theorem witness_loadsArrive : Next 0 3 0 older (withAcc older) ∧ older.op = .load false ∧ older.performed = false ∧ older.segs = [(0x15000, older.len)] ∧ older.len ≤ 8 ∧
    older.dst = some 5 ∧ (older.spc = 0 ∧ field older.leaf 8 2 = 0 ∧ (withAcc older).granted (shedOf 0) 0x15000 8 false = true ∧ (withAcc older).badAt 0x15000 8 = false ∧
      tierOf 0x15000 ≠ .regs ∧ older.ans = [] ∧ older.bad = [] ∧ older.val = 0) ∧ Next 0 3 0 { older with spc := 1, segs := [(0, 1)], len := 1 } (withAcc { older with spc := 1, segs := [(0, 1)], len := 1 }) ∧
    Next 0 3 0 { older with spc := 2 } (withAcc { older with spc := 2 }) ∧ Atomic 0x15000 8 ∧ Atomic 0 1 ∧
    (withAcc older).routed (dieOf 0) (homeDie 0x15000) = true := by
  unfold Next Atomic; decide +kernel

/-- An atomic or future of n bytes at 0x1_5000. -/
def anRmw (op : AccOp) (n phase wait : Nat) : Acc :=
  { seq := 0, op := op, va := 0x15000, segs := [(0x15000, n)], len := n, data := 1, cls := 12, dst := some 5, phase := phase, wait := wait }
/-- AtomicsAtHome: four and eight bytes, the first and the last operation. -/
theorem witness_atomicsAtHome : Next 0 3 0 (anRmw (.rmw 9 true) 8 0 0) (withAcc (anRmw (.rmw 9 true) 8 0 0)) ∧ Next 0 3 0 (anRmw (.rmw 0 false) 4 0 0) (withAcc (anRmw (.rmw 0 false) 4 0 0)) ∧
    (anRmw (.rmw 9 true) 8 0 0).data < 2 ^ (8 * 4) ∧ (withAcc (anRmw (.rmw 9 true) 8 0 0)).held 0 3 {} = .ok ∧ (withAcc (anRmw (.rmw 9 true) 8 0 0)).cutDrops 0 3 {} = false ∧
    (withAcc (anRmw (.rmw 9 true) 8 0 0)).granted (shedOf 0) 0x15000 8 true = true ∧
    (withAcc (anRmw (.rmw 9 true) 8 0 0)).routed (dieOf 0) (homeDie 0x15000) = true ∧ (withAcc (anRmw (.rmw 9 true) 8 0 0)).badAt 0x15000 8 = false := by
  unfold Next; decide +kernel

/-- Futures: a fill; a load, new and waiting for its reissue, of a full and of an empty word; a deferred one that is withdrawn, also in a
bad line. -/
theorem witness_futures : Next 0 3 0 (anRmw .ffill 16 0 0) (withAcc (anRmw .ffill 16 0 0)) ∧ (withAcc (anRmw .ffill 16 0 0)).deferred 0x15000 = [] ∧
    Next 0 3 0 (anRmw (.fld true) 16 0 0) (withAcc (anRmw (.fld true) 16 0 0)) ∧ (withAcc (anRmw (.fld true) 16 0 0)).granted (shedOf 0) 0x15000 16 true = true ∧
    (withAcc (anRmw (.fld true) 16 0 0)).routed (dieOf 0) (homeDie 0x15000) = true ∧ (withAcc (anRmw (.fld true) 16 0 0)).badAt 0x15000 16 = false ∧
    (Next 0 3 0 (anRmw (.fld false) 16 0 1) { withAcc (anRmw (.fld false) 16 0 1) with tick := 1 } ∧ 0 < (anRmw (.fld false) 16 0 1).wait ∧
      (anRmw (.fld false) 16 0 1).wait ≤ ({ withAcc (anRmw (.fld false) 16 0 1) with tick := 1 } : State).tick) ∧
    readLE (writeLE [] 0x15008 8 1) (0x15000 + 8) 8 % 2 = 1 ∧ ¬readLE (withAcc (anRmw (.fld true) 16 0 0)).mem (0x15000 + 8) 8 % 2 = 1 ∧
    (withAcc (anRmw (.fld true) 16 0 0)).placesUsed 0x15000 < 64 ∧ (withAcc (anRmw .ffill 16 0 0)).MemOk ∧
    (anRmw (.fld true) 16 0 0).asleep sysCtx = false ∧ findAcc 0 ((withAcc (anRmw (.fld true) 16 2 0)).ctx 0 3).pend = some ([], anRmw (.fld true) 16 2 0) ∧
    (((withAcc (anRmw (.fld true) 16 2 0)).core 0).pre.isSome = false ∧ ((withAcc (anRmw (.fld true) 16 2 0)).ctx 0 3).st ≠ .stopped ∧
      (withAcc (anRmw (.fld true) 16 2 0)).cutDrops 0 3 {} = false) ∧
    (let s := (withAcc (anRmw (.fld true) 16 2 0)).setCtx 0 3 { sysCtx with st := .stopped, pend := [anRmw (.fld true) 16 2 0] }
     findAcc 0 (s.ctx 0 3).pend = some ([], anRmw (.fld true) 16 2 0) ∧ (s.ctx 0 3).st = .stopped ∧ s.badAt 0x15000 16 = false ∧
       ({ s with bad := [0x15000 / 64] } : State).badAt 0x15000 16 = true) := by
  unfold Next State.MemOk; decide +kernel

/-! ### Witnesses: traps, system registers, system instructions -/

/-- WhatHoldsBack: an empty predicate, a false one, an empty source under each selector, an empty destination; program state. -/
theorem witness_whatHoldsBack : ({} : Ctx).pfx.legal (FR.need ⟨1, 5, 1, 1, 2, 0⟩) = true ∧ ({ pE := [(1, true)] } : Ctx).fullP 1 = false ∧
    (({} : Ctx).fullP 1 = true ∧ ({} : Ctx).rdP 1 = false) ∧ (({} : Ctx).fullP 0 = true ∧ ({} : Ctx).rdP 0 = true) ∧
    (((1 : BitVec 1) = 1) ∧ ({ sE := [(1, true)] } : Ctx).full 1 = false) ∧ (((0 : BitVec 1) = 1 → ({ sE := [(1, true)] } : Ctx).full 1 = true) ∧
      ({ sE := [(1, true)] } : Ctx).full 1 = false) ∧ ({ sE := [(5, true)] } : Ctx).full 5 = false ∧ ({} : Ctx).sys = false ∧ ({} : Ctx).pfx = {} ∧
    (0x1B ≤ (0x1B : BitVec 8).toNat ∧ (0x3A : BitVec 8).toNat ≤ 0x3A) ∧ (0x0E ≤ (0x0E : BitVec 8).toNat ∧ (0x19 : BitVec 8).toNat ≤ 0x19 ∧ (0x19 : BitVec 8) ≠ 0x0F) := by
  decide +kernel
/-- A context in its handler: INTRAP is bit 46 of TSTAT. -/
def inTrap : Ctx := { sysCtx with tstat := 2 ^ 46 + 2 ^ 43 }
/-- TrapEntry, TrapAndReturn: outside a handler, inside one, delegating; a ring with its last place free, a ring that is none. -/
theorem witness_traps : sysCtx.intrap = false ∧ inTrap.intrap = true ∧ ((0 : Nat) ≠ 3 ∧ ({ tctl := 0x104 } : Ctx).tctl.getLsbD 8 = true) ∧
    ¬((3 : Nat) ≠ 3 ∧ sysCtx.tctl.getLsbD 8 = true) ∧ 127 < 128 ∧
    (let c : Core := { fringLog := 4, frtail := 15 }
     4 ≤ c.fringLog ∧ c.fringLog ≤ 10 ∧ c.frtail < 2 ^ 32 ∧ c.frhead ≤ c.frtail ∧ c.frtail - c.frhead < 2 ^ c.fringLog ∧ c.fringBase + 64 * 2 ^ c.fringLog ≤ 0x200000) ∧
    (({} : Core).fringLog < 4) ∧ 10 < ({ fringLog := 11 } : Core).fringLog ∧ Ready { p := 0 } sysCtx ∧ Ready { p := 0, sys := true } inTrap ∧
    ((st sysCtx 3).ctx 0 0).st ≠ .stopped ∧ PastTrap (st sysCtx) { pc := 0x15008, trapAt := 0x15004 } ∧
    ¬PastTrap (st sysCtx) { pc := 0x1500C, trapAt := 0x15004 } ∧ ¬PastTrap (st sysCtx) { pc := 0x15008, trapAt := 0x15004, pfx := { k := 1 } } ∧
    (({ landed := some {} } : Ctx).state = .stopped ∧ ({ landed := some {} } : Ctx).st ≠ .stopped ∧ sysCtx.state ≠ .stopped) ∧ ({ st := .stopped, why := .delegated } : Ctx).why ≠ .double ∧ ({ st := .stopped, why := .cut } : Ctx).why = .cut := by
  unfold Ready PastTrap; decide +kernel

/-- SystemRegisterReads, SystemRegisterWrites: the first and the last number of each table, another context's register from c3 and from a role
context; a value of OVFTAB that is legal and one that is not; engines done and not. -/
theorem witness_systemRegisters : Ready (mfNeed ⟨0, 5, 0, 0, 0x00⟩) sysCtx ∧ Ready (mfNeed ⟨0, 5, 0, 0, 0x3A⟩) sysCtx ∧ Ready (mfNeed ⟨0, 5, 1, 2, 0x02⟩) {} ∧
    ¬((0 : Nat) = 3 ∧ ({} : Ctx).sys = true) ∧ Ready (mtNeed ⟨0, 5, 0, 0, 0, 0x02⟩) {} ∧ Ready (mtNeed ⟨0, 5, 0, 1, 2, 0x2F⟩) sysCtx ∧ ((st sysCtx).ctx 0 2).state = .idle ∧ ({ landed := some {} } : Ctx).state = .stopped ∧
    Ready { p := 0, src := [(5, false)] } sysCtx ∧ Ready { p := 0, sys := true, src := [(4, false)] } sysCtx ∧
    ((2 : Nat) ^ 32 - 1 < 2 ^ 32 ∧ ∀ i, i < 16 → field 0x15800 (2 * i) 2 ≠ 3) ∧ ¬(2 ^ 32 < 2 ^ 32) ∧ ({} : Core).engDone 3 = true ∧
    ({ engs := [(2, { cmds := [{ idx := 0, entry := [0, 0, 0, 0, 0, 0, 3, 0] }] })] } : Core).engDone 3 = false := by
  unfold Ready; and_intros
  all_goals decide +kernel

/-- Invalidation: a page named at its last byte, nothing outstanding, and an access outstanding; the pen of the reflection entries. -/
theorem witness_invalidation : Ready { p := 0, sys := true, src := [(1, false), (2, false)] } sysCtx ∧ Ready { p := 0, sys := true, src := [(1, false)] } sysCtx ∧
    Ready { p := 0, sys := true } sysCtx ∧ sysCtx.drained = true ∧ (st sysCtx).invalDone 16 [⟨16, 0, false, 0x15000, 4096, 0⟩] = true ∧
    ({ sysCtx with pend := [older] } : Ctx).drained = false ∧ (queueSt {}).penOf 0 = some 1 ∧ Ready { p := 0, src := [(1, false), (2, false)] } (queueSt {}).cur := by
  unfold Ready; decide +kernel

/-- A package of one pen, with s1 set in c3. -/
def penSt (p : Pen) (s8 s9 : Dword) : State := { st ((sysCtx.wr 8 s8).wr 9 s9) with pens := [(1, { p with sheds := [0] })] }
/-- A package where c3 of core 0 has asked pen 1 for a stop of instance 1, before the host did. -/
def askSt (p : Pen) : State := { st { sysCtx with req := some (7, 0) } with pens := [(1, { p with sheds := [0], cutAsks := [(4, 2 ^ 96), (0, 2 ^ 97)] })] }
/-- StopRequest: instance number 0; number 1 with no stop and with one in progress; the answers; a role context; the requests of one tick. -/
theorem witness_stopRequest : Ready { p := 0, undef := decide ((8 : BitVec 5).toNat % 2 = 1), src := [(8, false), (9, false)], pdst := [2] } (penSt {} 0 0).cur ∧
    (penSt {} 0 0).cur.req = none ∧ ((penSt {} 0 0).cur.rd 8).toNat + ((penSt {} 0 0).cur.rd 9).toNat * 2 ^ 64 < 2 ^ 96 ∧
    2 ^ 96 ≤ ((penSt {} 0 (2 ^ 32)).cur.rd 8).toNat + ((penSt {} 0 (2 ^ 32)).cur.rd 9).toNat * 2 ^ 64 ∧ (penSt {} 0 (2 ^ 32)).cur.drained = true ∧ undrained.drained = false ∧
    (penSt {} 0 (2 ^ 32)).penOf 0 = some 1 ∧
    (Ready { p := 0, undef := decide ((8 : BitVec 5).toNat % 2 = 1), src := [(8, false), (9, false)], pdst := [2] } { sysCtx with req := some (7, 2) } ∧
      ({ sysCtx with req := some (7, 2) } : Ctx).req = some (7, 1 + 1)) ∧
    (((askSt {}).ctx 0 3).req = some (7, 0) ∧ ((askSt { cutBusy := true }).pen 1).cutBusy = true ∧ ((askSt {}).pen 1).cutBusy = false ∧
      2 ^ 96 ≤ 2 ^ 128 - 1 ∧ (2 ^ 97 : Nat) < 2 ^ 128) ∧
    (∃ p : Pen, (askSt {}).pens = [(1, p)] ∧ p.cutAsks = [(4 * 0 + 4, 2 ^ 96), (0, 2 ^ 97)] ∧ p.cutBusy = false) := by
  unfold Ready; and_intros
  all_goals first | exact ⟨_, rfl, rfl, rfl⟩ | decide +kernel

/-- A package whose first GiB is mapped at its own addresses by one leaf, with a save area at 0x10_0000 whose header has VERSION 3.0 and
names instance 1, and no step, command or range, GENPROF 1 in each section; core 0 is k, and s1 of its c3 is the area's address. Memory is listed in its canonical form. -/
def areaSt (k : Core) (insts : List Inst) : State :=
  { stc k { (sysCtx.wr 1 0x100000) with wb0 := 0x10000 } with
    mem := [(0x10000, 0x01), (0x10001, 0x10), (0x10002, 0x01), (0x11000, 0x01), (0x11001, 0x20), (0x11002, 0x01), (0x12000, 0xEF), (0x12001, 0x0C), (0x12007, 0x01),
            (0x100001, 3), (0x10003C, 1), (0x101015, 1), (0x105815, 1), (0x10A015, 1)],
    ranges := [⟨0, 0, 0, 0, 0x40000000, true⟩], insts := insts, pens := [(1, { sheds := [0], enable := true, walkSlots := [(0, 1)], areas := [⟨0x100000, 1, 0, []⟩] })] }
def instOne : Inst := { num := 1, pen := 1, record := 0, prio := 0, spaceid := 0, wb0 := 0x10000, wb1 := 0 }
/-- With instance 1 accepted, or not. -/
def anArea (b : Bool) : State := areaSt {} (if b then [instOne] else [])
/-- Who reads it, through which space: core 0's c3, or the distributor for instance 1. -/
def aSpace (c : Bool) : Space := if c then (anArea true).cur.space else instOne.space false
def aWho (c : Bool) : Who := if c then (anArea true).whoCtx 0 3 0 else { core := 0, ctx := 3 }
/-- The leaf, and its cached translation. -/
def aLeaf : Nat := 0xCEF + 2 ^ 56
def aTlb : Tlb := ⟨1, 0, false, 0, 2 ^ 30, aLeaf⟩
/-- The state after the first access through it, when k free values have been used. -/
def cached (b : Bool) (k : Nat) : State := { anArea b with tlb := [aTlb], free := k }
/-- The pieces of a read of the area's fixed part. -/
def piece (i : Nat) : Nat × Nat := (0x100000 + 0x1000 * i, if i = 22 then 0x800 else 0x1000)
/-- A piece that a cached leaf and a walk translate alike translates so, whatever free value chooses between them. -/
theorem alike (s : State) (sp : Space) (w : Who) (kind : Nat) (home : Bool) (va : Nat) (t : Tlb) (r : Piece × State)
    (hc : w.cached = false) (h1 : canonical va = true) (h2 : (systemHalf va && !sp.sys) = false)
    (hf : s.tlb.filter (fun t => t.covers (s.walkPen w) sp.spaceid va && (!(kind == 1 || kind == 2) || field t.leaf 6 1 == 1)) = [t])
    (ha : ({ s with free := s.free + 1 } : State).useLeaf sp w kind home va t.leaf (sizeLevel (field t.leaf 10 2)) none = r)
    (hb : ({ s with free := s.free + 1 } : State).walkMiss sp w kind home va = r) : s.xlatePiece sp w kind home va = r := by
  unfold State.xlatePiece
  simp only [hc, h1, h2, hf, State.draw, Bool.not_true, Bool.false_eq_true, if_false, List.length_cons, List.length_nil]
  have h : Config.free s.free % (0 + 1 + 1) = 0 ∨ Config.free s.free % (0 + 1 + 1) = 1 := by omega
  rcases h with h | h <;> rw [h]
  · exact ha
  · exact hb
theorem pieceRead : ∀ b c : Bool, ∀ i : Nat, i < 23 →
    (cached b i).xlatePiece (aSpace c) (aWho c) kRead false (piece i).1 = (.ok (piece i).1 aLeaf, cached b (i + 1)) := by
  have h : ∀ b c : Bool, ∀ i : Nat, i < 23 → canonical (piece i).1 = true ∧ (systemHalf (piece i).1 && !(aSpace c).sys) = false ∧
      ((cached b i).tlb.filter (fun t => t.covers ((cached b i).walkPen (aWho c)) (aSpace c).spaceid (piece i).1 &&
        (!(kRead == 1 || kRead == 2) || field t.leaf 6 1 == 1)) = [aTlb]) ∧
      (cached b (i + 1)).useLeaf (aSpace c) (aWho c) kRead false (piece i).1 aTlb.leaf (sizeLevel (field aTlb.leaf 10 2)) none =
        (.ok (piece i).1 aLeaf, cached b (i + 1)) ∧
      (cached b (i + 1)).walkMiss (aSpace c) (aWho c) kRead false (piece i).1 = (.ok (piece i).1 aLeaf, cached b (i + 1)) := by decide +kernel
  intro b c i hi
  obtain ⟨h1, h2, h3, h4, h5⟩ := h b c i hi
  exact alike _ _ _ _ _ _ aTlb _ (by cases c <;> rfl) h1 h2 h3 h4 h5
/-- The translation of n of its pieces. -/
def aXl (i n : Nat) : Xl :=
  { segs := (List.range' i n).map piece, leaves := List.replicate n aLeaf, leaf := if n = 0 then 0 else leafTag aLeaf }
theorem piecesRead (b c : Bool) : ∀ n : Nat, n ≤ 23 → (cached b (23 - n)).xlateAll (aSpace c) (aWho c) kRead false ((List.range' (23 - n) n).map piece) =
    (aXl (23 - n) n, cached b 23) := by
  intro n
  induction n with
  | zero => intro _; rfl
  | succ n ih =>
    intro hn
    have e : 23 - (n + 1) + 1 = 23 - n := by omega
    unfold aXl
    rw [List.range'_succ, List.map_cons, e]
    show (cached b (23 - (n + 1))).xlateAll (aSpace c) (aWho c) kRead false (((piece (23 - (n + 1))).1, (piece (23 - (n + 1))).2) :: _) = _
    rw [State.xlateAll, pieceRead b c _ (by omega), e]
    simp only [ih (by omega), aXl]
    have t : (if n = 0 then 0 else leafTag aLeaf) ||| leafTag aLeaf = leafTag aLeaf := by split <;> decide
    rw [t]; rfl
/-- No register block lies in the first 6 GiB. -/
theorem noRegs (l : List (Nat × Nat)) (va : Nat) (h : ∀ g ∈ l, g.1 + g.2 ≤ 6 * 2 ^ 30) : firstByte (fun pa => tierOf pa == .regs) va l = none := by
  induction l generalizing va with
  | nil => rfl
  | cons g l ih =>
    obtain ⟨pa, n⟩ := g
    have hn : (List.range n).find? (fun j => tierOf (pa + j) == .regs) = none := by
      refine List.find?_eq_none.2 fun j hj => ?_
      have h1 := h (pa, n) (List.mem_cons_self ..)
      have h2 := List.mem_range.1 hj
      have h3 : pa + j < 9 * 2 ^ 33 ∧ (pa + j) % 2 ^ 33 < 6 * 2 ^ 30 := by simp only at h1; omega
      have h4 : tierOf (pa + j) = .near ((pa + j) / 2 ^ 33) := if_pos h3
      rw [h4]; simp
    rw [firstByte, hn]
    exact ih _ fun g hg => h g (List.mem_cons_of_mem _ hg)
/-- What the read of the fixed part gives. -/
theorem piecesAll (b c : Bool) :
    (cached b 0).xlateAll (aSpace c) (aWho c) kRead false (pieces (0x16800 / 4096 + 2) 0x100000 0x16800) = (aXl 0 23, cached b 23) := by
  rw [show pieces (0x16800 / 4096 + 2) 0x100000 0x16800 = (List.range' 0 23).map piece by decide +kernel]; exact piecesRead b c 23 (by omega)
theorem fixedXlate (b c : Bool) : (cached b 0).xlate (aSpace c) (aWho c) kRead false 0x100000 0x16800 = (aXl 0 23, cached b 23) := by
  have h1 : (aXl 0 23).busy = false := rfl
  have h2 : ((aXl 0 23).flt.isNone && (aXl 0 23).segs.any (fun g => !(cached b 0).routed (aWho c).onDie (homeDie g.1))) = false := by
    cases b <;> cases c <;> decide +kernel
  unfold State.xlate; rw [piecesAll]; simp only [h1, h2, Bool.false_eq_true, if_false]
theorem fixedAllowed (b c : Bool) : (cached b 23).refusal (aWho c).core false (partsOf (aXl 0 23).segs) 0x100000 = none := by
  cases b <;> cases c <;> decide +kernel
theorem fixedHeat (b c : Bool) : (cached b 23).heatAll (aWho c) (aSpace c) 0x100000 (aXl 0 23) = cached b 23 := by
  cases b <;> cases c <;> decide +kernel
/-- Nothing refuses a range of memory that its targets grant. -/
theorem noFault {s : State} {w : Who} {va : Nat} {x : Xl} (h1 : x.flt = none) (h2 : ∀ g ∈ x.segs, g.1 + g.2 ≤ 6 * 2 ^ 30)
    (h3 : s.refusal w.core false (partsOf x.segs) va = none) : s.areaFault w false va x = none := by
  simp only [State.areaFault, h1, h3, noRegs x.segs va h2]
theorem fixedFault (b c : Bool) : (cached b 23).areaFault (aWho c) false 0x100000 (aXl 0 23) = none := noFault rfl (by decide +kernel) (fixedAllowed b c)
theorem fixedRead (b c : Bool) : (cached b 0).areaRead (aSpace c) (aWho c) 0x100000 0x16800 = .ok (getImage (cached b 23).mem 0 (aXl 0 23).segs) (cached b 23) := by
  have h1 : (aXl 0 23).busy = false := rfl
  unfold State.areaRead
  simp only [fixedXlate, fixedFault, fixedHeat, h1, Bool.false_eq_true, if_false]
/-- The area as read. -/
def anAreaIn (b : Bool) : AreaIn := ⟨0x300 + 2 ^ 480, getImage (cached b 23).mem 0 (aXl 0 23).segs, [], []⟩
theorem areaLoads (b c : Bool) : (anArea b).loadArea (aSpace c) (aWho c) 0x100000 = .ok (anAreaIn b) (cached b 23) := by
  have h2 : (anArea b).areaRead (aSpace c) (aWho c) 0x100000 64 = .ok (getImage (cached b 0).mem 0 [(0x100000, 64)]) (cached b 0) := by
    cases b <;> cases c <;> rfl
  have h3 : readLE (getImage (cached b 0).mem 0 [(0x100000, 64)]) 0 64 = 0x300 + 2 ^ 480 := by cases b <;> cases c <;> decide +kernel
  unfold State.loadArea State.areaThen
  simp only [h2, h3]
  rw [if_neg (by decide +kernel), show hFixed (0x300 + 2 ^ 480) = 0x16800 by decide +kernel, fixedRead]
  simp only []
  rw [show hBytes (0x300 + 2 ^ 480) = 0 by decide +kernel]
  simp only [State.readArea, if_true]
  rw [if_pos (by decide +kernel)]; rfl
theorem areaRestores : (cached false 23).mayRestore 0 (anAreaIn false) = false ∧ (cached true 23).mayRestore 0 (anAreaIn true) = true ∧
    ((cached true 23).core 0).shadowRoom (anAreaIn true) = true ∧ ((cached true 23).restore 0 (anAreaIn true)).1 = true := by decide +kernel
/-- A saving that is done, with its length. -/
def savedLen (s : State) : Option Nat := match s.savePre 0 s.cur.space (s.whoCtx 0 3 0) with
  | .done n _ => some n
  | _ => none
/-- SaveAndRestore: `cpre` where it is barred, of nothing, misaligned, and with its area written; `cres` of an area whose instance is not and is
accepted, and into a core that is not idle. -/
theorem witness_saveAndRestore : (Ready { p := 0, sys := true, src := [(1, false)], dst := [2] } (anArea true).cur ∧
      Ready { p := 0, sys := true, src := [(1, false)] } (anArea false).cur) ∧
    ((∃ x ∈ [0, 1, 2], ((areaSt { ctxs := [(0, { st := .stopped })] } []).ctx 0 x).st = .stopped) ∧ ¬(∃ x ∈ [0, 1, 2], ((anArea true).ctx 0 x).st = .stopped ∨
      ((anArea true).ctx 0 x).intrap = true) ∧ ((sysCtx.wr 1 1).rd 1).toNat % 4096 ≠ 0) ∧
    (((anArea true).cur.rd 1).toNat = 0x100000 ∧ (anArea true).cur.space = aSpace true ∧ (anArea true).whoCtx 0 3 (anArea true).cur.group.toNat = aWho true) ∧
    (((anArea true).pen (((anArea true).penOf 0).getD 16)).cutBusy = false ∧ ((anArea true).core 0).bind = none ∧ ((anArea true).core 0).pre = none) ∧
    savedLen (areaSt { pre := some { area := 0x100000, byC3 := true, safe := true }, bind := some { inst := 1 } } [instOne]) = some 0 ∧
    (anArea false).cur.drained = true ∧ (∀ x ∈ [0, 1, 2], (((anArea false).core 0).ctx x).st = .idle) := by
  unfold Ready; decide +kernel
/-- A pair by its first half. -/
theorem pair_of {α β : Type} {p : α × β} {a : α} (h : p.1 = a) : ∃ b, p = (a, b) := ⟨p.2, by rw [← h]⟩
/-- Its areas, as they are read (areaLoads), and what the restores then need (areaRestores). -/
theorem witness_restore : ∀ b, ∃ a s1, (anArea b).loadArea (aSpace true) (aWho true) 0x100000 = .ok a s1 ∧ s1.mayRestore 0 a = b ∧
    (b = true → (s1.core 0).shadowRoom a = true ∧ ∃ s2, s1.restore 0 a = (true, s2)) := by
  intro b
  obtain ⟨h0, h1, h2, h3⟩ := areaRestores
  refine ⟨anAreaIn b, cached b 23, areaLoads b true, ?_⟩
  cases b
  · exact ⟨h0, nofun⟩
  · exact ⟨h1, fun _ => ⟨h2, pair_of h3⟩⟩

/-! ### Witnesses: engine commands -/

/-- A core whose engine e has the ring g; its c3 is the issuer, with s1. -/
def ringSt (e : Nat) (g : Eng) (s1 : Dword) : State := { stc { engs := [(e, g)] } (sysCtx.wr 1 s1) with pens := [(1, { sheds := [0], grpHi := 100 })] }
/-- A ring of sixteen entries at 0x1000, with n entries in it. -/
def ringOf (n : Nat) : Eng := { base := 0x1000, logsize := 4, tail := n }
/-- A tail of stage n. -/
def tailAt (n : BitVec 3) : Tail := ⟨0, 0, 1, 4, n, 0, 0, 0x100⟩
/-- What is ready when every slot is a scalar that holds s1. -/
def slotsNeed : Need := { p := 0, words := 2, xim := 2, rep := some (true, true, true, false), src := slotReads ⟨0, 1, 0, 1, 0, 1, 0⟩ true true true }
/-- VectorCommandsIssue, ScalarSlotCommandsIssue: what is ready; c3 at a stage other than 0; a size below the range and one above it; a full
ring, one in which c3 has appended in this tick, and one with its last entry free, for each end of the range; tails that are legal, and one
with a rounding mode that is none. -/
theorem witness_commandsIssue : (Ready { p := 0, words := 2, rep := some (true, true, true, false) } sysCtx ∧
      Ready { p := 0, words := 2, rep := some (true, true, true, false), dst := [5] } sysCtx ∧ Ready slotsNeed (ringSt 2 (ringOf 15) 7).cur) ∧
    (TailGood (.vadd ⟨0, 3, 1, 2⟩ (tailAt 0)) (tailAt 0) ∧ ¬TailGood (.vfadd ⟨0, 3, 1, 2⟩ ⟨0, 0, 0, 0, 0, 0, 0, 0x206⟩) ⟨0, 0, 0, 0, 0, 0, 0, 0x206⟩) ∧
    ((ringSt 2 (ringOf 15) 7).stageKey 1 = none ∧ (ringSt 2 (ringOf 15) 7).stageKey (tailAt 0).stage.toNat = some (0, {}) ∧ ((ringOf 0).logsize - 1 < 4) ∧ (12 < 13) ∧
      (2 ^ (ringOf 16).logsize ≤ (ringOf 16).tail - (ringOf 16).head) ∧ ¬RingTakes 2 (ringSt 2 (ringOf 16) 7) ∧
      ¬RingTakes 2 { stc { engs := [(2, { ringOf 15 with last := (0, 3) })] } sysCtx 0 with tick := 0 }) ∧
    RingTakes 2 (ringSt 2 (ringOf 15) 7) ∧ RingTakes 1 (ringSt 1 { logsize := 12, tail := 4095 } 7) ∧ RingTakes 3 (ringSt 3 (ringOf 15) 7) ∧
    RingTakes 4 (ringSt 4 (ringOf 0) 7) := by
  unfold Ready RingTakes TailGood tailLegal; and_intros
  all_goals decide +kernel
/-- ScalarSlotCommandsIssue: the last slice and one past it. -/
theorem witness_tileSlices : Ready { p := 0, words := 2, rep := some (true, true, false, true), src := [(1, false)] } (sysCtx.wr 1 31) ∧
    ((sysCtx.wr 1 31).rd 1 + (0 : BitVec 5).setWidth 64).toNat ≤ 31 ∧ 31 < ((sysCtx.wr 1 31).rd 1 + (1 : BitVec 5).setWidth 64).toNat :=
  ⟨ready (by decide +kernel), by decide +kernel, by decide +kernel⟩
/-- CollectivesIssue: the longest length and one past it, the last group of the pen and one past it. -/
theorem witness_collectivesIssue : Ready { p := 0, words := 2, xim := 2, rep := some (true, true, true, false), src := slotReads ⟨0, 1, 0, 1, 0, 1, 0⟩ true true true ++ [(1, decide ((0x20 : BitVec 10).toNat / 16 % 2 = 1))] } (ringSt 4 (ringOf 15) 100).cur ∧
    RingTakes 4 (ringSt 4 (ringOf 15) 100) ∧ ((ringSt 4 (ringOf 15) 100).cur.rd 1).toNat < 2 ^ 20 ∧ (ringSt 4 (ringOf 15) 100).groupOk 0 100 = true ∧
    2 ^ 20 ≤ ((ringSt 4 (ringOf 15) 0x100000).cur.rd 1).toNat ∧ (ringSt 4 (ringOf 15) 101).groupOk 0 101 = false ∧ TailGood (.collSum 3 ⟨0, 1, 0, 1, 0, 1, 0⟩ ⟨0, 0, 0, 0, 0, 0, 0, 0x20⟩) ⟨0, 0, 0, 0, 0, 0, 0, 0x20⟩ := by
  unfold Ready RingTakes TailGood tailLegal; and_intros
  all_goals decide +kernel

/-! ### Witnesses: engines -/

/-- A command of a word and a tail, with its operands. -/
def cmdOf (w t a b c : Nat) : Cmd := { idx := 0, entry := [w + t * 2 ^ 32, a, b, c, 0, 0, 3, 0], started := true }
/-- A `fill` of n bytes at 0x100 of the core's scratchpad; the tail names gate 4 to take, or counter 4, or neither. -/
def aFill (t n : Nat) : Cmd := cmdOf (0x6A * 2 ^ 25) (t + 0x100) 0x100 0x0807060504030201 n
/-- Core 0 with a `fill` appended at the start of its X ring, and g units at gate 4, x in counter 4. -/
def fillSt (t g : Nat) (x : Int) : State :=
  { stc { engs := [(3, { base := 0x1000, logsize := 4, tail := 1, apps := [⟨0, 3, 0, (aFill t 3).entry, false⟩] })],
          sp := writeLE [] 0x1000 64 ((aFill t 3).entry.foldr (fun x n => x + 2 ^ 64 * n) 0), gates := [(4, g)], ctrs := [(4, x)] } sysCtx with
    pens := [(1, { sheds := [0] })] }
/-- Core 0 with a command that its engine has started. -/
def runSt (e : Nat) (m : Cmd) : State := { stc { engs := [(e, { base := 0x1000, logsize := 4, tail := 1, cmds := [m] })] } sysCtx with pens := [(1, { sheds := [0] })] }
/-- What a run of a command gives when it completes. -/
def runDone (r : Eff) : Option (Nat × Nat × Option (Nat × Nat)) := match r with
  | .done _ f n x => some (f, n, x)
  | _ => none
/-- A run that completes completes in some state. -/
theorem done_of {r : Eff} {f n : Nat} {x : Option (Nat × Nat)} (h : runDone r = some (f, n, x)) : ∃ s1, r = .done s1 f n x := by
  cases r with
  | done s1 f' n' x' => simp [runDone] at h; obtain ⟨rfl, rfl, rfl⟩ := h; exact ⟨s1, rfl⟩
  | _ => simp [runDone] at h
/-- A tail that takes gate 4. -/
def takes4 : Nat := 2 ^ 31 + 4 * 2 ^ 26
/-- EngineCommands: an append behind an access that is not performed, and one behind none; a fill that takes gate 4; a command that waits for
its counter, and an entry that no tail is and one of another engine; a run that completes. -/
theorem witness_engineCommands : (let s := fillSt takes4 1 0
      (s.eng 0 3).apps = [⟨0, 3, 0, (aFill takes4 3).entry, false⟩] ∧ (s.ctx 0 3).drainedBefore 0 = true ∧ (s.eng 0 3).starting = false ∧
        (∀ i, i < (aFill takes4 3).entry.length → readLE (s.core 0).sp ((s.eng 0 3).slotAt 0 + 8 * i) 8 = (aFill takes4 3).entry.getD i 0) ∧
        s.entryWait 0 3 (aFill takes4 3) = false ∧ (s.core 0).waiters 4 = [] ∧ 1 ≤ mget 0 (s.core 0).gates 4) ∧
    ({ sysCtx with pend := [older] } : Ctx).drainedBefore 1 = false ∧
    (let m := aFill takes4 3
     m.tailBad = false ∧ m.mine 3 = true ∧ m.ce = false ∧ m.ae = true ∧ m.ag = 4 ∧ m.major = 0x6A) ∧
    (let m := cmdOf (0x44 * 2 ^ 25) (2 ^ 16 + 4 * 2 ^ 10) 0 0 0
     m.tailBad = false ∧ m.mine 2 = true ∧ m.ce = true ∧ delivers m = false ∧ m.streams = false ∧ mget 0 ((fillSt 0 1 1).core 0).ctrs m.ctr ≠ 0) ∧
    ((aFill (4 * 2 ^ 26) 3).tailBad = true ∧ (aFill 0 3).mine 2 = false) ∧
    ((runSt 3 (aFill 0 3)).pick 0 3 = (some (aFill 0 3), runSt 3 (aFill 0 3)) ∧ (aFill 0 3).re = false ∧ (aFill 0 3).ce = false ∧
      runDone ((runSt 3 (aFill 0 3)).run 0 3 { aFill 0 3 with budget := none }) = some (0, 3, none)) := by decide +kernel
/-- So it is a run that completes. -/
theorem witness_runCompletes : ∃ s1, (runSt 3 (aFill 0 3)).run 0 3 { aFill 0 3 with budget := none } = .done s1 0 3 none :=
  done_of witness_engineCommands.2.2.2.2.2.2.2.2
/-- A chain of core 0's c3 with one further step, at an address. -/
def aChain (step addr : Nat) : FChain := { id := 7, core := 0, isCtx := true, ctx := 3, seq := 0, step := step, addr := addr }
/-- It, on a page with the further leaf bits f; its last step loads, or adds (fin 4). -/
def chainSt (f fin step addr : Nat) : State :=
  let s := mapped rw (cMask + 2 ^ 61 + f) 0
  { s.setCtx 0 3 { s.ctx 0 3 with pend := [{ seq := 0, op := .chain fin 1, len := 8, data := 8, dst := some 5 }] } with fchains := [aChain step addr] }
/-- What such a chain's step reads. -/
def chainXl (f fin kind : Nat) (home : Bool) (step addr : Nat) : Option Xl :=
  let s := chainSt f fin step addr
  (s.chainEnv (aChain step addr)).map (fun v => (s.xlate v.sp v.w kind home addr 8).1)
/-- A multicast of core 0 that has sent its bytes to cores 0 and 1 and names counter 4. -/
def aMcast : Cmd := { cmdOf (0x69 * 2 ^ 25) (2 ^ 16 + 4 * 2 ^ 10) 0 0 0 with sent := true, dests := [0, 1], out := 64 }
/-- ChainsAndMulticasts: a misaligned step, one at the page's last dword, a final load there, a final atomic at a write-blocked page, and a multicast with a counter
at the end of its range. -/
theorem witness_chainsAndMulticasts : (∀ addr ∈ [0x15004, 0x15FF8], let s := chainSt 0 3 0 addr
      s.fchains.find? (fun c => c.id == 7) = some (aChain 0 addr) ∧ (aChain 0 addr).wblk = none ∧ (aChain 0 addr).pa = none ∧ ((s.ctx 0 3).mayPerform 0).isSome = true ∧
        (s.chainEnv (aChain 0 addr)).map ChainEnv.ns = some 1) ∧
    (0x15004 % 8 ≠ 0 ∧ (chainXl 0 3 kRead false 0 0x15FF8).map (fun x => (x.flt, x.wait, x.segs, field x.leaf 8 2, x.busy)) = some (none, none, [(0x15FF8, 8)], 0, false) ∧
      (chainSt 0 3 0 0x15FF8).targetCheck 0 0x15FF8 8 false = none ∧ (chainSt 0 3 0 0x15FF8).chainWaits (aChain 0 0x15FF8) false [(0x15FF8, 8)] = false) ∧
    (((chainSt 0 3 1 0x15FF8).chainEnv (aChain 1 0x15FF8)).map (fun v => (v.ns, v.fin, v.len)) = some (1, 3, 2 ^ 3) ∧ 0x15FF8 % 64 + 8 ≤ 64 ∧ (aChain 1 0x15FF8).units = [] ∧
      (aChain 1 0x15FF8).got = [] ∧ (chainXl 0 3 kRead false 1 0x15FF8).map (fun x => (x.flt, x.wait, x.segs, field x.leaf 8 2, x.busy)) = some (none, none, [(0x15FF8, 8)], 0, false) ∧
      (chainSt 0 3 1 0x15FF8).routed (homeDie 0x15FF8) (dieOf 0) = true ∧ (chainSt 0 3 1 0x15FF8).chainWaits (aChain 1 0x15FF8) false [(0x15FF8, 8)] = false) ∧
    (((chainSt (2 ^ 62) 4 1 0x15FF8).chainEnv (aChain 1 0x15FF8)).map (fun v => (v.ns, v.fin)) = some (1, 4) ∧
      (chainXl (2 ^ 62) 4 kRmw true 1 0x15FF8).map (fun x => (x.flt, x.wait, x.segs, x.busy)) = some (none, some 0x15FF8, [], false)) ∧
    ((runSt 3 aMcast).eng 0 3).cmds.find? (fun m => !m.ended) = some aMcast ∧ aMcast.major = 0x69 ∧ aMcast.dests.contains 1 = true ∧ aMcast.ce = true ∧
    -2 ^ 31 ≤ mget 0 ((runSt 3 aMcast).core 1).ctrs aMcast.ctr - (aMcast.out : Int) ∧
    -2 ^ 31 ≤ mget 0 ((stc { ctrs := [(4, -2 ^ 31 + 64)] } sysCtx).core 0).ctrs 4 - (aMcast.out : Int) := by
  and_intros
  all_goals decide +kernel
/-- A vector `add` of v1 and v2 into v3, of elements of type ty. -/
def aVadd (ty : Nat) : Cmd := cmdOf (0x44 * 2 ^ 25 + 3 * 2 ^ 17 + 1 * 2 ^ 12 + 2 * 2 ^ 7) (64 * (ty / 4 % 4) * 4 + 64 * (ty % 4)) 0 0 0
/-- EngineResults: a fill of no byte, and one up to the end of the scratchpad; vector functions of the narrowest and the widest integers. -/
theorem witness_engineResults : (runSt 3 (aFill 0 0)).pick 0 3 = (some (aFill 0 0), runSt 3 (aFill 0 0)) ∧
    (let m := { aFill 0 0 with entry := [(0x6A * 2 ^ 25) + 0x100 * 2 ^ 32, 0x1FFFF0, 1, 16, 0, 0, 3, 0] }
     m.major = 0x6A ∧ m.fn = 0 ∧ field m.esp 0 8 = 0 ∧ field m.esp 8 2 = 1 ∧ m.opc < 2 ^ 32 ∧ m.opa + m.opc = 0x200000 ∧ m.done = 0 ∧ m.ce = false ∧ m.re = false) ∧
    Memory.wf ((runSt 3 (aFill 0 0)).core 0).sp = true ∧
    (∀ ty ∈ [0, 7], (runSt 2 (aVadd ty)).pick 0 2 = (some (aVadd ty), runSt 2 (aVadd ty)) ∧ (aVadd ty).major = 0x44 ∧ field (aVadd ty).word 0 7 = 0 ∧ field (aVadd ty).esp 3 3 = 0 ∧
      field (aVadd ty).esp 0 3 = 0 ∧ (aVadd ty).re = false) ∧ Ty.ofVec (field (aVadd 0).esp 6 4) = .int 4 true ∧ Ty.ofVec (field (aVadd 7).esp 6 4) = .int 32 false ∧
    laneOps.map Prod.fst = [0, 1, 4, 14, 15] := by decide +kernel
/-- EngineResults: `vld` and `vst` of v3 at the end of the scratchpad; `tzero` of tile 7; `tld` of tile 5 that ends there, rising and falling; `vtwr`
of the last row and of the last column of tile 7, from each type of word and from the last quarter. -/
theorem witness_loadsAndTiles : (∀ n ∈ [0, 1], let m := cmdOf (0x40 * 2 ^ 25 + 3 * 2 ^ 11 + n) 0x10 0x1FFE00 0 0
      (runSt 2 m).pick 0 2 = (some m, runSt 2 m) ∧ Untouched m ∧ m.major = 0x40 ∧ m.fn = n ∧ m.noC = true ∧ m.fbSel = 0 ∧ m.sb = 3 ∧ field m.esp 0 4 = 0 ∧
        field m.esp 4 2 = 1 ∧ field m.esp 6 4 = 0 ∧ m.opa % 8 = 0 ∧ m.opa + 512 = 0x200000) ∧
    (let m := cmdOf (0x64 * 2 ^ 25) 0x380 0 0 0
     (runSt 1 m).pick 0 1 = (some m, runSt 1 m) ∧ Untouched m ∧ m.major = 0x64 ∧ m.fn = 0 ∧ m.noA = true ∧ m.noB = true ∧ m.noC = true ∧ field m.esp 0 7 = 0 ∧ field m.esp 7 3 = 7) ∧
    (∀ x ∈ [(0x1FF000, 128), (0x1FFF80, 2 ^ 64 - 128)], let m := cmdOf (0x62 * 2 ^ 25) 0x2A0 x.1 x.2 0
      (runSt 1 m).pick 0 1 = (some m, runSt 1 m) ∧ Untouched m ∧ m.major = 0x62 ∧ m.fn = 0 ∧ m.noC = true ∧ field m.esp 3 2 < 2 ∧ field m.esp 0 3 = 0 ∧
        field m.esp 5 2 = 1 ∧ m.opa % 8 = 0 ∧ m.opb % 8 = 0 ∧
        ∀ i : Nat, i < 32 → 0 ≤ m.opa + i * (BitVec.ofNat 64 m.opb).toInt ∧ m.opa + i * (BitVec.ofNat 64 m.opb).toInt + 128 ≤ 0x200000) ∧
    (∀ x ∈ [(0, 3), (1, 7), (1, 15)], let m := cmdOf (0x4F * 2 ^ 25 + 2 * 2 ^ 17 + 7 * 2 ^ 8 + x.1 * 2 ^ 7 + 1) (x.2 * 2 ^ 6 + 0x30) 31 0 0
      (runSt 2 m).pick 0 2 = (some m, runSt 2 m) ∧ Untouched m ∧ m.major = 0x4F ∧ field m.word 0 2 = 1 ∧ field m.esp 6 4 ∈ [3, 7, 15] ∧ field m.esp 0 4 = 0 ∧
        field m.word 7 1 = x.1 ∧ m.opa < 32 ∧ m.sa = 2) := by
  unfold Untouched; and_intros
  all_goals decide +kernel

/-! ### Witnesses: queues, walks, register writes -/

/-- The package once its firmware is accepted and its host link up, with the host and the board controller admitted at every block. -/
def hosted (s : State) : State :=
  { s with powered := true, firmware := some true, hostLink := true, ranges := (List.range 27).flatMap (fun b =>
      [81, 82].map (fun m => ⟨19 + b, m, 0, 0xF00000000000, 0xF00100000000, true⟩)) }
/-- Where the host reaches: the first and the last launch queue's control, PRIOSET, PENCTL, CUTREQ and BRKCTL of the first and the last pen,
BCNCTL, C3START of the first and the last core, and FABID for the board controller; and before the firmware is accepted, or with no entry of
the table, nowhere. -/
theorem witness_hostReaches : (∀ b ∈ [10, 25], ∀ off ∈ [0x08, 0x78, 0x80, 0x88, 0x90, 0x98, 0xE8], HostReaches b off (hosted (st sysCtx))) ∧
    HostReaches 0 0x08 (hosted (st sysCtx)) ∧
    (∀ core ∈ [0, 863], HostReaches (1 + core / 96) (0x30000 + 0x10 * (core % 96)) (hosted (st sysCtx))) ∧
    (hosted (st sysCtx)).granted 82 (regAddr 0 0) 8 true = true ∧ (hosted (st sysCtx)).powered = true ∧
    (let s : State := { hosted (st sysCtx) with firmware := none }
     s.up = false ∧ ¬HostReaches 10 0x08 s ∧ ¬HostReaches 1 0x30000 s) ∧
    ¬HostReaches 25 0x78 { hosted (st sysCtx) with ranges := [] } := by
  unfold HostReaches; decide +kernel

/-- A writer of eight bytes at 0x1_5000 that waits since tick 1, in its list or not, and woken or not. -/
def aPark (b : Bool) (w : Bool := false) : Park := { since := 1, va := 0x15000, kind := 1, n := 8, parked := b, tried := 1, woken := w }
/-- A package where such a writer is core 0's c3, on a page with further leaf bits f. -/
def parkSt (f : Nat) (b : Bool) (w : Bool := false) : State :=
  let s := mapped rw (cMask + f) 0
  s.setCtx 0 3 { s.ctx 0 3 with wblk := some (aPark b w) }
/-- QueuesAndWriters: a queue with one record in its ring and its last place on chip free; a parked writer, one that an invalidation woke, and one that
found the list full, 64 ticks ago and 63, on a page still blocked and on one free; the last tick of a wait's limit, the one past it, and no limit. -/
theorem witness_queuesAndWriters : (let q := (queueSt { ring := 1, logsize := 4, chip := List.replicate 31 7 }).hq 0 2
      0 < q.ring ∧ q.chip.length < 32) ∧ 71 < 72 ∧ ((parkSt 0 true).ctx 0 3).wblk = some (aPark true) ∧ (aPark true).parked = true ∧
    ((parkSt 0 false).ctx 0 3).wblk = some (aPark false) ∧ ((parkSt 0 false true).ctx 0 3).wblk = some (aPark false true) ∧ (aPark false true).woken = true ∧
    ((aPark false).tried + 64 ≤ ({ parkSt 0 false with tick := 65 } : State).tick ∧ ({ parkSt 0 false with tick := 64 } : State).tick < (aPark false).tried + 64) ∧
    (parkSt 0 false).walk ((parkSt 0 false).ctx 0 3).space 0x15000 = .leaf (0x15000 + rw + cMask) 0 0x140A8 ∧ field (0x15000 + rw + cMask) 62 1 = 0 ∧
    (parkSt (2 ^ 62) false).walk ((parkSt (2 ^ 62) false).ctx 0 3).space 0x15000 = .leaf (0x15000 + rw + cMask + 2 ^ 62) 0 0x140A8 ∧
    field (0x15000 + rw + cMask + 2 ^ 62) 62 1 = 1 ∧ ((parkSt 0 false).die (dieOf 0)).wbtime.toNat = 0x400000 ∧
    ({ parkSt 0 false with tick := 0x400001 } : State).tick ≤ (aPark false).since + 0x400000 ∧
    (aPark false).since + 0x400000 < ({ parkSt 0 false with tick := 0x400002 } : State).tick := by decide +kernel
/-- A package where die 0 holds a hot page of pen 1, told at core 0's gate 2. -/
def heatSt : State :=
  { st sysCtx with
    pens := [(1, { sheds := [0], cspwin := [(0, 0x10001)] })],
    dies := [(0, { heat := [(9, ⟨1, 0, 0x15000, 0, 256, false, 0⟩)], heatRegs := [(1, { enable := true, logsize := 4, gate := 2, tail := 15 })] })] }
/-- WalksHeatAndScrubbing: an address that no leaf maps; one that a leaf maps, to be read and to be written; a hot page whose record fits the
pen's window; a line that is bad and one that is not. -/
theorem witness_walksHeatAndScrubbing : (mapped rw cMask 0).walkOn (dieOf 0) ((mapped rw cMask 0).ctx 0 3).space 0x17000 = .bad 0x01 0 ∧
    (mapped rw cMask 0).walkOn (dieOf 0) ((mapped rw cMask 0).ctx 0 3).space 0x15000 = .leaf (0x15000 + rw + cMask) 0 0x140A8 ∧
    (∀ k ∈ [0, 1, 2], leafCheck ((mapped rw cMask 0).ctx 0 3).space ((mapped rw cMask 0).whoCtx 0 3 0) (k % 4) false (0x15000 + rw + cMask)
      (leafPa (0x15000 + rw + cMask) 0x15000) = none) ∧ ¬(field (0x15000 + rw + cMask) 62 1 = 1) ∧
    (let d := heatSt.die 0
     let r := heatSt.heatReg 0 1
     d.heat = [(9, ⟨1, 0, 0x15000, 0, 256, false, 0⟩)] ∧ r.enable = true ∧ 4 ≤ r.logsize ∧ r.logsize ≤ 12 ∧ (heatSt.pen 1).cores.contains r.core = true ∧
      (r.tail + 2 ^ 32 - r.head) % 2 ^ 32 < 2 ^ r.logsize ∧ r.base.toNat + 32 * (r.tail % 2 ^ r.logsize) + 32 ≤ (heatSt.chipWin 1 0).2 ∧
      mget 0 (heatSt.core r.core).gates r.gate < 65535) ∧
    heatSt.bad.contains 5 = false ∧ ({ heatSt with bad := [5] } : State).bad.contains 5 = true := by decide +kernel
/-- An engine of c3 that still holds a command, one with a command outstanding; a shadow entry of a retired step. -/
def bindTwo : Bind := { inst := 1, steps := [{ key := {}, begun := true, retired := true }, { key := { k0 := 1 }, begun := true }] }
/-- RegisterWriteEvents: the values of GENPROF at both ends, with the context's commands done or not; REWIND with nothing bound and with a
stop in progress; a ring's register while it is empty, with a base past the scratchpad, and while it is not; a queue with and without
records; a launch queue enabled and not; a c3 that runs and one that is ready,
and before FABID is set and the pen configured (where the host reaches them: hostReaches). -/
theorem witness_registerWriteEvents : (0 % 16 = 0 ∧ 1 ≤ 1 % 16 ∧ 3 % 16 ≤ 3 ∧ 3 < 4 % 16) ∧ ({} : Core).engDone 3 = true ∧
    ((runSt 2 (aVadd 0)).core 0).engDone 3 = false ∧ ((st sysCtx).core 0).bind = none ∧ ((stc { cut := { phase := 1 } } sysCtx).core 0).cut.phase ≠ 0 ∧
    (((stc { bind := some bindTwo } sysCtx).core 0).cut.phase = 0 ∧ ((stc { bind := some bindTwo } sysCtx).core 0).bind = some bindTwo ∧
      ((bindTwo.steps.filter Step.retired).map Step.key).reverse.drop 0 = [{}]) ∧
    (((st sysCtx).eng 0 1).head = ((st sysCtx).eng 0 1).tail ∧ ((runSt 2 (aVadd 0)).eng 0 2).head ≠ ((runSt 2 (aVadd 0)).eng 0 2).tail) ∧
    (let v := 0x1FFC00 + 4 * 2 ^ 28
     4 ≤ field v 28 4 ∧ field v 28 4 ≤ 12 ∧ 64 * field v 6 15 + 64 * 2 ^ field v 28 4 = 0x200000) ∧
    (let v := 0x1FFC40 + 4 * 2 ^ 28
     4 ≤ field v 28 4 ∧ field v 28 4 ≤ 12 ∧ 0x200000 < 64 * field v 6 15 + 64 * 2 ^ field v 28 4) ∧
    ((queueSt {}).hq 0 2).depth = 0 ∧ ((queueSt { chip := [7] }).hq 0 2).depth ≠ 0 ∧ (st sysCtx).powered = true ∧
    (mget {} ((penSt { lqs := [(3, { enable := true })] } 0 0).pen 1).lqs 3 : LQ).enable = true ∧ (mget {} ((penSt {} 0 0).pen 1).lqs 3 : LQ).enable = false ∧
    ((st { sysCtx with st := .running }).ctx 0 3).st ≠ .idle ∧
    (let s := { penSt {} 0 0 with fabSet := true }
     s.fabSet = true ∧ (s.penOf 0).isSome = true ∧ (s.ctx 0 3).st = .idle ∧ s.powered = true ∧ (st sysCtx).penOf 0 = none ∧ (st sysCtx).fabSet = false) := by
  decide +kernel
/-- A trap that waits, of class 0x2A. -/
def aPTrap : PTrap := ⟨0x2A, 0⟩
/-- PendingTrapsAndReset: a trap of a context outside a handler, in one, and of one that delegates, with a gate at its last count; a context
without; a c3 that a double trap stopped and one that it did not. -/
theorem witness_pendingTraps : ((st { sysCtx with traps := [aPTrap] }).ctx 0 3).traps = [aPTrap] ∧ ((st { sysCtx with traps := [aPTrap] }).ctx 0 3).st ≠ .stopped ∧ aPTrap.cls < 256 ∧
    ¬((3 : Nat) ≠ 3 ∧ sysCtx.tctl.getLsbD 8 = true) ∧ sysCtx.intrap = false ∧ sysCtx.req = none ∧ inTrap.intrap = true ∧
    ({ sysCtx with traps := [aPTrap], req := some (gotLaunch, 7) } : Ctx).req = some (gotLaunch, 7) ∧ ((0 : Nat) ≠ 3 ∧ ({ tctl := 0x104, traps := [aPTrap] } : Ctx).tctl.getLsbD 8 = true) ∧ mget 0 ((stc { gates := [(4, 65534)] } { tctl := 0x104, traps := [aPTrap] } 0).core 0).gates 4 < 65535 ∧
    ((st sysCtx).ctx 0 3).traps = [] ∧ ¬(sysCtx.st = .stopped ∧ sysCtx.why = .double) ∧
    (let c := (st { sysCtx with st := .stopped, why := .double }).ctx 0 3
     c.st = .stopped ∧ c.why = .double ∧ c.pend = []) := by decide +kernel

/-! ### Witnesses: from launch to completion -/

/-- Instance number n of pen 1: an operation of one dimension of two steps; none has been placed. -/
def anInst (n prio : Nat) : Inst := { num := n, pen := 1, record := 1 + 2 * 2 ^ 224, prio := prio, spaceid := 0, wb0 := 0, wb1 := 0, total := 2 }
/-- A package where pen 1 has shed 0, p's registers and these instances, core 0 is k, and no context runs. -/
def penRun (p : Pen) (k : Core) (l : List Inst) : State := { stc k {} with pens := [(1, { p with sheds := [0] })], insts := l }
/-- A package where launch queue 0 of pen 1 holds a record of an operation record at 0x1_5000, its last slot. -/
def launchSt : State :=
  let s := mapped rw cMask 0
  let m := writeLE s.mem 0x15000 40 (1 + 2 * 2 ^ 224)
  { s with
    mem := writeLE (writeLE m 0x160C0 8 0x15000) 0x160F8 8 4
    pens := [(1, { sheds := [0], wb0 := 0x10000, lqs := [(0, { base := 0x16000, enable := true, logsize := 2, count := 3 })], admitted := [(0, 4096)] })] }
def launchS0 : State := launchSt.setPen 1 { launchSt.pen 1 with lqs := mset (launchSt.pen 1).lqs 0 { base := 0x16000, enable := true, logsize := 2, count := 4 }, lastQ := 0 }
/-- The operation record that a read gives. -/
def readsAs (r : Rd Nat) : Option Nat := match r with
  | .ok v _ => some v
  | _ => none
/-- A core whose step queue is full. -/
def fullCore : Core := { stepq := List.replicate 64 (2, {}, 0) }
/-- Launching: a record ready in one queue only, and well-formed; of two instances the one of higher priority; a step placed on an idle core, and
on one whose queue is full. -/
theorem witness_launching : (let p := launchSt.pen 1
      (launchSt.penInsts 1).length < 256 ∧ p.devq = [] ∧ p.refusing = none ∧ (∀ j, j < 8 → (launchSt.lqReady (mget {} p.lqs j) = true ↔ j = 0)) ∧
      (mget {} p.lqs 0 : LQ).slot = 0x160C0 ∧ field (readLE launchSt.mem 0x160C0 64) 0 64 = 0x15000 ∧ field (readLE launchSt.mem 0x160C0 64) 256 1 = 0 ∧
      readsAs (launchS0.readSpace ⟨p.spaceid, p.wb0, p.wb1, false, p.conf⟩ (distWho p) 0x15000 256) = some (1 + 2 * 2 ^ 224) ∧
      recordBad (1 + 2 * 2 ^ 224) = false ∧ (∀ j, j < 3 → p.admitted.any (inRange (opEntry (1 + 2 * 2 ^ 224) j)) = true) ∧ opPure (1 + 2 * 2 ^ 224) = false ∧
      p.brkEnable = false ∧ launchS0.nextInst ≠ 0 ∧ launchS0.insts = []) ∧
    (let s := penRun { enable := true } {} [anInst 1 2, anInst 2 7]
     s.choose 1 = some (anInst 2 7, {}, { anInst 2 7 with cursor := 1 })) ∧
    (let s := penRun { enable := true } {} [anInst 1 2]
     (s.pen 1).enable = true ∧ (s.pen 1).cutDecided = false ∧ (anInst 1 2).pending = none ∧ s.choose 1 = some (anInst 1 2, {}, { anInst 1 2 with cursor := 1 }) ∧
      s.placeOn (anInst 1 2) {} = some 0 ∧ (s.core 0).waiting < 64 ∧ (s.core 0).bind = none) ∧
    (let s := { penRun { enable := true } {} [anInst 1 2] with cores := (List.range 12).map (fun k => (k, fullCore)) }
     s.choose 1 = some (anInst 1 2, {}, { anInst 1 2 with cursor := 1 }) ∧ (s.placeOn (anInst 1 2) {}).isSome = true ∧
      ∀ k ∈ s.placeOn (anInst 1 2) {}, 64 ≤ (s.core k).waiting) := by
  and_intros
  all_goals decide +kernel
/-- What a core with a step of instance 1 in progress is bound to: one step has begun or has not, and it is the last of depth 1. -/
def bound (b : Bool) : Bind := { inst := 1, steps := [{ key := {}, begun := b }], n := some 1 }
/-- InstancesRun: a step queue with a step of instance 1 first; a bound step begun and not; an instance all of whose steps have retired, and one
with a step to go; an age that has come and one a tick short; an instance that does not exist. -/
theorem witness_instancesRun : (let s := penRun {} { stepq := [(1, {}, 2), (2, {}, 2), (1, { k0 := 1 }, 2)] } [anInst 1 2]
      (s.core 0).stepq = (1, {}, 2) :: [(2, {}, 2), (1, { k0 := 1 }, 2)] ∧ s.penOf 0 = some 1 ∧ s.inst? 1 = some (anInst 1 2) ∧ (s.core 0).bind = none ∧ (s.core 0).pre = none ∧
      (s.core 0).cut.phase = 0 ∧ (∀ x, x < 3 → (s.ctx 0 x).st = .idle) ∧ (s.pen 1).areas = [] ∧ s.awaitsArea 1 0 = false ∧ ({ s with started := true } : State).started = true ∧ (s.pen 1).cutBusy = false ∧ (s.pen 1).cutDone = false ∧
      (s.pen 1).cutDecided = false) ∧
    (∀ x ∈ [true, false], ((penRun {} { bind := some (bound x) } []).core 0).bind = some (bound x) ∧ (bound x).oldest = some { key := {}, begun := x }) ∧
    (let k : Core := { bind := some (bound true), ctxs := (List.range 3).map (fun x => (x, ({ iter := 1, finished := true } : Ctx))) }
     (∀ y, y < 3 → (k.ctx y).past (((bound true).steps.filter Step.retired).length - (bound true).base + (bound true).depth - 1) = true ∧
        (penRun {} k [anInst 1 2]).ctx 0 y = k.ctx y ∧ ((k.ctx y).serves 1 {}) = false) ∧ k.engHolds 1 {} = false) ∧
    (penRun {} {} [anInst 1 2]).inst? 1 = some (anInst 1 2) ∧ (anInst 1 2).retired ≠ (anInst 1 2).total ∧ ({ anInst 1 2 with wblk := some { va := 0, n := 8, kind := 1, parked := true, since := 0 } } : Inst).wblk.isSome = true ∧
    (let i := { anInst 1 2 with retired := 2, cursor := 2 }
     i.pen = 1 ∧ i.wblk = none ∧ i.entering = false ∧ i.serving = none ∧ i.ending = none ∧ i.retired = i.total ∧ i.brkHeld = false ∧ (penRun {} {} [i]).undoes 1 = false ∧ i.pure = false ∧ i.doneaddr = 0) ∧
    (let s := { penRun { age := 1 } {} [anInst 1 2] with tick := 2047 }
     (s.pen 1).age ≠ 0 ∧ (anInst 1 2).head.isSome = true ∧ s.tick < (anInst 1 2).since + 2 ^ ((s.pen 1).age + 10) ∧
       (anInst 1 2).since + 2 ^ ((s.pen 1).age + 10) ≤ ({ s with tick := 2048 } : State).tick ∧ (anInst 1 2).pending = none) ∧ (penRun {} {} []).inst? 1 = none := by decide +kernel

/-! ### Witnesses: stops and pre-emptions -/

/-- StopDecided: requests that name instance 0 and another, with a stop in progress and without; a core before and after its arrival, bound to
the named instance and to none; a decision with every core arrived and with one to come. -/
theorem witness_stopDecided : 2 ^ 128 - 1 < 2 ^ 128 ∧ (2 ^ 128 - 1) / 2 ^ 96 ≠ 0 ∧ ¬((2 ^ 96 - 1) / 2 ^ 96 ≠ 0) ∧ ((penRun {} {} []).pen 1).cutBusy = false ∧
    ((penRun { cutBusy := true } {} []).pen 1).cutBusy = true ∧ (penRun {} {} []).penOf 0 = some 1 ∧ ((penRun {} {} []).core 0).cut.phase = 0 ∧
    ((penRun {} { cut := { phase := 1 } } []).core 0).cut.phase ≠ 0 ∧
    (let p : Pen := { cutBusy := true, cutreq := 2 ^ 96 }
     p.cutNoinst = false ∧ (bound true).inst = p.cutreq.toNat / 2 ^ 96) ∧
    (let s := penRun { cutBusy := true } {} []
     (∃ k ∈ (s.pen 1).cores, (s.core k).cut.phase = 0)) ∧
    (let s := { penRun { cutBusy := true, cutreq := 2 ^ 96 } {} [{ anInst 1 2 with floor := some { k0 := 1 } }] with
        cores := (List.range 12).map (fun x => (x, ({ cut := { phase := 1, named := true, floor := some {}, c := some {} } } : Core))) }
     (s.pen 1).cutBusy = true ∧ (s.pen 1).cutDecided = false ∧ (∀ k ∈ (s.pen 1).cores, (s.core k).cut.phase ≠ 0) ∧ 0 ∈ (s.pen 1).cores ∧ (s.core 0).cut.floor = some {} ∧
       s.inst? ((s.pen 1).cutreq.toNat / 2 ^ 96) = some { anInst 1 2 with floor := some { k0 := 1 } }) := by
  refine ⟨by decide, by decide, by decide, by decide +kernel, by decide +kernel, by decide +kernel, by decide +kernel, by decide +kernel, by decide +kernel, ?_, by decide +kernel⟩
  exact ⟨0, by decide +kernel, by decide +kernel⟩
/-- A shadow entry of the line at 0x1_5000 for a step past L. -/
def aShadow : Shadow := ⟨0x15000 / 64, 1, { k0 := 1 }, 7⟩
/-- A core that has run its step at L and has written for the one after. -/
def haltCore : Core :=
  { cut := { phase := 2, named := true, l := some {} }, shadow := [aShadow],
    bind := some { inst := 1, steps := [{ key := {}, begun := true, retired := true }, { key := { k0 := 1 }, begun := true }], n := some 2 } }
/-- StopCarriedOut: a core that halts while another has still to, and the cases in which one waits; PENCTL before a stop, and after one with RESUME
and with ABANDON, with the codes at both ends. -/
theorem witness_stopCarriedOut : (let s := penRun { cutBusy := true, cutDecided := true, cutreq := 2 ^ 96 } haltCore [{ anInst 1 2 with cursor := 2 }]
      s.penOf 0 = some 1 ∧ (s.core 0).cut.phase = 2 ∧ (s.pen 1).cutBusy = true ∧ (s.pen 1).cutDecided = true ∧ (s.core 0).faultsFor (fun k => !beyond (s.core 0).cut.l k) = false ∧ (s.core 0).pre = none ∧ s.fchains = [] ∧ (s.core 0).bind = haltCore.bind ∧
      (s.core 0).cut.l = some {} ∧ (∀ b ∈ (s.core 0).bind, ∀ x ∈ b.steps, x.retired = true ∨ ({} : Coord).rank < x.key.rank) ∧ (s.core 0).stepq = [] ∧
      s.allPlaced (s.pen 1) = true ∧ (1 ∈ (s.pen 1).cores ∧ (s.core 1).cut.phase ≠ 3) ∧ (s.core 0).shadow = [aShadow] ∧ aShadow.inst = 1 ∧
      ({} : Coord).rank < aShadow.key.rank ∧ aShadow.where_ < 2 ^ 46 ∧ ∀ x, x < 3 → ((s.core 0).ctx x).pend = [] ∧ ((s.core 0).ctx x).req = none) ∧
    (((penRun {} {} []).core 0).cut.phase ≠ 2 ∧ ((penRun {} { cut := { phase := 3 } } []).core 0).cut.phase = 3 ∧ ((penRun {} {} []).pen 1).cutDone = false ∧
      (let c : FChain := { id := 1, core := 0, isCtx := false, ctx := 0, seq := 0, step := 0, addr := 0 }
       c.core = 0 ∧ c.ctx ≠ 3)) ∧
    (field 1 1 2 = 0 ∧ field 7 1 2 = 3 ∧ field 2 1 2 = 1 ∧ field 5 1 2 = 2) ∧
    (let s := penRun { cutDone := true, cutreq := 2 ^ 96 } haltCore [anInst 1 2]
     (s.pen 1).cutDone = true ∧ (s.pen 1).cutBusy = false ∧ (s.pen 1).cutNoinst = false ∧ s.insts = [anInst 1 2] ∧ (anInst 1 2).pen = 1 ∧
       (anInst 1 2).num = (s.pen 1).cutreq.toNat / 2 ^ 96 ∧ (anInst 1 2).doneaddr = 0) := by
  and_intros
  all_goals decide +kernel
/-- A core whose context 0 has a trap to take that step 0 of instance 1 met, and one for its step at 1. -/
def faultCore (k0 : Nat) : Core :=
  { haltCore with ctxs := [(0, { traps := [{ cls := 0x29, image := 2 ^ 224 + k0 * 2 ^ 128 }] })] }
/-- The host's writes of PENCTL, CUTREQ and PRIOSET reach pens with a stop done, with none, and with an instance; a core waits for the trap of a step at
L, and not for that of one past it. -/
theorem witness_stopsHosted : (∀ p ∈ [({ cutDone := true, cutreq := 2 ^ 96 } : Pen), {}, { cutBusy := true }],
      let s := hosted (penRun p haltCore [anInst 1 2])
      HostReaches 11 0x88 s ∧ HostReaches 11 0x90 s ∧ HostReaches 11 0x98 s ∧ HostReaches 11 0x80 s ∧ s.pen 1 = { p with sheds := [0] } ∧ s.insts = [anInst 1 2] ∧
        s.powered = true) ∧
    (faultCore 0).faultsFor (fun k => !beyond haltCore.cut.l k) = true ∧ (faultCore 1).faultsFor (fun k => !beyond haltCore.cut.l k) = false := by
  unfold HostReaches; decide +kernel
/-- Instance 2, of higher priority, has a step queued on core 0, which runs instance 1. -/
def outSt (p : Pen) : State := penRun p { bind := some (bound true), stepq := [(2, {}, 3)] } [anInst 1 2, anInst 2 3]
/-- A pre-emption by the distributor at safe points. -/
def aPre (safe : Bool) : Pre := { area := 0x100000, byC3 := false, safe := safe }
/-- Preemption: a core for which nothing, and one for which a step of higher priority is queued, in both modes, and one whose steps have
all retired while a context waits; a context that a pre-emption at
safe points finds blocked, and one not at safe points; an area of one instance to be restored. -/
theorem witness_preemption : (let s := penRun {} { bind := some (bound true) } [anInst 1 2]
      (s.core 0).pre = none ∧ (s.core 0).bind = some (bound true) ∧ s.inst? 1 = some (anInst 1 2) ∧ s.outranks 0 (anInst 1 2) = []) ∧
    (∀ b ∈ [true, false], let s := outSt { premode := b }
      s.outranks 0 (anInst 1 2) ≠ [] ∧ s.raised 1 = false ∧ (∀ x, x < 4 → (s.ctx 0 x).intrap = false ∧ (x < 3 → (s.ctx 0 x).st ≠ .stopped)) ∧
        (s.pen 1).cutBusy = false ∧ (s.pen 1).cutDone = false ∧ (∃ x ∈ (bound true).steps, x.retired = false) ∧ (s.core 0).psave.toNat % 4096 = 0 ∧
        s.inst? 1 = some (anInst 1 2)) ∧
    (let c : Ctx := { st := .blocked, req := some (2, 0) }
     let s := { stc { bind := some { bound true with steps := [{ key := {}, begun := true, retired := true }] } } c 0 with pens := (outSt {}).pens }
     (s.ctx 0 0).st ≠ .idle ∧ (s.core 0).bind.map Bind.steps = some [{ key := {}, begun := true, retired := true }]) ∧
    (let c : Ctx := { st := .blocked }
     let s := stc { bind := some (bound true), pre := some (aPre true) } c 0
     (s.core 0).pre = some (aPre true) ∧ (s.core 0).bind = some (bound true) ∧ (bound true).open_ ≤ 8 ∧ s.ctx 0 0 = c ∧ c.landed = none ∧ c.intrap = false ∧
       c.traps = [] ∧ s.atRep c = false ∧ c.state = .blocked ∧ c.req = none ∧ (aPre false).safe = false) ∧
    (let s := anArea true
     let p := s.pen ((s.penOf 0).getD 16)
     (s.penOf 0).getD 16 = 1 ∧ p.areas[0]? = some ⟨0x100000, 1, 0, []⟩ ∧ s.inst? 1 = some instOne ∧ (∀ y, y < 3 → (s.ctx 0 y).st = .idle) ∧ (s.core 0).pre = none ∧
       (s.core 0).bind = none ∧ p.cutBusy = false ∧ p.cutDone = false ∧ p.enable = true ∧ s.leads 1 0 1 = true ∧ (s.core 0).cut.phase = 0 ∧ s.heldKept = [] ∧
       instOne.space p.conf = aSpace false) := by
  and_intros
  all_goals decide +kernel
/-- Its area, as the distributor reads it. -/
theorem witness_areaRestored : ∃ a s1, (anArea true).loadArea (aSpace false) (aWho false) 0x100000 = .ok a s1 ∧ s1.mayRestore 0 a = true ∧
    (s1.core 0).shadowRoom a = true ∧ PlainArea a :=
  ⟨anAreaIn true, cached true 23, areaLoads true false, areaRestores.2.1, areaRestores.2.2.1, by unfold PlainArea; decide +kernel⟩

/-! ### Witnesses: traces, power, beacons -/

/-- A pen whose trace ring of sixteen records has its last place free. -/
def tracePen : Pen := { sheds := [71], trcctl := 0x84000000, trctail := 15 }
/-- A package where shed 71 of that pen, or of none, is h. -/
def shedSt (b : Bool) (h : Shed) : State := { st sysCtx with sheds := [(71, h)], pens := if b then [(1, tracePen)] else [] }
/-- TracesAndPower: a record and room in the ring, with records lost and none; a shed of no pen, powered with records and without, and one that is
off; a drain on its last tick and one tick earlier; lost records with room and without. -/
theorem witness_tracesAndPower : (let s := shedSt true { trace := [7] }
      71 < 72 ∧ dieOfShed 71 = 8 ∧ s.penOfShed 71 = some 1 ∧ OpenRing (s.pen 1) ∧ (s.shed 71).trace = [7] ∧ (∀ h, h < 71 → (s.shed h).trace = []) ∧ s.bad = [] ∧
        (s.shed 71).draining = none ∧ (s.shed 71).traceDrop = 0 ∧ ((shedSt true { trace := [7], traceDrop := 3 }).shed 71).traceDrop ≠ 0 ∧ ([] : List Nat).length < 512) ∧
    ((shedSt false {}).penOfShed 71 = none ∧ ((shedSt false {}).shed 71).draining = none ∧ ((shedSt false {}).shed 71).off = false ∧ ((shedSt false {}).shed 71).trace = [] ∧
      ((shedSt false { trace := [7] }).shed 71).trace ≠ [] ∧ ((shedSt false { off := true }).shed 71).off = true) ∧
    (((shedSt false { trace := [7], draining := some 0 }).shed 71).draining = some 0 ∧ ({ shedSt false {} with tick := 65535 } : State).tick < 0 + 65536 ∧
      0 + 65536 ≤ ({ shedSt false {} with tick := 65536 } : State).tick) ∧
    ({ shedSt true {} with dies := [(8, { lost := [(71, 1, 5, 2, 9)] })] } : State).die 8 = { lost := [(71, 1, 5, 2, 9)] } ∧ ((shedSt false {}).pen 1).trcRoom = false := by
  unfold OpenRing; and_intros
  all_goals decide +kernel
/-- A package that gives beacons every 2^k ticks, at tick t. -/
def bcnSt (k t : Nat) : State := { powered := true, bcnEnable := true, bcnK := k, tick := t, bcnr := { ctl := BitVec.ofNat 64 (2 ^ 63 + 4 * 2 ^ 52 + 2 ^ 10) } }
/-- BeaconsAndBreakpoints: intervals at both ends of the range and past them, ticks on a multiple and one past it; an administrator's ring; BRKCTL
of a confidential pen, and of another with and without GO, with an instance that is held. -/
theorem witness_beaconsAndBreakpoints : (let s := bcnSt 10 1024
      s.powered = true ∧ s.bcnEnable = true ∧ field 0x800A0000 16 5 = s.bcnK ∧ field 0x800B0000 16 5 ≠ s.bcnK ∧ field 0x800A0000 31 1 = 1 ∧ s.tick % 2 ^ 10 = 0 ∧
        s.bcnLast < s.tick ∧ s.pens = [] ∧ s.bcnr.ctl.getLsbD 63 = true ∧ 4 ≤ field s.bcnr.ctl.toNat 52 4 ∧ s.bcnr.head = 0 ∧ s.bcnr.tail = 0 ∧ s.MemOk) ∧
    ((bcnSt 10 1025).tick % 2 ^ 10 ≠ 0 ∧ (bcnSt 24 0x1000000).tick % 2 ^ 24 = 0 ∧ 24 < (bcnSt 25 0).bcnK ∧ (bcnSt 9 512).bcnK < 10 ∧
      ({} : State).bcnr.ctl.getLsbD 63 = false ∧ field 0x80000000 29 1 = 0 ∧ field 0x20000000 29 1 = 1) ∧
    ((penRun { conf := true } {} []).pen 1).conf = true ∧
    (let a := { anInst 1 2 with brkHeld := true }
     (penRun {} {} [a]).insts = [a] ∧ (penRun {} {} [a]).powered = true ∧ ((penRun {} {} [a]).pen 1).conf = false ∧ a.pen = 1 ∧ a.brkHeld = true ∧ a.pure = false) := by
  unfold State.MemOk; and_intros
  all_goals decide +kernel

/-! ### Witnesses: the host, packets, links, the board controller -/

/-- A package with its host link, a pen of core 0's group, and every access of the host and the board controller allowed to pen 1's block, and of
the host to memory; line 2 is bad, and one byte stands encrypted. -/
def hostSt : State :=
  { penSt {} 0 0 with
    hostLink := true, firmware := some true, bad := [2], enc := [(0x100, 1)],
    ranges := [⟨19 + 11, 81, 0, 0, 0xF00030000000, true⟩, ⟨19 + 11, 82, 0, 0, 0xF00030000000, true⟩, ⟨0, 81, 0, 0, 0x20000, true⟩] }
/-- HostAndRegisterBlocks: BRKADDR of pen 1's block in halves and whole; an address without a register, a mailbox's; the host's accesses with a
right and without, to a part of a bad line, to plain bytes; a register block that no link reaches from the host's die; a store at the last byte of host memory. -/
theorem witness_hostAndRegisterBlocks : (RegOpen 81 0xF000201000E0 4 hostSt ∧ RegOpen 81 (0xF000201000E0 + 4) 4 hostSt ∧ RegOpen 82 0xF000201000E0 8 hostSt) ∧
    (regBlock 0xF000201000E0 = some (11, 0xE0) ∧ regBlock (0xF000201000E0 + 4) = some (11, 0xE0 + 4) ∧ hostSt.hidden 81 11 0xD8 false = false ∧ hostSt.hidden 81 11 0xE0 false = false ∧ hostSt.up = true ∧ ({ hostSt with firmware := none } : State).up = false) ∧
    (isMailbox 0xF000000FFFF8 = false ∧ regAt 0xF000000FFFF8 = false ∧ isMailbox (0xF000000FFFF8 + 4) = false ∧ regAt (0xF000000FFFF8 + 4) = false) ∧
    (isMailbox 0xF00030000000 = true ∧ isMailbox (0xF00030000000 + 4) = true) ∧
    (hostSt.hostMay 0x1FFF8 8 true = true ∧ hostSt.badWrite [(0x1FFF8, 8)] = false ∧ hostSt.hostMay 0x1FFF8 9 true = false ∧ hostSt.badWrite [(0x80, 8)] = true ∧
      hostSt.hostMay 0x1FFF8 8 false = true ∧ (∀ p ∈ hostSt.enc, ¬(0x1FFF8 ≤ p.1 ∧ p.1 < 0x1FFF8 + 8)) ∧ hostSt.hostMay 0x20000 1 false = false ∧ tableOk 0x1FFF8 = true) ∧
    (let s := cutLinks hostSt
     s.hostWay (regAddr 1 0x30000) = false ∧ s.hostWay (regAddr 1 0x30000 + 4) = false ∧ regAddr 1 0x30000 % 8 = 0 ∧ isMailbox (regAddr 1 0x30000) = false) ∧
    (hostSt.bad.contains (0x80 / 64) = true ∧ hostSt.hostMay 0x80 8 false = true) ∧
    tierOf 0xFFFFFFFFFFFFF = .host ∧ 0xFFFFFFFFFFFFF + 1 ≤ 2 ^ 52 := by
  unfold RegOpen; and_intros
  all_goals decide +kernel

/-! ### Witnesses: packets, groups of several packages, links, the board controller -/

/-- A target window of sixteen bytes. -/
def aWin : TWin := { base := 0x15000, len := 16, spaceid := 0, wb0 := 0x10000, wb1 := 0, ctx := 3 }
/-- A package with that window at core 0's number 63, an initiator window there, and one packet. -/
def netSt (p : Pkt) : State :=
  let s := mapped rw (cMask + 2 ^ 60) 0
  { s.setCore 0 { s.core 0 with twin := [(63, aWin)], iwin := [(63, ⟨0, 0, 63, 0, 0, true⟩)],
                                engs := [(4, { logsize := 4, tail := 1, cmds := [cmdOf (0x70 * 2 ^ 25) 0 0 0 0] })] } with
    net := [p], ranges := ⟨0, 72, 0, 0, 0x20000, true⟩ :: s.ranges }
/-- Where an arrival that goes through lies. -/
def arrSegs (r : Arr) : Option (List (Nat × Nat)) := match r with
  | .ok x _ => some x.segs
  | _ => none
/-- An arrival that goes through arrives. -/
theorem arrives {kind core off n pa : Nat} {w : TWin} {s : State} (h : arrSegs (s.arrive w core kind ((w.base + off) % 2 ^ 64) n) = some [(pa, n)]) (h1 : 0 < n)
    (h0 : s.arrs = []) (h2 : off + n ≤ w.len) (h3 : (w.base + off) % 2 ^ 64 % 8 + n ≤ 8) (h4 : tierOf pa ≠ .regs) : ∃ x s1, Arrives kind w core off n pa x s s1 := by
  cases hr : s.arrive w core kind ((w.base + off) % 2 ^ 64) n with
  | ok x s1 => rw [hr] at h; exact ⟨x, s1, h0, h1, h2, h3, hr, Option.some.inj h, h4⟩
  | _ => rw [hr] at h; simp [arrSegs] at h
def aPut (off n : Nat) (cnt : Nat := n) : Pkt := .put 0 0 0 0 0 63 off (List.replicate n 7) cnt
def aGet (off n : Nat) : Pkt := .getReq 0 0 0 0 0 63 off n
def aRamo (off n : Nat) : Pkt := .ramo 0 0 0 0 63 off 8 n 1
/-- An arrival of n bytes at an offset of the window, with what it carries; it goes through. -/
def comes (kind : Nat) (p : Pkt) (off n : Nat) : Bool :=
  arrSegs ((netSt p).arrive aWin 0 kind ((aWin.base + off) % 2 ^ 64) n) == some [(0x15000 + off, n)] && decide (0 < n ∧ off + n ≤ aWin.len) &&
    decide ((aWin.base + off) % 2 ^ 64 % 8 + n ≤ 8) && tierOf (0x15000 + off) != .regs
theorem arrives_of {kind off n : Nat} {p : Pkt} (h : comes kind p off n = true) : ∃ x s1, Arrives kind aWin 0 off n (0x15000 + off) x (netSt p) s1 := by
  simp only [comes, Bool.and_eq_true, beq_iff_eq, decide_eq_true_eq, bne_iff_ne] at h
  exact arrives h.1.1.1 h.1.1.2.1 rfl h.1.1.2.2 h.1.2 h.2
/-- A put of command 0 that its initiator has sent through window 62, and that WSEEN has to count. -/
def aSent : Cmd := { cmdOf (0x70 * 2 ^ 25) (62 * 2 ^ 4) 0 0 8 with val := 8 }
/-- That initiator, with one packet. -/
def sentSt (p : Pkt) : State :=
  { stc { iwin := [(62, ⟨0, 0, 63, 0, 0, true⟩)], engs := [(4, { logsize := 4, tail := 1, sent := [aSent], cmds := [{ aSent with sent := true }] })] } sysCtx with net := [p] }
/-- Die 0's links to the others are out. -/
def die0Out (s : State) : State := { s with links := (List.range 200).map (fun i => (64 + i, ({ up := false } : Link))) }
/-- FabricPackets: one byte and eight at both ends of the window, one that passes its end, one past it, no window, no way to it; the last part
of a put with another one under way, and without; misaligned and long atomics; an acknowledgement, replies with a way back and without,
and a refusal of a command. -/
theorem witness_fabricPackets : (comes kWrite (aPut 8 8) 8 8 = true ∧ comes kWrite (aPut 0 1) 0 1 = true ∧ comes kRead (aGet 8 8) 8 8 = true ∧
      comes kRead (aGet 15 1) 15 1 = true ∧ comes kRmw (aRamo 8 8) 8 8 = true ∧ comes kRmw (aRamo 12 4) 12 4 = true) ∧
    ((netSt (aPut 8 8)).net[0]? = some (.put 0 0 0 (netSt (aPut 8 8)).fabid 0 63 8 (List.replicate 8 7) 8) ∧ ((netSt (aPut 8 8)).core 0).twin? 62 = none ∧
      ((netSt (aPut 8 8)).core 0).twin? 63 = some aWin ∧ (netSt (aPut 8 8)).cutOff 0 0 = false) ∧
    (comes kWrite (aPut 12 8) 12 (16 - 12) = true ∧ comes kRead (aGet 12 8) 12 (16 - 12) = true ∧ aWin.len < 12 + (List.replicate 8 (7 : BitVec 8)).length ∧
      aWin.len ≤ 16 ∧ (netSt (aPut 8 8)).arrs = []) ∧
    ((∀ q ∈ (netSt (aPut 8 8)).net, q.partOf 0 0 false = false) ∧
      (let s := { netSt (aPut 8 8 16) with net := [aPut 8 8 16, aPut 0 8 0] }
       (16 : Nat) ≠ 0 ∧ ∃ q ∈ s.net, q.partOf 0 0 false = true)) ∧
    (die0Out (netSt (aPut 8 8))).cutOff 0 863 = true ∧
    (let s := sentSt (.putAck 0 63 8 0)
     s.net[0]? = some (.putAck 0 63 8 0) ∧ (s.eng 0 4).sent.find? (fun m => m.idx == 0) = some aSent ∧ (s.core 0).iwin? aSent.win = some ⟨0, 0, 63, 0, 0, true⟩ ∧
       (s.eng 0 4).cmds.find? (fun m => m.idx == 0) = some { aSent with sent := true }) ∧
    ((sentSt (.getReply 0 0 [7])).noWay 0 62 = false ∧ (die0Out ((sentSt (.getReply 0 0 [7])).setCore 0 { iwin := [(62, ⟨0, 863, 63, 0, 0, true⟩)] })).noWay 0 62 = true) ∧
    (aWin.len < 16 + 4 ∧ 8 + 8 ≤ aWin.len ∧ 10 + 4 ≤ aWin.len ∧ 10 % 4 ≠ 0 ∧ 12 % 4 = 0 ∧ (aWin.base + 12) % 4 = 0 ∧ (1 : Nat) < 2 ^ (8 * 4)) ∧
    (netSt (.refusal 0 0 0x25 0)).net[0]? = some (.refusal 0 0 0x25 0) ∧
    ((netSt (.refusal 0 0 0x25 0)).eng 0 4).cmds.find? (fun m => m.idx == 0 && !m.ended) = some (cmdOf (0x70 * 2 ^ 25) 0 0 0 0) := by
  and_intros
  all_goals decide +kernel
/-- A package that is the home of the groups 0 to 100 of pen 1, where group 5 is g, with one packet. -/
def spanSt (g : Grp) (p : Pkt) : State := { penSt { spans := [(0, 100, 0)] } 0 0 with groups := [(5, g)], net := [p] }
/-- SpanningGroups: an arrive of no member, and of one with another to come; a leave and a join, a question; each answer to a member of
this package. -/
theorem witness_spanningGroups : (spanSt {} (.groupMsg 100 4099 2)).homeHere 100 = true ∧ ({} : Grp).isMember 4099 = false ∧ ({ members := [4099, 3] } : Grp).isMember 4099 = true ∧
    ((spanSt { members := [4099, 3] } (.groupMsg 5 4099 2)).grp 5).arrived.contains 4099 = false ∧
    (3 ∈ ((spanSt { members := [4099, 3] } (.groupMsg 5 4099 2)).grp 5).members ∧ (3 : Nat) ≠ 4099 ∧ ([] : List Nat).contains 3 = false) ∧
    (let s := spanSt { members := [4099, 3] } (.groupMsg 5 4099 1)
     s.net[0]? = some (.groupMsg 5 4099 1) ∧ s.homeHere 5 = true ∧ (s.grp 5).isMember 4099 = true ∧ (s.grp 5).leaves.contains 4099 = false) ∧
    (spanSt {} (.groupMsg 5 4099 askGen)).net[0]? = some (.groupMsg 5 4099 askGen) ∧ (spanSt {} (.groupDone 5 2 3 1)).net[0]? = some (.groupDone 5 2 3 1) ∧
    (∀ q ∈ [0, 2, askGen], (({ st { sysCtx with req := some (q, 0) } with net := [.groupDone 5 2 3 q] } : State).ctx 0 3).req = some (q, 0)) ∧
    (spanSt {} (.groupMsg 5 4099 0)).net[0]? = some (.groupMsg 5 4099 0) ∧ ((spanSt {} (.groupMsg 5 4099 0)).grp 5).joins.contains 4099 = false ∧
    (spanSt {} (.groupDone 5 2 3 0)).foreign 3 = false ∧ 3 % 4096 / 4 = 0 := by
  decide +kernel
/-- A configuration of a pen. -/
def aCfg (sheds : List Nat) : PenCfg :=
  { pen := 15, sheds := sheds, conf := true, spaceid := 3, wb0 := 0, wb1 := 0, grpLo := 1, grpHi := 2, tenant := 5, cspwin := [],
    walkSlots := [], heatShare := [], ways := [], chanShare := [], rfcap := 8 }
/-- An image of one word, which the service admits unless it branches to itself. -/
def anImage (w : Nat) : ImageReq := ⟨15, [(0x10000, 4)], [(0x10000, w)], [0x10000]⟩
/-- LinksAndPens: the last link of each kind and what is none; a link that is out; a put to another package from a die that a port serves, and from
one that none does any more; a pen that is idle and one that is not; sheds of no pen, and one of another; trace buffers that are empty; an
image that is admitted and one that is not, and the firmware accepted and not. -/
theorem witness_linksAndPens : isLink 35 = true ∧ isLink 36 = false ∧ isLink 64 = false ∧ isLink 65 = true ∧ (mget {} ({} : State).links 35 : Link).up = true ∧
    (mget {} ({ links := [(35, { up := false })] } : State).links 35 : Link).up = false ∧
    (({ penSt {} 0 0 with links := [(0, { up := false, out := true })] } : State).fabricFrom (dieOf 863) = true ∧
      ({ alone (penSt {} 0 0) with net := [aPut 0 8] } : State).fabricFrom (dieOf 0) = false ∧ (7 : Nat) ≠ (penSt {} 0 0).fabid) ∧
    ({ penSt {} 0 0 with penCfgs := [aCfg [71]] } : State).penCfgs.find? (fun c => c.pen == 15) = some (aCfg [71]) ∧ 15 < 16 ∧ (penSt {} 0 0).penIdle 15 = true ∧
    (penRun {} { bind := some (bound true) } []).penIdle 1 = false ∧ (∀ h ∈ [71], h < 72 ∧ ((penSt {} 0 0).penOfShed h = none ∨ (penSt {} 0 0).penOfShed h = some 15)) ∧
    (∀ h ∈ ((penSt {} 0 0).pen 1).sheds, ((penSt {} 0 0).shed h).trace = []) ∧
    (0 ∈ (aCfg [0]).sheds ∧ (penSt {} 0 0).penOfShed 0 = some 1 ∧ (1 : Nat) ≠ 15) ∧ (anImage 0x28000000).pen = 15 ∧
    ((aCfg []).rfcap = 8 ∧ ([] : List Nat).length ≤ 8 ∧ 8 < (List.replicate 9 1).length) ∧ (penSt {} 0 0).up = false ∧ (hosted (penSt {} 0 0)).up = true ∧
    (hosted (penSt {} 0 0)).penIdle 15 = true ∧ (penSt {} 0 0).firmware ≠ some true ∧ (hosted (penSt {} 0 0)).firmware = some true ∧
    (anImage 0x20000000).verdict = some 0 ∧ (anImage 0).verdict = none := by
  and_intros
  all_goals decide +kernel
/-- BoardController: the last slot and master, an entry that is valid and one that is not; the FABID that is refused and one that is taken, with no
pen enabled and with one; a package with power and without. -/
theorem witness_boardController : (penSt {} 0 0).powered = true ∧ 63 < 64 ∧ 82 < 83 ∧ field (2 ^ 74) 74 1 = 1 ∧ ¬(field 0 74 1 = 1) ∧ 0x1FFFF % 2 ^ 16 = 0xFFFF ∧
    0x1FFFE % 2 ^ 16 ≠ 0xFFFF ∧ (∀ p ∈ (penSt {} 0 0).pens, p.2.enable = false) ∧ ((1, ({ sheds := [0], enable := true } : Pen)) ∈ (penRun { enable := true } {} []).pens) ∧
    (penSt {} 0 0).up = false ∧ (hosted (penSt {} 0 0)).up = true ∧ (hosted (penSt {} 0 0)).granted 82 (regAddr 0 0) 8 true = true ∧
    (penSt {} 0 0).firmware = none ∧ State.reset.powered = false := by decide +kernel

/-! ### Witnesses: the step, the decoder, every state -/

/-- A context that stands at the last word of a page that may be executed, or elsewhere, its turn next. -/
def turnSt (pc : Dword) (w : Nat) : State :=
  let s := mapped rw cMask 0
  { s.setCtx 0 3 { s.ctx 0 3 with pc := pc, st := .running } with agenda := [.issue 0 3], mem := writeLE s.mem 0x15FF8 8 w }
/-- What a fetch gives: its words, or none where a fault ends it. -/
def fetchedWords (r : Words) : Option (Option (Nat × Nat)) := match r with
  | .ok w t _ => some (some (w, t))
  | .bad _ _ => some none
  | .busy _ => none
theorem words_of {r : Words} {w t : Nat} (h : fetchedWords r = some (some (w, t))) : ∃ s1, r = .ok w t s1 := by
  cases r with
  | ok w' t' s1 => simp [fetchedWords] at h; obtain ⟨rfl, rfl⟩ := h; exact ⟨s1, rfl⟩
  | _ => simp [fetchedWords] at h
theorem fault_of {r : Words} (h : fetchedWords r = some none) : ∃ f s1, r = .bad f s1 := by
  cases r with
  | bad f s1 => exact ⟨f, s1, rfl⟩
  | _ => simp [fetchedWords] at h
theorem busy_of {r : Words} (h : fetchedWords r = none) : ∃ s1, r = .busy s1 := by
  cases r with
  | busy s1 => exact ⟨s1, rfl⟩
  | _ => simp [fetchedWords] at h
/-- What the fetch of core 0's c3 at its turn gives. -/
def fetchAt (s : State) : Option (Option (Nat × Nat)) := fetchedWords (fetchCur (Sys2Proof.Claims.fetching 0 3 [] s))
/-- StepRunsDecodedInstruction: a turn of a context that runs and of one that is Idle, of the last context of the last core; a word that decodes
and one that does not; a fetch that fails, and one whose walk goes on; an instruction that waits
for its answer; a trap that waits; a pre-emption that lands; an event; a tick; a turn
without power. -/
theorem witness_stepRuns : (Sys2Proof.Claims.Turned 0 3 [] (turnSt 0x15FFC 0) ∧
      Sys2Proof.Claims.Turned 863 3 [] { powered := true, agenda := [.issue 863 3] }) ∧
    ((turnSt 0x15FFC 0).mayIssue 0 3 = true ∧ (turnSt 0x17000 0).mayIssue 0 3 = true ∧ ({ powered := true } : State).mayIssue 863 3 = false ∧
      ({ powered := true } : State).alive 863 3 = true) ∧
    (fetchAt (turnSt 0x15FFC 0) = some (some (0, 0)) ∧ fetchAt (turnSt 0x15FFC (0xFE000000 * 2 ^ 32)) = some (some (0xFE000000, 0)) ∧
      fetchAt (turnSt 0x17000 0) = some none ∧ fetchAt { turnSt 0x15FFC 0 with slow := 1 } = none) ∧
    (∀ s ∈ [turnSt 0x15FFC 0, turnSt 0x17000 0, { turnSt 0x15FFC 0 with slow := 1 }], Sys2Proof.Claims.Fetches 0 3 s) ∧
    (let s := (turnSt 0x15FFC 0).modCtx 0 3 (fun c => { c with req := some (5, 4), asked := some (.pop ⟨0, 4, 0⟩) })
     Sys2Proof.Claims.Turned 0 3 [] s ∧ s.mayIssue 0 3 = true ∧ (s.ctx 0 3).req = some (5, 4) ∧ (s.ctx 0 3).asked = some (.pop ⟨0, 4, 0⟩)) ∧
    (decode 0 0).isSome = true ∧ (decode 0xFE000000 0).isSome = false ∧ ((st { sysCtx with traps := [aPTrap] }).takePending 0 3).isSome = true ∧
    (let s : State := { stc { bind := some (bound true), pre := some (aPre true) } { st := .blocked } 0 with agenda := [.issue 0 0] }
     (s.ctx 0 0).traps = [] ∧ ((Sys2Proof.Claims.fetching 0 0 [] s).landed? 0 0).isSome = true) := by
  unfold Sys2Proof.Claims.Turned Sys2Proof.Claims.Fetches; and_intros
  all_goals decide +kernel
/-- So its words are fetched, its fetch fails, or it goes on. -/
theorem witness_fetched : (∃ s1, fetchCur (Sys2Proof.Claims.fetching 0 3 [] (turnSt 0x15FFC 0)) = .ok 0 0 s1) ∧
    (∃ f s1, fetchCur (Sys2Proof.Claims.fetching 0 3 [] (turnSt 0x17000 0)) = .bad f s1) ∧
    ∃ s1, fetchCur (Sys2Proof.Claims.fetching 0 3 [] { turnSt 0x15FFC 0 with slow := 1 }) = .busy s1 :=
  have h := witness_stepRuns.2.2.1
  ⟨words_of h.1, fault_of h.2.2.1, busy_of h.2.2.2⟩
/-- How the current context's fetch at an address translates. -/
def fx (s : State) (va : Nat) : Xl × State := s.xlate s.cur.space (s.whoCtx s.curCore s.curCtx s.cur.group.toNat) kFetch false va 4
/-- The state after it. -/
def fNext (s : State) (va : Nat) : State :=
  if s.cur.st = .running then (fx s va).2.heatAll ((fx s va).2.whoCtx s.curCore s.curCtx 0) s.cur.space va (fx s va).1 else (fx s va).2
/-- A fetch reads four bytes of memory at a physical address. -/
def reads (s : State) (va pa : Nat) : Bool :=
  s.admits s.curCore s.curCtx va && !(fx s va).1.busy && (fx s va).1.flt.isNone && ((fx s va).1.regFault va).isNone && (fx s va).1.segs == [(pa, 4)] &&
    ((fNext s va).targetCheck s.curCore pa 4 false).isNone && tierOf pa != .regs
theorem fetches {va pa : Nat} {s : State} (h : reads s va pa = true) : Sys2Proof.Claims.FetchesAt va pa s (fNext s va) := by
  simp only [reads, Bool.and_eq_true, beq_iff_eq, bne_iff_ne, Option.isNone_iff_eq_none, Bool.not_eq_true'] at h
  exact ⟨h.1.1.1.1.1.1, ⟨_, _, rfl, h.1.1.1.1.1.2, h.1.1.1.1.2, h.1.1.1.2, h.1.1.2, rfl⟩, h.1.2, h.2⟩
/-- The same with the next page mapped as well. -/
def turnTwo (w : Nat) : State :=
  let s := turnSt 0x15FFC (w * 2 ^ 32)
  { s with mem := writeLE s.mem 0x140B0 8 (0x16000 + rw + cMask) }
/-- The words that stand at the page's last word. -/
def wordAt (s : State) : Nat := field (readLE (fNext s 0x15FFC).mem 0x15FFC 4) 25 7
theorem fetchFacts : reads (turnSt 0x15FFC 0) 0x15FFC 0x15FFC = true ∧ reads (turnTwo 0xEE000000) 0x15FFC 0x15FFC = true ∧
    reads (fNext (turnTwo 0xEE000000) 0x15FFC) 0x16000 0x16000 = true ∧ wordAt (turnSt 0x15FFC 0) = 0 ∧ wordAt (turnTwo 0xEE000000) = 0x77 ∧
    wordAt (turnTwo 0x80000000) = 0x40 ∧ (turnSt 0x15FFC 0).cur.pc = 0x15FFC ∧ (turnTwo 0xEE000000).cur.pc = 0x15FFC ∧
    ((fNext (turnTwo 0xEE000000) 0x15FFC).cur.pc + 4).toNat = 0x16000 := by decide +kernel
/-- FetchReadsTheWords: the page's last word, of one word; the same word with the next page's first, of an instruction of two, for both ends of
their majors. -/
theorem witness_fetchReads : (∃ s1, Sys2Proof.Claims.FetchesAt 0x15FFC 0x15FFC (turnSt 0x15FFC 0) s1) ∧
    ∃ s1 s2, Sys2Proof.Claims.FetchesAt 0x15FFC 0x15FFC (turnTwo 0xEE000000) s1 ∧ Sys2Proof.Claims.FetchesAt 0x16000 0x16000 s1 s2 :=
  ⟨⟨_, fetches fetchFacts.1⟩, _, _, fetches fetchFacts.2.1, fetches fetchFacts.2.2.1⟩
/-- EncodedInstructionsDecode: an instruction of each length, well-formed; words that decode. -/
theorem witness_encodedDecode : (Instr.add ⟨7, 31, 31, 1, 31, 1⟩).wf = true ∧ (Instr.add ⟨7, 31, 31, 1, 31, 1⟩).isEvent = false ∧
    (Instr.vadd ⟨0, 3, 1, 2⟩ (tailAt 0)).wf = true ∧ (Instr.vadd ⟨0, 3, 1, 2⟩ (tailAt 0)).isEvent = false ∧ (decode 0 0).isSome = true := by decide +kernel
/-- MemoriesStayCanonical: a step that goes on from canonical memories. -/
theorem witness_memoriesStay : ({ powered := true, agenda := [.tick], mem := [(5, 1)] } : State).MemOk ∧ ({ powered := true, agenda := [.tick], mem := [(5, 1)] } : State).LocalOk ∧
    ∃ t, step { powered := true, agenda := [.tick], mem := [(5, 1)] } = .next t :=
  ⟨by unfold State.MemOk; decide, ⟨fun _ => ⟨rfl, rfl⟩, fun _ => rfl, fun _ => rfl⟩, ⟨_, rfl⟩⟩

/-! ### One step of some instructions: values by hand from the rules' formulas and the spec's examples -/

/-- What register r of the context reads after an instruction from registers s1 and s2, and AFLAGS. -/
def after (i : Instr) (a b : Dword) (r : Nat) : Option (Dword × Dword) := match exec i (st ((sysCtx.wr 1 a).wr 2 b)) with
  | .next t => some (t.cur.rd r, t.cur.aflags)
  | _ => none
/-- What predicate p1 reads after it. -/
def afterP (i : Instr) (a b : Dword) : Option Bool := match exec i (st ((sysCtx.wr 1 a).wr 2 b)) with
  | .next t => some (t.cur.rdP 1)
  | _ => none
def ops : FR := ⟨0, 5, 1, 0, 2, 0⟩
def m1 : Dword := 0xFFFFFFFFFFFFFFFF
def minS : Dword := 0x8000000000000000

theorem test_add_wraps : after (.add ops) m1 2 5 = some (1, 0) := by decide +kernel
theorem test_sub_order : after (.sub ops) 1 3 5 = some (0xFFFFFFFFFFFFFFFE, 0) := by decide +kernel
theorem test_mul_low : after (.mul ops) 0x100000001 0x100000001 5 = some (0x200000001, 0) := by decide +kernel
theorem test_mulh_signed : after (.mulh ops) m1 1 5 = some (m1, 0) ∧ after (.mulhu ops) m1 2 5 = some (1, 0) := by decide +kernel
theorem test_div_truncates : after (.div ops) (BitVec.ofInt 64 (-7)) 2 5 = some (BitVec.ofInt 64 (-3), 0) ∧ after (.rem ops) (BitVec.ofInt 64 (-7)) 2 5 = some (m1, 0) := by
  decide +kernel
theorem test_div_corners : after (.div ops) minS m1 5 = some (minS, 0) ∧ after (.rem ops) minS m1 5 = some (0, 0) ∧ after (.divu ops) 5 0 5 = some (m1, 0) ∧
    after (.remu ops) 5 0 5 = some (5, 0) := by decide +kernel
theorem test_andn : after (.andn ops) 0b1100 0b1010 5 = some (0b0100, 0) := by decide +kernel
theorem test_shifts_mod64 : after (.shl ops) 3 65 5 = some (6, 0) ∧ after (.shr ops) minS 127 5 = some (1, 0) ∧ after (.sra ops) minS 63 5 = some (m1, 0) ∧
    after (.rotr ops) 1 1 5 = some (minS, 0) := by decide +kernel
theorem test_min_max : after (.min ops) m1 1 5 = some (m1, 0) ∧ after (.max ops) m1 1 5 = some (1, 0) ∧ after (.minu ops) m1 1 5 = some (1, 0) ∧
    after (.maxu ops) m1 1 5 = some (m1, 0) := by decide +kernel
theorem test_saturate_signed : after (.adds ops) 0x7FFFFFFFFFFFFFFF 1 5 = some (0x7FFFFFFFFFFFFFFF, 16) ∧ after (.subs ops) minS 1 5 = some (minS, 16) := by decide +kernel
theorem test_saturate_unsigned : after (.addsu ops) m1 1 5 = some (m1, 16) ∧ after (.subsu ops) 1 2 5 = some (0, 16) ∧ after (.subsu ops) 2 2 5 = some (0, 0) := by decide +kernel
theorem test_s0_discards : after (.add ⟨0, 0, 1, 0, 2, 0⟩) 1 2 0 = some (0, 0) := by decide +kernel
theorem test_addImm_signExtends : after (.addImm ⟨0, 5, 1, 0, 0x7FF⟩) 1 0 5 = some (0, 0) := by decide +kernel
theorem test_andImm_signExtends : after (.andImm ⟨0, 5, 1, 0, 0x400⟩) m1 0 5 = some (0xFFFFFFFFFFFFFC00, 0) := by decide +kernel
theorem test_sraImm : after (.sraImm ⟨0, 5, 1, 0, 63⟩) minS 0 5 = some (m1, 0) := by decide +kernel
/-- The example of R245. -/
theorem test_extract_example : after (.extract ⟨0, 5, 1, 0, 0x3C8⟩) 0x123456789ABCDEF0 0 5 = some (0xBCDE, 0) := by decide +kernel
theorem test_insert_example : after (.insert ⟨0, 2, 1, 0, 0x1E8⟩) 0xBCDE 0x123456789ABCDEF0 2 = some (0x1234DE789ABCDEF0, 0) := by decide +kernel
theorem test_counts : after (.popc ⟨0, 5, 1, 0⟩) 0xF0F 0 5 = some (8, 0) ∧ after (.clz ⟨0, 5, 1, 0⟩) 0 0 5 = some (64, 0) ∧ after (.ctz ⟨0, 5, 1, 0⟩) 8 0 5 = some (3, 0) ∧
    after (.brev ⟨0, 5, 1, 0⟩) 1 0 5 = some (minS, 0) ∧ after (.bswap ⟨0, 5, 1, 0⟩) 0x12 0 5 = some (0x1200000000000000, 0) := by decide +kernel
theorem test_cmp_signs : afterP (.cmp ⟨0, 1, 2, 1, 0, 2, 0⟩) m1 1 = some true ∧ afterP (.cmp ⟨0, 1, 4, 1, 0, 2, 0⟩) m1 1 = some false ∧
    afterP (.cmp ⟨0, 1, 5, 1, 0, 2, 0⟩) m1 1 = some true ∧ afterP (.cmpImm ⟨0, 1, 7, 1, 0, 4⟩) 3 0 = some true := by decide +kernel
theorem test_pnand : afterP (.pnand ⟨0, 1, 0, 0, 1, 0⟩) 0 0 = some true ∧ afterP (.pnor ⟨0, 1, 0, 0, 1, 0⟩) 0 0 = some false := by decide +kernel
/-- Where control goes: a branch back by one word, a call's link. -/
theorem test_branch_and_call : ((match exec (.br ⟨0, 0x3FFFFF⟩) (st { sysCtx with pc := 0x100 }) with
      | .next t => some t.cur.pc
      | _ => none) = some 0xFC) ∧
    ((match exec (.call ⟨0, 4⟩) (st { sysCtx with pc := 0x100 }) with
      | .next t => some (t.cur.pc, t.cur.rd 23)
      | _ => none) = some ((0x110 : Dword), (0x104 : Dword))) := by decide +kernel
/-- The reduction of R297's example: elements 0, 1 and 65 of an FP32 register by the tree, 0x4B80_0001. -/
theorem test_vrsum_example : ((match (let m := cmdOf 0x9A0A2000 0x3C0 0 0 0
      let s := runSt 2 m
      (s.setCtx 0 3 { s.ctx 0 3 with v := [(2, BitVec.ofNat 4096 (0x4B800000 + 0x3F800000 * 2 ^ 32 + 0x3F800000 * 2 ^ (32 * 65)))] }).runV 0 m) with
    | .done _ f _ x => some (f, x)
    | _ => none) = some (0, some (5, 0x4B800001))) := by decide +kernel
/-- The scan of the same example: element 127 is 0x4B80_0000, and NX (bit 3) is set. -/
theorem test_vscan_example : ((match (let m := cmdOf (0x4D * 2 ^ 25 + 8 + 3 * 2 ^ 17 + 2 * 2 ^ 12) 0x3C0 0 0 0
      let s := runSt 2 m
      (s.setCtx 0 3 { s.ctx 0 3 with v := [(2, BitVec.ofNat 4096 (0x4B800000 + 0x3F800000 * 2 ^ 32 + 0x3F800000 * 2 ^ (32 * 65)))] }).runV 0 m) with
    | .done t f _ _ => some (f, lane 32 (mget 0 (t.ctx 0 3).v 3).toNat 127)
    | _ => none) = some (8, 0x4B800000)) := by decide +kernel

end Sys2Proof.Tests
end

/-!
SUPPORT. Frames: what an update of one context leaves alone, said in the words of the claims; and the guard of issue passed.
-/
namespace Sys2Proof.Machine
open Sys2Proof.Claims

/-- What `Ready` asks for is what the guard lets pass. -/
theorem guard_ready {n : Need} {s : State} (k : State → State) (h : Ready n s.cur) : guard n s k = .next (k s) :=
  guard_go k ((Ctx.verdict_go _ _).2 h)

/-- An update of a context leaves everything of every core but its contexts. -/
theorem State.core_setCtx_ctxs (s : State) (i x j : Nat) (t : Ctx) :
    { (s.setCtx i x t).core j with ctxs := [] } = { s.core j with ctxs := [] } := by
  rw [State.core_setCtx]
  split_ifs with h
  · subst h; rfl
  · rfl

/-- An update of one context changes nothing else of the package. -/
theorem onlyCtx_setCtx (s : State) (i x : Nat) (t : Ctx) : OnlyCtx i x s (s.setCtx i x t) :=
  ⟨rfl, fun j => s.core_setCtx_ctxs i x j t, fun j y h => by rw [State.ctx_setCtx, if_neg h]⟩

theorem onlyCtx_modCtx (s : State) (i x : Nat) (f : Ctx → Ctx) : OnlyCtx i x s (s.modCtx i x f) := onlyCtx_setCtx s i x _

/-- An update of the current context changes nothing else of the package. -/
theorem onlyCur_setCur (s : State) (t : Ctx) : OnlyCur s (s.setCur t) :=
  ⟨⟨rfl, fun _ => rfl⟩, (onlyCtx_setCtx s _ _ t).2⟩

end Sys2Proof.Machine

/-!
O59: the state after reset.
-/
namespace Sys2Proof.Machine
open Sys2Proof.Claims

@[simp] theorem core_reset (i : Nat) : State.reset.core i = {} := rfl
@[simp] theorem shed_reset (i : Nat) : State.reset.shed i = {} := rfl
@[simp] theorem die_reset (i : Nat) : State.reset.die i = {} := rfl
@[simp] theorem ctx_reset (i x : Nat) : State.reset.ctx i x = {} := rfl
@[simp] theorem grp_reset (g : Nat) : State.reset.grp g = {} := rfl

/-- No byte is listed after reset, so that every memory has its canonical form. -/
theorem canon_reset : State.reset.Canon := by
  refine ⟨rfl, fun j => ?_, fun j => ?_, fun j => ?_⟩
  · rw [core_reset]; exact ⟨rfl, rfl⟩
  · rw [shed_reset]; rfl
  · rw [die_reset]; rfl

/-- Settles O59: no part of the package is listed after reset, so that each reads as its declared initial value. -/
theorem atReset : Obligations.AtReset := by
  refine ⟨fun core x => ?_, fun core g => ?_, fun d => ?_, fun core => ?_, rfl, rfl, rfl, fun g => ?_, canon_reset⟩
  · rw [ctx_reset]; exact ⟨rfl, rfl, fun _ => rfl, rfl⟩
  · rw [core_reset]; exact ⟨rfl, rfl⟩
  · rw [die_reset]; rfl
  · rw [core_reset]; decide
  · rw [grp_reset]

end Sys2Proof.Machine

/-!
O29: system registers. What `mtsr` and `setovf` write (R328, R330, R337).
-/
namespace Sys2Proof.Machine
open Sys2Proof.Claims

/-! ### Reserved bits of a written value -/

/-- A field of a value put back in its place is the value under the field's mask. -/
theorem dw_field_mask (v : Dword) (lo n : Nat) : dw (field v.toNat lo n * 2 ^ lo) = v &&& dw ((2 ^ n - 1) * 2 ^ lo) := by
  refine BitVec.eq_of_getLsbD_eq fun i hi => ?_
  simp only [dw, field, BitVec.getLsbD_and, BitVec.getLsbD_ofNat, hi, decide_true, Bool.true_and, Nat.testBit_mul_two_pow,
    Nat.testBit_mod_two_pow, Nat.testBit_div_two_pow, Nat.testBit_two_pow_sub_one]
  by_cases h : lo ≤ i
  · simp [h, Nat.sub_add_cancel h, BitVec.getLsbD, Bool.and_comm]
  · simp [h]

theorem dw_aflags_mask (v : Dword) : dw (v.toNat % 32) = v &&& 0x1F := by simpa [field, dw] using dw_field_mask v 0 5

/-- The mask 0x11F of TCTL: bits 4:0 and bit 8 (R334). -/
theorem dw_tctl_mask (v : Dword) : dw (v.toNat % 32 + field v.toNat 8 1 * 2 ^ 8) = v &&& 0x11F := by
  have low := dw_aflags_mask v
  have high : dw (field v.toNat 8 1 * 2 ^ 8) = v &&& 0x100 := dw_field_mask v 8 1
  have apart : (v &&& 0x1F) &&& (v &&& 0x100) = 0 := by
    rw [show (v &&& 0x1F) &&& (v &&& 0x100) = v &&& v &&& (0x1F &&& 0x100) by ac_rfl]; simp
  calc dw (v.toNat % 32 + field v.toNat 8 1 * 2 ^ 8) = dw (v.toNat % 32) + dw (field v.toNat 8 1 * 2 ^ 8) := BitVec.ofNat_add _ _
    _ = (v &&& 0x1F) ||| (v &&& 0x100) := by rw [low, high, BitVec.add_eq_or_of_and_eq_zero _ _ apart]
    _ = v &&& 0x11F := by rw [← BitVec.and_or_distrib_left]; rfl

theorem dw_wb_mask (v : Dword) : dw (field v.toNat 12 40 * 2 ^ 12) = v &&& 0x000FFFFFFFFFF000 := dw_field_mask v 12 40

theorem dw_tstat_mask (v : Dword) : dw (v.toNat / 2 ^ 36 * 2 ^ 36) = v &&& 0xFFFFFFF000000000 := by
  have all : field v.toNat 36 28 = v.toNat / 2 ^ 36 := Nat.mod_eq_of_lt (by omega)
  rw [← all]; exact dw_field_mask v 36 28

@[simp] theorem dw_toNat (v : Dword) : dw v.toNat = v := BitVec.ofNat_toNat 64 v |>.trans (BitVec.setWidth_eq v)

/-! ### A write of a register of the table -/

/-- A register of the table is written in its context alone, and the write is legal there (R328, R334). -/
theorem writeSrn_swTable (r : Nat × (Dword → Ctx → Ctx)) (hr : r ∈ swTable) (s : State) (core x : Nat) (v : Dword) :
    s.writeSrn core x r.1 v.toNat = .ok (s.modCtx core x (r.2 v)) := by
  simp only [swTable, List.mem_cons, List.not_mem_nil, or_false] at hr
  rcases hr with rfl | rfl | rfl | rfl | rfl | rfl | rfl | rfl | rfl | rfl <;>
    simp [State.writeSrn, -Nat.reducePow, dw_aflags_mask, dw_wb_mask, dw_tstat_mask, dw_tctl_mask]

/-! ### `mtsr` (R330) -/

theorem exec_mtsr (f : FMt) (s : State) : exec (.mtsr f) s = execMtsr f s := rfl
theorem exec_setovf (f : FJ) (s : State) : exec (.setovf f) s = execSetovf f s := rfl

/-- The registers of the table, that are not read-only. -/
theorem sysWrites_swTable : ∀ r ∈ swTable.map Prod.fst, sysWrites r = true := by decide

/-- What `mtsr` asks of the guard when it names a register of the table. -/
theorem mtNeed_swTable (f : FMt) (hr : f.srn.toNat ∈ swTable.map Prod.fst) :
    ({ p := f.p.toNat, undef := srnBad f.srn.toNat, sys := !progReads f.srn.toNat || (sysWrites f.srn.toNat && !progWrites f.srn.toNat),
       src := [(f.reg.toNat, sel f.fr)] } : Need) = mtNeed f := by
  have undef : ∀ n ∈ swTable.map Prod.fst, srnBad n = false := by decide
  have sys : ∀ n ∈ swTable.map Prod.fst, (!progReads n || (sysWrites n && !progWrites n)) = decide (n ≠ 2 ∧ n ≠ 0) := by decide
  have number : (f.srn.toNat ≠ 2 ∧ f.srn.toNat ≠ 0) ↔ (f.srn ≠ 2 ∧ f.srn ≠ 0) := by
    rw [Ne, Ne, Ne, Ne, ← BitVec.toNat_inj, ← BitVec.toNat_inj]; rfl
  rw [undef _ hr, sys _ hr, mtNeed, decide_eq_decide.2 number]; rfl

/-- The context that `mtsr` names may not be written: it is another one, and not of c3 in system state or neither Idle nor Stopped (R330). -/
def State.srBarred (s : State) (f : FMt) : Bool :=
  let st := (s.ctx s.curCore (s.srCtx f.xc f.cx)).state
  sel f.xc && !(s.curCtx == 3 && s.cur.sys && (st == .idle || st == .stopped))

theorem srCtx_own {f : FMt} (s : State) (h : f.xc = 0) : s.srCtx f.xc f.cx = s.curCtx := by simp [State.srCtx, sel, h]
theorem srCtx_other {f : FMt} (s : State) (h : f.xc = 1) : s.srCtx f.xc f.cx = f.cx.toNat := by simp [State.srCtx, sel, h]

theorem srBarred_own {f : FMt} (s : State) (h : f.xc = 0) : ¬s.srBarred f = true := by simp [State.srBarred, sel, h]

theorem srBarred_other {f : FMt} (s : State) (h : f.xc = 1) : s.srBarred f = true ↔ ¬(s.curCtx = 3 ∧ s.cur.sys = true ∧
    ((s.ctx s.curCore f.cx.toNat).state = .idle ∨ (s.ctx s.curCore f.cx.toNat).state = .stopped)) := by
  rw [State.srBarred, srCtx_other s h]
  simp [sel, h, or_iff_not_imp_left]

/-- A write of a register of the table takes place in the context named, or is an illegal operand there. -/
theorem exec_mtsr_swTable (r : Nat × (Dword → Ctx → Ctx)) (hr : r ∈ swTable) (f : FMt) (s : State) (e : f.srn.toNat = r.1)
    (h : Ready (mtNeed f) s.cur) :
    exec (.mtsr f) s = .next (if s.srBarred f = true then trapCur 0x27 s
      else fall 1 (s.modCtx s.curCore (s.srCtx f.xc f.cx) (r.2 (s.cur.rd f.reg.toNat)))) := by
  have number : f.srn.toNat ∈ swTable.map Prod.fst := e ▸ List.mem_map_of_mem hr
  have writable : sysWrites r.1 = true := sysWrites_swTable _ (e ▸ number)
  rw [exec_mtsr, execMtsr, mtNeed_swTable f number, guard_ready _ h]
  congr 1
  by_cases barred : s.srBarred f = true
  · rw [if_pos barred]; exact if_pos barred
  · rw [if_neg barred]; exact (if_neg barred).trans (by simp [e, writable, writeSrn_swTable r hr])

/-- A read-only register is no operand of `mtsr`, in any state (R328, R330). -/
theorem exec_mtsr_readOnly (f : FMt) (s : State) (hx : f.xc = 0) (hb : srnBad f.srn.toNat = false) (hr : progReads f.srn.toNat = true)
    (hw : sysWrites f.srn.toNat = false) (h : Ready { p := f.p.toNat, src := [(f.reg.toNat, f.fr == 1)] } s.cur) :
    exec (.mtsr f) s = .next (trapCur 0x27 s) := by
  rw [exec_mtsr, execMtsr, hb, hr, hw]
  exact (guard_ready _ h).trans (by simp [sel, hx])

/-! ### `setovf` (R337) -/

theorem ovfLegal_iff (v : Nat) : ovfLegal v = true ↔ v < 2 ^ 32 ∧ ∀ i, i < 16 → field v (2 * i) 2 ≠ 3 := by simp [ovfLegal]

/-- `setovf` of an illegal table traps; of a legal one it waits for the context's engine commands, then writes it. -/
theorem exec_setovf_ready (f : FJ) (s : State) (h : Ready { p := f.p.toNat, sys := true, src := [(f.a.toNat, f.fa == 1)] } s.cur) :
    exec (.setovf f) s = .next (if ovfLegal (s.cur.rd f.a.toNat).toNat = false then trapCur 0x27 s
      else if (s.core s.curCore).engDone s.curCtx = false then blockCur s
      else fall 1 (s.onCur (fun c => { c with ovftab := s.cur.rd f.a.toNat }))) := by
  rw [exec_setovf, execSetovf]
  exact (guard_ready _ h).trans (by simp only [Bool.not_eq_true'])

/-- Settles O29: `mtsr` of a register of the table by `exec_mtsr_swTable`, of a read-only one by `exec_mtsr_readOnly`; `setovf` by
`exec_setovf_ready`. -/
theorem systemRegisterWrites : Obligations.SystemRegisterWrites := by
  refine ⟨fun r hr f s e h => ?_, fun f s hx hn h => ?_, fun f s h => ?_⟩
  · have write := exec_mtsr_swTable r hr f s e h
    refine ⟨fun own => ?_, fun other c3 sys st ne => ?_, fun other not => ?_⟩
    · rw [if_neg (srBarred_own s own), srCtx_own s own] at write
      rw [write]
      exact ⟨_, congrArg _ (fall_onCur 1 (r.2 _) s), onlyCur_setCur _ _, State.cur_setCur _ _⟩
    · rw [if_neg (fun barred => (srBarred_other s other).1 barred ⟨c3, sys, st⟩), srCtx_other s other] at write
      have apart : f.cx.toNat ≠ 3 := fun h3 => ne (BitVec.eq_of_toNat_eq h3)
      refine ⟨_, write, ?_, ?_, fun _ => rfl⟩
      · rw [cur_fall]; simp [State.cur, c3, Ne.symm apart]
      · rw [fall_eq, State.ctx_setCur]; simp [c3, apart]
    · rw [write, if_pos ((srBarred_other s other).2 fun ⟨c3, sys, _⟩ => not ⟨c3, sys⟩)]
  · have readOnly : ∀ n ∈ ([0x01, 0x03, 0x04, 0x08, 0x0C, 0x0F, 0x1A, 0x3B] : List (BitVec 8)),
        srnBad n.toNat = false ∧ progReads n.toNat = true ∧ sysWrites n.toNat = false := by decide
    obtain ⟨hb, hr, hw⟩ := readOnly _ hn
    exact exec_mtsr_readOnly f s hx hb hr hw h
  · have write := exec_setovf_ready f s h
    refine ⟨fun legal done => ?_, fun legal busy => ?_, fun illegal => ?_⟩
    · rw [write, (ovfLegal_iff _).2 legal, done, fall_onCur]
      exact ⟨_, rfl, onlyCur_setCur _ _, State.cur_setCur _ _⟩
    · rw [write, (ovfLegal_iff _).2 legal, busy]
      exact ⟨_, rfl, onlyCur_setCur _ _, State.cur_setCur _ _⟩
    · rw [write, if_pos (Bool.eq_false_iff.2 fun legal => illegal ((ovfLegal_iff _).1 legal))]

end Sys2Proof.Machine

/-!
O41: register writes that are events of their own: GENPROF, REWIND and the rings of a core, the queues, and the host's writes of a register
block (R5, R71, R148, R163, R353, R366).
-/
namespace Sys2Proof.Machine
open Sys2Proof.Claims

theorem exec_genprofWrite (core ctx value : Nat) (s : State) : exec (.genprofWrite core ctx value) s = execGenprofWrite core ctx value s := rfl
theorem exec_rewindWrite (core value : Nat) (s : State) : exec (.rewindWrite core value) s = .next (s.rewindWrite core value) := rfl
theorem exec_ringRegisterWrite (core eng value : Nat) (s : State) :
    exec (.ringRegisterWrite core eng value) s = execRingRegisterWrite core eng value s := rfl
theorem exec_hqctlWrite (shed q value : Nat) (s : State) : exec (.hqctlWrite shed q value) s = .next (s.hqWrite shed q 0 value) := rfl
theorem exec_lqctlWrite (pen q value : Nat) (s : State) : exec (.lqctlWrite pen q value) s = execLqctlWrite pen q value s := rfl
theorem exec_c3startWrite (core value : Nat) (s : State) : exec (.c3startWrite core value) s = execC3startWrite core value s := rfl

/-! ### GENPROF (R5, R202, R330) -/

theorem genprofWrite_reserved {value : Nat} (s : State) (core ctx : Nat) (h : value % 16 = 0 ∨ 3 < value % 16) :
    s.genprofWrite core ctx value = .illegal := if_pos h

/-- A profile that is none of the reserved ones waits for the context's engine commands, then loads OVFTAB. -/
theorem genprofWrite_profile {value : Nat} (s : State) (core ctx : Nat) (h1 : 1 ≤ value % 16) (h3 : value % 16 ≤ 3) :
    s.genprofWrite core ctx value = if (s.core core).engDone ctx = false then .wait
      else .ok (s.modCtx core ctx (fun c => { c with genprof := value % 16, ovftab := ovfOfProfile (value % 16) })) := by
  unfold State.genprofWrite
  rw [if_neg (by omega)]
  simp only [Bool.not_eq_true']
  rfl

/-! ### REWIND (R148) -/

/-- An update of a core that keeps its contexts changes nothing else of the package. -/
theorem onlyCore_setCore (s : State) (i : Nat) {c : Core} (h : c.ctxs = (s.core i).ctxs) : OnlyCore i s (s.setCore i c) := by
  refine ⟨rfl, fun j hj => by simp [hj], fun j y => ?_⟩
  rw [State.ctx, State.ctx, State.core_setCore]
  split_ifs with e
  · subst e; rw [Core.ctx, h]; rfl
  · rfl

theorem rewindFree_unbound {c : Core} (h : c.bind = none) : c.rewindFree = c := by simp [Core.rewindFree, h]

/-- While the core is bound, the steps past the depth stand freed, and their entries leave the shadow store. -/
theorem rewindFree_bound {c : Core} {b : Bind} (h : c.bind = some b) :
    c.rewindFree = { c with
      shadow := c.shadow.filter (fun e => !(e.inst == b.inst && (((b.steps.filter Step.retired).map Step.key).reverse.drop c.rewind).contains e.key)),
      bind := some (freedPast c.rewind b) } := by
  simp [Core.rewindFree, h, freedPast]

/-- During a stop, or with nothing bound, a write of REWIND changes the depth alone (R152). -/
theorem rewindWrite_keeps {s : State} {core : Nat} (value : Nat) (h : (s.core core).cut.phase ≠ 0 ∨ (s.core core).bind = none) :
    s.rewindWrite core value = s.setCore core { s.core core with rewind := value % 1024 } := by
  refine congrArg (s.setCore core) ?_
  dsimp only
  split_ifs with idle
  · exact rewindFree_unbound (h.resolve_left (fun stop => stop idle))
  · rfl

/-- Otherwise it frees what lies past the new depth. -/
theorem rewindWrite_frees {s : State} {core : Nat} {b : Bind} (value : Nat) (idle : (s.core core).cut.phase = 0) (hb : (s.core core).bind = some b) :
    s.rewindWrite core value = s.setCore core { s.core core with
      rewind := value % 1024
      shadow := (s.core core).shadow.filter (fun e =>
        !(e.inst == b.inst && (((b.steps.filter Step.retired).map Step.key).reverse.drop (value % 1024)).contains e.key))
      bind := some (freedPast (value % 1024) b) } :=
  congrArg (s.setCore core) ((if_pos idle).trans (rewindFree_bound hb))

/-! ### Ring registers (R163) -/

/-- The ring takes its fields when it is empty and lies in the scratchpad. -/
theorem ringWrite_eq (g : Eng) (value : Nat) :
    g.ringWrite value = if g.head ≠ g.tail ∨ (4 ≤ field value 28 4 ∧ field value 28 4 ≤ 12 ∧ 0x200000 < 64 * field value 6 15 + 64 * 2 ^ field value 28 4)
      then none
      else some { g with base := 64 * field value 6 15, logsize := field value 28 4, head := field value 48 16, tail := field value 48 16,
                         apps := [], cmds := [] } := by
  unfold Eng.ringWrite
  simp only [Nat.mul_comm (field value 6 15)]
  by_cases held : g.head ≠ g.tail
  · rw [if_pos held, if_pos (.inl held)]
  · rw [if_neg held]; simp only [held, false_or]

/-! ### Hardware queues (R71, R72) -/

theorem hq_setHq (s : State) (shed n h j : Nat) (q : HQ) : (s.setHq shed n q).hq h j = if h = shed ∧ j = n then q else s.hq h j := by
  by_cases e : h = shed
  · subst e; simp [State.hq, State.setHq, Shed.queue, mget_mset]
  · simp [State.hq, State.setHq, e]

/-- A write of a queue changes nothing else of the package. -/
theorem shed_setHq_queues (s : State) (shed n h : Nat) (q : HQ) : { (s.setHq shed n q).shed h with queues := [] } = { s.shed h with queues := [] } := by
  rw [State.setHq, State.shed_setShed]
  split_ifs with e
  · rw [e]
  · rfl

/-! ### Register blocks (R396) -/

theorem regAddr_package (off : Nat) : regAddr 0 off = 0xF00000000000 + off := rfl
theorem regAddr_die {b : Nat} (off : Nat) (h1 : 1 ≤ b) (h9 : b ≤ 9) : regAddr b off = 0xF00000000000 + off + (0x10000000 + (b - 1) * 0x1000000) := by
  rw [regAddr, if_neg (by omega), if_pos h9]
theorem regAddr_pen {b : Nat} (off : Nat) (h : 10 ≤ b) : regAddr b off = 0xF00000000000 + off + (0x20000000 + (b - 10) * 0x100000) := by
  rw [regAddr, if_neg (by omega), if_neg (by omega)]

/-- The blocks of R396: the package's, a die's or a pen's. -/
theorem block_cases (b : Nat) : b = 0 ∨ (1 ≤ b ∧ b ≤ 9) ∨ 10 ≤ b := by omega

/-- The physical address of a block's register leads back to it. -/
theorem regBlock_regAddr {b off : Nat} (hb : b ≤ 25) (ho : off < 0x100000) : regBlock (regAddr b off) = some (b, off) := by
  unfold regBlock
  dsimp only
  rcases block_cases b with rfl | ⟨h1, h9⟩ | h10
  · rw [regAddr_package, if_pos (by omega)]
    exact congrArg some (Prod.ext rfl (by dsimp only; omega))
  · rw [regAddr_die off h1 h9, if_neg (by omega), if_pos (by omega)]
    exact congrArg some (Prod.ext (by dsimp only; omega) (by dsimp only; omega))
  · rw [regAddr_pen off h10, if_neg (by omega), if_neg (by omega), if_pos (by omega)]
    exact congrArg some (Prod.ext (by dsimp only; omega) (by dsimp only; omega))

theorem tierOf_regAddr {b off : Nat} (hb : b ≤ 25) (ho : off < 0x100000) : tierOf (regAddr b off) = .regs := by
  have span : 0xF00000000000 ≤ regAddr b off ∧ regAddr b off < 0xF00100000000 := by
    rcases block_cases b with rfl | ⟨h1, h9⟩ | h10
    · rw [regAddr_package]; omega
    · rw [regAddr_die off h1 h9]; omega
    · rw [regAddr_pen off h10]; omega
  rw [tierOf, if_neg (by omega), if_neg (by omega), if_pos span]

theorem regAddr_mod_eight (b off : Nat) : regAddr b off % 8 = off % 8 := by unfold regAddr; split_ifs <;> omega

/-- A write of the host that does not reach its register does nothing (R35, R404, R406). -/
theorem hostPut_unreached {s : State} {b off : Nat} (value : Nat) (h : ¬HostReaches b off s) : s.hostPut b off value = s := by
  refine if_pos ?_
  simp only [HostReaches, not_and_or, Bool.not_eq_true] at h
  rcases h with h | h | h
  · simp [h, outer]
  · simp [h]
  · rw [hostMaster, h]; simp

/-- The two lemmas that follow unfold their function as a whole, by `delta`: of its application to an address that is no literal the kernel would
evaluate `regBlock`, and there count the block's base down by ones. -/
theorem regAt_of_regBlock {pa b off : Nat} (h : regBlock pa = some (b, off)) : regAt pa = regListed b (off / 8 * 8) := by
  have e : regAt = regAt := rfl
  conv at e => rhs; delta regAt
  have e := congrFun e pa
  beta_reduce at e
  rw [h] at e
  exact e

/-- A write of eight bytes of a register writes all of it (R396). -/
theorem regWrite_eight (s : State) (master : Nat) {pa b off : Nat} (value : Nat) (sys : Bool) (h : regBlock pa = some (b, off)) :
    s.regWrite master pa 8 value sys = (s.unstage master).blockWrite master b off (value % 2 ^ 64) sys := by
  have e : State.regWrite = State.regWrite := rfl
  conv at e => rhs; delta State.regWrite
  have e := congrFun (congrFun (congrFun (congrFun (congrFun (congrFun e s) master) pa) 8) value) sys
  beta_reduce at e
  rw [h] at e
  exact e.trans (if_pos rfl)

/-- One that does writes the whole register. -/
theorem hostPut_reached {s : State} {b off : Nat} (value : Nat) (h : HostReaches b off s) (hb : b ≤ 25) (ho : off < 0x100000)
    (aligned : off % 8 = 0) (listed : regListed b off = true) :
    s.hostPut b off value = (s.unstage hostMaster).blockWrite hostMaster b off (value % 2 ^ 64) false := by
  obtain ⟨up, way, grant⟩ := h
  have block := regBlock_regAddr hb ho
  have tier := tierOf_regAddr hb ho
  have shape : regShape (regAddr b off) 8 = true := by simp [regShape, regAddr_mod_eight, aligned]
  have lies : regAt (regAddr b off) = true := by
    rw [regAt_of_regBlock block, Nat.div_mul_cancel (Nat.dvd_of_mod_eq_zero aligned), listed]
  unfold State.hostPut
  generalize regAddr b off = pa at *
  rw [← regWrite_eight s hostMaster value false block, State.regPut]
  refine if_neg ?_
  simp [up, way, shape, hostMaster, grant, lies, tier]

/-! ### Launch queues (R353) -/

theorem regListed_lqctl {pen n : Nat} (hp : pen < 16) (hn : n < 8) : regListed (10 + pen) (0x10 * n + 8) = true := by
  unfold regListed
  rw [if_neg (by omega), if_neg (by omega), if_pos (by omega)]
  simp only [Bool.or_eq_true, decide_eq_true_eq]
  omega

/-- The event is the host's write of the register. -/
theorem exec_lqctlWrite_host {s : State} {pen n : Nat} (value : Nat) (on : s.powered = true) (hp : pen < 16) (hn : n < 8) :
    exec (.lqctlWrite pen n value) s = .next (s.hostPut (10 + pen) (0x10 * n + 8) value) := by
  rw [exec_lqctlWrite, execLqctlWrite, if_pos hn, penPut, withPower, if_pos on, if_pos hp, Nat.mul_comm]

/-- The host's write of a launch queue's dword. -/
theorem blockWrite_lq (s : State) (master pen n value : Nat) (ctl : Bool) (hp : pen < 16) (hn : n < 8) :
    s.blockWrite master (10 + pen) (0x10 * n + if ctl then 8 else 0) value false =
      s.setPen pen { s.pen pen with lqs := mset (s.pen pen).lqs n ((mget {} (s.pen pen).lqs n : LQ).put ctl value) } := by
  have low : (0x10 * n + if ctl then 8 else 0) < 0x80 := by split_ifs <;> omega
  have slot : (0x10 * n + if ctl then 8 else 0) / 0x10 = n := by split_ifs <;> omega
  have dword : ((0x10 * n + if ctl then 8 else 0) % 0x10 == 8) = ctl := by cases ctl <;> simp
  have shown : s.hidden master (10 + pen) (0x10 * n + if ctl then 8 else 0) false = false := by
    have : hiddenReg (0x10 * n + if ctl then 8 else 0) = false := by simp only [hiddenReg, Bool.or_eq_false_iff, decide_eq_false_iff_not]; omega
    simp [State.hidden, this]
  unfold State.blockWrite
  rw [shown, if_neg (by decide), if_neg (by omega), if_neg (by omega), if_pos (by omega), if_pos low, slot, dword, Nat.add_sub_cancel_left]

/-- A write of a queue's control register that reaches it. -/
theorem exec_lqctlWrite_reached {s : State} {pen n : Nat} (value : Nat) (on : s.powered = true) (hp : pen < 16) (hn : n < 8)
    (h : HostReaches (10 + pen) (0x10 * n + 8) s) :
    exec (.lqctlWrite pen n value) s = .next ((s.unstage hostMaster).setPen pen
      { s.pen pen with lqs := mset (s.pen pen).lqs n ((mget {} (s.pen pen).lqs n : LQ).put true (value % 2 ^ 64)) }) := by
  have put := blockWrite_lq (s.unstage hostMaster) hostMaster pen n (value % 2 ^ 64) true hp hn
  rw [if_pos rfl] at put
  rw [exec_lqctlWrite_host value on hp hn, hostPut_reached value h (by omega) (by omega) (by omega) (regListed_lqctl hp hn), put]
  rfl

/-- While a queue is watched its control register takes an ENABLE of 0 and nothing else. -/
theorem LQ.put_ctl_enabled {q : LQ} (value : Nat) (h : q.enable = true) : q.put true value = { q with enable := field value 31 1 == 1 } := by
  cases en : field value 31 1 == 1 <;> simp [LQ.put, h, en]
  rw [← h]

/-- While it is not, the register takes its fields; an ENABLE of 1 restarts the count. -/
theorem LQ.put_ctl_disabled {q : LQ} (value : Nat) (h : q.enable = false) :
    q.put true value = { q with enable := field value 31 1 == 1, logsize := value % 16, count := if field value 31 1 == 1 then 0 else q.count } := by
  simp [LQ.put, h]

/-- Bits 63:0 of a value hold the fields of a register. -/
theorem field_mod (x lo n w : Nat) (h : lo + n ≤ w) : field (x % 2 ^ w) lo n = field x lo n := by
  refine Nat.eq_of_testBit_eq fun i => ?_
  simp only [field, Nat.testBit_mod_two_pow, Nat.testBit_div_two_pow]
  by_cases hi : i < n
  · simp [hi, show i + lo < w by omega]
  · simp [hi]

/-! ### C3START (R366) -/

theorem regListed_c3start {core : Nat} (h : core < 864) : regListed (1 + core / 96) (0x30000 + 0x10 * (core % 96)) = true := by
  unfold regListed
  rw [if_neg (by omega), if_pos (by omega)]
  simp only [Bool.or_eq_true, Bool.and_eq_true, decide_eq_true_eq]
  omega

theorem blockWrite_c3start (s : State) (master core value : Nat) (h : core < 864) :
    s.blockWrite master (1 + core / 96) (0x30000 + 0x10 * (core % 96)) value false = s.startC3 core value := by
  have shown : s.hidden master (1 + core / 96) (0x30000 + 0x10 * (core % 96)) false = false := by
    simp [State.hidden, show ¬10 ≤ 1 + core / 96 by omega]
  have number : 96 * (1 + core / 96 - 1) + (0x30000 + 0x10 * (core % 96) - 0x30000) / 0x10 = core := by omega
  unfold State.blockWrite
  dsimp only
  rw [shown, if_neg (by decide), if_neg (by omega), if_pos (by omega), if_pos (by omega), if_pos (by omega), number]

/-- The event is the host's write of the register. -/
theorem exec_c3startWrite_host {s : State} {core : Nat} (value : Nat) (on : s.powered = true) (hc : core < 864) :
    exec (.c3startWrite core value) s = .next (s.hostPut (1 + core / 96) (0x30000 + 0x10 * (core % 96)) value) := by
  rw [exec_c3startWrite, execC3startWrite, withPower, if_pos on, if_pos hc]

/-- A write of the register that reaches it is a request to start c3. -/
theorem exec_c3startWrite_reached {s : State} {core : Nat} (value : Nat) (on : s.powered = true) (hc : core < 864)
    (h : HostReaches (1 + core / 96) (0x30000 + 0x10 * (core % 96)) s) :
    exec (.c3startWrite core value) s = .next ((s.unstage hostMaster).startC3 core (value % 2 ^ 64)) := by
  rw [exec_c3startWrite_host value on hc, hostPut_reached value h (by omega) (by omega) (by omega) (regListed_c3start hc),
    blockWrite_c3start _ _ _ _ hc]

/-- The low 57 bits of a value are all of it that a canonical address takes. -/
theorem canon57_eq (x : Nat) : canon57 x = (BitVec.ofNat 57 x).signExtend 64 := by
  have int : signed 57 x = (BitVec.ofNat 57 x).toInt := by
    rw [signed, BitVec.toInt_eq_toNat_cond, BitVec.toNat_ofNat]
    split_ifs <;> first | rfl | omega
  rw [canon57, int, BitVec.signExtend]
  refine BitVec.eq_of_toNat_eq ?_
  rw [dwordOfInt, wrapInt, BitVec.toNat_ofNat, BitVec.toNat_ofInt]
  omega

theorem canon57_mod (x : Nat) : canon57 (x % 2 ^ 64) = canon57 x := by
  have low : signed 57 (x % 2 ^ 64) = signed 57 x := by rw [signed, signed, Nat.mod_mod_of_dvd x (by decide : 2 ^ 57 ∣ 2 ^ 64)]
  rw [canon57, canon57, low]

theorem firmware_of_up {s : State} (h : s.up = true) : s.firmware = some true := by
  simp only [State.up, Bool.and_eq_true, beq_iff_eq] at h
  exact h.1

/-- C3 as its start leaves it (R366). -/
def State.startedC3 (s : State) (core value : Nat) : Ctx :=
  let p := s.pen ((s.penOf core).getD 16)
  { s.ctx core 3 with pc := canon57 value, sys := true, st := .running, why := .none, tvec := 0, spaceid := (s.core core).c3space,
                      wb0 := p.wb0, wb1 := p.wb1, conf := p.conf, pfx := {}, req := none, wblk := none }

/-- A start of c3 before bring-up has come so far, or of one that is not Idle, is ignored (R366, R407). -/
theorem startC3_ignored {s : State} {core : Nat} (value : Nat) (h : ¬(s.fabSet = true ∧ (s.penOf core).isSome = true ∧ (s.ctx core 3).st = .idle)) :
    s.startC3 core value = s := by
  refine if_pos ?_
  simp only [not_and_or] at h
  rcases h with fab | pen | idle
  · exact .inr (.inl (by simpa using fab))
  · exact .inr (.inr (.inl (by simpa using pen)))
  · exact .inr (.inr (.inr idle))

/-- Otherwise c3 starts, and the start is remembered. -/
theorem startC3_ready {s : State} {core : Nat} (value : Nat) (fw : s.firmware = some true) (fab : s.fabSet = true)
    (pen : (s.penOf core).isSome = true) (idle : (s.ctx core 3).st = .idle) :
    s.startC3 core value = ({ s with started := true } : State).setCore core
      { (s.core core).setCtx 3 (s.startedC3 core value) with c3start := dw (value % 2 ^ 57) } := by
  refine if_neg ?_
  rintro (h | h | h | h)
  · exact h fw
  · simp [fab] at h
  · simp [Option.isSome_iff_ne_none] at pen h; exact pen h
  · exact h idle

theorem ctx_setCore_c3start (s : State) (core j y : Nat) (t : Ctx) (v : Dword) :
    (s.setCore core { (s.core core).setCtx 3 t with c3start := v }).ctx j y = if j = core ∧ y = 3 then t else s.ctx j y := by
  rw [← State.ctx_setCtx, State.ctx, State.ctx, State.core_setCore, State.core_setCtx]
  split_ifs <;> rfl

/-- Settles O41: the cores' registers by what each write leaves in its context, core or engine; the host's by `hostPut_reached`, which takes a
write that reaches its block to the register's own write. -/
theorem registerWriteEvents : Obligations.RegisterWriteEvents := by
  refine ⟨⟨fun core ctx value s => ⟨fun bad => ?_, fun h1 h3 busy => ?_, fun h1 h3 done => ?_⟩, fun core value s => ?_, fun core eng value s => ?_⟩,
    fun shed n value s => ?_, fun pen n value s on hp hn => ?_, fun core value s on hc => ?_⟩
  · rw [exec_genprofWrite, execGenprofWrite, genprofWrite_reserved s core ctx bad]
  · rw [exec_genprofWrite, execGenprofWrite, genprofWrite_profile s core ctx h1 h3, if_pos busy]
  · rw [exec_genprofWrite, execGenprofWrite, genprofWrite_profile s core ctx h1 h3, if_neg (by simp [done])]
    exact ⟨_, rfl, onlyCtx_modCtx s core ctx _, by simp⟩
  · refine ⟨_, exec_rewindWrite core value s, ?_⟩
    by_cases keeps : (s.core core).cut.phase ≠ 0 ∨ (s.core core).bind = none
    · rw [rewindWrite_keeps value keeps]
      refine ⟨onlyCore_setCore s core rfl, by simp, by simp, by simp, fun b idle hb => ?_⟩
      rcases keeps with stop | unbound
      · exact absurd idle stop
      · rw [hb] at unbound; cases unbound
    · obtain ⟨idle, bound⟩ := not_or.1 keeps
      obtain ⟨b, hb⟩ := Option.ne_none_iff_exists'.1 bound
      rw [rewindWrite_frees value (not_not.1 idle) hb]
      refine ⟨onlyCore_setCore s core rfl, by simp, by simp, fun h => absurd h keeps, fun b' _ hb' => ?_⟩
      obtain rfl : b = b' := Option.some.inj (hb.symm.trans hb')
      simp only [State.core_setCore, if_true, true_and]
      intro e
      simp [imp_iff_not_or]
  · rw [exec_ringRegisterWrite, execRingRegisterWrite, ringWrite_eq]
    refine ⟨fun bad => by rw [if_pos bad], fun good => ?_⟩
    rw [if_neg good]
    refine ⟨_, rfl, onlyCore_setCore s core rfl, ?_, fun e he => ?_, ?_⟩
    · rw [show (s.setEng core eng _).core core = (s.core core).setEng eng _ from (State.core_setCore _ _ _ _).trans (if_pos rfl)]; rfl
    · simp [State.eng, State.setEng, he]
    · simp [State.eng, State.setEng]
  · refine ⟨_, exec_hqctlWrite shed n value s, rfl, fun h => shed_setHq_queues s shed n h _, fun h j away => ?_, fun held => ?_, fun empty => ?_⟩
    · exact (hq_setHq s shed n h j _).trans (if_neg away)
    · exact (hq_setHq s shed n shed n _).trans ((if_pos ⟨rfl, rfl⟩).trans (if_pos held))
    · exact (hq_setHq s shed n shed n _).trans ((if_pos ⟨rfl, rfl⟩).trans (if_neg (not_not.2 empty)))
  · refine ⟨fun unreached => by rw [exec_lqctlWrite_host value on hp hn, hostPut_unreached value unreached], fun reached => ?_⟩
    refine ⟨_, exec_lqctlWrite_reached value on hp hn reached, rfl, fun j hj => by rw [State.pen_setPen, if_neg hj]; rfl, ?_, fun j hj => ?_,
      fun watched => ?_, fun unwatched => ?_⟩ <;> rw [State.pen_setPen, if_pos rfl]
    · exact mget_mset_ne _ _ _ hj
    · rw [mget_mset_self, LQ.put_ctl_enabled _ watched, field_mod _ _ _ _ (by decide)]
    · rw [mget_mset_self, LQ.put_ctl_disabled _ unwatched, field_mod _ _ _ _ (by decide), Nat.mod_mod_of_dvd value (by decide : 16 ∣ 2 ^ 64)]
      exact ⟨_, fun en => if_pos en, rfl⟩
  · refine ⟨fun unreached => by rw [exec_c3startWrite_host value on hc, hostPut_unreached value unreached], fun reached unready => ?_,
      fun reached ready => ?_⟩
    · rw [exec_c3startWrite_reached value on hc reached]
      exact congrArg _ (startC3_ignored (s := s.unstage hostMaster) _ unready)
    · obtain ⟨fab, pen, idle⟩ := ready
      have started := startC3_ready (s := s.unstage hostMaster) (value % 2 ^ 64) (firmware_of_up reached.1) fab pen idle
      have ctx (j y : Nat) := ctx_setCore_c3start { s.unstage hostMaster with started := true } core j y
        ((s.unstage hostMaster).startedC3 core (value % 2 ^ 64)) (dw (value % 2 ^ 64 % 2 ^ 57))
      refine ⟨_, (exec_c3startWrite_reached value on hc reached).trans (congrArg _ started), rfl, rfl, fun j y away => (ctx j y).trans (if_neg away), ?_⟩
      intro d p
      rw [show d = (s.unstage hostMaster).startedC3 core (value % 2 ^ 64) from (ctx core 3).trans (if_pos ⟨rfl, rfl⟩)]
      exact ⟨rfl, rfl, (canon57_mod value).trans (canon57_eq value), rfl, rfl, rfl, rfl, fun _ => rfl⟩

end Sys2Proof.Machine

/-!
O21: a store of a context is performed, whole or byte by byte (R8, R84, R86, R108).
-/
namespace Sys2Proof.Machine
open Sys2Proof.Claims

/-! ### Contexts that stay as they were -/

/-- Every context is as it was. -/
def SameCtxs (s t : State) : Prop := ∀ j y, t.ctx j y = s.ctx j y

theorem SameCtxs.trans {s t u : State} (h : SameCtxs s t) (k : SameCtxs t u) : SameCtxs s u := fun j y => (k j y).trans (h j y)

theorem sameCtxs_of_cores {s t : State} (h : t.cores = s.cores) : SameCtxs s t := fun j y => by
  unfold State.ctx State.core; rw [h]

theorem sameCtxs_of_ctxs {s t : State} (h : ∀ j, (t.core j).ctxs = (s.core j).ctxs) : SameCtxs s t := fun j y => by
  unfold State.ctx Core.ctx; rw [h]

theorem sameCtxs_setCore (s : State) (i : Nat) {c : Core} (h : c.ctxs = (s.core i).ctxs) : SameCtxs s (s.setCore i c) :=
  (onlyCore_setCore s i h).2.2

theorem SameCtxs.setShed {s t : State} (i : Nat) (h : Shed) (k : SameCtxs s t) : SameCtxs s (t.setShed i h) := k

theorem ListOnly.of_sameCtxs {core ctx : Nat} {s t u : State} (h : SameCtxs s t) (k : ListOnly core ctx t u) : ListOnly core ctx s u :=
  ⟨fun j y away => (k.1 j y away).trans (h j y), k.2.trans (by rw [h])⟩

/-- Another list of accesses in a context changes nothing else. -/
theorem listOnly_setPend (s : State) (core ctx : Nat) (l : List Acc) : ListOnly core ctx s (s.setCtx core ctx { s.ctx core ctx with pend := l }) :=
  ⟨fun j y away => by rw [State.ctx_setCtx, if_neg away], by rw [State.ctx_setCtx, if_pos ⟨rfl, rfl⟩]⟩

/-! ### The list of accesses -/

/-- Settling a list adds no access to it. -/
theorem mem_of_mem_settle (unsent : Nat → Bool) (b : Acc) (l kept : List Acc) (h : b ∈ settle unsent kept l) : b ∈ kept ∨ b ∈ l := by
  induction l generalizing kept with
  | nil => exact .inl h
  | cons a l ih =>
    rw [settle] at h
    split_ifs at h
    · exact (ih _ h).imp_right (List.mem_cons_of_mem a)
    · rcases ih _ h with h | h
      · rcases List.mem_append.1 h with h | h
        · exact .inl h
        · exact .inr (List.mem_cons.2 (.inl (List.mem_singleton.1 h)))
      · exact .inr (List.mem_cons_of_mem a h)

/-- An entry leaves its context's list, and marks and fences that waited for nothing else leave with it. -/
theorem dropAcc_eq (s : State) (core ctx seq : Nat) :
    ∃ l, s.dropAcc core ctx seq = s.setCtx core ctx { s.ctx core ctx with pend := l } ∧ ∀ b ∈ l, b.seq ≠ seq := by
  refine ⟨settle (((s.modCtx core ctx (·.dropAcc seq)).core core).unsent ctx) [] ((s.ctx core ctx).dropAcc seq).pend, ?_, fun b hb => ?_⟩
  · unfold State.dropAcc State.settleCtx
    rw [State.modCtx.eq_1 (s.modCtx core ctx (·.dropAcc seq)), State.ctx_modCtx, if_pos ⟨rfl, rfl⟩, State.modCtx, State.setCtx_setCtx]
    rfl
  rcases mem_of_mem_settle _ _ _ _ hb with h | h
  · cases h
  · simpa using (List.mem_filter.1 h).2

theorem dropAcc_listOnly (s : State) (core ctx seq : Nat) : ListOnly core ctx s (s.dropAcc core ctx seq) := by
  obtain ⟨l, h, -⟩ := dropAcc_eq s core ctx seq; rw [h]; exact listOnly_setPend s core ctx l

theorem dropAcc_gone (s : State) (core ctx seq : Nat) : Gone core ctx seq (s.dropAcc core ctx seq) := by
  obtain ⟨l, h, gone⟩ := dropAcc_eq s core ctx seq
  rw [h, Gone, State.ctx_setCtx, if_pos ⟨rfl, rfl⟩]; exact gone

@[simp] theorem dropAcc_mem (s : State) (core ctx seq : Nat) : (s.dropAcc core ctx seq).mem = s.mem := rfl
@[simp] theorem dropAcc_shed (s : State) (core ctx seq h : Nat) : (s.dropAcc core ctx seq).shed h = s.shed h := rfl
@[simp] theorem dropAcc_core_sp (s : State) (core ctx seq j : Nat) : ((s.dropAcc core ctx seq).core j).sp = (s.core j).sp := by
  obtain ⟨l, h, -⟩ := dropAcc_eq s core ctx seq; rw [h, State.setCtx_core_sp]

/-- An entry found in a list stands in it, under its number. -/
theorem mem_of_findAcc {seq : Nat} {l older : List Acc} {a : Acc} (h : findAcc seq l = some (older, a)) : a ∈ l := by
  induction l generalizing older with
  | nil => cases h
  | cons b l ih =>
    rw [findAcc] at h
    split_ifs at h
    · cases h; exact List.mem_cons_self
    · obtain ⟨r, hr, e⟩ := Option.map_eq_some_iff.1 h
      cases e
      exact List.mem_cons_of_mem b (ih hr)

/-- An entry that may be performed stands in its context's list. -/
theorem Next.mem_pend {core ctx seq : Nat} {a : Acc} {s : State} (h : Next core ctx seq a s) : a ∈ (s.ctx core ctx).pend := by
  have may := (Option.filter_eq_some_iff.1 h.1).1
  unfold Ctx.mayPerform at may
  split at may
  · rename_i found
    split_ifs at may
    cases may
    exact mem_of_findAcc found
  · cases may

/-- The entry put back in its place. -/
theorem putAcc_mem {c : Ctx} {a b : Acc} (h : a ∈ c.pend) (e : b.seq = a.seq) : b ∈ (c.putAcc b).pend :=
  List.mem_map.2 ⟨a, h, if_pos e.symm⟩

/-! ### A trap that waits (R332) -/

/-- A record changes no context. -/
theorem writeRec_sameCtxs (s : State) (core : Nat) (r : FRec) : SameCtxs s (s.writeRec core r).2 := by
  have kept (image : Nat) : ((s.core core).appendRec image).1.ctxs = (s.core core).ctxs := by unfold Core.appendRec; split_ifs <;> rfl
  unfold State.writeRec
  simp only []
  split_ifs
  · exact sameCtxs_setCore s core (kept _)
  · exact SameCtxs.setShed _ _ (sameCtxs_setCore s core (kept _))

theorem pendTrap_traps (s : State) (core ctx : Nat) (r : FRec) :
    ((s.pendTrap core ctx r).ctx core ctx).traps.map PTrap.cls = (s.ctx core ctx).traps.map PTrap.cls ++ [r.cls] := by
  unfold State.pendTrap
  simp only [State.ctx_modCtx, and_self, if_true, List.map_append, List.map_cons, List.map_nil]
  rw [writeRec_sameCtxs]

theorem pendTrap_pend (s : State) (core ctx : Nat) (r : FRec) : ((s.pendTrap core ctx r).ctx core ctx).pend = (s.ctx core ctx).pend := by
  unfold State.pendTrap
  simp only [State.ctx_modCtx, and_self, if_true]
  rw [writeRec_sameCtxs]

theorem pendTrap_mem (s : State) (core ctx : Nat) (r : FRec) : (s.pendTrap core ctx r).mem = s.mem := by
  obtain ⟨c, h, e⟩ := s.pendTrap_eq core ctx r; rw [e]

@[simp] theorem Ctx.release_traps (c : Ctx) (a : Acc) : (c.release a).traps = c.traps := by unfold Ctx.release; split <;> simp

/-- An entry that ends with a trap changes no byte, leaves its list, and the trap of its class waits. -/
theorem accTrap_refuses (s : State) (core ctx : Nat) (a : Acc) (r : FRec) :
    (s.accTrap core ctx a r).mem = s.mem ∧ Gone core ctx a.seq (s.accTrap core ctx a r) ∧
      ((s.accTrap core ctx a r).ctx core ctx).traps.map PTrap.cls = (s.ctx core ctx).traps.map PTrap.cls ++ [r.cls] := by
  unfold State.accTrap State.endAcc
  refine ⟨by rw [pendTrap_mem, dropAcc_mem, State.modCtx_mem], ?_, ?_⟩
  · rw [Gone, pendTrap_pend]; exact dropAcc_gone _ core ctx a.seq
  · obtain ⟨l, h, -⟩ := dropAcc_eq (s.modCtx core ctx (·.release a)) core ctx a.seq
    rw [pendTrap_traps, h]; simp

/-! ### The shadow store takes entries of a write (R77, R149) -/

/-- Only what the shadow store holds, and which steps stand freed, changed. -/
def Logged (s t : State) : Prop :=
  { t with cores := [] } = { s with cores := [] } ∧
    ∀ j, { t.core j with shadow := [], bind := none } = { s.core j with shadow := [], bind := none }

theorem Logged.refl (s : State) : Logged s s := ⟨rfl, fun _ => rfl⟩
theorem Logged.trans {s t u : State} (h : Logged s t) (k : Logged t u) : Logged s u := ⟨k.1.trans h.1, fun j => (k.2 j).trans (h.2 j)⟩

theorem logged_setCore (s : State) (i : Nat) {c : Core} (h : { c with shadow := [], bind := none } = { s.core i with shadow := [], bind := none }) :
    Logged s (s.setCore i c) := by
  refine ⟨rfl, fun j => ?_⟩
  rw [State.core_setCore]
  split_ifs with e
  · rw [h, e]
  · rfl

theorem Logged.mem {s t : State} (h : Logged s t) : t.mem = s.mem := (congrArg State.mem h.1 :)
theorem Logged.shed {s t : State} (h : Logged s t) (i : Nat) : t.shed i = s.shed i := (congrArg (State.shed · i) h.1 :)
theorem Logged.sp {s t : State} (h : Logged s t) (j : Nat) : (t.core j).sp = (s.core j).sp := (congrArg Core.sp (h.2 j) :)
theorem Logged.sameCtxs {s t : State} (h : Logged s t) : SameCtxs s t := sameCtxs_of_ctxs (fun j => (congrArg Core.ctxs (h.2 j) :))

theorem logLine_logged {s t : State} {core spc inst a : Nat} {k : Coord} (e : s.logLine core spc inst k a = .ok t) : Logged s t := by
  have same : Grant.ok s = .ok t → Logged s t := by rintro ⟨⟩; exact .refl s
  have taken (c : Core) : Grant.ok (s.setCore core c) = .ok t →
      { c with shadow := [], bind := none } = { s.core core with shadow := [], bind := none } → Logged s t := by
    rintro ⟨⟩ h; exact logged_setCore s core h
  unfold State.logLine at e
  generalize shadowLine core spc a = w at e
  dsimp only at e
  split at e
  · exact same e
  · split at e
    · exact same e
    · split_ifs at e
      · exact same e
      · exact taken _ e rfl
      · exact taken _ e rfl
      · split at e
        · cases e
        · exact taken _ e rfl

theorem logAll_logged {s t : State} {core spc inst : Nat} {k : Coord} {l : List Nat} (e : s.logAll core spc inst k l = .ok t) : Logged s t := by
  induction l generalizing s with
  | nil => cases e; exact .refl _
  | cons a l ih =>
    unfold State.logAll at e
    split at e
    · next s1 h1 => exact (logLine_logged h1).trans (ih e)
    · next g hg => exact absurd e (hg t)

theorem logWrite_logged {s t : State} {core ctx spc inst : Nat} {k : Coord} {l : List (Nat × Nat)}
    (e : s.logWrite core ctx spc inst k l = .ok t) : Logged s t := by
  unfold State.logWrite at e
  split_ifs at e
  · cases e; exact .refl s
  · exact logAll_logged e

/-! ### Bytes written -/

/-- A write of n bytes of a number stores them there. -/
theorem storedAt_writeLE (pa n x : Nat) (m : Mem) : StoredAt pa n x m (writeLE m pa n x) := by
  intro wf b
  split_ifs with on
  · obtain ⟨i, rfl⟩ := Nat.exists_eq_add_of_le on.1
    rw [byteAt_writeLE_on n pa x i m wf (by omega), Nat.add_sub_cancel_left, pow_mul]; rfl
  · exact byteAt_writeLE_off n pa x b m wf (by omega)

theorem wrote_cores (s : State) (core : Nat) (sp : Space) (leaf va n : Nat) (segs : List (Nat × Nat)) :
    (s.wrote core sp leaf va n segs).cores = s.cores := by unfold State.wrote; dsimp only; split_ifs <;> rfl
theorem wrote_mem (s : State) (core : Nat) (sp : Space) (leaf va n : Nat) (segs : List (Nat × Nat)) :
    (s.wrote core sp leaf va n segs).mem = s.mem := by unfold State.wrote; dsimp only; split_ifs <;> rfl

end Sys2Proof.Machine

/-!
O21, continued: the atoms of a store (R84, R121), and what performing one of them leaves.
-/
namespace Sys2Proof.Machine
open Sys2Proof.Claims

/-! ### Atoms of an access of one segment -/

/-- An access of one segment has one part (R121). -/
theorem parts_single {a : Acc} {g : Nat × Nat} (h : a.segs = [g]) : a.parts = [[g]] := by
  rw [Acc.parts, h]; split_ifs <;> rfl

theorem atoms_single {a : Acc} {g : Nat × Nat} (h : a.segs = [g]) : a.atoms = (atomsOf [g]).map (fun x => (x, 0, [g])) := by
  rw [Acc.atoms, parts_single h]
  simp [segBytes]

theorem atomic_iff (pa n : Nat) : (([(pa, n)] : List (Nat × Nat)).length = 1 ∧
    ([(pa, n)] : List (Nat × Nat)).all (fun g => [1, 2, 4, 8].contains g.2 && g.1 % g.2 == 0) = true) ↔ Atomic pa n := by
  simp [Atomic]

/-- An aligned access of 1, 2, 4 or 8 bytes is one atom (R84). -/
theorem atoms_whole {a : Acc} {pa n : Nat} (h : a.segs = [(pa, n)]) (whole : Atomic pa n) : a.atoms = [([(pa, n)], 0, [(pa, n)])] := by
  rw [atoms_single h, atomsOf, if_pos ((atomic_iff pa n).2 whole)]; rfl

/-- Of any other one every byte is an atom (R84). -/
theorem atoms_bytes {a : Acc} {pa n : Nat} (h : a.segs = [(pa, n)]) (torn : ¬Atomic pa n) :
    a.atoms = (List.range n).map (fun j => ([(pa + j, 1)], 0, [(pa, n)])) := by
  rw [atoms_single h, atomsOf, if_neg (fun whole => torn ((atomic_iff pa n).1 whole))]
  simp [segAddrs]

/-- The first j of those atoms have j bytes. -/
theorem segBytes_bytes (pa j : Nat) : segBytes ((List.range j).map (fun i => [(pa + i, 1)])).flatten = j := by
  induction j with
  | zero => rfl
  | succ j ih => rw [List.range_succ, List.map_append, List.flatten_append, segBytes, List.foldl_append, ← segBytes, ih]; rfl

/-- Atom j of an access that is performed by bytes is byte j of it. -/
theorem atomSegs_bytes {a : Acc} {pa n j : Nat} (h : a.segs = [(pa, n)]) (torn : ¬Atomic pa n) (hj : j < n) : a.atomSegs j = [(pa + j, 1)] := by
  simp [Acc.atomSegs, atoms_bytes h torn, hj]

theorem atomOff_bytes {a : Acc} {pa n j : Nat} (h : a.segs = [(pa, n)]) (torn : ¬Atomic pa n) (hj : j < n) : a.atomOff j = j := by
  rw [Acc.atomOff, atoms_bytes h torn, ← List.map_take, List.take_range, Nat.min_eq_left hj.le, List.map_map]
  exact segBytes_bytes pa j

/-- An atom of those left is the next (DESIGN CHOICE, assumption 8). -/
theorem nextAtom_left (s : State) (a : Acc) (h : ∃ i < a.atoms.length, i ∉ a.ans) (good : a.bad = []) :
    ∃ n, (s.nextAtom a).2 = { s with free := n } ∧ (s.nextAtom a).1 < a.atoms.length ∧ (s.nextAtom a).1 ∉ a.ans := by
  have left (i : Nat) : i ∈ (List.range a.atoms.length).filter (fun i => !a.ans.contains i && !a.bad.any (fun b => b.1 == i)) ↔
      i < a.atoms.length ∧ i ∉ a.ans := by simp [good]
  unfold State.nextAtom
  generalize (List.range a.atoms.length).filter (fun i => !a.ans.contains i && !a.bad.any (fun b => b.1 == i)) = l at left
  split
  · obtain ⟨i, hi⟩ := h
    exact absurd ((left i).2 hi) List.not_mem_nil
  · next i => exact ⟨s.free, rfl, (left i).1 List.mem_cons_self⟩
  · next hne _ =>
    have pos : 0 < l.length := List.length_pos_iff.2 hne
    refine ⟨s.free + 1, rfl, (left _).1 ?_⟩
    show l.getD (Config.free s.free % l.length) 0 ∈ l
    rw [List.getD_eq_getElem _ _ (Nat.mod_lt _ pos)]
    exact List.getElem_mem _

/-! ### One atom of a cached or local store -/

/-- What an atom of a store writes that its target grants, once its lines are logged. -/
def State.putAtom (s : State) (core ctx : Nat) (a : Acc) (i : Nat) : State :=
  let s1 := s.wrSegs core a.spc (a.atomSegs i) (a.data / 2 ^ (8 * a.atomOff i))
  if a.spc = 0 then s1.wrote core (s.accSpace core ctx a) a.leaf (a.va + a.atomOff i) (segBytes (a.atomSegs i)) (a.atomSegs i) else s1

theorem attr_cached {a : Acc} (cached : a.spc ≠ 0 ∨ field a.leaf 8 2 = 0) : (if a.spc = 0 then field a.leaf 8 2 else 0) = 0 := by
  rcases cached with h | h <;> simp [h]

theorem storeAtom_granted {s s1 : State} {core ctx i : Nat} {a : Acc} (cached : a.spc ≠ 0 ∨ field a.leaf 8 2 = 0)
    (pass : s.atomRefusal core a i true = none) (logged : s.logWrite core ctx a.spc a.inst a.key a.segs = .ok s1) :
    s.storeAtom core ctx a i = (s1.putAtom core ctx a i).afterAtom core ctx (a.answer i none) kWrite (·.dropAcc core ctx a.seq) := by
  unfold State.storeAtom
  simp only [pass, attr_cached cached, logged, ne_eq, not_true_eq_false, if_false]
  rfl

theorem storeAtom_refused {s : State} {core ctx i : Nat} {a : Acc} {b : Nat × Nat} (refused : s.atomRefusal core a i true = some b) :
    s.storeAtom core ctx a i = s.afterAtom core ctx (a.answer i (some b)) kWrite (·.dropAcc core ctx a.seq) := by
  unfold State.storeAtom
  simp only [refused]

/-- Performing a store that no stop holds back performs one of its atoms. -/
theorem perform_store {s : State} {core ctx seq : Nat} {a : Acc} (next : Next core ctx seq a s) (store : a.op = .store)
    (cached : a.spc ≠ 0 ∨ field a.leaf 8 2 = 0) :
    perform core ctx seq s = (s.nextAtom a).2.storeAtom core ctx a (s.nextAtom a).1 := by
  unfold perform
  rw [next.1]
  simp only [store, State.performStore, if_pos cached]

/-- An access whose atoms have all answered, none with a refusal, completes. -/
theorem afterAtom_complete (s : State) (core ctx kind : Nat) (a : Acc) (f : State → State) (all : a.answered = true) (good : a.bad = []) :
    s.afterAtom core ctx a kind f = f s := by
  simp [State.afterAtom, all, Acc.firstBad, good]

theorem afterAtom_waits (s : State) (core ctx kind : Nat) (a : Acc) (f : State → State) (left : a.answered = false) :
    s.afterAtom core ctx a kind f = s.modCtx core ctx (·.putAcc a) := by
  simp [State.afterAtom, left]

/-! ### What the write of one segment leaves -/

section
variable {s : State} {core ctx i pa n : Nat} {a : Acc} (seg : a.atomSegs i = [(pa, n)])
include seg

theorem putAtom_package (spc : a.spc = 0) :
    (s.putAtom core ctx a i).mem = writeLE s.mem pa n (a.data / 2 ^ (8 * a.atomOff i) % 2 ^ (8 * n)) := by
  simp [State.putAtom, spc, seg, wrote_mem, State.wrSegs, State.wrSpc]

theorem putAtom_core (spc : a.spc = 1) :
    s.putAtom core ctx a i = s.wrSpc core 1 pa n (a.data / 2 ^ (8 * a.atomOff i) % 2 ^ (8 * n)) := by
  simp [State.putAtom, spc, seg, State.wrSegs]

theorem putAtom_shed (spc : a.spc = 2) :
    s.putAtom core ctx a i = s.wrSpc core 2 pa n (a.data / 2 ^ (8 * a.atomOff i) % 2 ^ (8 * n)) := by
  simp [State.putAtom, spc, seg, State.wrSegs]

end

/-! ### A whole store (R84): its only atom, granted or refused -/

section
variable {s : State} {core ctx seq pa n : Nat} {a : Acc}

theorem atomSegs_whole (segs : a.segs = [(pa, n)]) (whole : Atomic pa n) : a.atomSegs 0 = [(pa, n)] := by
  simp [Acc.atomSegs, atoms_whole segs whole]

theorem nextAtom_whole (s : State) (segs : a.segs = [(pa, n)]) (whole : Atomic pa n) (ans : a.ans = []) (good : a.bad = []) :
    s.nextAtom a = (0, s) := by
  simp [State.nextAtom, atoms_whole segs whole, ans, good, List.range_succ]

theorem mates_whole (segs : a.segs = [(pa, n)]) (whole : Atomic pa n) : a.mates 0 = [0] := by
  simp [Acc.mates, atoms_whole segs whole, List.range_succ]

theorem grantedAll_single (s : State) (master pa n : Nat) (write : Bool) :
    s.grantedAll master [(pa, n)] write = s.granted master pa n write := by
  simp [State.grantedAll, State.granted]

/-- The target of a whole store in package memory answers for all its bytes. -/
theorem atomRefusal_whole (segs : a.segs = [(pa, n)]) (whole : Atomic pa n) (ans : a.ans = []) (spc : a.spc = 0) :
    s.atomRefusal core a 0 true = s.refuses core a.va [(pa, n)] true := by
  simp [State.atomRefusal, mates_whole segs whole, ans, spc, Acc.part, atoms_whole segs whole]

theorem refuses_class (va : Nat) (refused : s.routed (dieOf core) (homeDie pa) = true → ¬s.granted (shedOf core) pa n true = true) :
    ∃ x, s.refuses core va [(pa, n)] true = some (x, if s.routed (dieOf core) (homeDie pa) = true then 0x07 else 0x24) := by
  by_cases reached : s.routed (dieOf core) (homeDie pa) = true
  · simp [State.refuses, grantedAll_single, reached, refused reached]
  · simp [State.refuses, reached]

theorem refuses_none (va : Nat) (reached : s.routed (dieOf core) (homeDie pa) = true) (granted : s.granted (shedOf core) pa n true = true)
    (good : s.badWrite [(pa, n)] = false) : s.refuses core va [(pa, n)] true = none := by
  simp [State.refuses, grantedAll_single, reached, granted, good]

/-- Local memory refuses no atom. -/
theorem atomRefusal_local (i : Nat) (write : Bool) (spc : a.spc ≠ 0) : s.atomRefusal core a i write = none := by
  simp [State.atomRefusal, spc]

/-- A refused whole store ends with the trap of the refusal. -/
theorem perform_whole_refused {b : Nat × Nat} (next : Next core ctx seq a s) (store : a.op = .store) (segs : a.segs = [(pa, n)])
    (whole : Atomic pa n) (ans : a.ans = []) (good : a.bad = []) (cached : a.spc ≠ 0 ∨ field a.leaf 8 2 = 0)
    (refused : s.atomRefusal core a 0 true = some b) :
    ∃ a' r, perform core ctx seq s = s.accTrap core ctx a' r ∧ a'.seq = seq ∧ r.cls = b.2 := by
  rw [perform_store next store cached, nextAtom_whole s segs whole ans good, storeAtom_refused refused]
  refine ⟨a.answer 0 (some b), (a.answer 0 (some b)).rcd core ctx b.2 b.1 kWrite (a.answer 0 (some b)).doneBytes, ?_, next.2, rfl⟩
  have bad : a.answer 0 (some b) = { a with bad := [(0, b)] } := by simp [Acc.answer, mates_whole segs whole, ans, good]
  have all : (a.answer 0 (some b)).answered = true := by
    rw [bad, Acc.answered, show Acc.atoms { a with bad := [(0, b)] } = a.atoms from rfl, atoms_whole segs whole]; simp
  have first : (a.answer 0 (some b)).firstBad = some b := by rw [bad]; rfl
  simp [State.afterAtom, all, first]

/-- A granted whole store writes its bytes, and leaves its context's list. -/
theorem perform_whole_granted {s1 : State} (next : Next core ctx seq a s) (store : a.op = .store) (segs : a.segs = [(pa, n)])
    (whole : Atomic pa n) (ans : a.ans = []) (good : a.bad = []) (cached : a.spc ≠ 0 ∨ field a.leaf 8 2 = 0)
    (pass : s.atomRefusal core a 0 true = none) (logged : s.logWrite core ctx a.spc a.inst a.key a.segs = .ok s1) :
    perform core ctx seq s = (s1.putAtom core ctx a 0).dropAcc core ctx seq := by
  rw [perform_store next store cached, nextAtom_whole s segs whole ans good, storeAtom_granted cached pass logged]
  have all : (a.answer 0 none).answered = true := by
    rw [Acc.answered, show Acc.atoms (a.answer 0 none) = a.atoms from rfl, atoms_whole segs whole]; simp [Acc.answer, ans]
  rw [afterAtom_complete _ _ _ _ _ _ all good, next.2]

end

/-- What follows where every context stood as it was before an entry left its list. -/
theorem dropped {s u : State} (core ctx seq : Nat) (h : SameCtxs s u) :
    ListOnly core ctx s (u.dropAcc core ctx seq) ∧ Gone core ctx seq (u.dropAcc core ctx seq) :=
  ⟨ListOnly.of_sameCtxs h (dropAcc_listOnly u core ctx seq), dropAcc_gone u core ctx seq⟩

theorem atom_whole (a : Acc) {n : Nat} (fits : a.data < 2 ^ (8 * n)) : a.data / 2 ^ (8 * a.atomOff 0) % 2 ^ (8 * n) = a.data := by
  have off : a.atomOff 0 = 0 := by simp [Acc.atomOff, segBytes]
  rw [off, Nat.mul_zero, pow_zero, Nat.div_one, Nat.mod_eq_of_lt fits]

theorem putAtom_cores {s : State} {core ctx i pa n : Nat} {a : Acc} (seg : a.atomSegs i = [(pa, n)]) (spc : a.spc = 0) :
    (s.putAtom core ctx a i).cores = s.cores := by
  simp [State.putAtom, spc, seg, wrote_cores, State.wrSegs, State.wrSpc]

theorem wrSpc_core_sameCtxs (s : State) (core pa n x : Nat) : SameCtxs s (s.wrSpc core 1 pa n x) := sameCtxs_setCore s core rfl
theorem wrSpc_core_sp (s : State) (core pa n x : Nat) : ((s.wrSpc core 1 pa n x).core core).sp = writeLE (s.core core).sp pa n x := by
  rw [State.wrSpc, State.modCore, State.core_setCore, if_pos rfl]
theorem wrSpc_shed_sameCtxs (s : State) (core pa n x : Nat) : SameCtxs s (s.wrSpc core 2 pa n x) := fun _ _ => rfl
theorem wrSpc_shed_mem (s : State) (core pa n x : Nat) :
    ((s.wrSpc core 2 pa n x).shed (shedOf core)).mem = writeLE (s.shed (shedOf core)).mem pa n x := by
  rw [State.wrSpc, State.shed_setShed, if_pos rfl]

section
variable {s s1 : State} {core ctx seq pa n : Nat} {a : Acc} (next : Next core ctx seq a s) (store : a.op = .store)
  (segs : a.segs = [(pa, n)]) (whole : Atomic pa n) (ans : a.ans = []) (good : a.bad = [])
include next store segs whole ans good

/-- A refused store changes no byte, is gone, and pends the trap of the refusal (R36, R404). -/
theorem store_refused (spc : a.spc = 0) (cached : field a.leaf 8 2 = 0)
    (refused : s.routed (dieOf core) (homeDie pa) = true → ¬s.granted (shedOf core) pa n true = true) :
    (perform core ctx seq s).mem = s.mem ∧ Gone core ctx seq (perform core ctx seq s) ∧
      ((perform core ctx seq s).ctx core ctx).traps.map PTrap.cls =
        (s.ctx core ctx).traps.map PTrap.cls ++ [if s.routed (dieOf core) (homeDie pa) = true then 0x07 else 0x24] := by
  obtain ⟨x, hx⟩ := refuses_class a.va refused
  obtain ⟨a', r, t, sq, cls⟩ := perform_whole_refused next store segs whole ans good (.inr cached)
    ((atomRefusal_whole segs whole ans spc).trans hx)
  have trap := accTrap_refuses s core ctx a' r
  rwa [← t, sq, cls] at trap

variable (fits : a.data < 2 ^ (8 * n)) (logged : s.logWrite core ctx a.spc a.inst a.key a.segs = .ok s1)
include fits logged

theorem store_package (spc : a.spc = 0) (cached : field a.leaf 8 2 = 0) (reached : s.routed (dieOf core) (homeDie pa) = true)
    (granted : s.granted (shedOf core) pa n true = true) (lines : s.badWrite a.segs = false) :
    StoredAt pa n a.data s.mem (perform core ctx seq s).mem ∧ ListOnly core ctx s (perform core ctx seq s) ∧
      Gone core ctx seq (perform core ctx seq s) := by
  have pass := (atomRefusal_whole (core := core) segs whole ans spc).trans (refuses_none a.va reached granted (segs ▸ lines))
  have seg := atomSegs_whole segs whole
  have same : SameCtxs s (s1.putAtom core ctx a 0) :=
    (logWrite_logged logged).sameCtxs.trans (sameCtxs_of_cores (putAtom_cores seg spc))
  rw [perform_whole_granted next store segs whole ans good (.inr cached) pass logged]
  refine ⟨?_, dropped core ctx seq same⟩
  rw [dropAcc_mem, putAtom_package seg spc, atom_whole a fits, (logWrite_logged logged).mem]
  exact storedAt_writeLE pa n a.data s.mem

theorem store_core (spc : a.spc = 1) :
    StoredAt pa n a.data (s.core core).sp ((perform core ctx seq s).core core).sp ∧ (perform core ctx seq s).mem = s.mem ∧
      ListOnly core ctx s (perform core ctx seq s) ∧ Gone core ctx seq (perform core ctx seq s) := by
  have far : a.spc ≠ 0 := by omega
  rw [perform_whole_granted next store segs whole ans good (.inl far) (atomRefusal_local 0 true far) logged,
    putAtom_core (atomSegs_whole segs whole) spc, atom_whole a fits]
  refine ⟨?_, (logWrite_logged logged).mem, dropped core ctx seq ((logWrite_logged logged).sameCtxs.trans (wrSpc_core_sameCtxs s1 core pa n a.data))⟩
  rw [dropAcc_core_sp, wrSpc_core_sp, (logWrite_logged logged).sp]
  exact storedAt_writeLE pa n a.data _

theorem store_shed (spc : a.spc = 2) :
    StoredAt pa n a.data (s.shed (shedOf core)).mem ((perform core ctx seq s).shed (shedOf core)).mem ∧ (perform core ctx seq s).mem = s.mem ∧
      ListOnly core ctx s (perform core ctx seq s) ∧ Gone core ctx seq (perform core ctx seq s) := by
  have far : a.spc ≠ 0 := by omega
  rw [perform_whole_granted next store segs whole ans good (.inl far) (atomRefusal_local 0 true far) logged,
    putAtom_shed (atomSegs_whole segs whole) spc, atom_whole a fits]
  refine ⟨?_, (logWrite_logged logged).mem, dropped core ctx seq ((logWrite_logged logged).sameCtxs.trans (wrSpc_shed_sameCtxs s1 core pa n a.data))⟩
  rw [dropAcc_shed, wrSpc_shed_mem, (logWrite_logged logged).shed]
  exact storedAt_writeLE pa n a.data _

end

/-! ### A store that is performed byte by byte (R84) -/

/-- Fewer answers than atoms leave one of them to be performed. -/
theorem exists_left {l : List Nat} {n : Nat} (short : l.length < n) : ∃ i < n, i ∉ l := by
  by_contra none
  push Not at none
  have sub := (List.nodup_range (n := n)).subperm (l₂ := l) (fun i hi => none i (List.mem_range.1 hi))
  have len := sub.length_le
  rw [List.length_range] at len
  omega

/-- An access is put back among its context's. -/
theorem putAcc_listOnly (s : State) (core ctx : Nat) (a : Acc) : ListOnly core ctx s (s.modCtx core ctx (·.putAcc a)) :=
  listOnly_setPend s core ctx _

section
variable {s : State} {core ctx seq va n j : Nat} {a : Acc}

theorem atoms_length (segs : a.segs = [(va, n)]) (torn : ¬Atomic va n) : a.atoms.length = n := by
  simp [atoms_bytes segs torn]

theorem answered_bytes (segs : a.segs = [(va, n)]) (torn : ¬Atomic va n) (good : a.bad = []) :
    (a.answer j none).answered = decide (n ≤ a.ans.length + 1) := by
  rw [Acc.answered, show Acc.atoms (a.answer j none) = a.atoms from rfl, atoms_length segs torn]; simp [Acc.answer, good]

/-- One byte of a store to the scratchpad is written, of those not written yet; then the access waits for the others, or is gone. -/
theorem perform_byte (next : Next core ctx seq a s) (store : a.op = .store) (spc : a.spc = 1) (segs : a.segs = [(va, n)])
    (torn : ¬Atomic va n) (good : a.bad = []) (short : a.ans.length < n) :
    ∃ j m, j < n ∧ j ∉ a.ans ∧ perform core ctx seq s =
      (({ s with free := m } : State).wrSpc core 1 (va + j) 1 (a.data / 2 ^ (8 * j) % 256)).afterAtom
        core ctx (a.answer j none) kWrite (·.dropAcc core ctx seq) := by
  have len := atoms_length segs torn
  obtain ⟨m, hs, hj, left⟩ := nextAtom_left s a (len ▸ exists_left short) good
  rw [len] at hj
  have far : a.spc ≠ 0 := by omega
  refine ⟨_, m, hj, left, ?_⟩
  rw [perform_store next store (.inl far), hs, storeAtom_granted (.inl far) (atomRefusal_local _ true far) (if_pos (.inr spc)),
    putAtom_core (atomSegs_bytes segs torn hj) spc, atomOff_bytes segs torn hj, next.2]
  norm_num

end

theorem store_byte {s : State} {core ctx seq va n : Nat} {a : Acc} (next : Next core ctx seq a s) (store : a.op = .store) (spc : a.spc = 1)
    (segs : a.segs = [(va, n)]) (torn : ¬Atomic va n) (good : a.bad = []) (short : a.ans.length < n) :
    ∃ j, j < n ∧ j ∉ a.ans ∧
      StoredAt (va + j) 1 (a.data / 2 ^ (8 * j) % 256) (s.core core).sp ((perform core ctx seq s).core core).sp ∧
      (perform core ctx seq s).mem = s.mem ∧ ListOnly core ctx s (perform core ctx seq s) ∧
      (a.ans.length + 1 = n → Gone core ctx seq (perform core ctx seq s)) ∧
      (a.ans.length + 1 < n → { a with ans := a.ans ++ [j] } ∈ ((perform core ctx seq s).ctx core ctx).pend) := by
  obtain ⟨j, m, hj, left, t⟩ := perform_byte next store spc segs torn good short
  refine ⟨j, hj, left, ?_⟩
  have all := answered_bytes (j := j) segs torn good
  have stored := storedAt_writeLE (va + j) 1 (a.data / 2 ^ (8 * j) % 256) (s.core core).sp
  have same : SameCtxs s (({ s with free := m } : State).wrSpc core 1 (va + j) 1 (a.data / 2 ^ (8 * j) % 256)) :=
    wrSpc_core_sameCtxs { s with free := m } core _ _ _
  by_cases last : a.ans.length + 1 < n
  · rw [afterAtom_waits _ _ _ _ _ _ (all.trans (decide_eq_false (by omega)))] at t
    rw [t]
    refine ⟨?_, rfl, ListOnly.of_sameCtxs same (putAcc_listOnly _ core ctx _), fun e => absurd e last.ne, fun _ => ?_⟩
    · rw [State.modCtx, State.setCtx_core_sp, wrSpc_core_sp]; exact stored
    · rw [State.ctx_modCtx, if_pos ⟨rfl, rfl⟩, same]
      exact putAcc_mem (Next.mem_pend next) rfl
  · rw [afterAtom_complete _ _ _ _ _ _ (all.trans (decide_eq_true (by omega))) good] at t
    obtain ⟨only, gone⟩ := dropped core ctx seq same
    rw [t]
    refine ⟨?_, rfl, only, fun _ => gone, fun e => absurd e last⟩
    rw [dropAcc_core_sp, wrSpc_core_sp]; exact stored

/-- Settles O21: a store that nothing holds back performs one atom, which is the whole of an aligned store and a byte of another one;
its target refuses it or its bytes are written, and the log of the shadow store touches neither contexts nor memory. -/
theorem storesPerformed : Obligations.StoresPerformed := by
  unfold Obligations.StoresPerformed
  refine ⟨fun core ctx seq a pa n s s1 next store segs whole fits ans good logged => ⟨?_, ?_, ?_, ?_⟩,
    fun core ctx seq a va n s next store spc segs torn good _ _ short => store_byte next store spc segs torn good short⟩
  · exact store_refused next store segs whole ans good
  · exact fun spc cached reached granted lines _ =>
      store_package next store segs whole ans good fits logged spc cached reached granted lines
  · exact store_core next store segs whole ans good fits logged
  · exact store_shed next store segs whole ans good fits logged

end Sys2Proof.Machine

/-!
SUPPORT. Canonical memories (R12, R19): for each function of the model, in the model's order, a lemma that it keeps `State.Canon`; then
what the meaning of each instruction and event leaves, and O58.
-/
namespace Sys2Proof.Machine

/-! ### Results, and the states that they carry -/

/-- A canonical state, along an equation of the results that carry it. -/
theorem State.Canon.along {α : Type} {f : α → State} {x y : α} {t : State} (h : (f x).Canon) (e : x = y) (ht : f y = t) : t.Canon :=
  ht ▸ e ▸ h
/-- The state that a read of the distributor leaves. -/
def Rd.state {α : Type} : Rd α → State
  | .ok _ s => s
  | .bad s => s
  | .wait s => s
/-- The state that its write leaves. -/
def Wrote.state : Wrote → State
  | .ok s => s
  | .busy s => s
  | .wait _ s => s
  | .reg _ s => s
  | .bad s => s
/-- The state that an engine's access leaves. -/
def Got.state : Got → State
  | .ok _ s => s
  | .fault _ s => s
  | .wait _ s => s
/-- The state that a run of a command leaves. -/
def Eff.state : Eff → State
  | .done s _ _ _ => s
  | .fault s _ _ _ _ _ _ => s
  | .refuse s _ _ _ _ => s
  | .wait s _ => s
/-- The state that the placing of a command's elements leaves. -/
def Placed.state : Placed → State
  | .ok s _ => s
  | .stop e => e.state
/-- The state that a run over some of a command's units leaves. -/
def Ran.state : Ran → State
  | .ok s _ => s
  | .wait s _ => s
  | .fault _ s _ => s
/-- The state that the reading of a block leaves. -/
def Blk.state : Blk → State
  | .ok _ s => s
  | .fault _ s => s
  | .wait _ s => s
/-- The state that reading for a move leaves. -/
def In.state (i : In) : State := i.got.state
/-- The state that the reading of a shape record leaves. -/
def Shaped.state : Shaped → State
  | .ok s _ => s
  | .fault _ s => s
  | .wait s => s
/-- The state that an arrival's translation leaves. -/
def Arr.state : Arr → State
  | .busy s | .wait _ s | .refused _ s | .ok _ s => s
/-- The state that a unit of an arrival leaves. -/
def ArrUnit.state : ArrUnit → State
  | .stop s | .refused _ s | .ok _ s => s
/-- The state that the units of an arrival leave. -/
def ArrRun.state : ArrRun → State
  | .stop s | .refused _ _ s | .done _ s => s
/-- The state that an access of an area leaves. -/
def AreaIo.state : AreaIo → State
  | .ok _ s | .wait s | .blocked _ s | .bad _ s => s
/-- The state that saving leaves. -/
def Saved.state : Saved → State
  | .done _ s | .wait s | .bad _ _ s => s
/-- What is loaded meets a condition, in a state whose memories are canonical. -/
def Loaded.Canon {α : Type} (P : α → Prop) : Loaded α → Prop
  | .ok a s => P a ∧ s.Canon
  | .refused s | .fault _ s | .wait s => s.Canon
/-- The state that a fetch leaves. -/
def Words.state : Words → State
  | .ok _ _ s | .busy s | .bad _ s => s

/-- An outcome whose next state, where it has one, holds canonical memories. -/
structure KeepsCanon (o : Host.Outcome State Fault Refusal) : Prop where
  of_next : ∀ t, o = .next t → t.Canon

theorem KeepsCanon.next {s : State} (h : s.Canon) : KeepsCanon (.next s) := ⟨by rintro t ⟨⟩; exact h⟩
theorem KeepsCanon.fault {f : Fault} : KeepsCanon (.fault f) := ⟨by rintro t ⟨⟩⟩
theorem KeepsCanon.refused {r : Refusal} : KeepsCanon (.refused r) := ⟨by rintro t ⟨⟩⟩
theorem KeepsCanon.ite {c : Prop} [Decidable c] {o o' : Host.Outcome State Fault Refusal} (h : KeepsCanon o) (h' : KeepsCanon o') :
    KeepsCanon (if c then o else o') := by split_ifs <;> assumption
theorem KeepsCanon.guard {s : State} (h : s.Canon) {n : Need} {k : State → State} (hk : (k s).Canon) : KeepsCanon (guard n s k) :=
  ⟨fun _ e => h.guard hk e⟩
theorem KeepsCanon.powered {s : State} {f : State → State} (h : (f s).Canon) : KeepsCanon (withPower s fun s => .next (f s)) :=
  .ite (.next h) .fault
theorem KeepsCanon.withPower {s : State} {k : State → Host.Outcome State Fault Refusal} (hk : KeepsCanon (k s)) : KeepsCanon (withPower s k) :=
  .ite hk .fault

/-! ### Canonical memories: folds, maps, options -/

theorem State.Canon.foldl {α : Type} {s : State} {f : State → α → State} (h : s.Canon) (l : List α)
    (hf : ∀ t a, t.Canon → (f t a).Canon) : (l.foldl f s).Canon := by
  induction l generalizing s with
  | nil => exact h
  | cons a l ih => exact ih (hf s a h)
theorem State.Canon.ite {c : Prop} [Decidable c] {s t : State} (h : s.Canon) (k : t.Canon) : (if c then s else t).Canon := by
  split_ifs <;> assumption
theorem State.Canon.getD {s : State} {o : Option State} (h : s.Canon) (ho : ∀ t, o = some t → t.Canon) : (o.getD s).Canon := by
  cases o with
  | none => exact h
  | some t => exact ho t rfl

/-- What a numbered map reads after a map that keeps every number. -/
theorem mget_map {α : Type} {g : Nat × α → Nat × α} (hg : ∀ p, (g p).1 = p.1) (d : α) (m : SMap α) (i : Nat) :
    mget d (m.map g) i = (g (i, mget d m i)).2 ∨ mget d (m.map g) i = d := by
  induction m with
  | nil => exact .inr rfl
  | cons p m ih =>
    obtain ⟨k, v⟩ := p
    have hk : (g (k, v)).1 = k := hg _
    simp only [List.map_cons, mget, hk]
    split_ifs with e
    · subst e; exact .inl rfl
    · exact ih

theorem State.Canon.mapCores {s : State} (h : s.Canon) {g : Nat × Core → Nat × Core}
    (hg : ∀ p, (g p).1 = p.1 ∧ (g p).2.sp = p.2.sp ∧ (g p).2.lanes = p.2.lanes) : ({ s with cores := s.cores.map g } : State).Canon := by
  refine ⟨h.1, fun j => ?_, h.2.2.1, h.2.2.2⟩
  rcases mget_map (fun p => (hg p).1) {} s.cores j with e | e <;> simp only [State.core, e]
  · rw [(hg _).2.1, (hg _).2.2]; exact h.2.1 j
  · exact ⟨rfl, rfl⟩
theorem State.Canon.mapSheds {s : State} (h : s.Canon) {g : Nat × Shed → Nat × Shed}
    (hg : ∀ p, (g p).1 = p.1 ∧ (g p).2.mem = p.2.mem) : ({ s with sheds := s.sheds.map g } : State).Canon := by
  refine ⟨h.1, h.2.1, fun j => ?_, h.2.2.2⟩
  rcases mget_map (fun p => (hg p).1) {} s.sheds j with e | e <;> simp only [State.shed, e]
  · rw [(hg _).2]; exact h.shed j
  · rfl
theorem State.Canon.mapDies {s : State} (h : s.Canon) {g : Nat × Die → Nat × Die}
    (hg : ∀ p, (g p).1 = p.1 ∧ (g p).2.csp = p.2.csp) : ({ s with dies := s.dies.map g } : State).Canon := by
  refine ⟨h.1, h.2.1, h.2.2.1, fun j => ?_⟩
  rcases mget_map (fun p => (hg p).1) {} s.dies j with e | e <;> simp only [State.die, e]
  · rw [(hg _).2]; exact h.die j
  · rfl

/-! ### Updates of one part that holds no memory -/

theorem State.Canon.setPen {s : State} (h : s.Canon) (i : Nat) (p : Pen) : (s.setPen i p).Canon := h.congr rfl rfl rfl rfl
theorem State.Canon.setGrp {s : State} (h : s.Canon) (g : Nat) (x : Grp) : (s.setGrp g x).Canon := h.congr rfl rfl rfl rfl
theorem State.Canon.setEng {s : State} (h : s.Canon) (i e : Nat) (g : Eng) : (s.setEng i e g).Canon := h.setCore i (h.core i)
theorem State.Canon.setHq {s : State} (h : s.Canon) (i n : Nat) (q : HQ) : (s.setHq i n q).Canon := h.setShed i (h.shed i)
theorem State.Canon.net {s : State} (h : s.Canon) (l : List Pkt) : ({ s with net := l } : State).Canon := h.congr rfl rfl rfl rfl
theorem State.Canon.cutLow {s : State} (h : s.Canon) (l : List (Nat × Nat × Nat)) : ({ s with cutLow := l } : State).Canon := h.congr rfl rfl rfl rfl
theorem State.Canon.staged {s : State} (h : s.Canon) (l : List (Nat × Nat × Nat)) : ({ s with staged := l } : State).Canon := h.congr rfl rfl rfl rfl
theorem State.Canon.sealWith {s : State} (h : s.Canon) (k : Option Nat) (l : List (Nat × Nat)) : (s.sealWith k l).Canon := h.congr rfl rfl rfl rfl
theorem State.Canon.sealAs {s : State} (h : s.Canon) (pen leaf : Nat) (l : List (Nat × Nat)) : (s.sealAs pen leaf l).Canon := h.sealWith ..
theorem State.Canon.watchWrite {s : State} (h : s.Canon) (pen : Nat) (sp : Space) (va n : Nat) (l : List (Nat × Nat)) :
    (s.watchWrite pen sp va n l).Canon := h.congr rfl rfl rfl rfl
theorem State.Canon.watchRestore {s : State} (h : s.Canon) : s.watchRestore.Canon := h.congr rfl rfl rfl rfl
theorem State.Canon.message {s : State} (h : s.Canon) (code pen arg : Nat) : (s.message code pen arg).Canon := h.congr rfl rfl rfl rfl
theorem State.Canon.wrote {s : State} (h : s.Canon) (core : Nat) (sp : Space) (leaf va n : Nat) (l : List (Nat × Nat)) :
    (s.wrote core sp leaf va n l).Canon := by
  unfold State.wrote; dsimp only; split_ifs
  · exact ((h.clearBad l).sealAs ..).watchWrite ..
  · exact (h.clearBad l).sealAs ..
theorem State.Canon.physWrite {s : State} (h : s.Canon) (k : Option Nat) (pa n x : Nat) : (s.physWrite k pa n x).Canon := by
  unfold State.physWrite; split_ifs
  · exact h
  · exact ((h.setMem (writeLE_wf _ _ _ _ h.1)).clearBad _).sealWith ..

/-! ### Page walks that take more than one turn, and fetching -/

theorem State.Canon.compareLeaf {s : State} (h : s.Canon) (k : Walk) (e l a : Nat) : (s.compareLeaf k e l a).2.Canon := by
  unfold State.compareLeaf; split_ifs
  · exact h
  · exact h
  · exact (h.markEntry ..).cache ..
  · exact h
theorem State.Canon.walkRead {s : State} (h : s.Canon) (n : Nat) : (s.walkRead n).Canon := by
  unfold State.walkRead
  split
  · rename_i k _
    have hk : (match k.leaf with
        | some (e, l, a) => s.compareLeaf k e l a
        | none => (s.stepWalk k, s)).2.Canon := by
      split
      · exact h.compareLeaf ..
      · exact h
    exact .ite h (hk.congr rfl rfl rfl rfl)
  · exact h
theorem State.Canon.fetchWord {s : State} (h : s.Canon) (core ctx va : Nat) (again : Bool) : (s.fetchWord core ctx va again).2.Canon := by
  have hx := h.xlate (s.ctx core ctx).space (s.whoCtx core ctx (s.ctx core ctx).group.toNat) kFetch false va 4
  unfold State.fetchWord
  dsimp only
  split_ifs
  · exact h
  · exact hx
  · split
    · exact hx
    · exact h.untouched _
    · split <;> exact hx
  · split
    · exact hx
    · exact h.untouched _
    · split <;> exact hx.heatAll ..
theorem State.Canon.trapFetch {s : State} (h : s.Canon) (f : Flt) : (trapFetch f s).Canon := h.trapAccess ..

/-! ### A request withdrawn, a trap taken at a boundary -/

theorem State.Canon.withdrawReq {s t : State} (h : s.Canon) {core ctx : Nat} (e : s.withdrawReq core ctx = some t) : t.Canon := by
  unfold State.withdrawReq at e
  dsimp only at e
  split at e
  · cases e; exact h
  · obtain ⟨q, -, rfl⟩ := Option.map_eq_some_iff.1 e; exact (h.setPen ..).modCtx ..
  · split at e <;> cases e
    · exact (h.setGrp ..).modCtx ..
    · exact (h.net _).modCtx ..
  · obtain ⟨q, -, rfl⟩ := Option.map_eq_some_iff.1 e; exact (h.net _).modCtx ..
  · cases e; exact (h.net _).modCtx ..
  · cases e; exact (h.modCtx ..).modCtx ..
  · cases e; exact (h.setPen ..).modCtx ..
  · cases e
theorem State.Canon.giveUp {s : State} (h : s.Canon) : (giveUp s).Canon := h.getD fun _ => h.withdrawReq
theorem State.Canon.takePending {s t : State} (h : s.Canon) {core ctx : Nat} (e : s.takePending core ctx = some t) : t.Canon := by
  unfold State.takePending at e
  dsimp only at e
  split at e
  · cases e
  · split at e
    · cases e
    obtain ⟨u, hu, rfl⟩ := Option.map_eq_some_iff.1 e
    exact ((h.withdrawReq hu).modCtx ..).takeTrap ..

end Sys2Proof.Machine

namespace Sys2Proof.Machine

theorem State.Canon.of_snd {α : Type} {p : α × State} {x : α} {t : State} (h : p.2.Canon) (e : p = (x, t)) : t.Canon := by
  rw [e] at h; exact h

/-! ### Control flow and the walker -/

theorem State.Canon.setS {s : State} (h : s.Canon) (d : Nat) (v : Ctx → Dword) : (setS d v s).Canon := (h.onCur _).fall 1
theorem State.Canon.setP {s : State} (h : s.Canon) (d : Nat) (v : Ctx → Bool) : (setP d v s).Canon := (h.onCur _).fall 1
theorem State.Canon.setSat {s : State} (h : s.Canon) (d : Nat) (v : Ctx → Res) : (setSat d v s).Canon := (h.onCur _).fall 1
theorem State.Canon.indirect {s : State} (h : s.Canon) (link : Bool) (t : Dword) : (indirect link t s).Canon := by
  have hf := h.fetchWord s.curCore s.curCtx t.toNat false
  unfold Machine.indirect
  split
  · exact h.trapCur _
  · split
    · exact (hf.of_snd ‹_›).trapFetch _
    · exact (hf.of_snd ‹_›).blockCur
    · exact .ite ((hf.of_snd ‹_›).trapCur _) ((hf.of_snd ‹_›).onCur _)
theorem State.Canon.beginStep {s : State} (h : s.Canon) (core i : Nat) : (s.beginStep core i).Canon := by
  unfold State.beginStep
  split
  · exact h
  · split
    · exact h
    · exact .ite h ((h.modCore core rfl).traceShed ..)
theorem State.Canon.iterate {s : State} (h : s.Canon) (off : BitVec 22) : (iterate off s).Canon := by
  unfold Machine.iterate
  refine .ite (h.trapCur _) (.ite h.blockCur ?_)
  split
  · exact h.setCur _
  · exact .ite (h.setCur _).blockCur (.ite (h.setCur _) ((h.setCur _).beginStep ..))

/-! ### Gates, counters, groups -/

theorem State.Canon.settleCtx {s : State} (h : s.Canon) (core ctx : Nat) : (s.settleCtx core ctx).Canon := h.modCtx ..
theorem State.Canon.dropAcc {s : State} (h : s.Canon) (core ctx seq : Nat) : (s.dropAcc core ctx seq).Canon := (h.modCtx ..).settleCtx ..
theorem State.Canon.raiseGate {s : State} (h : s.Canon) (core g : Nat) : (s.setCore core ((s.core core).raiseGate g).2).Canon :=
  h.setCore core (by rw [Core.raiseGate_sp]; exact h.core core) (Core.raiseGate_lanes _ _)
theorem State.Canon.graiseNow {s : State} (h : s.Canon) (core ctx g : Nat) (w : Who) : (s.graiseNow core ctx g w).Canon := by
  have hg := h.raiseGate core g
  unfold State.graiseNow
  split
  · rename_i c e; rw [e] at hg; exact hg.pendTrap ..
  · rename_i c e; rw [e] at hg; exact hg
theorem Core.arm_keeps {c d : Core} {b : Nat} {n : Int} (e : c.arm b n = some d) : d.sp = c.sp ∧ d.lanes = c.lanes := by
  unfold Core.arm at e
  dsimp only at e
  split at e <;> cases e
  exact ⟨rfl, rfl⟩
theorem State.Canon.armCur {s : State} (h : s.Canon) (b : Nat) (n : Int) : (armCur b n s).Canon := by
  unfold Machine.armCur
  split
  · rename_i c e
    exact (h.setCore _ ((Core.arm_keeps e).1 ▸ h.core _) (Core.arm_keeps e).2).fall 1
  · exact h.trapCur _
theorem State.Canon.giveColl {s : State} (h : s.Canon) (n m : Nat) (parts : List Nat) : (s.giveColl n m parts).Canon :=
  .ite (h.setEng ..) (h.congr rfl rfl rfl rfl)
theorem State.Canon.groupEnded {s : State} (h : s.Canon) (n : Nat) (g g' : Grp) : (s.groupEnded n g g').Canon := by
  unfold State.groupEnded
  refine (State.Canon.foldl (State.Canon.foldl h _ fun t m ht => ?_) _ fun t m ht => ht.commit ..).net _
  split
  · exact ht
  · exact .ite (ht.net _) (ht.giveColl ..)
theorem State.Canon.putGrp {s : State} (h : s.Canon) (n : Nat) (g : Grp) : (s.putGrp n g).Canon :=
  .ite ((h.setGrp ..).groupEnded ..) (h.setGrp ..)
theorem State.Canon.groupAsk {s : State} (h : s.Canon) (i : Instr) (what n : Nat) : (groupAsk i what n s).Canon := by
  unfold Machine.groupAsk
  refine .ite (h.giveUp.trapCur _) ?_
  split
  · exact h.blockCur
  · exact ((h.net _).onCur _).blockCur
theorem State.Canon.commitCur {s : State} (h : s.Canon) : s.commitCur.Canon := h.commit ..
theorem State.Canon.heldCur {s : State} (h : s.Canon) (rel : Bool) {k : State → State} (hk : (k s).Canon) : (heldCur rel s k).Canon := by
  unfold Machine.heldCur
  split
  · split
    · exact (h.withdrawReq ‹_›).fall 1
    · exact hk
  · exact h.holdCur
  · exact .ite hk h.blockCur
theorem State.Canon.groupCur {s : State} (h : s.Canon) (rel : Bool) (n : Nat) {k : State → State} (hk : (k s).Canon) : (groupCur rel n s k).Canon :=
  .ite (h.giveUp.trapCur _) (h.heldCur rel (.ite h.blockCur hk))
theorem State.Canon.joinCur {s : State} (h : s.Canon) (i : Instr) (n : Nat) : (joinCur i n s).Canon := by
  have hj : (s.setGrp n ((s.grp n).join (s.member s.curCore s.curCtx))).Canon := h.setGrp ..
  unfold Machine.joinCur
  dsimp only
  refine .ite ?_ (.ite (.ite (h.fall 1) (.ite (hj.commitCur.fall 1) hj.blockCur))
    (.ite (h.trapCur _) (.ite (hj.commitCur.fall 1) (hj.onCur _).blockCur)))
  split
  · exact h.commitCur.fall 1
  · exact h.groupAsk ..
  · exact .ite (h.trapCur _) (h.groupAsk ..)
theorem State.Canon.leaveNow {s : State} (h : s.Canon) (core ctx n : Nat) (k : Coord) : (s.leaveNow core ctx n k).Canon :=
  .ite (.ite ((h.net _).commit ..) (h.pendTrap ..)) ((h.putGrp ..).commit ..)

/-! ### Queues and launches -/

theorem State.Canon.resumeHeld {s : State} (h : s.Canon) (core ctx : Nat) : (s.resumeHeld core ctx).Canon :=
  h.mapSheds fun _ => ⟨rfl, rfl⟩
theorem State.Canon.releaseHeld {s : State} (h : s.Canon) (shed n : Nat) : (s.releaseHeld shed n).Canon :=
  .ite ((h.setHq ..).foldl _ fun _ _ ht => ht.modCtx ..) h
theorem State.Canon.place {s t : State} (h : s.Canon) {core ctx shed n r : Nat} (e : s.place core ctx shed n r = some t) : t.Canon := by
  unfold State.place at e
  dsimp only at e
  split at e
  · cases e; exact h.setHq ..
  · split at e <;> cases e
    exact (h.wrSpc ..).setHq ..
theorem State.Canon.watermark {s : State} (h : s.Canon) (core ctx n : Nat) : (s.watermark core ctx n).Canon :=
  .ite ((h.setHq ..).modCtx ..) h
/-- The predicate that an attempt of a queue instruction answers in. -/
theorem State.Canon.putP {s : State} (h : s.Canon) (pd : Option Nat) (v : Bool) :
    (match pd with | some p => s.onCur (fun c => c.wrP p v) | none => s).Canon := by
  cases pd with
  | none => exact h
  | some p => exact h.onCur _
theorem State.Canon.pushCur {s : State} (h : s.Canon) (rb n : Nat) (pd : Option Nat) : (pushCur rb n pd s).Canon := by
  unfold Machine.pushCur
  refine .ite (h.trapCur _) (h.heldCur _ (.ite (.ite ((h.putP ..).fall 1) h.blockCur) ?_))
  dsimp only
  split
  · exact h.trapAccess ..
  · rename_i s2 e
    have h2 := (h.commitCur.purity ..).place e
    exact ((h2.putP pd true).fall 1).watermark ..
theorem State.Canon.popCur {s : State} (h : s.Canon) (i : Instr) (rb n : Nat) (pd : Option Nat) : (popCur i rb n pd s).Canon := by
  unfold Machine.popCur
  refine .ite (h.giveUp.trapCur _) (h.heldCur _ ?_)
  dsimp only
  split
  · exact .ite ((h.putP ..).fall 1) (h.onCur _).blockCur
  · exact ((((((h.commitCur).purity ..).setHq ..).onCur _).putP pd true).releaseHeld ..).fall 1
theorem State.Canon.queueRefill {s : State} (h : s.Canon) (shed n : Nat) : (queueRefill shed n s).Canon := .ite h (h.setHq ..)
theorem State.Canon.queueWithdrawal {s : State} (h : s.Canon) (core ctx : Nat) : (queueWithdrawal core ctx s).Canon := by
  unfold Machine.queueWithdrawal
  split
  · exact h.getD fun _ => h.withdrawReq
  · exact h
theorem State.Canon.launchCur {s : State} (h : s.Canon) (i : Instr) (d oprec : Nat) : (launchCur i d oprec s).Canon := by
  unfold Machine.launchCur
  split
  · exact .ite (h.giveUp.fall 1) h.blockCur
  · exact .ite (((h.onCur _).fall 1).pendTrap ..) ((h.onCur _).fall 1)
  · refine .ite (h.trapAccess ..) (h.heldCur _ ?_)
    dsimp only
    split
    · exact h.blockCur
    · exact .ite h.blockCur (((h.purity ..).setPen ..).onCur _).blockCur

/-! ### Bindings and instances -/

theorem State.Canon.endBinding {s : State} (h : s.Canon) (core : Nat) : (s.endBinding core).Canon := by
  unfold State.endBinding
  dsimp only
  split
  · exact h
  · rename_i b _
    have hc : (s.setCore core { s.core core with bind := none, shadow := (s.core core).shadow.filter (fun e => e.inst != b.inst) }).Canon :=
      h.setCore core (h.core core)
    split
    · exact hc
    · exact hc.modInst ..

end Sys2Proof.Machine

namespace Sys2Proof.Machine

/-! ### Selecting, binding, retiring -/

@[simp] theorem Core.rewindFree_sp (c : Core) : c.rewindFree.sp = c.sp := by unfold Core.rewindFree; split <;> rfl
@[simp] theorem Core.rewindFree_lanes (c : Core) : c.rewindFree.lanes = c.lanes := by unfold Core.rewindFree; split <;> rfl
/-- A core whose memories stand as they did. -/
theorem State.Canon.putCore {s : State} (h : s.Canon) (i : Nat) {c : Core} (hs : c.sp = (s.core i).sp) (hl : c.lanes = (s.core i).lanes) :
    (s.setCore i c).Canon := h.setCore i (hs ▸ h.core i) hl
theorem State.Canon.stepRetire {s : State} (h : s.Canon) (core : Nat) : (stepRetire core s).Canon := by
  unfold Machine.stepRetire
  dsimp only
  split
  · exact h
  split
  · exact h
  refine .ite h (State.Canon.traceShed (State.Canon.modInst (h.putCore core ?_ ?_) ..) ..)
  · split
    · exact Core.rewindFree_sp _
    · rfl
  · split
    · exact Core.rewindFree_lanes _
    · rfl
theorem State.Canon.dropInst {s : State} (h : s.Canon) (n : Nat) : (s.dropInst n).Canon := h.congr rfl rfl rfl rfl
theorem State.Canon.unbindAll {s : State} (h : s.Canon) (num : Nat) : (s.unbindAll num).Canon :=
  h.foldl _ fun _ _ ht => State.Canon.modCore (.ite (ht.endBinding _) ht) _ rfl
theorem State.Canon.giveBack {s : State} (h : s.Canon) (num : Nat) (ks : List Coord) : (s.giveBack num ks).Canon := h.modInst ..
theorem State.Canon.reportN {s : State} (h : s.Canon) (num : Nat) : (s.reportN num).Canon := by
  unfold State.reportN
  split
  · exact h
  · exact .ite h (h.mapCores fun _ => ⟨rfl, rfl, rfl⟩)
theorem State.Canon.cutN {s : State} (h : s.Canon) (pen : Nat) : (s.cutN pen).Canon := by
  refine .ite h (.ite h (h.mapCores fun p => ?_))
  split_ifs <;> exact ⟨rfl, rfl, rfl⟩
theorem State.Canon.bindStep {s t : State} (h : s.Canon) {core num : Nat} {k : Coord} {prio : Nat} (e : s.bindStep core num k prio = some t) :
    t.Canon := by
  unfold State.bindStep at e
  dsimp only at e
  split_ifs at e <;> cases e
  · exact h.setCore core (h.core core)
  · exact h.setCore core (h.core core)
theorem State.Canon.stepSelect {s : State} (h : s.Canon) (pen : Nat) : (stepSelect pen s).Canon := by
  have done : ∀ {t : State}, t.Canon → ∀ num f, (((t.modInst num f).reportN num).cutN pen).Canon :=
    fun ht num f => ((ht.modInst num f).reportN num).cutN pen
  unfold Machine.stepSelect
  refine .ite h ?_
  split
  · split
    · refine .ite h ?_
      split
      · exact done ((h.bindStep ‹_›).modInst ..) ..
      · exact h
    · exact h
  · split
    · exact h
    split
    · exact h
    dsimp only
    split
    · exact done ((h.modInst ..).bindStep ‹_›) ..
    · exact (h.modInst ..).modInst ..
theorem State.Canon.coreBind {s : State} (h : s.Canon) (core : Nat) : (coreBind core s).Canon := by
  unfold Machine.coreBind
  dsimp only
  split
  · split
    · exact h
    · exact .ite h ((((State.Canon.modCore (.ite h (h.endBinding core)) core rfl).foldl _ fun _ _ ht => ht.modCtx ..).beginStep core 0).reportN _ |>.cutN _)
  · exact h
theorem State.Canon.priorityAgeing {s : State} (h : s.Canon) (pen num : Nat) : (priorityAgeing pen num s).Canon := by
  unfold Machine.priorityAgeing
  split
  · exact h
  · exact .ite h (h.modInst ..)
theorem State.Canon.priosetWrite {s : State} (h : s.Canon) (pen value : Nat) : (priosetWrite pen value s).Canon := .ite (h.modInst ..) h

/-! ### Registers by number -/

theorem State.Canon.hqWrite {s : State} (h : s.Canon) (shed n f value : Nat) : (s.hqWrite shed n f value).Canon := by
  unfold State.hqWrite
  dsimp only
  split
  · exact h.setHq ..
  · exact .ite h (h.setHq ..)
  · exact h.setHq ..
  · exact h
/-- A die whose scratchpad stands as it did. -/
theorem State.Canon.putDie {s : State} (h : s.Canon) (i : Nat) {d : Die} (hd : d.csp = (s.die i).csp) : (s.setDie i d).Canon :=
  h.setDie i (hd ▸ h.die i)
theorem State.Canon.setHeatReg {s : State} (h : s.Canon) (die pen : Nat) (r : HeatRegs) : (s.setHeatReg die pen r).Canon := h.putDie die rfl
theorem State.Canon.heatClear {s : State} (h : s.Canon) (die pen va spaceid : Nat) : (s.heatClear die pen va spaceid).Canon := h.putDie die rfl
theorem State.Canon.rewindWrite {s : State} (h : s.Canon) (core value : Nat) : (s.rewindWrite core value).Canon := by
  refine h.modCore core ?_ ?_ <;> dsimp only <;> split_ifs
  · exact Core.rewindFree_sp _
  · rfl
  · exact Core.rewindFree_lanes _
  · rfl
theorem State.Canon.genprofWrite {s t : State} (h : s.Canon) {core ctx value : Nat} (e : s.genprofWrite core ctx value = .ok t) : t.Canon := by
  unfold State.genprofWrite at e
  dsimp only at e
  split_ifs at e
  cases e
  exact h.modCtx ..
theorem State.Canon.writeSrn {s t : State} (h : s.Canon) {core ctx r value : Nat} (e : s.writeSrn core ctx r value = .ok t) : t.Canon := by
  have onCtx : ∀ f, SrWrite.ok (s.modCtx core ctx f) = .ok t → t.Canon := by rintro f ⟨⟩; exact h.modCtx ..
  unfold State.writeSrn at e
  dsimp only at e
  split at e
  · cases e; exact h.hqWrite ..
  split at e
  · exact onCtx _ e
  split at e
  · cases e; exact h.setHeatReg ..
  split at e
  · exact onCtx _ e
  split at e
  · exact onCtx _ e
  split at e
  · split at e <;> cases e
    exact h.setEng ..
  split at e
  case h_1 => exact h.genprofWrite e
  case h_3 => cases e; exact h.rewindWrite ..
  case h_7 => cases e; exact h.setPen ..
  case h_8 => cases e; exact h.modCore _ rfl
  case h_9 => cases e; exact h.putDie _ rfl
  case h_10 => cases e; exact h.setHeatReg ..
  case h_11 => cases e; exact h.heatClear ..
  case h_16 => cases e; exact h.modCore _ rfl
  case h_17 => cases e; exact h.modCore _ rfl
  case h_18 => cases e
  all_goals exact onCtx _ e

end Sys2Proof.Machine

namespace Sys2Proof.Machine

/-! ### The distributor's own accesses -/

theorem Wrote.state_ok (s : State) : (Wrote.ok s).state = s := rfl

theorem State.Canon.readSpace {s : State} (h : s.Canon) (sp : Space) (w : Who) (va n : Nat) : (s.readSpace sp w va n).state.Canon := by
  have hx := h.xlate sp w kRead false va n
  unfold State.readSpace
  dsimp only
  split
  · exact hx
  split
  · exact h.untouched _
  split
  · exact hx
  · exact hx.heatAll ..
theorem State.Canon.writeMem {s : State} (h : s.Canon) (sp : Space) (w : Who) (va n x : Nat) : (s.writeMem sp w va n x).state.Canon := by
  have hx := h.xlate sp w kWrite false va n
  unfold State.writeMem
  dsimp only
  split
  · exact hx
  split
  · exact h.untouched _
  split
  · exact hx
  split
  · exact hx
  · split
    · exact hx
    · exact ((hx.heatAll ..).wrSegs ..).wrote ..
  · exact hx
theorem State.Canon.keepWalks {s t : State} (h : s.Canon) (ht : t.Canon) : (s.keepWalks t).Canon := ⟨ht.1, h.2⟩
theorem State.Canon.ringTrace {s : State} (h : s.Canon) (pen image : Nat) : (s.ringTrace pen image).Canon :=
  .ite h ((h.physWrite ..).setPen ..)
theorem State.Canon.distTrace {s : State} (h : s.Canon) (pen inst kind arg : Nat) : (s.distTrace pen inst kind arg).Canon := .ite (h.ringTrace ..) h
theorem State.Canon.intr {s : State} (h : s.Canon) (pen : Nat) (i : Bool) (num : Nat) : (s.intr pen i num).Canon := .ite (h.message ..) h
theorem State.Canon.writeDone {s : State} (h : s.Canon) (pen : Nat) (sp : Space) (doneaddr : Nat) (i : Bool) (status num : Nat) :
    (s.writeDone pen sp doneaddr i status num).state.Canon := by
  have hw := h.writeMem sp (distWho (s.pen pen)) doneaddr 16 (doneRecord s.tick status num)
  unfold State.writeDone
  split
  · exact h.intr ..
  · split
    · exact (hw.along ‹_› (by rfl)).intr ..
    · exact (hw.along ‹_› (by rfl)).intr ..
    · exact (hw.along ‹_› (by rfl)).intr ..
    · exact hw.along ‹_› (by rfl)
    · exact hw.along ‹_› (by rfl)
theorem State.Canon.parkInst {s : State} (h : s.Canon) (num wva n hi : Nat) : (s.parkInst num wva n hi).Canon := h.modInst ..
theorem State.Canon.readRanges {s : State} (h : s.Canon) (sp : Space) (w : Who) (l : List (Nat × Nat)) : (s.readRanges sp w l).state.Canon := by
  induction l generalizing s with
  | nil => exact h
  | cons r l ih =>
    obtain ⟨a, n⟩ := r
    have hr := h.readSpace sp w a n
    unfold State.readRanges
    split
    · exact hr.along ‹_› (by rfl)
    · exact hr.along ‹_› (by rfl)
    · split
      · exact (ih (hr.along ‹_› (by rfl))).along ‹_› (by rfl)
      · exact ih (hr.along ‹_› (by rfl))
theorem State.Canon.makeEntry {s : State} (h : s.Canon) (i : Inst) : (s.makeEntry i).state.Canon := by
  have hi := h.readRanges (i.space (s.pen i.pen).conf) (distWho (s.pen i.pen)) i.ins
  unfold State.makeEntry
  dsimp only
  split
  · exact h
  split
  · exact hi.along ‹_› (by rfl)
  · exact hi.along ‹_› (by rfl)
  · have ho := (hi.along ‹_› (by rfl)).readRanges (i.space (s.pen i.pen).conf) (distWho (s.pen i.pen)) i.outs
    split
    · exact ho.along ‹_› (by rfl)
    · exact ho.along ‹_› (by rfl)
    · split
      · exact ho.along ‹_› (by rfl)
      · exact (ho.along ‹_› (by rfl)).setPen ..
theorem State.Canon.finish {s : State} (h : s.Canon) (i : Inst) (status : Nat) : (s.finish i status).Canon := by
  have hm : (if status = statusDone ∧ i.ending.isNone then s.makeEntry i else .ok () s).state.Canon := by
    split
    · exact h.makeEntry i
    · exact h
  unfold State.finish
  dsimp only
  split
  · exact h.keepWalks (hm.along ‹_› (by rfl))
  · exact hm.along ‹_› (by rfl)
  · rename_i s1 e
    have hw := State.Canon.writeDone (hm.along e (by rfl)) i.pen (i.space (s1.pen i.pen).conf) i.doneaddr i.intr status i.num
    split
    · exact ((hw.along ‹_› (by rfl)).unbindAll _).modInst ..
    · exact (((hw.along ‹_› (by rfl)).unbindAll _).modInst ..).parkInst ..
    · exact ((hw.along ‹_› (by rfl)).unbindAll _).dropInst _
    · exact ((hw.along ‹_› (by rfl)).unbindAll _).dropInst _
    · exact ((hw.along ‹_› (by rfl)).unbindAll _).dropInst _

/-! ### The cut -/

theorem State.Canon.cutRequest {s : State} (h : s.Canon) (pen value : Nat) : (s.cutRequest pen value).2.Canon := by
  unfold State.cutRequest
  dsimp only
  split
  · exact h
  · exact (h.setPen ..).foldl _ fun _ _ ht => ht.modCore _ rfl
theorem State.Canon.cutAsk {s : State} (h : s.Canon) (pen who value : Nat) : (s.cutAsk pen who value).Canon := h.setPen ..
theorem State.Canon.cutHost {s : State} (h : s.Canon) (pen value : Nat) : (s.cutHost pen value).Canon := by
  unfold State.cutHost
  dsimp only
  refine State.Canon.setPen ?_ ..
  split
  · exact h
  · exact h.cutRequest ..
theorem State.Canon.cutAnswer {s : State} (h : s.Canon) (pen : Nat) (r : Nat × Nat) : (s.cutAnswer pen r).Canon := by
  unfold State.cutAnswer
  split
  · exact h.cutHost ..
  · exact (h.cutRequest ..).modCtx ..
theorem State.Canon.cutServe {s : State} (h : s.Canon) : s.cutServe.Canon :=
  h.foldl _ fun _ _ ht => (ht.setPen ..).foldl _ fun _ _ hu => hu.cutAnswer ..
theorem State.Canon.stopArrival {s : State} (h : s.Canon) (core : Nat) : (stopArrival core s).Canon := by
  unfold Machine.stopArrival
  split
  · exact h
  · refine .ite h (State.Canon.traceShed ?_ ..)
    exact h.putCore core rfl rfl
theorem State.Canon.cutDecision {s : State} (h : s.Canon) (pen : Nat) : (cutDecision pen s).Canon :=
  .ite h (((h.setPen ..).foldl _ fun _ _ ht => ht.modCore _ rfl).cutN pen)
theorem Core.resume_sp (c : Core) : c.resume.sp = c.sp := by
  unfold Core.resume; rw [Core.rewindFree_sp]; dsimp only; split <;> rfl
theorem Core.resume_lanes (c : Core) : c.resume.lanes = c.lanes := by
  unfold Core.resume; rw [Core.rewindFree_lanes]; dsimp only; split <;> rfl
theorem State.Canon.penResume {s : State} (h : s.Canon) (pen : Nat) : (s.penResume pen).Canon :=
  ((h.foldl _ fun _ _ ht => (ht.giveBack ..).modInst ..).foldl _ fun _ _ ht =>
    ht.modCore _ (by exact Core.resume_sp _) (by exact Core.resume_lanes _)).setPen ..
theorem State.Canon.penAbandon {s : State} (h : s.Canon) (pen : Nat) : (s.penAbandon pen).Canon :=
  ((h.foldl _ fun _ _ ht => ht.modCore _ rfl).foldl _ fun _ _ ht => (ht.modInst ..).finish ..).setPen ..
theorem State.Canon.penctl {s : State} (h : s.Canon) (pen value : Nat) : (s.penctl pen value).Canon := by
  unfold State.penctl
  dsimp only
  split
  · exact h.setPen ..
  · exact .ite ((h.setPen ..).penResume _) h
  · exact .ite ((h.setPen ..).penAbandon _) h
  · exact h

/-! ### Register blocks -/

theorem State.Canon.startC3 {s : State} (h : s.Canon) (core value : Nat) : (s.startC3 core value).Canon :=
  .ite h (State.Canon.putCore (s := { s with started := true }) (h.congr rfl rfl rfl rfl) core rfl rfl)
theorem State.Canon.brkctl {s : State} (h : s.Canon) (pen value : Nat) : (s.brkctl pen value).Canon :=
  .ite ((h.setPen ..).foldl _ fun _ _ ht => ht.modInst ..) (h.setPen ..)
theorem State.Canon.restartCounters {s : State} (h : s.Canon) : s.restartCounters.Canon :=
  (h.mapSheds (g := fun p => (p.1, p.2.restart)) fun _ => ⟨rfl, rfl⟩).mapDies fun _ => ⟨rfl, rfl⟩
theorem State.Canon.fabidWrite {s : State} (h : s.Canon) (value : Nat) : (s.fabidWrite value).Canon := .ite h (h.congr rfl rfl rfl rfl)
theorem State.Canon.bcnctl {s : State} (h : s.Canon) (value : Nat) : (s.bcnctl value).Canon :=
  .ite h (.ite (h.restartCounters.congr rfl rfl rfl rfl) (h.congr rfl rfl rfl rfl))
theorem State.Canon.blockWrite {s : State} (h : s.Canon) (master b off value : Nat) (sys : Bool) : (s.blockWrite master b off value sys).Canon := by
  unfold State.blockWrite
  refine .ite h (.ite ?_ (.ite (.ite (.ite (h.startC3 ..) (.ite h (h.modCore _ rfl))) h) (.ite (.ite (h.setPen ..) ?_) h)))
  · split
    · exact .ite (h.fabidWrite _) h
    · exact h.bcnctl _
    · exact h.congr rfl rfl rfl rfl
    · exact h.congr rfl rfl rfl rfl
    · exact h
  · dsimp only
    split
    · exact h.priosetWrite ..
    · exact h.penctl ..
    · exact h.cutLow _
    · exact (h.cutLow _).cutAsk ..
    · exact h.setPen ..
    · exact h.setPen ..
    · exact h.setPen ..
    · exact h.setPen ..
    · exact h.brkctl ..
    · exact h.setPen ..
    · exact h.setPen ..
    · exact h
/-- A register write by the block and offset of its address: none, a whole register, a low half, a high half (R396). -/
theorem regWrite_cases (s : State) (master pa n value : Nat) (sys : Bool) :
    s.regWrite master pa n value sys = s ∨ (∃ l, s.regWrite master pa n value sys = { s.unstage master with staged := l }) ∨
      ∃ b off v, s.regWrite master pa n value sys = (s.unstage master).blockWrite master b off v sys := by
  have e : State.regWrite = State.regWrite := rfl
  conv at e => rhs; delta State.regWrite
  replace e := congrFun (congrFun (congrFun (congrFun (congrFun (congrFun e s) master) pa) n) value) sys
  beta_reduce at e
  rw [e]
  split
  · split
    · exact .inr (.inr ⟨_, _, _, rfl⟩)
    split
    · exact .inr (.inl ⟨_, rfl⟩)
    · exact .inr (.inr ⟨_, _, _, rfl⟩)
  · exact .inl rfl
theorem State.Canon.regWrite {s : State} (h : s.Canon) (master pa n value : Nat) (sys : Bool) : (s.regWrite master pa n value sys).Canon := by
  have hc : (s.unstage master).Canon := h.staged _
  rcases regWrite_cases s master pa n value sys with e | ⟨l, e⟩ | ⟨b, off, v, e⟩ <;> rw [e]
  · exact h
  · exact hc.staged _
  · exact hc.blockWrite ..

theorem State.Canon.writeSpace {s : State} (h : s.Canon) (sp : Space) (w : Who) (va n x : Nat) : (s.writeSpace sp w va n x).state.Canon := by
  have hw := h.writeMem sp w va n x
  unfold State.writeSpace
  split
  · rename_i pa s1 e
    have h1 : s1.Canon := hw.along e (by rfl)
    rw [Wrote.state_ok]
    exact h1.regWrite ..
  · exact hw

/-! ### Launches accepted, served, completed -/

theorem State.Canon.readDesc {s : State} (h : s.Canon) (sp : Space) (w : Who) (va : Nat) : (s.readDesc sp w va).state.Canon := by
  have hr := h.readSpace sp w va 8
  unfold State.readDesc
  split
  · rename_i d s1 e
    have hx := State.Canon.readSpace (hr.along e (by rfl)) sp w (va + 8) (16 * (min 16 (field d 0 8) + min 16 (field d 8 8) + min 16 (field d 16 8)))
    dsimp only
    split
    · exact hx.along ‹_› (by rfl)
    · exact hx
  · exact hr
theorem State.Canon.unserve {s : State} (h : s.Canon) (i : Inst) : (s.unserve i).Canon := (h.setPen ..).modInst ..
theorem State.Canon.servePiece {s : State} (h : s.Canon) (i : Inst) (r : (Nat × Nat) × List (BitVec 8)) (rest : List ((Nat × Nat) × List (BitVec 8))) :
    (s.servePiece i r rest).2.Canon := by
  have hw := h.writeSpace (i.space (s.pen i.pen).conf) (distWho (s.pen i.pen)) r.1.1 r.1.2 (r.2.foldr (fun b a => b.toNat + 256 * a) 0)
  unfold State.servePiece
  dsimp only
  split
  · exact (hw.along ‹_› (by rfl)).modInst ..
  · exact (hw.along ‹_› (by rfl)).modInst ..
  · exact hw.along ‹_› (by rfl)
  · exact (hw.along ‹_› (by rfl)).parkInst ..
  · exact (hw.along ‹_› (by rfl)).unserve _
theorem State.Canon.serve {s : State} (h : s.Canon) (i : Inst) (l : List ((Nat × Nat) × List (BitVec 8))) : (s.serve i l).Canon := by
  induction l generalizing s with
  | nil =>
    have hw := h.writeDone i.pen (i.space (s.pen i.pen).conf) i.doneaddr i.intr statusServed i.num
    unfold State.serve
    dsimp only
    split
    · exact hw.along ‹_› (by rfl)
    · exact (hw.along ‹_› (by rfl)).parkInst ..
    · exact (hw.along ‹_› (by rfl)).dropInst _
    · exact (hw.along ‹_› (by rfl)).dropInst _
    · exact (hw.along ‹_› (by rfl)).dropInst _
  | cons r l ih =>
    have hp := h.servePiece i r l
    unfold State.serve
    split
    · exact ih (hp.of_snd ‹_›)
    · exact hp.of_snd ‹_›
theorem State.Canon.serveSame {s : State} (h : s.Canon) (i : Inst) (d : Nat) (l : List ((Nat × Nat) × List (BitVec 8))) :
    (s.serveSame i d l).Canon := by
  induction l generalizing s with
  | nil => exact h
  | cons r l ih =>
    have hp := h.servePiece i r l
    unfold State.serveSame
    refine .ite h ?_
    split
    · exact ih (hp.of_snd ‹_›)
    · exact hp.of_snd ‹_›
theorem State.Canon.serveDword {s : State} (h : s.Canon) (num : Nat) : (serveDword num s).Canon := by
  unfold Machine.serveDword
  split
  · split
    · exact .ite h (h.serveSame ..)
    · exact h
  · exact h
theorem State.Canon.enter {s : State} (h : s.Canon) (num : Nat) : (s.enter num).Canon := by
  unfold State.enter
  split
  · exact h
  rename_i i _
  have hc := h.readRanges (i.space (s.pen i.pen).conf) (distWho (s.pen i.pen)) (codeRanges (s.pen i.pen) i.record)
  dsimp only
  refine .ite h ?_
  split
  · exact (hc.along ‹_› (by rfl)).modInst ..
  · exact (hc.along ‹_› (by rfl)).modInst ..
  have hi := (hc.along ‹_› (by rfl)).readRanges (i.space (s.pen i.pen).conf) (distWho (s.pen i.pen)) i.ins
  split
  · exact (hi.along ‹_› (by rfl)).modInst ..
  · exact (hi.along ‹_› (by rfl)).modInst ..
  split
  · exact (hi.along ‹_› (by rfl)).modInst ..
  · exact (((hi.along ‹_› (by rfl)).modInst ..).setPen ..).modInst ..
theorem State.Canon.accept {s : State} (h : s.Canon) (pen oprec : Nat) (sp : Space) (doneaddr : Nat) (i : Bool) (seed : Option Nat) (resk : Option Coord) :
    (s.accept pen oprec sp doneaddr i seed resk).state.Canon := by
  have hr : (if oprec % 64 ≠ 0 then Rd.bad s else s.readSpace sp (distWho (s.pen pen)) oprec 256).state.Canon := by
    split
    · exact h
    · exact h.readSpace ..
  unfold State.accept
  dsimp only
  split
  · exact hr.along ‹_› (by rfl)
  · exact hr.along ‹_› (by rfl)
  rename_i r s1 e1
  have h1 : s1.Canon := hr.along e1 (by rfl)
  have hd : (if opPure r then s1.readDesc sp (distWho (s.pen pen)) (field r 1152 64) else Rd.ok 0 s1).state.Canon := by
    split
    · exact h1.readDesc ..
    · exact h1
  split
  · exact h1
  split
  · exact hd.along ‹_› (by rfl)
  · exact hd.along ‹_› (by rfl)
  rename_i d s2 e2
  have h2 : s2.Canon := hd.along e2 (by rfl)
  split
  · exact h2
  · exact h2.congr rfl rfl rfl rfl
theorem State.Canon.admitInst {s : State} (h : s.Canon) (pen num q : Nat) : (s.admitInst pen num q).Canon :=
  .ite ((((h.distTrace ..).setPen ..).distTrace ..).message ..) ((h.distTrace ..).enter _)
theorem State.Canon.refuseHost {s : State} (h : s.Canon) (pen q : Nat) (sp : Space) (doneaddr : Nat) (i : Bool) :
    (s.refuseHost pen q sp doneaddr i).state.Canon := by
  have hw := (h.distTrace pen 0 3 q).writeDone pen sp doneaddr i statusRefused 0
  unfold State.refuseHost
  split
  · exact (hw.along ‹_› (by rfl)).setPen ..
  · exact hw
theorem State.Canon.draw {s : State} (h : s.Canon) : s.draw.2.Canon := h.congr rfl rfl rfl rfl
theorem State.Canon.launchAccept {s : State} (h : s.Canon) (pen : Nat) : (launchAccept pen s).Canon := by
  unfold Machine.launchAccept
  extract_lets p
  refine .ite h ?_
  extract_lets
  split
  rename_i x s1 e
  have h1 : s1.Canon := by
    split at e
    · exact h.draw.of_snd e
    · cases e; exact h
  split
  · extract_lets _ r s2 seed resk
    have ha := State.Canon.accept (s := s2) (h1.setPen ..) pen (field r 0 64) p.hostSpace (field r 128 64) (field r 257 1 == 1) seed resk
    split
    · rename_i q _ _ _ _ s3 e3
      have h3 : s3.Canon := ha.along e3 (by rfl)
      have hr := h3.refuseHost pen q p.hostSpace (field r 128 64) (field r 257 1 == 1)
      split
      · exact h.keepWalks (hr.along ‹_› (by rfl))
      · exact hr.along ‹_› (by rfl)
      · exact hr.along ‹_› (by rfl)
      · exact hr.along ‹_› (by rfl)
      · exact hr.along ‹_› (by rfl)
    · exact (ha.along ‹_› (by rfl)).admitInst ..
    · exact h.keepWalks (ha.along ‹_› (by rfl))
    · exact ha.along ‹_› (by rfl)
  · rename_i d _ _
    extract_lets s2
    have ha := State.Canon.accept (s := s2) (h1.setPen ..) pen d.oprec ⟨d.spaceid, d.wb0, d.wb1, false, p.conf⟩ 0 false none none
    split
    · exact .ite (((ha.along ‹_› (by rfl)).modCtx ..).distTrace ..) ((((ha.along ‹_› (by rfl)).modCtx ..).commit ..).admitInst ..)
    · exact h.keepWalks (ha.along ‹_› (by rfl))
    · exact ha.along ‹_› (by rfl)
  · exact h
theorem State.Canon.instanceComplete {s : State} (h : s.Canon) (pen num : Nat) : (instanceComplete pen num s).Canon := by
  unfold Machine.instanceComplete
  split
  · split
    · rename_i doneaddr i w _ _
      refine .ite h ?_
      have hw := (h.setPen pen { s.pen pen with refusing := none }).writeDone pen (s.pen pen).hostSpace doneaddr i statusRefused 0
      split
      · exact hw.along ‹_› (by rfl)
      · exact hw.along ‹_› (by rfl)
      · exact hw.along ‹_› (by rfl)
      · exact h.keepWalks (hw.along ‹_› (by rfl))
      · exact (hw.along ‹_› (by rfl)).setPen ..
    · exact h
  · refine .ite h (.ite (h.enter _) ?_)
    split
    · exact h.serve ..
    · exact h.finish ..
    · exact .ite (h.finish ..) h

end Sys2Proof.Machine

namespace Sys2Proof.Machine

/-! ### Accesses performed -/

theorem State.Canon.parkCur {s : State} (h : s.Canon) (wva kind va n : Nat) : (parkCur wva kind va n s).Canon := (h.onCur _).blockCur
theorem State.Canon.putAcc {s : State} (h : s.Canon) (core ctx : Nat) (a : Acc) : (s.putAcc core ctx a).Canon := h.modCtx ..
theorem State.Canon.endAcc {s : State} (h : s.Canon) (core ctx : Nat) (a : Acc) : (s.endAcc core ctx a).Canon := (h.modCtx ..).dropAcc ..
theorem State.Canon.accTrap {s : State} (h : s.Canon) (core ctx : Nat) (a : Acc) (r : FRec) : (s.accTrap core ctx a r).Canon := (h.endAcc ..).pendTrap ..
theorem State.Canon.nextAtom {s : State} (h : s.Canon) (a : Acc) : (s.nextAtom a).2.Canon := by
  unfold State.nextAtom
  split
  · exact h
  · exact h
  · exact h.draw
theorem State.Canon.afterAtom {s : State} (h : s.Canon) (core ctx : Nat) (a : Acc) (kind : Nat) {f : State → State} (hf : (f s).Canon) :
    (s.afterAtom core ctx a kind f).Canon := by
  unfold State.afterAtom
  refine .ite (h.modCtx ..) ?_
  split
  · exact h.accTrap ..
  · exact hf
/-- An atom of a store that is written at its home, and what is told of it. -/
theorem State.Canon.putStore {s : State} (h : s.Canon) (core ctx : Nat) (a : Acc) (segs : List (Nat × Nat)) (va x : Nat) :
    (if a.spc = 0 then (s.wrSegs core a.spc segs x).wrote core ((s.wrSegs core a.spc segs x).accSpace core ctx a) a.leaf va (segBytes segs) segs
      else s.wrSegs core a.spc segs x).Canon := .ite ((h.wrSegs ..).wrote ..) (h.wrSegs ..)
theorem State.Canon.storeAtom {s : State} (h : s.Canon) (core ctx : Nat) (a : Acc) (i : Nat) : (s.storeAtom core ctx a i).Canon := by
  unfold State.storeAtom
  extract_lets segs va x attr after put
  have hafter : ∀ {t : State}, t.Canon → ∀ bad, (after bad t).Canon := fun ht bad => ht.afterAtom _ _ _ _ (ht.dropAcc ..)
  have hput : ∀ {t : State}, t.Canon → (put t).Canon := fun ht => hafter (ht.putStore core ctx a segs va x) none
  clear_value after put segs
  split
  · exact hafter h _
  split
  · split
    · exact .ite (hafter ((h.commit ..).regWrite ..) _) (hput (h.commit ..))
    · exact hput (h.commit ..)
  · split
    · exact hput (h.logWrite ‹_›)
    · exact .ite (h.dropAcc ..) h
    · exact hafter h _
theorem State.Canon.performStore {s : State} (h : s.Canon) (core ctx : Nat) (a : Acc) : (s.performStore core ctx a).Canon := by
  unfold State.performStore
  split
  · exact h
  · exact h.dropAcc ..
  · exact (h.nextAtom a).storeAtom ..
theorem State.Canon.perform {s : State} (h : s.Canon) (core ctx seq : Nat) : (perform core ctx seq s).Canon := by
  unfold Machine.perform
  split
  · exact h
  split
  · exact h.performStore ..
  · split
    · exact h
    · exact h.dropAcc ..
    · exact (h.dropAcc ..).leaveNow ..
  · exact (h.dropAcc ..).graiseNow ..
  · exact h

/-! ### Operations at the home slice -/

theorem State.Canon.setFuture {s : State} (h : s.Canon) (pa : Nat) (full : Bool) : (s.setFuture pa full).Canon := h.setMem (writeLE_wf _ _ _ _ h.1)
theorem State.Canon.sliceCount {s : State} (h : s.Canon) (pa word : Nat) : (s.sliceCount pa word).Canon := h.putDie _ rfl
theorem State.Canon.futureWrote {s : State} (h : s.Canon) (core ctx : Nat) (a : Acc) : (s.futureWrote core ctx a).Canon := (h.commit ..).wrote ..
theorem State.Canon.uncached {s : State} (h : s.Canon) (core ctx : Nat) (a : Acc) : (s.uncached core ctx a).Canon := .ite (h.commit ..) h
theorem State.Canon.serveAll {s : State} (h : s.Canon) (v : Nat) (l : List (Nat × Nat × Acc)) : (serveAll v l s).2.Canon := by
  induction l generalizing s with
  | nil => exact h
  | cons p l ih =>
    obtain ⟨core, ctx, a⟩ := p
    unfold Machine.serveAll
    dsimp only
    split
    · exact ih (h.putAcc ..)
    split
    · exact (h.putAcc ..).futureWrote ..
    · exact ih ((h.putAcc ..).uncached ..)
theorem State.Canon.stamp {s : State} (h : s.Canon) (n : Nat) : ({ s with stamp := n } : State).Canon := h.congr rfl rfl rfl rfl
theorem State.Canon.futureLoad {s : State} (h : s.Canon) (core ctx : Nat) (a : Acc) (pa : Nat) (take : Bool) : (s.futureLoad core ctx a pa take).Canon := by
  unfold State.futureLoad
  refine .ite (.ite (((h.putAcc ..).setFuture ..).futureWrote ..) ((h.putAcc ..).uncached ..))
    (.ite (h.endAcc ..) (.ite (h.putAcc ..) (.ite ?_ ((h.putAcc ..).sliceCount ..))))
  exact ((h.stamp _).putAcc ..).setFuture ..
theorem State.Canon.futureFill {s : State} (h : s.Canon) (core ctx : Nat) (a : Acc) (pa : Nat) : (s.futureFill core ctx a pa).Canon := by
  unfold State.futureFill
  extract_lets was s1 s2
  have h1 : s1.Canon := .ite (h.sliceCount ..) h
  have h2 : s2.Canon := h1.setMem (writeLE_wf _ _ _ _ h1.1)
  split
  exact ((((h2.serveAll _ _).of_snd ‹_›).setFuture ..).futureWrote ..).dropAcc ..
theorem State.Canon.reply {s : State} (h : s.Canon) (core ctx : Nat) (a : Acc) (v flags : Nat) : (s.reply core ctx a v flags).Canon := (h.putAcc ..).settleCtx ..
theorem State.Canon.homeWrite {s : State} (h : s.Canon) (core ctx : Nat) (a : Acc) (pa n x : Nat) : (s.homeWrite core ctx a pa n x).Canon :=
  ((h.setMem (writeLE_wf _ _ _ _ h.1)).commit ..).wrote ..
theorem State.Canon.homeOp {s : State} (h : s.Canon) (core ctx : Nat) (a : Acc) (pa : Nat) : (s.homeOp core ctx a pa).Canon := by
  unfold State.homeOp
  split
  · exact .ite ((h.homeWrite ..).reply ..) ((h.homeWrite ..).dropAcc ..)
  · exact (h.homeWrite ..).dropAcc ..
  · exact .ite ((h.purity ..).putAcc ..) ((h.homeWrite ..).dropAcc ..)
  · exact State.Canon.reply (.ite (h.homeWrite ..) (h.uncached ..)) ..
  · exact (h.futureLoad ..).settleCtx ..
  · exact h.futureFill ..
  · exact h
theorem State.Canon.atHome {s : State} (h : s.Canon) (core ctx : Nat) (a : Acc) : (s.atHome core ctx a).Canon := by
  unfold State.atHome
  split
  · exact h
  split
  · exact h
  · exact h.endAcc ..
  · exact .ite (h.accTrap ..) (.ite (h.accTrap ..) (.ite (h.accTrap ..) ((h.homeOp ..).sliceCount ..)))
theorem State.Canon.homeSlice {s : State} (h : s.Canon) (core ctx seq : Nat) : (homeSlice core ctx seq s).Canon := by
  unfold Machine.homeSlice
  split
  · exact h
  · exact .ite (h.atHome ..) h
theorem State.Canon.futureReissue {s : State} (h : s.Canon) (core ctx seq : Nat) : (futureReissue core ctx seq s).Canon := by
  unfold Machine.futureReissue
  split
  · exact h
  · exact .ite (h.atHome ..) h
theorem State.Canon.withdraw {s : State} (h : s.Canon) (core ctx : Nat) (a : Acc) : (s.withdraw core ctx a).Canon := by
  unfold State.withdraw
  split
  · exact .ite (h.accTrap ..) (.ite ((h.putAcc ..).setFuture ..) h)
  · exact h
theorem State.Canon.futureWithdrawal {s : State} (h : s.Canon) (core ctx seq : Nat) : (futureWithdrawal core ctx seq s).Canon := by
  unfold Machine.futureWithdrawal
  split
  · exact .ite (h.withdraw ..) h
  · exact h

/-! ### Results -/

theorem State.Canon.deliver {s : State} (h : s.Canon) (core ctx : Nat) (a : Acc) (v : Nat) : (s.deliver core ctx a v).Canon := (h.modCtx ..).dropAcc ..
theorem State.Canon.loadAtom {s : State} (h : s.Canon) (core ctx : Nat) (a : Acc) (sgn : Bool) (i : Nat) : (s.loadAtom core ctx a sgn i).Canon := by
  unfold State.loadAtom
  dsimp only
  split
  · exact h.afterAtom _ _ _ _ (h.deliver ..)
  · have hc : (if a.spc ≠ 0 ∨ field a.leaf 8 2 = 0 then s else s.commit core ctx a.key).Canon := .ite h (h.commit ..)
    exact hc.afterAtom _ _ _ _ (hc.deliver ..)
theorem State.Canon.resultArrival {s : State} (h : s.Canon) (core ctx seq : Nat) : (resultArrival core ctx seq s).Canon := by
  unfold Machine.resultArrival
  split
  · exact h
  refine .ite (.ite (h.accTrap ..) (h.deliver ..)) ?_
  split
  · split
    · exact h
    · exact h.endAcc ..
    · exact (h.nextAtom _).loadAtom ..
  · exact h

end Sys2Proof.Machine

namespace Sys2Proof.Machine

/-! ### An engine's accesses, and how its commands end -/

theorem Got.state_ok (v : Nat) (s : State) : (Got.ok v s).state = s := rfl

theorem State.Canon.locate {s : State} (h : s.Canon) (w : Who) (sp : Space) (kind : Nat) (home : Bool) (spc va n : Nat) :
    (s.locate w sp kind home spc va n).2.Canon := by
  have hx := h.xlate sp w kind home va n
  unfold State.locate
  dsimp only
  split
  · split
    · exact hx
    · split
      · exact h.untouched _
      · exact hx
  · split <;> exact h
theorem State.Canon.preAccess {s : State} (h : s.Canon) (w : Who) (x : Xl) (held : Bool) : (s.preAccess w x held).state.Canon := by
  unfold State.preAccess
  split
  · exact h
  split
  · exact h
  · exact h
  · split <;> exact h
theorem State.Canon.takeSegs {s : State} (h : s.Canon) (w : Who) (sys : Bool) (spc va : Nat) (x : Xl) : (s.takeSegs w sys spc va x).state.Canon := by
  unfold State.takeSegs
  split
  · exact h
  split
  · exact h
  · exact .ite h (h.commit ..)
theorem State.Canon.eread {s : State} (h : s.Canon) (w : Who) (sp : Space) (spc va n : Nat) : (s.eread w sp spc va n).state.Canon := by
  unfold State.eread
  split
  rename_i x s1 e1
  have hp := ((h.locate ..).of_snd e1).preAccess w x false
  split
  · have ht := State.Canon.takeSegs (hp.along ‹_› (by rfl)) w sp.sys spc va x
    split
    · exact .ite (((ht.along ‹_› (by rfl)).heatAll ..).purity ..) (ht.along ‹_› (by rfl))
    · exact ht
  · exact hp
theorem State.Canon.laySegs {s : State} (h : s.Canon) (w : Who) (sp : Space) (spc va leaf : Nat) (segs : List (Nat × Nat)) (v : Nat) (log : Bool) :
    (s.laySegs w sp spc va leaf segs v log).state.Canon := by
  unfold State.laySegs
  extract_lets attr put s1
  have h1 : s1.Canon := .ite h (h.commit ..)
  have hput : ∀ {t : State}, t.Canon → (put t).state.Canon := fun ht => .ite ((ht.wrSegs ..).wrote ..) (ht.wrSegs ..)
  clear_value put
  split
  · exact h1
  split
  · rw [Got.state_ok]; exact h1.regWrite ..
  split
  · exact hput h1
  split
  · exact hput (h1.logWrite ‹_›)
  · exact h1
  · exact h1
theorem State.Canon.putSegs {s : State} (h : s.Canon) (w : Who) (sp : Space) (spc va : Nat) (x : Xl) (v : Nat) (log : Bool) :
    (s.putSegs w sp spc va x v log).state.Canon := by
  unfold State.putSegs
  split
  · exact h
  · exact h.laySegs ..
theorem State.Canon.ewrite {s : State} (h : s.Canon) (w : Who) (sp : Space) (spc va n v : Nat) (log : Bool) :
    (s.ewrite w sp spc va n v log).state.Canon := by
  unfold State.ewrite
  split
  rename_i x s1 e1
  have hp := ((h.locate ..).of_snd e1).preAccess w x false
  split
  · have ht := State.Canon.putSegs (hp.along ‹_› (by rfl)) w sp spc va x v log
    split
    · exact .ite (((ht.along ‹_› (by rfl)).heatAll ..).purity ..) (ht.along ‹_› (by rfl))
    · exact ht
  · exact hp
theorem State.Canon.setCmd {s : State} (h : s.Canon) (core e : Nat) (m : Cmd) : (s.setCmd core e m).Canon := h.setEng ..
theorem State.Canon.leaveRing {s : State} (h : s.Canon) (core e : Nat) (m : Cmd) : (s.leaveRing core e m).Canon := (h.setEng ..).settleCtx ..
@[simp] theorem Core.deliver_lanes (c : Core) (b n : Nat) : (c.deliver b n).2.lanes = c.lanes := by
  rcases c.deliver_cases b n with ⟨h, -⟩ | ⟨h, -⟩ <;> rw [h]
theorem State.Canon.deliverTo {s : State} (h : s.Canon) (dest core e : Nat) (m : Cmd) (n : Nat) : (s.deliverTo dest core e m n).Canon := by
  have hd : (s.setCore dest ((s.core dest).deliver m.ctr n).2).Canon := h.putCore dest (Core.deliver_sp ..) (Core.deliver_lanes ..)
  exact .ite (hd.pendTrap ..) hd
theorem State.Canon.raiseFor {s : State} (h : s.Canon) (core e : Nat) (m : Cmd) : (s.raiseFor core e m).Canon :=
  .ite h (.ite ((h.raiseGate ..).pendTrap ..) (h.raiseGate ..))
theorem State.Canon.endCmd {s : State} (h : s.Canon) (core e : Nat) (m : Cmd) (flags bytes : Nat) (scalar : Option (Nat × Nat)) :
    (s.endCmd core e m flags bytes scalar).Canon :=
  (State.Canon.raiseFor (.ite ((h.modCtx ..).deliverTo ..) (h.modCtx ..)) ..).leaveRing ..
theorem State.Canon.refuseCmd {s : State} (h : s.Canon) (core e : Nat) (m : Cmd) (f : Flt) (kind done rem : Nat) (hi : Option Nat) :
    (s.refuseCmd core e m f kind done rem hi).Canon := by
  unfold State.refuseCmd
  refine (State.Canon.pendTrap ?_ ..).leaveRing ..
  split
  · exact h.modCtx ..
  · exact h
theorem State.Canon.settleEff {r : Eff} (h : r.state.Canon) (core e : Nat) (m : Cmd) : (settleEff core e m r).Canon := by
  cases r with
  | done s fl n sc => exact State.Canon.endCmd h ..
  | fault s m1 f kind done rem hi => exact .ite (State.Canon.refuseCmd h ..) ((State.Canon.setCmd h ..).pendTrap ..)
  | refuse s f kind done rem => exact State.Canon.refuseCmd h ..
  | wait s m1 => exact (State.Canon.setCmd h ..).settleCtx ..

end Sys2Proof.Machine

namespace Sys2Proof.Machine

/-! ### Vector commands -/

theorem State.Canon.vwr {s : State} (h : s.Canon) (core : Nat) (m : Cmd) (n x : Nat) : (s.vwr core m n x).Canon := h.modCtx ..
theorem State.Canon.placeAll {s : State} (h : s.Canon) (w : Who) (sp : Space) (kind : Nat) (home : Bool) (spc n : Nat) (l : List Nat) :
    (s.placeAll w sp kind home spc n l).2.Canon := by
  induction l generalizing s with
  | nil => exact h
  | cons va l ih => exact ih (h.locate w sp kind home spc va n)
theorem State.Canon.heatWarm {s : State} (h : s.Canon) (w : Who) (sp : Space) (l : List Warm) : (s.heatWarm w sp l).Canon :=
  h.foldl _ fun _ _ ht => ht.heatCount ..
theorem State.Canon.markAll {s : State} (h : s.Canon) (w : Who) (sp : Space) (how : Pure) (kind n : Nat) (each : Bool) (es : List (Nat × Xl)) :
    (s.markAll w sp how kind n each es).Canon :=
  State.Canon.foldl (.ite (h.foldl _ fun _ _ ht => ht.heatAll ..) (h.heatWarm ..)) _ fun _ _ ht => ht.purity ..
theorem State.Canon.vplace {s : State} (h : s.Canon) (core : Nat) (m : Cmd) (kind : Nat) (home : Bool) (how : Pure) (v : VAcc) :
    (s.vplace core m kind home how v).state.Canon := by
  unfold State.vplace
  split
  · exact h
  extract_lets w sp
  split
  rename_i p s1 e
  have h1 : s1.Canon := (h.placeAll ..).of_snd e
  split
  · exact h1
  split
  · exact h1
  · exact h1
  · exact .ite (h1.markAll ..) h1
theorem State.Canon.vload {s : State} (h : s.Canon) (core : Nat) (m : Cmd) (al : Nat) (v : VAcc) {k : List Nat → State → State}
    (hk : ∀ l t, t.Canon → (k l t).Canon) : (s.vload core m al v k).state.Canon := by
  have hv := h.vplace core m kRead false .load v
  unfold State.vload
  split
  · exact h
  split
  · exact hv.along ‹_› (by rfl)
  rename_i s1 m1 e
  have h1 : s1.Canon := hv.along e (by rfl)
  extract_lets us direct
  split
  · split
    · split
      exact h1.draw.of_snd ‹_›
    · split
      · exact hk _ _ (.ite (h1.commit ..) h1)
      · exact .ite (h1.commit ..) h1
  · exact h1
theorem State.Canon.storeUnits {s : State} (h : s.Canon) (w : Who) (sp : Space) (spc : Nat) (vals : List Nat) (l : List (Nat × VUnit)) (m : Cmd) :
    (storeUnits w sp spc vals l s m).state.Canon := by
  induction l generalizing s m with
  | nil => exact h
  | cons u l ih =>
    obtain ⟨i, u⟩ := u
    have hl := h.laySegs w sp spc u.va u.leaf [(u.pa, u.n)] (vals.getD u.el 0 / 2 ^ (8 * u.off) % 2 ^ (8 * u.n)) false
    unfold Machine.storeUnits
    split
    · exact ih (hl.along ‹_› (by rfl)) _
    · exact hl.along ‹_› (by rfl)
    · exact hl.along ‹_› (by rfl)
theorem State.Canon.vstore {s : State} (h : s.Canon) (core : Nat) (m : Cmd) (al : Nat) (v : VAcc) (vals : List Nat) :
    (s.vstore core m al v vals).state.Canon := by
  have hv := h.vplace core m kWrite false .store v
  unfold State.vstore
  split
  · exact h
  split
  · exact hv.along ‹_› (by rfl)
  rename_i s1 m1 e
  have h1 : s1.Canon := hv.along e (by rfl)
  extract_lets w sp all us whole logged fault
  have hlog : ∀ {t u : State} {m : Cmd}, t.Canon → logged t m = .ok u → u.Canon := by
    intro t u m ht e
    dsimp only [logged] at e
    split at e
    · cases e; exact ht
    · exact ht.logWrite e
  have hfault : ∀ {t : State} (m : Cmd) (f : Flt), t.Canon → (fault t m f).state.Canon := fun _ _ ht => ht
  clear_value logged fault
  split
  · split
    · split
      rename_i x s2 e2
      have h2 : s2.Canon := h1.draw.of_snd e2
      extract_lets good
      split
      · exact hfault _ _ h2
      split
      · rename_i s3 e3
        have hu := State.Canon.storeUnits (hlog h2 e3) w sp v.spc vals good m1
        split <;> exact hfault _ _ (hu.along ‹_› (by rfl))
      · exact hfault _ _ h2
    · split
      · exact h1
      · exact hfault _ _ h1
      · rename_i s2 e2
        have hu := State.Canon.storeUnits (hlog h1 e2) w sp v.spc vals (m1.chosen us) m1
        split
        · exact hu.along ‹_› (by rfl)
        · exact hfault _ _ (hu.along ‹_› (by rfl))
        · rename_i s3 m3 e3
          have h3 : s3.Canon := hu.along e3 (by rfl)
          split
          · exact .ite (h3.clearBad _) h3
          · exact h3
  · exact h1
theorem State.Canon.runVmem {s : State} (h : s.Canon) (core : Nat) (m : Cmd) : (s.runVmem core m).state.Canon := by
  have hk : ∀ (g : List Nat → Nat) (l : List Nat) (t : State), t.Canon → (t.vwr core m m.sb (g l)).Canon := fun _ _ _ ht => ht.vwr ..
  unfold State.runVmem
  dsimp only
  split
  · exact h
  split
  · split
    · exact h
    split
    · exact h.vload _ _ _ _ (hk (·.headD 0))
    · exact h.vstore ..
  split
  · exact h
  split
  · exact h.vload _ _ _ _ (hk (packElems m.ty.width))
  · exact h.vstore ..
/-- A core with other memories, in their canonical form. -/
theorem State.Canon.setMems {s : State} (h : s.Canon) (i : Nat) {c : Core} (hs : Memory.wf c.sp = true) (hl : Memory.wf c.lanes = true) :
    (s.setCore i c).Canon := by
  refine ⟨h.1, fun j => ?_, h.2.2.1, h.2.2.2⟩
  rw [State.core_setCore]; split_ifs with e
  · exact ⟨hs, hl⟩
  · exact h.2.1 j
theorem foldl_wf {α : Type} {f : Mem → α → Mem} (hf : ∀ m a, Memory.wf m = true → Memory.wf (f m a) = true) (l : List α) {m : Mem}
    (h : Memory.wf m = true) : Memory.wf (l.foldl f m) = true := by
  induction l generalizing m with
  | nil => exact h
  | cons a l ih => exact ih (hf m a h)
theorem State.Canon.runLanes {s : State} (h : s.Canon) (core : Nat) (m : Cmd) : (s.runLanes core m).state.Canon := by
  unfold State.runLanes
  dsimp only
  split
  · exact h
  split
  · exact h
  · exact h
  · split
    · refine State.Canon.setMems (i := core) h (h.core core) ?_
      dsimp only
      refine foldl_wf (fun m' x hm => ?_) _ (h.lanes core)
      exact writeLE_wf _ _ _ _ hm
    · exact h.vwr ..
theorem State.Canon.runGather {s : State} (h : s.Canon) (core : Nat) (m : Cmd) : (s.runGather core m).state.Canon := by
  unfold State.runGather
  dsimp only
  split
  · exact h
  split
  · exact h.vload _ _ _ _ fun _ _ ht => ht.vwr ..
  · exact h.vstore ..
theorem State.Canon.vamoUnits {s : State} (h : s.Canon) (w : Who) (sp : Space) (op : Nat → Nat → Nat) (vals : List Nat) (l : List (Nat × VUnit)) (m : Cmd) :
    (vamoUnits w sp op vals l s m).1.Canon := by
  induction l generalizing s m with
  | nil => exact h
  | cons u l ih =>
    obtain ⟨i, u⟩ := u
    unfold Machine.vamoUnits
    extract_lets old s1
    have h1 : s1.Canon := by
      refine State.Canon.sliceCount (h.setMem ?_) ..
      exact writeLE_wf _ _ _ _ h.1
    clear_value s1
    exact ih ((h1.wrote ..).commit ..) _
theorem State.Canon.of_fst {α : Type} {p : State × α} {x : α} {t : State} (h : p.1.Canon) (e : p = (t, x)) : t.Canon := by
  rw [e] at h; exact h
theorem State.Canon.runVamo {s : State} (h : s.Canon) (core : Nat) (m : Cmd) : (s.runVamo core m).state.Canon := by
  unfold State.runVamo
  extract_lets op ret ty xs n v
  have hv := h.vplace core m kRmw true .never v
  split
  · exact h
  split
  · exact h
  split
  · exact hv.along ‹_› (by rfl)
  rename_i s1 m1 e
  have h1 : s1.Canon := hv.along e (by rfl)
  extract_lets w sp us vals new
  clear_value new
  split
  · split
    · split
      rename_i x s2 e2
      have h2 : s2.Canon := h1.draw.of_snd e2
      extract_lets good
      split
      rename_i s3 m3 e3
      split at e3
      · cases e3; exact h2
      · exact (h2.vamoUnits ..).of_fst e3
    · split
      rename_i s2 m2 e2
      have h2 : s2.Canon := (h1.vamoUnits ..).of_fst e2
      split
      · exact h2
      · exact .ite (h2.vwr ..) h2
  · exact h1
theorem State.Canon.applyV {s : State} (h : s.Canon) (core : Nat) (m : Cmd) (o : Option VOut) (dx : Nat) : (s.applyV core m o dx).state.Canon := by
  cases o with
  | none => exact h
  | some v => exact h.foldl _ fun _ _ ht => ht.vwr ..
theorem State.Canon.runEV {s : State} (h : s.Canon) (core : Nat) (m : Cmd) : (s.runEV core m).state.Canon := h.applyV ..
theorem State.Canon.runEVs {s : State} (h : s.Canon) (core : Nat) (m : Cmd) : (s.runEVs core m).state.Canon := by
  unfold State.runEVs
  split
  · exact h
  · exact h.applyV ..
theorem Core.setTiles_keeps {α : Type} (f : α → Nat × Nat) (l : List α) (c : Core) :
    (l.foldl (fun c r => c.setTile (f r).1 (f r).2) c).sp = c.sp ∧ (l.foldl (fun c r => c.setTile (f r).1 (f r).2) c).lanes = c.lanes := by
  induction l generalizing c with
  | nil => exact ⟨rfl, rfl⟩
  | cons r l ih => exact ih _
theorem State.Canon.runSlice {s : State} (h : s.Canon) (core : Nat) (m : Cmd) : (s.runSlice core m).state.Canon := by
  unfold State.runSlice
  extract_lets fn ty q rnd at_ acc
  split
  · exact h
  split
  · split
    · exact h
    · exact h.vwr ..
  · have hc := Core.setTiles_keeps (fun r : Nat × Nat × Nat => (at_ r.1, r.2.1))
    split <;> exact h.putCore core (hc _ _).1 (hc _ _).2
theorem State.Canon.runV {s : State} (h : s.Canon) (core : Nat) (m : Cmd) : (s.runV core m).state.Canon := by
  unfold State.runV
  split
  · exact h.runVmem ..
  · exact h.runLanes ..
  · exact h.runGather ..
  · exact h.runVamo ..
  · exact h.runEVs ..
  · exact h.runEVs ..
  · exact h.runSlice ..
  · exact h.runEV ..

end Sys2Proof.Machine

namespace Sys2Proof.Machine

/-! ### Matrix commands and streams -/

theorem State.Canon.setStream {s : State} (h : s.Canon) (shed n : Nat) (x : Stream) : (s.setStream shed n x).Canon := h.setShed shed (h.shed shed)
theorem State.Canon.subscribe {s : State} (h : s.Canon) (core : Nat) (m : Cmd) : (s.subscribe core m).2.Canon := by
  unfold State.subscribe
  dsimp only
  split
  · exact h.setStream ..
  · exact h
theorem State.Canon.publishRead {s : State} (h : s.Canon) (core spc fuel : Nat) (m : Cmd) : (s.publishRead core spc fuel m).state.Canon := by
  induction fuel generalizing s m with
  | zero => exact h
  | succ fuel ih =>
    unfold State.publishRead
    extract_lets n
    have hr := h.eread (s.whoCmd core 1 m) (s.cmdSpace core m) spc (m.opa + m.done) n
    split
    · exact h
    split
    · exact ih (hr.along ‹_› (by rfl)) _
    · exact hr.along ‹_› (by rfl)
    · exact hr.along ‹_› (by rfl)
theorem State.Canon.runStream {s : State} (h : s.Canon) (core : Nat) (m : Cmd) : (s.runStream core m).state.Canon := by
  unfold State.runStream
  extract_lets sh x
  split
  · exact h
  split
  · split
    · exact h
    have hp := h.publishRead core (field m.esp 8 2) (m.budget.getD (m.opb / 8 + 2)) m
    split
    · split
      · exact hp.along ‹_› (by rfl)
      · exact (hp.along ‹_› (by rfl)).setStream ..
    · exact hp.along ‹_› (by rfl)
    · exact hp.along ‹_› (by rfl)
  split
  · exact h
  split
  · split <;> exact h
  split
  · split
    · exact h
    · exact h.setStream ..
  · exact h
theorem State.Canon.readBlk {s : State} (h : s.Canon) (w : Who) (sp : Space) (src : Src) (side : Nat) (us : SMap Nat) (l : List (Nat × Nat)) :
    (s.readBlk w sp src side us l).state.Canon := by
  induction l generalizing s with
  | nil => exact h
  | cons r l ih =>
    obtain ⟨off, n⟩ := r
    unfold State.readBlk
    split
    · split
      · exact (ih h).along ‹_› (by rfl)
      · exact ih h
    · rename_i spc base
      have hr := h.eread w sp spc ((base + off) % 2 ^ 64) n
      split
      · rename_i v s1 e
        have h1 : s1.Canon := hr.along e (by rfl)
        have hl := ih h1
        split
        · exact hl.along ‹_› (by rfl)
        · exact hl.along ‹_› (by rfl)
        · exact h.keepWalks (hl.along ‹_› (by rfl))
      · exact hr.along ‹_› (by rfl)
      · exact h.keepWalks (hr.along ‹_› (by rfl))
theorem State.Canon.mulRows {s : State} (h : s.Canon) (w : Who) (sp : Space) (ent : Nat) (u : Mul) (g : Nat) (rb : Pieces) (fuel r : Nat)
    (t : List Nat × Nat) : (s.mulRows w sp ent u g rb fuel r t).2.2.Canon := by
  induction fuel generalizing s r t with
  | zero => exact h
  | succ fuel ih =>
    have hb := h.readBlk w sp u.a 0 u.us (u.oa.ranges true r g)
    unfold State.mulRows
    split
    · exact hb.along ‹_› (by rfl)
    · exact hb.along ‹_› (by rfl)
    · exact ih (hb.along ‹_› (by rfl)) _ _
theorem State.Canon.mulGroups {s : State} (h : s.Canon) (w : Who) (sp : Space) (ent : Nat) (u : Mul) (fuel g r : Nat)
    (t : List Nat × Nat) : (s.mulGroups w sp ent u fuel g r t).2.2.Canon := by
  induction fuel generalizing s u g r t with
  | zero => exact h
  | succ fuel ih =>
    have hb := h.readBlk w sp u.b 1 u.us ((List.range u.n).flatMap (fun j => u.ob.ranges false j g))
    unfold State.mulGroups
    split
    · exact hb.along ‹_› (by rfl)
    · exact hb.along ‹_› (by rfl)
    · rename_i pb s1 e
      have h1 : s1.Canon := hb.along e (by rfl)
      have hr := State.Canon.mulRows (.ite (h.keepWalks h1) h1 : (if u.again then s.keepWalks s1 else s1).Canon) w sp ent u g pb (u.m - r) r t
      split
      · rename_i e2
        rw [e2] at hr
        exact ih hr ..
      · exact hr
theorem State.Canon.readAhead {s : State} (h : s.Canon) (core : Nat) (m : Cmd) (u : Mul) (j : Nat) : (s.readAhead core m u j).state.Canon := by
  unfold State.readAhead
  split
  · exact h
  extract_lets w sp va
  split
  · exact h
  split
  rename_i x s1 e
  have hp := ((h.locate ..).of_snd e).preAccess w x false
  split
  · rename_i s2 _
    have h2 : s2.Canon := hp.along ‹_› (by rfl)
    split
    · exact (h2.takeSegs ..).along ‹_› (by rfl)
    · exact h
  · exact h
theorem State.Canon.accFrom {s : State} (h : s.Canon) (m : Cmd) (u : Mul) (now : List Nat) : (s.accFrom m u now).2.Canon := by
  unfold State.accFrom
  split
  · exact h
  · exact h.draw
theorem Core.putTile_keeps (c : Core) (t : Nat) (l : List Nat) : (c.putTile t l).sp = c.sp ∧ (c.putTile t l).lanes = c.lanes := by
  exact Core.setTiles_keeps (fun x : Nat × Nat => (1024 * t + x.1, x.2)) _ c
theorem State.Canon.mulPart {s : State} (h : s.Canon) (core : Nat) (m : Cmd) (u : Mul) (k : Option Nat) {f : State → Nat → Eff}
    (hf : ∀ t n, t.Canon → (f t n).state.Canon) : (s.mulPart core m u k f).state.Canon := by
  unfold State.mulPart
  extract_lets w sp ent
  split
  rename_i t0 s0 e0
  have h0 : s0.Canon := (h.accFrom ..).of_snd e0
  split
  rename_i t stop s1 e1
  have h1 : s1.Canon := by
    have := h0.mulGroups w sp ent u (min (u.gs - m.mg) (k.getD u.gs)) m.mg m.mr (t0, m.flags)
    rw [e1] at this; exact this
  extract_lets l s2 at_
  have h2 : s2.Canon := h1.modCore core (Core.putTile_keeps ..).1 (Core.putTile_keeps ..).2
  clear_value s2
  split
  · exact hf _ _ h2
  · exact h2
  · exact h2
  · exact h2
theorem State.Canon.mulRun {s : State} (h : s.Canon) (core : Nat) (m : Cmd) (u : Mul) (streamed : Bool) : (s.mulRun core m u streamed).state.Canon := by
  unfold State.mulRun
  extract_lets finish
  have hf : ∀ t n, t.Canon → (finish t n).state.Canon := fun t n ht => .ite (ht.setStream ..) ht
  clear_value finish
  split
  · exact hf _ _ h
  split
  · exact h.mulPart _ _ _ _ hf
  · split
    · exact h.readAhead ..
    · exact h.mulPart _ _ _ _ hf
theorem State.Canon.runMma {s : State} (h : s.Canon) (core : Nat) (m : Cmd) : (s.runMma core m).state.Canon := by
  unfold State.runMma
  extract_lets sparse srcCode streamed sub
  split
  · exact h
  split
  · exact h
  split
  · exact h
  extract_lets u
  split
  · exact h
  split
  · exact h
  · exact h
  split
  · exact h.mulRun ..
  split
  · exact (h.readBlk ..).along ‹_› (by rfl)
  · exact (h.readBlk ..).along ‹_› (by rfl)
  · rename_i ps s1 e
    have h1 : s1.Canon := (h.readBlk ..).along e (by rfl)
    split
    · exact h1
    · exact h1.mulRun ..
theorem State.Canon.tileAhead {s : State} (h : s.Canon) (core : Nat) (m : Cmd) (j : Nat) : (s.tileAhead core m j).state.Canon := by
  unfold State.tileAhead
  extract_lets n
  split
  · exact h
  have hr := h.eread (s.whoCmd core 1 m) (s.cmdSpace core m) (field m.esp 5 2)
      ((tileRow m.opa (8 * j / n) (signed 64 m.opb) + 8 * j % n) % 2 ^ 64) 8
  split
  · exact hr.along ‹_› (by rfl)
  · exact h
theorem State.Canon.tileUnits {s : State} (h : s.Canon) (core : Nat) (m : Cmd) (store : Bool) (n fuel d fl : Nat) :
    (s.tileUnits core m store n fuel d fl).state.Canon := by
  induction fuel generalizing s d fl with
  | zero => unfold State.tileUnits; split <;> exact h
  | succ fuel ih =>
    unfold State.tileUnits
    extract_lets w sp spc stride r va here fault
    have hfault : ∀ t f, t.Canon → (fault t f).state.Canon := fun _ _ ht => ht
    clear_value fault
    split
    · split <;> exact h
    split
    · split
      rename_i v f1 _
      have hw := h.ewrite w sp spc va 8 (v / 2 ^ (8 * (d % n)) % 2 ^ 64) true
      split
      · exact ih (hw.along ‹_› (by rfl)) ..
      · exact hfault _ _ (hw.along ‹_› (by rfl))
      · exact hw.along ‹_› (by rfl)
    · split
      all_goals
        rename_i s1 e
        have h1 : s1.Canon := by
          split at e
          · cases e <;> exact h
          · exact (h.eread ..).along e (by rfl)
      · exact ih (h1.modCore core rfl) ..
      · exact hfault _ _ h1
      · exact h1
theorem State.Canon.runTile {s : State} (h : s.Canon) (core : Nat) (m : Cmd) : (s.runTile core m).state.Canon := by
  unfold State.runTile
  extract_lets ty rnd
  split
  · exact h
  split
  · split
    · exact h
    · have hc := Core.setTiles_keeps (fun i : Nat => (1024 * field m.esp 7 3 + m.done + i, 0)) 
      split <;> exact h.putCore core (hc _ _).1 (hc _ _).2
  · split
    · exact h
    split
    · split
      · exact h.tileAhead ..
      · exact h.tileUnits ..
    · exact h.tileUnits ..
theorem State.Canon.noteRow {e : Eff} (h : e.state.Canon) (core : Nat) : (e.noteRow core).state.Canon := by
  cases e with
  | fault s m f kind n rem hi => exact .ite h (State.Canon.modCore (s := s) h core rfl)
  | done s a b c => exact h
  | refuse s f a b c => exact h
  | wait s m => exact h
theorem State.Canon.runM {s : State} (h : s.Canon) (core : Nat) (m : Cmd) : (s.runM core m).state.Canon := by
  unfold State.runM
  refine State.Canon.noteRow ?_ core
  split
  · exact h.runMma ..
  · exact h.runMma ..
  · exact h.runStream ..
  · exact h.runTile ..

end Sys2Proof.Machine

namespace Sys2Proof.Machine

/-! ### Copy commands -/

theorem State.Canon.unitRead {s : State} (h : s.Canon) (v : CopyEnv) (spc va n : Nat) (us : Units) : (s.unitRead v spc va n us).state.Canon := by
  unfold State.unitRead
  split
  rename_i x s1 e1
  have h1 : s1.Canon := (h.locate ..).of_snd e1
  split
  · rename_i s2 e2
    have h2 : s2.Canon := (h1.preAccess ..).along e2 (by rfl)
    split
    · rename_i s3 e3
      have h3 : s3.Canon := (h2.takeSegs ..).along e3 (by rfl)
      extract_lets note heat at_
      have hnote : ∀ {t : State}, t.Canon → (note t).Canon := fun ht => .ite (ht.purity ..) ht
      have hheat : ∀ {t : State}, t.Canon → (heat t).Canon := fun ht => .ite (ht.heatAll ..) ht
      clear_value note heat
      split
      · exact hnote h3
      split
      · exact hnote h3
      · exact hnote (hheat h3)
    · exact h2.takeSegs ..
  · exact h1.preAccess ..
theorem State.Canon.srcRead {s : State} (h : s.Canon) (v : CopyEnv) (spc fuel va n : Nat) (us : Units) : (State.srcRead v spc fuel va n s us).state.Canon := by
  induction fuel generalizing s va n us with
  | zero => exact h
  | succ fuel ih =>
    unfold State.srcRead
    extract_lets k
    split
    · exact h
    split
    · rename_i x s1 _ us1 e1
      have h1 : s1.Canon := (h.unitRead ..).along e1 (by rfl)
      split
      · exact (ih h1 ..).along ‹_› (by rfl)
      · exact ih h1 ..
    · exact h.unitRead ..
theorem State.Canon.convAll {s : State} (h : s.Canon) (v : CopyEnv) (us : Units) (l : List (Nat × Nat × Option Nat)) : (s.convAll v us l).state.Canon := by
  induction l generalizing s us with
  | nil => exact h
  | cons x l ih =>
    obtain ⟨a, bit, sc⟩ := x
    unfold State.convAll
    split
    · rename_i x s1 _ us1 e1
      have h1 : s1.Canon := (h.srcRead ..).along e1 (by rfl)
      cases sc with
      | none =>
        dsimp only
        split
        · exact (ih h1 _).along ‹_› (by rfl)
        · exact ih h1 _
      | some b =>
        dsimp only
        split
        · rename_i e s2 _ us2 e2
          have h2 : s2.Canon := (h1.srcRead ..).along e2 (by rfl)
          split
          · exact (ih h2 _).along ‹_› (by rfl)
          · exact ih h2 _
        · exact h1.srcRead ..
    · exact h.srcRead ..
theorem State.Canon.moveIn {s : State} (h : s.Canon) (v : CopyEnv) (mv : Move) (us : Units) : (s.moveIn v mv us).state.Canon := by
  unfold State.moveIn
  split
  · exact h
  · exact h
  · exact h.srcRead ..
  · split
    · exact (h.convAll ..).along ‹_› (by rfl)
    · exact h.convAll ..
theorem State.Canon.moveOut {s : State} (h : s.Canon) (v : CopyEnv) (va n x : Nat) : (s.moveOut v va n x).state.Canon := by
  unfold State.moveOut
  split
  · exact h.ewrite ..
  · split
    · exact h
    · exact h.foldl _ fun _ _ ht => ht.wrSpc ..
theorem State.Canon.tryMove {s : State} (h : s.Canon) (v : CopyEnv) (mv : Move) (us : Units) : (s.tryMove v mv us).1.state.Canon := by
  unfold State.tryMove
  split
  · rename_i x s1 fl us1 e
    have h1 : s1.Canon := (h.moveIn ..).along e (by rfl)
    exact h1.moveOut ..
  · exact h.moveIn ..
theorem State.Canon.runMoves {s : State} (h : s.Canon) (v : CopyEnv) (l : List Move) (r : Moved) : (s.runMoves v l r).2.2.Canon := by
  induction l generalizing s r with
  | nil => exact h
  | cons mv l ih =>
    have ht := h.tryMove v mv r.units
    unfold State.runMoves
    split
    rename_i x d e
    rw [e] at ht
    split
    · exact ih (State.Canon.along (f := Got.state) ht ‹_› (by rfl)) _
    · exact State.Canon.along (f := Got.state) ht ‹_› (by rfl)
    · rename_i f s1 e1
      have h1 : s1.Canon := State.Canon.along (f := Got.state) ht e1 rfl
      extract_lets k r1
      split
      · exact h1
      · split
        · rename_i s2 fl us x2 e2
          have h2 := h1.tryMove v (mv.take k) x.units
          rw [e2] at h2
          exact h2
        · exact h1
theorem State.Canon.unitAhead {s : State} (h : s.Canon) (v : CopyEnv) (m : Cmd) (at_ : Option (Nat × Nat)) : (s.unitAhead v m at_).state.Canon := by
  unfold State.unitAhead
  split
  · exact h
  · split
    · split
      · exact h
      · exact (h.unitRead ..).along ‹_› (by rfl)
    · exact h
theorem State.Canon.copyRun {s : State} (h : s.Canon) (core : Nat) (m : Cmd) (v : CopyEnv) (l : List Move) {f : State → Nat → Nat → Eff}
    (hf : ∀ t a b, t.Canon → (f t a b).state.Canon) : (s.copyRun core m v l f).state.Canon := by
  unfold State.copyRun
  extract_lets total todo now
  split
  rename_i stop r s1 e
  have h1 : s1.Canon := by
    have := h.runMoves v now { done := m.done, flags := m.flags, units := m.got }
    rw [e] at this; exact this
  extract_lets m1 left hi
  split
  · exact h.unitAhead ..
  split
  · split
    · exact h1
    · exact hf _ _ _ h1
  · exact h1
  · exact h1
theorem State.Canon.readShape {s : State} (h : s.Canon) (core : Nat) (m : Cmd) (now : Nat → Bool) : (s.readShape core m now).state.Canon := by
  unfold State.readShape
  extract_lets w sp
  split
  rename_i x s1 e1
  have h1 : s1.Canon := (h.locate ..).of_snd e1
  split
  · rename_i s2 e2
    have h2 : s2.Canon := (h1.preAccess ..).along e2 (by rfl)
    split
    · rename_i s3 e3
      have h3 : s3.Canon := (h2.takeSegs ..).along e3 (by rfl)
      exact .ite ((h3.heatAll ..).purity ..) h3
    · exact (h2.takeSegs ..).along ‹_› (by rfl)
    · exact (h2.takeSegs ..).along ‹_› (by rfl)
  · exact (h1.preAccess ..).along ‹_› (by rfl)
  · exact (h1.preAccess ..).along ‹_› (by rfl)
theorem State.Canon.runShaped {s : State} (h : s.Canon) (core : Nat) (m : Cmd) : (s.runShaped core m).state.Canon := by
  unfold State.runShaped
  extract_lets x v
  split
  · exact h
  split
  · exact h.copyRun _ _ _ _ fun _ _ _ ht => ht
  · split
    · split <;> exact h
    split
    · exact h
    · exact h.copyRun _ _ _ _ fun _ _ _ ht => ht
  · split
    · exact h
    · exact h.copyRun _ _ _ _ fun _ _ _ ht => ht
theorem State.Canon.runFill {s : State} (h : s.Canon) (core : Nat) (m : Cmd) : (s.runFill core m).state.Canon := by
  unfold State.runFill
  split
  · exact h
  · exact h.copyRun _ _ _ _ fun _ _ _ ht => ht
theorem State.Canon.runX {s : State} (h : s.Canon) (core : Nat) (m : Cmd) : (s.runX core m).state.Canon := by
  unfold State.runX
  split
  · exact h.runFill ..
  split
  · exact h
  split
  · exact h.runShaped ..
  split
  · rename_i s1 m1 e
    have h1 : s1.Canon := (h.readShape ..).along e (by rfl)
    split
    · exact h1
    · exact h1.runShaped ..
  · exact (h.readShape ..).along ‹_› (by rfl)
  · exact (h.readShape ..).along ‹_› (by rfl)
theorem State.Canon.multicastDest {s : State} (h : s.Canon) (core dest : Nat) : (multicastDest core dest s).Canon := by
  unfold Machine.multicastDest
  split
  · exact h
  · exact .ite (.ite ((h.setCmd ..).deliverTo ..) (h.setCmd ..)) h

end Sys2Proof.Machine

namespace Sys2Proof.Machine

/-! ### Invalidation, and resuming commands -/

theorem State.Canon.resumeCmds {s : State} (h : s.Canon) (core ctx : Nat) : (s.resumeCmds core ctx).Canon := h.modCore core rfl
theorem State.Canon.wakeParked {s : State} (h : s.Canon) (pen : Nat) (i : Inval) : (s.wakeParked pen i).Canon := by
  unfold State.wakeParked
  extract_lets wake
  refine (h.mapCores fun p => ?_).congr rfl rfl rfl rfl
  split_ifs <;> exact ⟨rfl, rfl, rfl⟩
theorem State.Canon.invalCur {s : State} (h : s.Canon) (i : Inval) : (invalCur i s).Canon := by
  refine .ite h.blockCur (State.Canon.fall (State.Canon.wakeParked ?_ ..) 1)
  exact h.congr rfl rfl rfl rfl
theorem State.Canon.rfDrop {s : State} (h : s.Canon) (core : Nat) (hit : List (Nat × Nat) → Bool) : (s.rfDrop core hit).Canon := by
  unfold State.rfDrop
  split
  · exact h
  · extract_lets p s1
    have h1 : s1.Canon := h.setPen ..
    exact h1.congr rfl rfl rfl rfl
theorem State.Canon.wwaitCur {s : State} (h : s.Canon) (count op : Dword) : (wwaitCur count op s).Canon := .ite (h.fall 1) h.blockCur

/-! ### Fabric commands -/

theorem State.Canon.send {s : State} (h : s.Canon) (p : Pkt) : (s.send p).Canon := h.net _
theorem State.Canon.addSent {s : State} (h : s.Canon) (core win n : Nat) : (s.addSent core win n).Canon := by
  refine h.modCore core ?_ ?_ <;> split <;> rfl
theorem State.Canon.addSeen {s : State} (h : s.Canon) (core win n : Nat) : (s.addSeen core win n).Canon := by
  refine h.modCore core ?_ ?_ <;> split <;> rfl
theorem State.Canon.addLand {s : State} (h : s.Canon) (core win n : Nat) : (s.addLand core win n).Canon := by
  refine h.modCore core ?_ ?_ <;> split <;> rfl
theorem State.Canon.noteSent {s : State} (h : s.Canon) (core : Nat) (m : Cmd) : (s.noteSent core m).Canon := h.setEng ..
theorem State.Canon.readSome {s : State} (h : s.Canon) (w : Who) (sp : Space) (spc va n : Nat) : (s.readSome w sp spc va n).2.2.state.Canon := by
  unfold State.readSome
  split
  · exact h
  split
  · exact (h.eread ..).along ‹_› (by rfl)
  · rename_i f s1 e
    have h1 : s1.Canon := (h.eread ..).along e (by rfl)
    extract_lets k
    split
    · exact h1
    · split
      · exact (h1.eread ..).along ‹_› (by rfl)
      · exact h1
  · exact (h.eread ..).along ‹_› (by rfl)
theorem State.Canon.source {s : State} (h : s.Canon) (core : Nat) (m : Cmd) (spc va n : Nat) {short : State → Cmd → State × Cmd} {k : State → Nat → Eff}
    (hs : ∀ t m, t.Canon → (short t m).1.Canon) (hk : ∀ t x, t.Canon → (k t x).state.Canon) : (s.source core m spc va n short k).state.Canon := by
  unfold State.source
  extract_lets a rest part
  split
  rename_i v j r e
  have hr : r.state.Canon := by
    have := h.readSome (s.whoCmd core 4 m) (s.cmdSpace core m) spc a part
    rw [e] at this; exact this
  extract_lets all m1
  cases r with
  | ok x s1 =>
    dsimp only
    split
    · exact hr
    · exact hk _ _ hr
  | fault f s1 => exact hs _ _ hr
  | wait x s1 => exact hr
theorem State.Canon.nextPkt {s : State} (h : s.Canon) (n : Nat) : ({ s with nextPkt := n } : State).Canon := h.congr rfl rfl rfl rfl
theorem State.Canon.sendPut {s : State} (h : s.Canon) (core : Nat) (m : Cmd) (iw : IWin) (upto : Nat) : (s.sendPut core m iw upto).1.Canon := by
  unfold State.sendPut
  split
  · exact h
  · extract_lets bytes s1 cnt s2
    have h2 : s2.Canon := ((h.purity ..).commit ..).send _
    exact ((h2.nextPkt _).addSent ..).noteSent ..
theorem State.Canon.runPut {s : State} (h : s.Canon) (core : Nat) (m : Cmd) : (s.runPut core m).state.Canon := by
  unfold State.runPut
  extract_lets n spc
  split
  · exact h
  split
  · exact h
  split
  · exact h
  split
  · exact h
  split
  · exact h
  · exact h.source _ _ _ _ _ (fun _ _ ht => ht.sendPut ..) fun _ _ ht => ht.sendPut ..
theorem State.Canon.writeUnits {s : State} (h : s.Canon) (w : Who) (sp : Space) (spc v : Nat) (log : Bool) (l : Outs) (done : Nat) :
    (s.writeUnits w sp spc v log l done).2.state.Canon := by
  induction l generalizing s done with
  | nil => exact h
  | cons u l ih =>
    obtain ⟨a, n, off⟩ := u
    unfold State.writeUnits
    split
    · exact ih ((h.ewrite ..).along ‹_› (by rfl)) _
    · rename_i f s1 e
      have h1 : s1.Canon := (h.ewrite ..).along e (by rfl)
      extract_lets k
      split
      · exact h1
      · split
        · exact (h1.ewrite ..).along ‹_› (by rfl)
        · exact h1
    · exact h.ewrite ..
theorem State.Canon.writeLocal {s : State} (h : s.Canon) (core : Nat) (m : Cmd) (spc va n v : Nat) (log : Bool) {fin : State → Eff}
    (hf : ∀ t, t.Canon → (fin t).state.Canon) : (s.writeLocal core m spc va n v log fin).state.Canon := by
  unfold State.writeLocal
  extract_lets a todo now
  split
  rename_i done r e
  have hr : r.state.Canon := by
    have := h.writeUnits (s.whoCmd core 4 m) (s.cmdSpace core m) spc v log now m.done
    rw [e] at this; exact this
  extract_lets m1
  cases r with
  | ok x s1 =>
    dsimp only
    split
    · exact hr
    · exact hf _ hr
  | fault f s1 => exact hr
  | wait x s1 => exact hr
theorem State.Canon.runGet {s : State} (h : s.Canon) (core : Nat) (m : Cmd) : (s.runGet core m).state.Canon := by
  unfold State.runGet
  extract_lets n
  split
  · exact h
  split
  · exact h
  split
  · exact h
  split
  · exact h.writeLocal _ _ _ _ _ _ _ fun _ ht => ht
  split
  · exact h
  split
  · exact h
  · have h1 := h.nextPkt (s.nextPkt + 1)
    exact h1.net _
theorem State.Canon.runRamo {s : State} (h : s.Canon) (core : Nat) (m : Cmd) : (s.runRamo core m).state.Canon := by
  unfold State.runRamo
  extract_lets n ret
  split
  · exact h
  split
  · exact h
  split
  · split
    · exact h.writeLocal _ _ _ _ _ _ _ fun _ ht => ht
    · exact h
  split
  · exact h
  split
  · exact h
  split
  · exact h
  · exact (((h.purity ..).commit ..).send _).addSent ..
theorem State.Canon.runWin {s : State} (h : s.Canon) (core : Nat) (m : Cmd) : (s.runWin core m).state.Canon := by
  unfold State.runWin
  extract_lets c sp
  split
  · exact h
  split
  · split
    · exact h
    · exact h.putCore core rfl rfl
  · split
    · exact h
    · exact h.putCore core rfl rfl
  · split
    · exact h
    · exact h.putCore core rfl rfl
  · exact h
theorem State.Canon.mayWrite {s : State} (h : s.Canon) (w : Who) (sp : Space) (spc va n : Nat) : (s.mayWrite w sp spc va n).state.Canon := by
  unfold State.mayWrite
  split
  rename_i x s1 e1
  have h1 : s1.Canon := (h.locate ..).of_snd e1
  split
  · rename_i s2 e2
    have h2 : s2.Canon := (h1.preAccess ..).along e2 (by rfl)
    split
    · exact h2
    split
    · exact h2
    · split
      · exact h2.logWrite ‹_›
      · exact h2
      · exact h2
  · exact h1.preAccess ..
theorem State.Canon.fchains {s : State} (h : s.Canon) (l : List FChain) : ({ s with fchains := l } : State).Canon := h.congr rfl rfl rfl rfl
theorem State.Canon.runFchain {s : State} (h : s.Canon) (core : Nat) (m : Cmd) : (s.runFchain core m).state.Canon := by
  unfold State.runFchain
  extract_lets n
  split
  · exact h
  split
  · split
    all_goals
      rename_i s1 e
      have h1 : s1.Canon := by
        split at e
        · exact (h.mayWrite ..).along e (by rfl)
        · cases e <;> exact h
    · exact h1.writeLocal _ _ _ _ _ _ _ fun _ ht => ht
    · exact h1
    · exact h1
  split
  · exact h
  · have h1 := h.nextPkt (s.nextPkt + 1)
    exact h1.fchains _

/-! ### Chained loads -/

theorem State.Canon.dropChain {s : State} (h : s.Canon) (id : Nat) : (s.dropChain id).Canon := h.fchains _
theorem State.Canon.putChain {s : State} (h : s.Canon) (c : FChain) : (s.putChain c).Canon := h.fchains _
theorem State.Canon.chainFault {s : State} (h : s.Canon) (c : FChain) (v : ChainEnv) (kind n : Nat) (f : Flt) : (s.chainFault c v kind n f).Canon := by
  unfold State.chainFault
  dsimp only
  split
  · split
    · exact (h.dropChain _).accTrap ..
    · exact h.dropChain _
  · split
    · exact ((h.dropChain _).pendTrap ..).leaveRing ..
    · exact h.dropChain _
theorem State.Canon.chainEnd {s : State} (h : s.Canon) (c : FChain) (x : Nat) : (s.chainEnd c x).Canon := by
  unfold State.chainEnd
  dsimp only
  split
  · split
    · exact (h.dropChain _).reply ..
    · exact h.dropChain _
  · exact (h.dropChain _).modCore _ rfl
theorem State.Canon.chainLost {s : State} (h : s.Canon) (c : FChain) : (s.chainLost c).Canon := by
  unfold State.chainLost
  dsimp only
  split
  · split
    · exact (h.dropChain _).endAcc ..
    · exact h.dropChain _
  · split
    · exact (h.dropChain _).leaveRing ..
    · exact h.dropChain _
theorem State.Canon.chainAt {s : State} (h : s.Canon) (v : ChainEnv) (kind n va : Nat) (last : Bool) : (s.chainAt v kind n va last).2.2.Canon := by
  have hx := h.xlate v.sp v.w kind (kind == kRmw) va n
  unfold State.chainAt
  dsimp only
  split
  · exact hx
  split
  · exact hx
  split
  · exact hx
  · split <;> exact hx
theorem State.Canon.chainAmo {s : State} (h : s.Canon) (c : FChain) (v : ChainEnv) (x : Xl) (old : Nat) : (s.chainAmo c v x old).Canon :=
  ((h.wrSegs ..).commit ..).wrote ..
theorem State.Canon.chainLoad {s : State} (h : s.Canon) (c : FChain) (v : ChainEnv) (pa : Nat) : (s.chainLoad c v pa).Canon := by
  unfold State.chainLoad
  extract_lets atoms left
  split
  rename_i x s1 e
  have h1 : s1.Canon := by
    split at e
    · cases e; exact h
    · exact h.draw.of_snd e
  exact .ite (h1.chainFault ..) (.ite (h1.putChain _) (h1.chainEnd ..))
theorem State.Canon.chainStep {s : State} (h : s.Canon) (c : FChain) (v : ChainEnv) : (s.chainStep c v).Canon := by
  unfold State.chainStep
  extract_lets last atomic n kind bad
  refine .ite (h.chainLoad ..) (.ite (h.chainFault ..) ?_)
  have ha := h.chainAt v kind n c.addr last
  split
  · rename_i e
    rw [e] at ha
    exact State.Canon.chainFault ha ..
  · rename_i x s1 e
    have h1 : s1.Canon := by rw [e] at ha; exact ha
    refine .ite h1 (.ite (h1.putChain _) (.ite h1 ?_))
    split
    · exact h1
    · exact h1.chainLost _
    · extract_lets s2 s3 pa old
      have h2 : s2.Canon := (h1.heatAll ..).purity ..
      have h3 : s3.Canon := .ite (h2.commit ..) h2
      clear_value s3
      exact .ite (h3.chainLoad ..) (.ite (((h3.chainAmo ..).sliceCount ..).chainEnd ..) ((h3.sliceCount ..).putChain _))
theorem State.Canon.chainStepEv {s : State} (h : s.Canon) (id : Nat) : (chainStepEv id s).Canon := by
  unfold Machine.chainStepEv
  split
  · exact h
  refine .ite h ?_
  split
  · exact h
  · exact h.chainStep ..

/-! ### Collectives -/

theorem State.Canon.putContrib {s : State} (h : s.Canon) (n : Nat) (g : Grp) : (s.putContrib n g).Canon := (h.setGrp ..).putGrp ..
theorem State.Canon.runColl {s : State} (h : s.Canon) (core : Nat) (m : Cmd) : (s.runColl core m).state.Canon := by
  unfold State.runColl
  extract_lets op ty rnd len n eb me
  split
  · exact h
  split
  · exact h.writeLocal _ _ _ _ _ _ _ fun _ ht => ht
  split
  · exact h
  split
  · exact h
  split
  · exact h
  refine h.source _ _ _ _ _ (fun _ _ ht => ht) fun t x ht => ?_
  extract_lets s1
  have h1 : s1.Canon := ht.purity ..
  have hmade : (s1.commit core m.ctx m.key).Canon := h1.commit ..
  clear_value s1
  split
  · split
    · exact h1
    · exact hmade.send _
  · split
    · exact h1
    · exact h1
    · exact (hmade.setCmd ..).putContrib ..
theorem State.Canon.runF {s : State} (h : s.Canon) (core : Nat) (m : Cmd) : (s.runF core m).state.Canon := by
  unfold State.runF
  split
  · split
    · exact h.runPut ..
    split
    · exact h.runGet ..
    · exact h
  · exact h.runRamo ..
  · exact h.runWin ..
  · exact h.runFchain ..
  · split
    · split <;> exact (h.runColl ..).along ‹_› (by rfl)
    · exact h.runColl ..

end Sys2Proof.Machine

namespace Sys2Proof.Machine

/-! ### Packets that arrive -/

theorem State.Canon.takePkt {s : State} (h : s.Canon) (i : Nat) : (s.takePkt i).Canon := h.net _
theorem State.Canon.takeAnswer {s : State} (h : s.Canon) (i core cmd : Nat) : (s.takeAnswer i core cmd).Canon := h.net _
theorem State.Canon.answer {s : State} (h : s.Canon) (core : Nat) (p : Pkt) : (s.answer core p).Canon := .ite (h.send _) h
theorem State.Canon.arrs {s : State} (h : s.Canon) (l : List Arrival) : ({ s with arrs := l } : State).Canon := h.congr rfl rfl rfl rfl
theorem State.Canon.putArr {s : State} (h : s.Canon) (a : Arrival) : (s.putArr a).Canon := h.arrs _
theorem State.Canon.arrEnd {s : State} (h : s.Canon) (i core : Nat) (p ans : Pkt) : (s.arrEnd i core p ans).Canon :=
  ((h.arrs _).takePkt i).answer ..
theorem State.Canon.arrive {s : State} (h : s.Canon) (w : TWin) (core kind va n : Nat) : (s.arrive w core kind va n).state.Canon := by
  have hx := h.xlate (s.winSpace w core) (w.who core) kind (kind == kRmw) va n
  unfold State.arrive
  dsimp only
  split
  · exact hx
  split
  · exact hx
  · exact h.untouched _
  · exact hx
  split
  · exact hx
  · split <;> split
    · exact hx
    · exact hx.heatAll ..
    · exact hx
    · exact hx.heatAll ..
theorem State.Canon.arrStore {s : State} (h : s.Canon) (w : TWin) (core va n : Nat) (x : Xl) (v : Nat) : (s.arrStore w core va n x v).Canon := by
  unfold State.arrStore
  extract_lets put
  have hp : (put ()).Canon := (h.wrSegs ..).wrote ..
  split
  · exact .ite (h.regWrite ..) hp
  · exact hp
theorem State.Canon.arrUnit {s : State} (h : s.Canon) (w : TWin) (tcore : Nat) (a : Arrival) (us : List (Nat × Nat)) (put : Option Nat) (j : Nat) :
    (s.arrUnit w tcore a us put j).state.Canon := by
  unfold State.arrUnit
  split
  rename_i va n _
  extract_lets kind left
  split
  · exact h.untouched _
  · exact (h.untouched _).putArr _
  · exact (h.arrive ..).along ‹_› (by rfl)
  · have h1 := (h.arrive w tcore kind va n).along ‹_› (by rfl)
    split
    · exact h1.arrStore ..
    · exact h1
theorem State.Canon.arrUnits {s : State} (h : s.Canon) (w : TWin) (tcore : Nat) (us : List (Nat × Nat)) (put : Option Nat) (l : List Nat) (a : Arrival) :
    (State.arrUnits w tcore us put l a s).state.Canon := by
  induction l generalizing s a with
  | nil => exact h
  | cons j l ih =>
    unfold State.arrUnits
    split
    · exact ih h a
    split
    · exact ih (((h.arrUnit ..).along ‹_› (by rfl)).putArr _) _
    · exact (h.arrUnit ..).along ‹_› (by rfl)
    · exact (h.arrUnit ..).along ‹_› (by rfl)
theorem State.Canon.arrivalUnit {s : State} (h : s.Canon) (i j : Nat) : (arrivalUnit i j s).Canon := by
  unfold Machine.arrivalUnit
  split
  · split
    · split
      · extract_lets us a
        refine .ite h ?_
        split
        · exact ((h.arrUnit ..).along ‹_› (by rfl)).putArr _
        · exact (h.arrUnit ..).along ‹_› (by rfl)
        · exact h
      · exact h
    · exact h
  · exact h
theorem State.Canon.dropPuts {s : State} (h : s.Canon) (core cmd : Nat) : (s.dropPuts core cmd).Canon := h.congr rfl rfl rfl rfl
theorem State.Canon.putArrival {s : State} (h : s.Canon) (i : Nat) : (putArrival i s).Canon := by
  unfold Machine.putArrival
  split
  · rename_i core cmd pkg tcore win off bytes cnt _
    extract_lets p a fail
    have hf : ∀ t cls o, State.Canon t → (fail t cls o).Canon := fun t cls o ht => (ht.arrEnd ..).dropPuts ..
    clear_value fail
    refine .ite h (.ite (hf _ _ _ h) ?_)
    split
    · exact hf _ _ _ h
    · rename_i w _
      refine .ite (hf _ _ _ h) ?_
      extract_lets us
      have hu := h.arrUnits w tcore us (some (bytesVal bytes)) (List.range us.length) a
      split
      · exact hu.along ‹_› (by rfl)
      · exact hf _ _ _ (hu.along ‹_› (by rfl))
      · have h1 := hu.along ‹_› (by rfl)
        exact .ite (hf _ _ _ h1) (.ite (h1.putArr _) ((h1.addLand ..).arrEnd ..))
  · exact h
theorem State.Canon.clearSent {s : State} (h : s.Canon) (core cmd : Nat) : (s.clearSent core cmd).Canon := h.setEng ..
theorem State.Canon.dropSent {s : State} (h : s.Canon) (core cmd : Nat) : (s.dropSent core cmd).Canon := h.setEng ..
theorem State.Canon.strayed {s : State} (h : s.Canon) (i core cmd : Nat) : (s.strayed i core cmd).Canon := (h.takeAnswer ..).send _
theorem State.Canon.putAckArrival {s : State} (h : s.Canon) (i : Nat) : (putAckArrival i s).Canon := by
  unfold Machine.putAckArrival
  split
  · rename_i core _ _ cmd _
    have h1 := h.takeAnswer i core cmd
    dsimp only
    split
    · exact (h1.addSeen ..).clearSent ..
    · exact h1
  · exact h
theorem State.Canon.getRequestArrival {s : State} (h : s.Canon) (i : Nat) : (getRequestArrival i s).Canon := by
  unfold Machine.getRequestArrival
  split
  · rename_i core cmd pkg tcore win off len _
    extract_lets p
    refine .ite h (.ite (h.arrEnd ..) ?_)
    split
    · exact h.arrEnd ..
    · rename_i w _
      extract_lets us
      have hu := h.arrUnits w tcore us none (List.range us.length) (s.arr p)
      split
      · exact hu.along ‹_› (by rfl)
      · exact (hu.along ‹_› (by rfl)).arrEnd ..
      · exact .ite ((hu.along ‹_› (by rfl)).arrEnd ..) ((hu.along ‹_› (by rfl)).arrEnd ..)
  · exact h
theorem State.Canon.answered {s : State} (h : s.Canon) (core cmd : Nat) (f : Cmd → Cmd) : (s.answered core cmd f).Canon := h.setEng ..
theorem State.Canon.getReplyArrival {s : State} (h : s.Canon) (i : Nat) : (getReplyArrival i s).Canon := by
  unfold Machine.getReplyArrival
  split
  · exact .ite (h.strayed ..) ((h.takeAnswer ..).answered ..)
  · exact h
theorem State.Canon.remoteAtomicArrival {s : State} (h : s.Canon) (i : Nat) : (remoteAtomicArrival i s).Canon := by
  unfold Machine.remoteAtomicArrival
  split
  · rename_i core cmd pkg tcore win off op n opnd _
    extract_lets p refuse
    have hf : ∀ t cls o, State.Canon t → (refuse t cls o).Canon := fun t cls o ht => ht.arrEnd ..
    clear_value refuse
    refine .ite h (.ite (hf _ _ _ h) ?_)
    split
    · exact hf _ _ _ h
    · rename_i w _
      refine .ite (hf _ _ _ h) (.ite (hf _ _ _ h) ?_)
      extract_lets va
      have ha := h.arrive w tcore kRmw va n
      split
      · exact ha.along ‹_› (by rfl)
      · exact (ha.along ‹_› (by rfl)).putArr _
      · exact hf _ _ _ (ha.along ‹_› (by rfl))
      · rename_i x s1 e
        extract_lets old s2 s3
        have h2 : s2.Canon := (ha.along e (by rfl)).arrStore ..
        have h3 : s3.Canon := by
          show (match x.segs with
               | (pa, _) :: _ => s2.sliceCount pa 64
               | [] => s2).Canon
          split
          · exact h2.sliceCount ..
          · exact h2
        exact (h3.addLand ..).arrEnd ..
  · rename_i core x cmd old n _
    have h1 := h.takeAnswer i core cmd
    dsimp only
    split
    · exact (h1.addSeen ..).answered ..
    · exact h1
  · exact h
theorem State.Canon.fabricRefusal {s : State} (h : s.Canon) (i : Nat) : (fabricRefusal i s).Canon := by
  unfold Machine.fabricRefusal
  split
  · rename_i core cmd cls off _
    have h1 := h.takeAnswer i core cmd
    dsimp only
    split
    · exact (h1.refuseCmd ..).dropSent ..
    · exact (h1.pendTrap ..).dropSent ..
    · exact h1
  · exact h
theorem State.Canon.spanningGroupMessage {s : State} (h : s.Canon) (i : Nat) : (spanningGroupMessage i s).Canon := by
  have ht := h.takePkt i
  unfold Machine.spanningGroupMessage
  split
  · extract_lets g
    refine .ite h (.ite (.ite ht ?_) (.ite (ht.send _) (.ite ht (.ite (ht.putGrp ..) (.ite h ((ht.send _).putGrp ..))))))
    exact .ite ((ht.setGrp ..).send _) (ht.setGrp ..)
  · refine .ite h ?_
    split
    · exact h
    · exact ht.send _
    · exact ht.putContrib ..
  · exact h
theorem State.Canon.spanningGroupCompletion {s : State} (h : s.Canon) (i : Nat) : (spanningGroupCompletion i s).Canon := by
  have ht := h.takePkt i
  unfold Machine.spanningGroupCompletion
  split
  · refine .ite h ?_
    exact .ite (ht.setGrp ..) ((ht.setGrp ..).modCtx ..)
  · refine .ite h ?_
    dsimp only
    split
    · exact ht.giveColl ..
    · exact ht.refuseCmd ..
    · exact ht
  · exact h

end Sys2Proof.Machine

namespace Sys2Proof.Machine

/-! ### Engines -/

theorem State.Canon.readUnits {s : State} (h : s.Canon) (sp : Mem) (at_ i : Nat) (l : List Nat) : (readUnits sp at_ i l s).2.Canon := by
  induction l generalizing s i with
  | nil => exact h
  | cons x l ih =>
    unfold Machine.readUnits
    extract_lets y
    split
    rename_i v s1 e1
    have h1 : s1.Canon := by
      split at e1
      · cases e1; exact h
      · cases e1; exact h.draw
    exact ih h1 (i + 1)
theorem State.Canon.readEntry {s : State} (h : s.Canon) (core e : Nat) (a : App) : (s.readEntry core e a).2.Canon := by
  unfold State.readEntry
  split
  · exact h
  · split
    exact ((h.readUnits ..).of_snd ‹_›).setEng ..
theorem State.Canon.placeCmd {s : State} (h : s.Canon) (core e : Nat) (m : Cmd) : (s.placeCmd core e m).Canon := h.setEng ..
theorem State.Canon.begin {s : State} (h : s.Canon) (core e : Nat) (m : Cmd) : (s.begin core e m).Canon := by
  unfold State.begin
  split
  rename_i m1 s1 e1
  have h1 : s1.Canon := by
    split at e1
    · exact (h.subscribe ..).of_snd e1
    · cases e1; exact h
  have h2 := h1.placeCmd core e m1
  refine State.Canon.settleCtx ?_ ..
  dsimp only
  split
  · have h3 := h2.draw
    split
    · exact State.Canon.setCmd (h3.readShape .. |>.along ‹_› (by rfl)) ..
    · exact h3.untouched _
    · exact h3.untouched _
  · exact h2
theorem Core.awaitGate_lanes (c : Core) (g agent tick : Nat) : (c.awaitGate g agent tick).2.lanes = c.lanes := by
  unfold Core.awaitGate; dsimp only; split_ifs <;> rfl
theorem State.Canon.awaitGate {s : State} (h : s.Canon) (core g agent tick : Nat) :
    (s.setCore core ((s.core core).awaitGate g agent tick).2).Canon :=
  h.setCore core (by rw [Core.awaitGate_sp]; exact h.core core) (Core.awaitGate_lanes ..)
theorem State.Canon.engineStart {s : State} (h : s.Canon) (core e : Nat) : (engineStart core e s).Canon := by
  unfold Machine.engineStart
  split
  · exact h
  · rename_i a0 _ _
    refine .ite h ?_
    split
    rename_i a s1 e1
    have h1 : s1.Canon := (h.readEntry ..).of_snd e1
    extract_lets m
    refine .ite ((h1.placeCmd ..).refuseCmd ..) (.ite h1 (.ite ?_ (h1.begin ..)))
    have ha := h1.awaitGate core m.ag (3 + e) s1.tick
    split
    · rename_i e2; rw [e2] at ha; exact ha.begin ..
    · rename_i e2; rw [e2] at ha; exact ha
theorem State.Canon.run {s : State} (h : s.Canon) (core e : Nat) (m : Cmd) : (s.run core e m).state.Canon := by
  unfold State.run
  split
  · exact h.runM ..
  · exact h.runV ..
  · exact h.runX ..
  · exact h.runF ..
theorem State.Canon.pick {s : State} (h : s.Canon) (core e : Nat) : (s.pick core e).2.Canon := by
  unfold State.pick
  dsimp only
  split
  · split
    · exact h
    · exact h
    · exact h.draw
  · split
    · exact h
    · exact h
theorem State.Canon.engineRun {s : State} (h : s.Canon) (core e : Nat) (budget : Option Nat) : (engineRun core e budget s).Canon := by
  unfold Machine.engineRun
  split
  · exact h
  · exact State.Canon.settleEff (((h.pick ..).of_snd ‹_›).run ..) ..
theorem State.Canon.engineComplete {s : State} (h : s.Canon) (core e : Nat) : (engineComplete core e s).Canon := h.engineRun ..
theorem State.Canon.runAhead {s : State} (h : s.Canon) (core e n : Nat) (m : Cmd) (before : List Cmd) : (s.runAhead core e n m before).Canon := by
  unfold State.runAhead
  split
  · extract_lets reads mine clear
    exact .ite (((h.run ..).along ‹_› (by rfl)).setCmd ..) h
  · exact h
theorem State.Canon.enginePart {s : State} (h : s.Canon) (core e n : Nat) : (enginePart core e n s).Canon := by
  unfold Machine.enginePart
  split
  · exact h.engineRun ..
  · have h1 := h.draw
    dsimp only
    split
    · exact h1.runAhead ..
    · exact h1.engineRun ..

/-! ### Areas and pre-emption -/

theorem State.Canon.liveMap {s : State} (h : s.Canon) (core ctx m : Nat) : (s.liveMap core ctx m).state.Canon := by
  unfold State.liveMap
  split
  · exact h
  · dsimp only
    split <;> exact (h.readSpace ..).along ‹_› (by rfl)
theorem State.Canon.liveMaps {s : State} (h : s.Canon) (core : Nat) (l : List Nat) : (s.liveMaps core l).state.Canon := by
  induction l generalizing s with
  | nil => exact h
  | cons x l ih =>
    have h1 := h.liveMap core x (((s.ctx core x).landed.map Landing.map).getD 0)
    unfold State.liveMaps
    split
    · have h2 := ih (h1.along ‹_› (by rfl))
      split
      · exact h2.along ‹_› (by rfl)
      · exact h2
    · exact h1.along ‹_› (by rfl)
    · exact h1.along ‹_› (by rfl)
theorem State.Canon.areaWrite {s : State} (h : s.Canon) (sp : Space) (w : Who) (va n : Nat) (img : Mem) : (s.areaWrite sp w va n img).state.Canon := by
  have hx := h.xlate sp w kWrite false va n
  unfold State.areaWrite
  dsimp only
  split
  · exact hx
  split
  · exact hx
  split
  · exact hx
  · exact ((hx.heatAll ..).setMem (putImage_wf _ _ _ _ hx.1)).wrote ..
theorem State.Canon.areaRead {s : State} (h : s.Canon) (sp : Space) (w : Who) (va n : Nat) : (s.areaRead sp w va n).state.Canon := by
  have hx := h.xlate sp w kRead false va n
  unfold State.areaRead
  dsimp only
  split
  · exact hx
  split
  · exact hx
  · exact hx.heatAll ..
theorem State.Canon.areaRead_wf {s t : State} (h : s.Canon) {sp : Space} {w : Who} {va n : Nat} {m : Mem} (e : s.areaRead sp w va n = .ok m t) :
    Memory.wf m = true := by
  have hx := h.xlate sp w kRead false va n
  unfold State.areaRead at e
  dsimp only at e
  split at e
  · cases e
  split at e
  · cases e
  · cases e; exact getImage_wf _ _ _ hx.1
theorem State.Canon.areaThen {α : Type} {s : State} (h : s.Canon) (sp : Space) (w : Who) (va n : Nat) {k : Mem → State → Loaded α} {P : α → Prop}
    (hk : ∀ m t, Memory.wf m = true → t.Canon → (k m t).Canon P) : (s.areaThen sp w va n k).Canon P := by
  have h1 := h.areaRead sp w va n
  unfold State.areaThen
  split
  · exact hk _ _ (h.areaRead_wf ‹_›) (h1.along ‹_› (by rfl))
  · exact h1.along ‹_› (by rfl)
  · exact h1.along ‹_› (by rfl)
  · exact h1.along ‹_› (by rfl)
theorem State.Canon.readArea {s : State} (h : s.Canon) (sp : Space) (w : Who) (va fuel off left : Nat) :
    (s.readArea sp w va fuel off left).Canon fun _ => True := by
  induction fuel generalizing s off left with
  | zero => exact ⟨trivial, h⟩
  | succ fuel ih =>
    unfold State.readArea
    split
    · exact ⟨trivial, h⟩
    · refine h.areaThen _ _ _ _ fun m t _ ht => ?_
      dsimp only
      refine ht.areaThen _ _ _ _ fun m' t' _ ht' => ?_
      have hr := ih ht' (off + pad64 (8 + readLE m 4 4)) (left - readLE m 4 4)
      split
      · rename_i e; rw [e] at hr; exact hr
      · exact hr
theorem State.Canon.loadArea {s : State} (h : s.Canon) (sp : Space) (w : Who) (va : Nat) :
    (s.loadArea sp w va).Canon fun a => Memory.wf a.lanes = true := by
  refine h.areaThen _ _ _ _ fun x t _ ht => ?_
  dsimp only
  split
  · exact ht
  · refine ht.areaThen _ _ _ _ fun m u _ hu => ?_
    have hr := hu.readArea sp w va 16 (hFixed (readLE x 0 64)) (hBytes (readLE x 0 64))
    split
    · rename_i e; rw [e] at hr
      split
      · exact ⟨rfl, hr.2⟩
      · exact hr.2.areaThen _ _ _ _ fun l v hl hv => ⟨hl, hv⟩
    · rename_i e; rw [e] at hr; exact hr
    · rename_i e; rw [e] at hr; exact hr
    · rename_i e; rw [e] at hr; exact hr
theorem State.Canon.unholdRole {s : State} (h : s.Canon) (core : Nat) : (s.unholdRole core).Canon := h.mapSheds fun _ => ⟨rfl, rfl⟩
theorem State.Canon.landed? {s t : State} (h : s.Canon) {core ctx : Nat} (e : s.landed? core ctx = some t) : t.Canon := by
  unfold State.landed? at e
  dsimp only at e
  split at e
  · cases e
  split at e
  · rename_i s1 _ e1
    cases e
    exact (((h.withdrawReq e1).modCore core rfl).modCtx ..).traceCtx ..
  · cases e
theorem State.Canon.preemptLanding {s : State} (h : s.Canon) (core ctx : Nat) : (preemptLanding core ctx s).Canon := h.getD fun _ => h.landed?
theorem State.Canon.startPre {s : State} (h : s.Canon) (core : Nat) (p : Pre) : (s.startPre core p).Canon := by
  unfold State.startPre
  dsimp only
  split
  · exact h
  · exact State.Canon.giveBack (by exact h.putCore core rfl rfl) ..
theorem State.Canon.dropPre {s : State} (h : s.Canon) (core : Nat) : (s.dropPre core).Canon := by
  unfold State.dropPre
  dsimp only
  split
  · exact (State.Canon.modInst (by exact h.putCore core rfl rfl) ..).reportN .. |>.cutN ..
  · exact h.putCore core rfl rfl
theorem State.Canon.keepFor {s : State} (h : s.Canon) (core : Nat) : (s.keepFor core).Canon := h.congr rfl rfl rfl rfl
theorem State.Canon.withdrawAll {s : State} (h : s.Canon) (core x : Nat) (l : List Acc) : (l.foldl (fun s a => s.withdraw core x a) s).Canon :=
  h.foldl l fun _ _ ht => ht.withdraw ..
theorem State.Canon.savePre {s : State} (h : s.Canon) (core : Nat) (sp : Space) (w : Who) : (s.savePre core sp w).state.Canon := by
  unfold State.savePre
  extract_lets c
  split
  · rename_i p b _ _
    extract_lets role
    split
    · exact h
    split
    · exact State.Canon.endBinding (by exact h.putCore core rfl rfl) core
    split
    · exact h
    split
    · exact h
    have hl := h.liveMaps core [0, 1, 2]
    split
    · exact h.keepWalks (hl.along ‹_› (by rfl))
    · exact hl.along ‹_› (by rfl)
    · rename_i lives s1 e1
      extract_lets s2 conf
      have h2 : s2.Canon := State.Canon.foldl (hl.along e1 (by rfl)) _ fun t x ht => ht.withdrawAll ..
      clear_value s2
      split
      rename_i img len _
      split
      · exact h2
      have hw := h2.areaWrite sp w p.area len img
      split
      · exact h.keepWalks (hw.along ‹_› (by rfl))
      · exact State.Canon.putCore (h.keepWalks (hw.along ‹_› (by rfl))) core rfl rfl
      · exact State.Canon.dropPre (hw.along ‹_› (by rfl)) core
      · rename_i s3 e3
        extract_lets unheld traced s4 steps pn
        have h3 : s3.Canon := hw.along e3 (by rfl)
        have ht : traced.Canon := by
          refine State.Canon.foldl ((h3.keepFor core).unholdRole core) _ fun t x ht => ?_
          exact .ite ht (ht.traceCtx ..)
        have h4 : s4.Canon := (ht.modCore core rfl).endBinding core
        exact .ite h4 (h4.setPen ..)
  · exact h.putCore core rfl rfl
theorem State.Canon.cpreCur {s : State} (h : s.Canon) (d va : Nat) : (cpreCur d va s).Canon := by
  unfold Machine.cpreCur
  extract_lets core c out
  have ho : ∀ n t, State.Canon t → (out n t).Canon := fun n t ht => (ht.onCur _).fall 1
  clear_value out
  split
  · rename_i p _
    refine .ite h.blockCur ?_
    have hs := h.savePre core (s.preSpace core p) (s.whoCtx core 3 s.cur.group.toNat)
    split
    · exact ho _ _ (hs.along ‹_› (by rfl))
    · exact State.Canon.blockCur (hs.along ‹_› (by rfl))
    · exact State.Canon.trapAccess (hs.along ‹_› (by rfl)) ..
  · exact .ite h.blockCur (.ite (ho _ _ h) (h.startPre ..).blockCur)
theorem State.Canon.finishBoundary {s : State} (h : s.Canon) (core : Nat) : (s.finishBoundary core).Canon := by
  unfold State.finishBoundary
  dsimp only
  split
  · exact h.putCore core rfl rfl
  · exact .ite h (State.Canon.endBinding (by exact h.putCore core rfl rfl) core)
theorem State.Canon.priorityPreempt {s : State} (h : s.Canon) (core : Nat) : (priorityPreempt core s).Canon := by
  unfold Machine.priorityPreempt
  extract_lets c pn p
  split
  · rename_i q b _ _
    refine .ite h (.ite (h.finishBoundary core) ?_)
    extract_lets first
    have hs := h.savePre core (s.preSpace core q) { core := core, ctx := 3 }
    split
    · exact State.Canon.modCore (hs.along ‹_› (by rfl)) core rfl
    · exact hs.along ‹_› (by rfl)
    · exact hs.along ‹_› (by rfl)
  · exact .ite h (h.putCore core rfl rfl)
  · split
    · exact h
    · extract_lets waits
      exact .ite h (.ite (h.startPre ..) (.ite h (h.startPre ..)))
  · exact h

end Sys2Proof.Machine

namespace Sys2Proof.Machine

/-! ### Restoring, cutting and evicting -/

theorem Core.append_lanes (c : Core) (e ctx tick : Nat) (entry : List Nat) : (c.append e ctx tick entry).lanes = c.lanes := rfl
/-- A core with a ring's entry written, beside what is kept of gathered collectives and of flags. -/
theorem State.Canon.putEntry {s : State} (h : s.Canon) (core : Nat) {k : List (Nat × Nat × List Nat)} {f : List (Nat × Nat × Coord × Nat × Nat)} {c : Core} {a x : Nat}
    (hs : c.sp = writeLE (s.core core).sp a 64 x) (hl : c.lanes = (s.core core).lanes) :
    (({ s with collKept := k, flagKept := f } : State).setCore core c).Canon := by
  have h1 : ({ s with collKept := k, flagKept := f } : State).Canon := h.congr rfl rfl rfl rfl
  exact h1.setCore core (hs ▸ writeLE_wf _ _ _ _ (h.core core)) hl
theorem State.Canon.reenter {s : State} (h : s.Canon) (core num : Nat) (r : List Nat) : (s.reenter core num r).Canon := by
  unfold State.reenter
  extract_lets top e kind ctx entry c g mine
  split
  · exact h.setCore core (Core.append_wf _ _ _ _ _ (h.core core)) (Core.append_lanes ..)
  · rename_i c2 _
    refine h.putEntry core (a := g.slotAt g.tail) (x := listVal entry) ?_ ?_
    · simp only [c2]
      rfl
    · simp only [c2]
      rfl
theorem State.Canon.reissue {s : State} (h : s.Canon) (core ctx : Nat) (f : Nat × Nat × Bool) : (s.reissue core ctx f).2.Canon := by
  unfold State.reissue
  extract_lets w sp kind
  split
  rename_i x s1 e1
  have h1 : s1.Canon := by
    split at e1
    · exact (h.xlate ..).of_snd e1
    · cases e1; exact h
  split
  · exact (h1.modCtx ..).pendTrap ..
  · split
    · exact h1
    · exact (h1.heatAll ..).modCtx ..
theorem State.Canon.holdAgain {s : State} (h : s.Canon) (core ctx m : Nat) : (s.holdAgain core ctx m).Canon := by
  unfold State.holdAgain
  extract_lets mine s1
  have h1 : s1.Canon := h.congr rfl rfl rfl rfl
  exact h1.foldl _ fun t k ht => .ite ht ((ht.setHq ..).modCtx ..)
theorem State.Canon.moveMember {s : State} (h : s.Canon) (m m' : Nat) : (s.moveMember m m').Canon := by
  unfold State.moveMember
  exact .ite h (h.congr rfl rfl rfl rfl)
theorem State.Canon.foldl_snd {α : Type} {f : Bool × State → α → Bool × State} {r : Bool × State} (h : r.2.Canon) (l : List α)
    (hf : ∀ t a, t.2.Canon → (f t a).2.Canon) : (l.foldl f r).2.Canon := by
  induction l generalizing r with
  | nil => exact h
  | cons a l ih => exact ih (hf r a h)
/-- A core replaced by one whose scratchpad and lane slices are canonical. -/
theorem State.Canon.newCore {s : State} (h : s.Canon) (i : Nat) {c : Core} (hs : Memory.wf c.sp = true) (hl : Memory.wf c.lanes = true) :
    (s.setCore i c).Canon := by
  refine ⟨h.1, fun j => ?_, h.2.2⟩
  rw [State.core_setCore]
  split_ifs
  · exact ⟨hs, hl⟩
  · exact h.2.1 j
theorem State.Canon.restore {s : State} (h : s.Canon) (core : Nat) (a : AreaIn) (ha : Memory.wf a.lanes = true) : (s.restore core a).2.Canon := by
  unfold State.restore
  extract_lets r conf num steps b c sp c1 s1 s2 ctxsOf s3
  have h1 : s1.Canon := by
    refine h.newCore core (foldl_wf (fun _ _ hm => memPut_wf _ _ _ _ hm) _ (h.core core)) ?_
    show Memory.wf (if field a.head 52 1 = 1 then a.lanes else c.lanes) = true
    split
    · exact ha
    · exact h.lanes core
  have h2 : s2.Canon := h1.foldl _ fun _ _ ht => ht.reenter ..
  have h3 : s3.Canon := h2.modCore core rfl
  clear_value s3
  split
  rename_i ok s4 e4
  have h4 : s4.Canon := by
    refine State.Canon.of_snd (State.Canon.foldl_snd (r := (true, s3)) h3 _ fun t x ht => ?_) e4
    refine State.Canon.foldl_snd ht _ fun u f hu => ?_
    split
    · exact hu.reissue ..
    · exact hu
  split
  · exact h.keepWalks h4
  · exact h4.foldl _ fun _ _ ht => (ht.holdAgain ..).moveMember ..
theorem State.Canon.undo {s : State} (h : s.Canon) (pen : Nat) (es : List Shadow) : (s.undo pen es).Canon := by
  have h1 : ((es.foldl (fun l e => insertShadow e l) []).foldl (fun s e => s.restoreLine pen e) s).Canon :=
    h.foldl _ fun _ _ ht => ht.restoreLine ..
  exact .ite h1 h1.watchRestore
theorem State.Canon.haltCtx {s : State} (h : s.Canon) (core x : Nat) : (s.haltCtx core x).Canon := by
  unfold State.haltCtx
  exact State.Canon.modCtx (State.Canon.getD (h.withdrawAll ..) fun _ => (h.withdrawAll ..).withdrawReq) ..
theorem State.Canon.undoAreas {s : State} (h : s.Canon) (pen : Nat) (l : List Area) :
    (s.undoAreas pen l).2.Canon ∧ ∀ t, (s.undoAreas pen l).1 = some t → t.Canon := by
  induction l generalizing s with
  | nil => exact ⟨h, by rintro t ⟨⟩; exact h⟩
  | cons a l ih =>
    unfold State.undoAreas
    extract_lets p sp
    have hl := h.loadArea sp { core := a.core, ctx := 3 } a.at_
    split
    · rename_i e; rw [e] at hl; exact ih (hl.2.undo ..)
    · rename_i e; rw [e] at hl; exact ⟨hl, by rintro t ⟨⟩⟩
    · exact ih h
theorem State.Canon.cutFinish {s : State} (h : s.Canon) (pen : Nat) : (s.cutFinish pen).Canon := by
  unfold State.cutFinish
  extract_lets p
  refine .ite h ?_
  obtain ⟨hu, hs⟩ := h.undoAreas pen (p.areas.filter fun a => !p.cutNoinst && a.inst == p.cutreq.toNat / 2 ^ 96)
  dsimp only
  split
  · rename_i e; rw [e] at hu; exact h.keepWalks hu
  · rename_i s1 _ e
    have h1 : s1.Canon := hs s1 (by rw [e])
    exact (h1.foldl _ fun _ _ ht => ht.giveBack ..).setPen ..
theorem State.Canon.discardBeyond {s : State} (h : s.Canon) (core pn : Nat) : (s.discardBeyond core pn).Canon := by
  unfold State.discardBeyond
  extract_lets c later s2 heads s3
  have h2 : s2.Canon := State.Canon.undo (h.foldl _ fun _ _ ht => ht.haltCtx ..) ..
  have h3 : s3.Canon := h2.putCore core rfl rfl
  refine State.Canon.unholdRole ?_ core
  cases c.bind with
  | none => exact h3
  | some b => exact h3.modInst ..
theorem State.Canon.evict {s : State} (h : s.Canon) (core pn : Nat) : (s.evict core pn).Canon := by
  unfold State.evict
  split
  · exact h
  · rename_i b _
    extract_lets p named keeps s1 c back binding unhalted s2
    have h1 : s1.Canon := h.discardBeyond ..
    have h2 : s2.Canon := State.Canon.giveBack (by exact h1.putCore core rfl rfl) ..
    exact .ite h2 ((h2.modInst ..).endBinding core)
theorem State.Canon.cutHalt {s : State} (h : s.Canon) (core : Nat) : (cutHalt core s).Canon := by
  unfold Machine.cutHalt
  split
  · exact h
  · rename_i pn _
    extract_lets p c
    refine .ite (h.cutFinish pn) (.ite h (.ite (.ite h (h.evict ..)) (.ite h ?_)))
    exact (State.Canon.traceShed (State.Canon.modCore (h.discardBeyond core pn) core rfl) ..).cutFinish pn
theorem State.Canon.distributorRestore {s : State} (h : s.Canon) (core area : Nat) : (distributorRestore core area s).Canon := by
  unfold Machine.distributorRestore
  extract_lets pn p c
  split
  · exact h
  split
  · exact h
  · rename_i x _ _ i _
    extract_lets idle
    refine .ite (h.evict ..) (.ite h ?_)
    have h0 := h.endBinding core
    have hl := h0.loadArea (i.space p.conf) { core := core, ctx := 3 } x.at_
    split
    · rename_i a s1 e
      rw [e] at hl
      obtain ⟨ha, h1⟩ := hl
      refine .ite h ?_
      have hr := h1.restore core a ha
      split
      · exact h.keepWalks (hr.of_snd ‹_›)
      · rename_i s2 e2
        have h3 := (State.Canon.of_snd hr e2).setPen pn { s2.pen pn with areas := (s2.pen pn).areas.eraseIdx area }
        dsimp only
        exact .ite (h3.modCore core rfl) h3
    · rename_i e; rw [e] at hl; exact h.keepWalks hl
    · exact h

end Sys2Proof.Machine

namespace Sys2Proof.Machine

/-! ### Beacons, trace, power of a shed, heat -/

theorem State.Canon.beaconRing {s : State} (h : s.Canon) (b : BRing) : ({ s with bcnr := b } : State).Canon := h.congr rfl rfl rfl rfl
theorem State.Canon.putBeacon {s : State} (h : s.Canon) (b : BRing) (r : BRec) (key : Option Nat) : (s.putBeacon b r key).2.Canon := by
  unfold State.putBeacon
  dsimp only
  split
  · exact h
  split
  · exact h
  · exact h.physWrite ..
theorem State.Canon.adminRec {s : State} (h : s.Canon) (r : BRec) : (s.adminRec r).Canon := (h.putBeacon s.bcnr r none).beaconRing _
theorem State.Canon.penRec {s : State} (h : s.Canon) (p : Nat) (r : BRec) : (s.penRec p r).Canon :=
  (h.putBeacon (s.pen p).pbcn r (s.pen p).seals).setPen ..
theorem State.Canon.putShedRec {s : State} (h : s.Canon) (p : Nat) (r : BRec) : (s.putShedRec p r).Canon :=
  State.Canon.penRec (.ite h (h.adminRec r)) ..
/-- A shed replaced by one with the same memory. -/
theorem State.Canon.putShed {s : State} (h : s.Canon) (i : Nat) {x : Shed} (hx : x.mem = (s.shed i).mem) : (s.setShed i x).Canon :=
  h.setShed i (hx ▸ h.shed i)
theorem State.Canon.freed {s : State} (h : s.Canon) (n : Nat) : ({ s with free := n } : State).Canon := h.congr rfl rfl rfl rfl
theorem State.Canon.beacon {s : State} (h : s.Canon) : (beacon s).Canon := by
  unfold Machine.beacon
  refine .ite h ?_
  extract_lets dies sheds aggs s1 s2 s3 s4 s5
  have h3 : s3.Canon := ((h.foldl _ fun _ _ ht => ht.adminRec _).foldl _ fun _ _ ht => ht.putShedRec ..).foldl _ fun _ _ ht => ht.adminRec _
  have h4 : s4.Canon := h3.foldl _ fun _ _ ht => .ite (ht.putShed _ rfl) ht
  have h5 : s5.Canon := h4.foldl _ fun _ _ ht => ht.putDie _ rfl
  clear_value s5
  exact h5.congr rfl rfl rfl rfl
@[simp] theorem Shed.settleOff_mem (h : Shed) : h.settleOff.mem = h.mem := by unfold Shed.settleOff; split_ifs <;> rfl
@[simp] theorem Shed.popTrace_mem (h : Shed) (sh tick : Nat) : (h.popTrace sh tick).mem = h.mem := by
  unfold Shed.popTrace
  dsimp only
  split_ifs
  · rfl
  · exact Shed.pushTrace_mem _ _
theorem State.Canon.traceDrain {s : State} (h : s.Canon) (die : Nat) : (traceDrain die s).Canon := by
  unfold Machine.traceDrain
  extract_lets ready
  split
  rename_i x s1 e1
  have h1 : s1.Canon := by
    split at e1
    · exact h.draw.of_snd e1
    · cases e1; exact h
  split
  · exact h
  split
  · exact State.Canon.ringTrace (h1.putShed _ (by simp)) ..
  · exact h
theorem State.Canon.shedPowerGate {s : State} (h : s.Canon) (sh : Nat) : (shedPowerGate sh s).Canon := by
  unfold Machine.shedPowerGate
  extract_lets sd idle s1 restarted t
  have h1 : s1.Canon := by
    show (match s.penOfShed sh with
      | some p => s.putShedRec p (s.shedRec p sh true)
      | none => s).Canon
    split
    · exact h.putShedRec ..
    · exact h
  have ht : t.Canon := h1.putShed sh (Shed.settleOff_mem _)
  exact .ite h (ht.freed _)
theorem State.Canon.traceDrainTimeout {s : State} (h : s.Canon) (sh : Nat) : (traceDrainTimeout sh s).Canon := by
  unfold Machine.traceDrainTimeout
  extract_lets sd
  split
  · exact h
  · refine .ite h ?_
    exact State.Canon.putDie (by exact h.putShed sh rfl) _ rfl
theorem State.Canon.lostRecordWrite {s : State} (h : s.Canon) (die : Nat) : (lostRecordWrite die s).Canon := by
  unfold Machine.lostRecordWrite
  extract_lets d
  split
  · exact h
  · exact State.Canon.ringTrace (by exact h.putDie die rfl) ..
theorem State.Canon.shedPowerRestore {s : State} (h : s.Canon) (sh : Nat) : (shedPowerRestore sh s).Canon := by
  unfold Machine.shedPowerRestore
  refine .ite h ?_
  exact State.Canon.foldl (h.setShed sh rfl) _ fun _ _ ht => ht.newCore _ rfl rfl
theorem State.Canon.heatNotify {s : State} (h : s.Canon) (die pen : Nat) : (heatNotify die pen s).Canon := by
  unfold Machine.heatNotify
  extract_lets d r win ok
  split
  · exact h
  · dsimp only
    refine State.Canon.modCore (State.Canon.setHeatReg (h.setDie die ?_) ..) r.core (Core.raiseGate_sp _ _) (Core.raiseGate_lanes _ _)
    dsimp only
    exact writeLE_wf _ _ _ _ (h.die die)
theorem State.Canon.imageAdmission {s : State} (h : s.Canon) (pen : Nat) : (imageAdmission pen s).Canon := by
  unfold Machine.imageAdmission
  split
  · exact h
  · exact State.Canon.setPen (by exact h.congr rfl rfl rfl rfl) ..

/-! ### The other events -/

theorem State.Canon.illegalFor {s : State} (h : s.Canon) (core ctx : Nat) : (s.illegalFor core ctx).Canon := h.ownTrap ..
theorem State.Canon.walkMiss {s : State} (h : s.Canon) (sp : Space) (w : Who) (kind : Nat) (home : Bool) (va : Nat) :
    (s.walkMiss sp w kind home va).2.Canon := by
  have hm := s.walkMiss_wf sp w kind home va h.1
  obtain ⟨m, l, k, n, e⟩ := s.walkMiss_eq sp w kind home va
  rw [e] at hm ⊢
  exact (h.setMem hm).congr rfl rfl rfl rfl
theorem State.Canon.pageWalk {s : State} (h : s.Canon) (core ctx va kind : Nat) : (pageWalk core ctx va kind s).Canon := by
  unfold Machine.pageWalk
  extract_lets sp
  refine .ite h ?_
  split
  · exact (h.walkMiss ..).of_snd ‹_›
  · exact (h.walkMiss ..).of_snd ‹_›
  · exact h
theorem State.Canon.patrolScrub {s : State} (h : s.Canon) (line : Nat) : (patrolScrub line s).Canon := .ite (h.congr rfl rfl rfl rfl) h
theorem State.Canon.regPut {s : State} (h : s.Canon) (master addr n value : Nat) : (s.regPut master addr n value).Canon := .ite h (h.regWrite ..)
theorem State.Canon.hostPut {s : State} (h : s.Canon) (b off value : Nat) : (s.hostPut b off value).Canon := h.regPut ..
theorem State.Canon.failAsk {s : State} (h : s.Canon) (p : Nat × Nat) : (s.failAsk p).Canon := (h.modCtx ..).ownTrap ..
theorem State.Canon.failLeave {s : State} (h : s.Canon) (p : Pkt) : (s.failLeave p).Canon := by
  unfold State.failLeave
  split
  · exact .ite h (h.pendTrap ..)
  · exact h
theorem State.Canon.stranded {s : State} (h : s.Canon) : s.stranded.Canon := by
  unfold State.stranded
  extract_lets s1 s2
  have h1 : s1.Canon := h.net _
  have h2 : s2.Canon := (h1.foldl _ fun _ _ ht => ht.failAsk _).foldl _ fun _ _ ht => ht.failLeave _
  exact h2.foldl _ fun _ _ ht => ht.foldl _ fun _ _ hu => hu.refuseCmd ..
theorem State.Canon.linkOut {s : State} (h : s.Canon) (link : Nat) : (linkOut link s).Canon := by
  unfold Machine.linkOut
  extract_lets l
  exact .ite h (State.Canon.stranded (h.congr rfl rfl rfl rfl))
theorem State.Canon.flushTrace {s : State} (h : s.Canon) (pen sh fuel : Nat) : (s.flushTrace pen sh fuel).Canon := by
  induction fuel generalizing s with
  | zero => exact h
  | succ fuel ih =>
    unfold State.flushTrace
    split
    · exact h
    · exact .ite h (ih (State.Canon.ringTrace (h.putShed sh (Shed.popTrace_mem ..)) ..))
theorem State.Canon.untraced {s : State} (h : s.Canon) (pen sh : Nat) : (s.untraced pen sh).Canon :=
  (h.flushTrace pen sh 513).putShed sh (Shed.settleOff_mem _)
theorem State.Canon.penConfigure {s : State} (h : s.Canon) (pen : Nat) : (penConfigure pen s).Canon := by
  unfold Machine.penConfigure
  split
  · exact h
  · extract_lets taken
    refine .ite h (State.Canon.setPen (State.Canon.congr (h.foldl (s.pen pen).sheds fun t sh ht => ht.untraced pen sh) ?_ ?_ ?_ ?_) ..) <;> rfl
theorem State.Canon.accessTableWrite {s : State} (h : s.Canon) (target master slot value : Nat) : (accessTableWrite target master slot value s).Canon := by
  unfold Machine.accessTableWrite
  extract_lets rest
  exact .ite h (.ite (h.congr rfl rfl rfl rfl) (h.congr rfl rfl rfl rfl))
theorem State.Canon.firmwareVerify {s : State} (h : s.Canon) : (firmwareVerify s).Canon :=
  .ite h (.ite (h.congr rfl rfl rfl rfl) (h.congr rfl rfl rfl rfl))
theorem State.Canon.powerUp {s : State} (h : s.Canon) : (powerUp s).Canon := .ite h (canon_reset.congr rfl rfl rfl rfl)
theorem State.Canon.overTemperature {s : State} (h : s.Canon) (temp : Nat) : (overTemperature temp s).Canon :=
  .ite (h.congr rfl rfl rfl rfl) (.ite (h.congr rfl rfl rfl rfl) h)
theorem State.Canon.hostLinkReset {s : State} (h : s.Canon) (core : Nat) : (hostLinkReset core s).Canon := by
  unfold Machine.hostLinkReset
  extract_lets c
  exact .ite ((h.withdrawAll ..).modCore core rfl) h

end Sys2Proof.Machine

namespace Sys2Proof.Machine

/-! ### Memory instructions -/

theorem State.Canon.aligned {s : State} (h : s.Canon) (kind va n al : Nat) {k : State → State} (hk : (k s).Canon) : (aligned kind va n al s k).Canon :=
  .ite (h.trapAccess ..) hk
theorem State.Canon.mergeCur {s : State} (h : s.Canon) (dst src : Nat) (rel : Option Nat) : (mergeCur dst src rel s).Canon := by
  have hx := h.xlate s.cur.space s.whoAcc kRead true src 64
  unfold Machine.mergeCur
  dsimp only
  refine .ite h.blockCur (.ite hx.blockCur ?_)
  split
  · exact hx.trapAccess ..
  · exact .ite (hx.globalCur ..) ((hx.globalCur ..).heatAll ..)
theorem State.Canon.chainCur {s : State} (h : s.Canon) (d a fin ns os : Nat) : (chainCur d a fin ns os s).Canon := by
  unfold Machine.chainCur
  extract_lets w a0 acc chain
  have h1 : ({ s with nextPkt := s.nextPkt + 1, fchains := s.fchains ++ [chain] } : State).Canon := h.congr rfl rfl rfl rfl
  exact .ite h.blockCur ((h1.onCur _).fall 1)
theorem State.Canon.chainAtomic {s : State} (h : s.Canon) (d a fin ns os : Nat) : (chainAtomic d a fin ns os s).Canon := by
  unfold Machine.chainAtomic
  split
  · exact h.holdCur
  · exact h.fall 1
  · exact h.chainCur ..

/-! ### Writers that wait on a write-blocked page -/

theorem State.Canon.setPark {s : State} (h : s.Canon) (core agent : Nat) (p : Option Park) : (s.setPark core agent p).Canon := by
  unfold State.setPark
  refine .ite (h.modCtx ..) (.ite ?_ (.ite ?_ ?_))
  · split
    · exact h.setCmd ..
    · exact h
  · split
    · exact h.putChain _
    · exact h
  · split
    · exact h.modCore core rfl
    · exact h.modInst ..
    · exact h.arrs _
    · exact h.setPen ..
    · exact h
theorem State.Canon.writerRetry {s : State} (h : s.Canon) (core agent : Nat) : (writerRetry core agent s).Canon := by
  unfold Machine.writerRetry
  split
  · exact h
  · exact .ite h (.ite (h.setPark ..) (h.setPark ..))
theorem State.Canon.ctxTimeout {s : State} (h : s.Canon) (core ctx : Nat) (w : Parked) : (ctxTimeout core ctx w s).Canon := (h.setPark ..).ownTrap ..
theorem State.Canon.areaTimeout {s : State} (h : s.Canon) (core : Nat) (w : Parked) : (areaTimeout core w s).Canon :=
  .ite ((h.dropPre core).ctxTimeout ..) (h.dropPre core)
theorem State.Canon.distTimeout {s : State} (h : s.Canon) (num : Nat) : (distTimeout num s).Canon := by
  unfold Machine.distTimeout
  split
  · exact h
  split
  · exact h.unserve _
  · exact ((h.intr ..).unbindAll _).dropInst _
theorem State.Canon.arrivalTimeout {s : State} (h : s.Canon) (i : Nat) (w : Parked) : (arrivalTimeout i w s).Canon := by
  unfold Machine.arrivalTimeout
  split
  · exact h
  split
  · dsimp only
    split
    · exact (h.arrEnd ..).dropPuts ..
    · exact h.arrEnd ..
    · exact h
  · exact h
theorem State.Canon.writeBlockTimeout {s : State} (h : s.Canon) (core agent : Nat) : (writeBlockTimeout core agent s).Canon := by
  unfold Machine.writeBlockTimeout
  split
  · exact h
  · extract_lets p limit f
    refine .ite h (.ite (h.ctxTimeout ..) (.ite ?_ (.ite ?_ ?_)))
    · split
      · exact State.Canon.settleEff (by exact h) ..
      · exact h
    · split
      · split
        · exact h.chainFault ..
        · exact h
      · exact h
    · split
      · exact h.areaTimeout ..
      · exact h.distTimeout _
      · exact h.arrivalTimeout ..
      · exact (h.setPen ..).intr ..
      · exact h

end Sys2Proof.Machine

namespace Sys2Proof.Machine

/-! ### What the meaning of an instruction or an event leaves -/

section
variable {s : State} (h : s.Canon)
include h

/-! Control transfers, loops and prefixes -/

theorem keeps_execBr (f : FB) : KeepsCanon (execBr f s) := .guard h (h.onCur _)
theorem keeps_execCall (f : FB) : KeepsCanon (execCall f s) := .guard h (h.onCur _)
theorem keeps_execLend (f : FN0) : KeepsCanon (execLend f s) := .guard h ((h.onCur _).fall 1)
theorem keeps_execLoop (f : FLoop) : KeepsCanon (execLoop f s) :=
  .guard h (.ite (h.setCur _) (.ite (h.trapCur _) (.ite ((h.setCur _).fall 1) ((h.setCur _).fall 1))))
theorem keeps_execRep (f : FRep) : KeepsCanon (execRep f s) := .ite (.next (h.trapCur _)) (.next (h.setCur _))
theorem keeps_execXim (f : FXim) : KeepsCanon (execXim f s) := .ite (.next (h.trapCur _)) (.next (h.setCur _))
theorem keeps_execSpt (f : FSpt) : KeepsCanon (execSpt f s) := .guard h (.ite ((h.fall 1).traceCtx ..) (h.fall 1))

/-! Gates, counters, fences, groups -/

theorem keeps_execGwait (f : FG) : KeepsCanon (execGwait f s) := by
  refine .guard h (.ite ((h.modCore s.curCore rfl).fall 1) ?_)
  have ha := h.awaitGate s.curCore f.g.toNat s.curCtx s.tick
  split
  · rename_i e; rw [e] at ha; exact ha.fall 1
  · rename_i e; rw [e] at ha; exact ha.blockCur
theorem keeps_execGraise (f : FG) : KeepsCanon (execGraise f s) := .guard h (.ite ((h.graiseNow ..).fall 1) ((h.onCur _).fall 1))
theorem keeps_execBarmImm (f : FBarmI) : KeepsCanon (execBarmImm f s) := .guard h (h.armCur ..)
theorem keeps_execBarm (f : FBarm) : KeepsCanon (execBarm f s) := .guard h (h.armCur ..)
theorem keeps_execJoin (f : FJ) : KeepsCanon (execJoin f s) := .guard h (h.groupCur _ _ (h.joinCur ..))
theorem keeps_execBwait (f : FBw) : KeepsCanon (execBwait f s) := .guard h (.ite (h.fall 1) h.blockCur)
theorem keeps_execMark (f : FN0) : KeepsCanon (execMark f s) := .guard h (((h.onCur _).settleCtx ..).fall 1)
theorem keeps_execFence (f : FFence) : KeepsCanon (execFence f s) := .guard h (((h.onCur _).settleCtx ..).fall 1)
theorem keeps_execLeave (f : FJ) : KeepsCanon (execLeave f s) :=
  .guard h (h.groupCur _ _ (.ite (h.trapCur _) (.ite (h.trapCur _) (.ite ((h.leaveNow ..).fall 1) ((h.onCur _).fall 1)))))
theorem keeps_execArrive (f : FU) : KeepsCanon (execArrive f s) := by
  refine .guard h (h.groupCur _ _ (.ite (h.giveUp.trapCur _) (.ite ?_ (.ite h.blockCur (((h.putGrp ..).commitCur.onCur _).fall 1)))))
  split
  · exact (h.commitCur.onCur _).fall 1
  · exact h.groupAsk ..
theorem keeps_execWait (f : FAB) : KeepsCanon (execWait f s) := by
  refine .guard h (.ite (h.giveUp.trapCur _) (.ite (h.giveUp.fall 1) (.ite ?_ (.ite (h.fall 1) h.blockCur))))
  split
  · exact .ite (h.fall 1) (h.groupAsk ..)
  · exact h.groupAsk ..

/-! Memory operations -/

theorem keeps_execLaunch (f : FU) : KeepsCanon (execLaunch f s) := .guard h (h.launchCur ..)
theorem keeps_plainLoad (spc : Nat) (f : FM) : KeepsCanon (plainLoad spc f s) := .guard h (h.accessCur ..)
theorem keeps_plainStore (spc : Nat) (f : FM) : KeepsCanon (plainStore spc f s) := .guard h (h.accessCur ..)
theorem keeps_amo (op : Nat) (f : FA) : KeepsCanon (amo op f s) := .guard h (h.aligned _ _ _ _ (h.globalCur ..))
theorem keeps_red (op : Nat) (f : FRed) : KeepsCanon (red op f s) := .guard h (h.aligned _ _ _ _ (h.globalCur ..))
theorem keeps_execLdAcq (f : FMO) : KeepsCanon (execLdAcq f s) := .guard h (h.aligned _ _ _ _ (h.accessCur ..))
theorem keeps_execStRel (f : FMO) : KeepsCanon (execStRel f s) := .guard h (h.aligned _ _ _ _ (h.accessCur ..))
theorem keeps_execAmoCas (f : FA) : KeepsCanon (execAmoCas f s) := .guard h (h.aligned _ _ _ _ (h.globalCur ..))
theorem keeps_execFld (f : FU) : KeepsCanon (execFld f s) := .guard h (h.aligned _ _ _ _ (h.globalCur ..))
theorem keeps_execFldTake (f : FU) : KeepsCanon (execFldTake f s) := .guard h (h.aligned _ _ _ _ (h.globalCur ..))
theorem keeps_execFfill (f : FAB) : KeepsCanon (execFfill f s) := .guard h (h.aligned _ _ _ _ (h.globalCur ..))
theorem keeps_execXsumAdd (f : FXa) : KeepsCanon (execXsumAdd f s) := .guard h (h.aligned _ _ _ _ (h.globalCur ..))
theorem keeps_execXsumRead (f : FXr) : KeepsCanon (execXsumRead f s) := .guard h (h.aligned _ _ _ _ (h.globalCur ..))
theorem keeps_execXsumReadClr (f : FXr) : KeepsCanon (execXsumReadClr f s) := .guard h (h.aligned _ _ _ _ (h.globalCur ..))
theorem keeps_execXsumMerge (f : FXm) : KeepsCanon (execXsumMerge f s) := .guard h (h.aligned _ _ _ _ (h.aligned _ _ _ _ (h.mergeCur ..)))

/-! System registers, traps, stops and areas -/

theorem keeps_execMfsr (f : FMf) : KeepsCanon (execMfsr f s) := by
  unfold execMfsr
  exact .guard h (.ite (h.trapCur _) (.ite (h.draw.setS ..) (h.setS ..)))
theorem keeps_execMtsr (f : FMt) : KeepsCanon (execMtsr f s) := by
  unfold execMtsr
  refine .guard h (.ite (h.trapCur _) (.ite (h.trapCur _) ?_))
  split
  · exact (h.writeSrn ‹_›).fall 1
  · exact h.trapCur _
  · exact h.blockCur
theorem keeps_execSetovf (f : FJ) : KeepsCanon (execSetovf f s) := .guard h (.ite (h.trapCur _) (.ite h.blockCur ((h.onCur _).fall 1)))
theorem keeps_execTrap (f : FTrap) : KeepsCanon (execTrap f s) := .guard h (((h.onCur _).ownTrap ..).onCur _)
theorem keeps_execTret (f : FN0) : KeepsCanon (execTret f s) :=
  .guard h (.ite (h.trapCur _) (((h.onCur _).resumeHeld ..).resumeCmds ..))
theorem keeps_execStop (f : FStop) : KeepsCanon (execStop f s) := by
  refine .guard h ?_
  dsimp only
  split
  · exact (h.onCur _).fall 1
  · exact .ite (h.trapCur _) (.ite h.blockCur ((h.cutAsk ..).onCur _).blockCur)
  · exact h.trapCur _
theorem keeps_execCresume (f : FCr) : KeepsCanon (execCresume f s) :=
  .guard h (.ite (h.trapCur _) (.ite h.blockCur ((((h.modCtx ..).resumeHeld ..).resumeCmds ..).fall 1)))
theorem keeps_execTinvalPg (f : FAB) : KeepsCanon (execTinvalPg f s) := .guard h (h.invalCur _)
theorem keeps_execTinvalSp (f : FB1) : KeepsCanon (execTinvalSp f s) := .guard h (h.invalCur _)
theorem keeps_execTinvalAll (f : FN0) : KeepsCanon (execTinvalAll f s) := .guard h (h.invalCur _)
theorem keeps_execRfinv (f : FAB) : KeepsCanon (execRfinv f s) := .guard h ((h.rfDrop ..).fall 1)
theorem keeps_execRfclr (f : FN0) : KeepsCanon (execRfclr f s) := .guard h ((h.rfDrop ..).fall 1)
theorem keeps_execCpre (f : FU) : KeepsCanon (execCpre f s) :=
  .guard h (.ite (h.trapCur _) (.ite (h.trapCur _) (.ite (h.trapAccess ..) (h.cpreCur ..))))
theorem keeps_execCres (f : FJ) : KeepsCanon (execCres f s) := by
  refine .guard h (.ite (h.trapCur _) (.ite (h.trapCur _) (.ite (h.trapAccess ..) (.ite h.blockCur ?_))))
  have hl := h.loadArea s.cur.space (s.whoCtx s.curCore 3 s.cur.group.toNat) (s.cur.rd f.a.toNat).toNat
  split
  · rename_i e; rw [e] at hl; exact State.Canon.trapAccess hl ..
  · rename_i e; rw [e] at hl; exact State.Canon.trapCur hl _
  · rename_i e; rw [e] at hl; exact (h.keepWalks hl).blockCur
  · rename_i a s1 e
    rw [e] at hl
    obtain ⟨ha, h1⟩ := hl
    have hr := h1.restore s1.curCore a ha
    refine .ite (h1.trapCur _) (.ite (h.keepWalks h1).blockCur ?_)
    split
    · exact (State.Canon.of_snd hr ‹_›).fall 1
    · exact (h.keepWalks (hr.of_snd ‹_›)).blockCur

/-! Appended commands -/

theorem keeps_appendEV (op fn : Nat) (f : FEV) (t : Tail) (scalar : Bool) : KeepsCanon (appendEV op fn f t scalar s) := .guard h (h.appendCur ..)
theorem keeps_appendES (op fn : Nat) (ka kb kc : Slot) (f : FES) (t : Tail) : KeepsCanon (appendES op fn ka kb kc f t s) :=
  .guard h (h.appendCur ..)
theorem keeps_appendET (op fn : Nat) (f : FET) (t : Tail) : KeepsCanon (appendET op fn f t s) := by
  refine .guard h ?_
  dsimp only
  exact .ite (h.trapCur _) (h.appendCur ..)
theorem keeps_appendColl (fn : Nat) (f : FES) (t : Tail) : KeepsCanon (appendColl fn f t s) := by
  unfold appendColl
  refine .guard h ?_
  dsimp only
  exact .ite (h.trapCur _) (h.appendCur ..)

/-! Events -/

theorem keeps_execTrapEntry (core ctx : Nat) : KeepsCanon (execTrapEntry core ctx s) := .next (h.getD fun _ => h.takePending)
theorem keeps_execGenprofWrite (core ctx value : Nat) : KeepsCanon (execGenprofWrite core ctx value s) := by
  refine .next ?_
  split
  · exact h.genprofWrite ‹_›
  · exact h.illegalFor ..
  · exact h
theorem keeps_execRingRegisterWrite (core eng value : Nat) : KeepsCanon (execRingRegisterWrite core eng value s) := by
  refine .next ?_
  split
  · exact h.setEng ..
  · exact h.illegalFor ..
theorem keeps_penPut (pen off value : Nat) : KeepsCanon (penPut pen off value s) := .withPower (.next (.ite (h.hostPut ..) h))
theorem keeps_execCutreqWrite (pen value : Nat) : KeepsCanon (execCutreqWrite pen value s) :=
  .withPower (.next (.ite ((h.hostPut ..).hostPut ..) h))
theorem keeps_execC3startWrite (core value : Nat) : KeepsCanon (execC3startWrite core value s) := .withPower (.next (.ite (h.hostPut ..) h))
theorem keeps_execBcnctlWrite (value : Nat) : KeepsCanon (execBcnctlWrite value s) := .withPower (.next (h.hostPut ..))
theorem keeps_execHostProcessorWrite (addr len value : Nat) : KeepsCanon (execHostProcessorWrite addr len value s) :=
  .withPower (.ite (.next (h.physWrite ..)) (.next h))
theorem keeps_blockWriteBy (master addr n value : Nat) : KeepsCanon (blockWriteBy master addr n value s) :=
  .withPower (.ite .refused (.next (h.regPut ..)))
theorem keeps_execHostWrite (addr len value : Nat) : KeepsCanon (execHostWrite addr len value s) :=
  .withPower (.ite .refused (.ite (.next (h.regPut ..)) (.ite (.next h) (.ite (.next (h.patrolScrub _)) (.next (h.physWrite ..))))))
theorem State.Canon.hostReadings (l : List (Nat × Nat)) : ({ s with hostReads := l } : State).Canon := h.congr rfl rfl rfl rfl
theorem State.Canon.linkStates (l : SMap Link) : ({ s with links := l } : State).Canon := h.congr rfl rfl rfl rfl
theorem keeps_execFlitCrcRetry (link : Nat) : KeepsCanon (execFlitCrcRetry link s) := .withPower (.ite (.next (h.linkStates _)) (.next h))
theorem keeps_execLinkRetrain (link : Nat) : KeepsCanon (execLinkRetrain link s) := .withPower (.ite (.next (h.linkStates _)) (.next h))
theorem keeps_execImageAdmission (pen : Nat) : KeepsCanon (execImageAdmission pen s) := .withPower (.next (.ite (h.imageAdmission _) h))
theorem keeps_execFabidWrite (value : Nat) : KeepsCanon (execFabidWrite value s) := .powered (h.regPut ..)
theorem keeps_execHostRead (addr len : Nat) : KeepsCanon (execHostRead addr len s) :=
  .withPower (.ite .refused (.ite (.ite (.next (h.hostReadings _)) (.next h)) (.ite (.next h) (.next (h.hostReadings _)))))

end

/-- Every instruction and every event keeps the canonical forms. -/
theorem exec_keepsCanon (i : Instr) {s : State} (h : s.Canon) : KeepsCanon (exec i s) := by
  cases i with
  | add _ | sub _ | mul _ | mulh _ | mulhu _ | div _ | divu _ | rem _ | remu _ | and _ | or _ | xor _ | andn _ | shl _ | shr _ | sra _ | rotr _
    | min _ | max _ | minu _ | maxu _ | addImm _ | mulImm _ | andImm _ | orImm _ | xorImm _ | shlImm _ | shrImm _ | sraImm _ | rotrImm _
    | movK _ | wpos _ | wnum _ | extract _ | insert _ | gread _ | bread _ | wreadSent _ | wreadSeen _ | wreadLand _ | popc _ | clz _ | ctz _
    | brev _ | bswap _ => exact .guard h (by exact h.setS ..)
  | adds _ | subs _ | addsu _ | subsu _ => exact .guard h (by exact h.setSat ..)
  | cmp _ | cmpImm _ | pmov _ | pnot _ | pand _ | por _ | pxor _ | pandn _ | pnor _ | pnand _ => exact .guard h (by exact h.setP ..)
  | br _ => exact keeps_execBr h ..
  | call _ => exact keeps_execCall h ..
  | jmp _ | callr _ => exact .guard h (by exact h.indirect ..)
  | loop _ => exact keeps_execLoop h ..
  | lend _ => exact keeps_execLend h ..
  | iter _ => exact .guard h (by exact h.iterate _)
  | rep _ => exact keeps_execRep h ..
  | xim _ => exact keeps_execXim h ..
  | spt _ => exact keeps_execSpt h ..
  | gwait _ => exact keeps_execGwait h ..
  | graise _ => exact keeps_execGraise h ..
  | barmImm _ => exact keeps_execBarmImm h ..
  | barm _ => exact keeps_execBarm h ..
  | bwait _ => exact keeps_execBwait h ..
  | join _ => exact keeps_execJoin h ..
  | leave _ => exact keeps_execLeave h ..
  | arrive _ => exact keeps_execArrive h ..
  | wait _ => exact keeps_execWait h ..
  | push _ | pushTry _ => exact .guard h (by exact h.pushCur ..)
  | pop _ | popTry _ => exact .guard h (by exact h.popCur ..)
  | launch _ => exact keeps_execLaunch h ..
  | chainLd _ => exact .guard h (by exact h.chainCur ..)
  | chainAdd _ | chainSwap _ => exact .guard h (by exact h.chainAtomic ..)
  | wwaitSeen _ | wwaitLand _ => exact .guard h (by exact h.wwaitCur ..)
  | ldGlb _ | ldSp _ | ldSh _ | ldChip _ => exact keeps_plainLoad h ..
  | stGlb _ | stSp _ | stSh _ | stChip _ => exact keeps_plainStore h ..
  | ldAcq _ => exact keeps_execLdAcq h ..
  | stRel _ => exact keeps_execStRel h ..
  | fence _ => exact keeps_execFence h ..
  | mark _ => exact keeps_execMark h ..
  | amoAdd _ | amoAnd _ | amoOr _ | amoXor _ | amoMin _ | amoMax _ | amoMinu _ | amoMaxu _ | amoSwap _ => exact keeps_amo h ..
  | amoCas _ => exact keeps_execAmoCas h ..
  | redAdd _ | redAnd _ | redOr _ | redXor _ | redMin _ | redMax _ | redMinu _ | redMaxu _ => exact keeps_red h ..
  | fld _ => exact keeps_execFld h ..
  | fldTake _ => exact keeps_execFldTake h ..
  | ffill _ => exact keeps_execFfill h ..
  | xsumAdd _ => exact keeps_execXsumAdd h ..
  | xsumMerge _ => exact keeps_execXsumMerge h ..
  | xsumRead _ => exact keeps_execXsumRead h ..
  | xsumReadClr _ => exact keeps_execXsumReadClr h ..
  | mfsr _ => exact keeps_execMfsr h ..
  | mtsr _ => exact keeps_execMtsr h ..
  | setovf _ => exact keeps_execSetovf h ..
  | trap _ => exact keeps_execTrap h ..
  | tret _ => exact keeps_execTret h ..
  | stop _ => exact keeps_execStop h ..
  | tinvalPg _ => exact keeps_execTinvalPg h ..
  | tinvalSp _ => exact keeps_execTinvalSp h ..
  | tinvalAll _ => exact keeps_execTinvalAll h ..
  | rfinv _ => exact keeps_execRfinv h ..
  | rfclr _ => exact keeps_execRfclr h ..
  | cpre _ => exact keeps_execCpre h ..
  | cres _ => exact keeps_execCres h ..
  | cresume _ => exact keeps_execCresume h ..
  | vld _ _ | vst _ _ | vldStr _ _ | vstStr _ _ | vldl _ _ | vstl _ _ | vldlX _ _ | vstlX _ _ | vgather _ _ | vscatter _ _ | vamoAdd _ _ _
    | vamoMin _ _ _ | vamoMax _ _ _ | vamoAnd _ _ _ | vamoOr _ _ _ | vamoXor _ _ _ | vamoSwap _ _ _ | vamoXsum _ _ _ | vaddS _ _ | vsubS _ _
    | vaddsS _ _ | vsubsS _ _ | vmulS _ _ | vmulhS _ _ | vminS _ _ | vmaxS _ _ | vandS _ _ | vorS _ _ | vxorS _ _ | vandnS _ _ | vavgS _ _
    | vabsdS _ _ | vfaddS _ _ | vfsubS _ _ | vfmulS _ _ | vfdivS _ _ | vfminS _ _ | vfmaxS _ _ | mma _ _ _ | mmas _ _ _ | tld _ _ | tst _ _
    | tzero _ _ | spub _ _ | ssub _ _ | sunsub _ _ | copy _ _ | copySt _ _ | mcast _ _ | fill _ _ | cvcopy _ _ | wtgt _ _ | wini _ _
    | wclose _ _ | put _ _ | get _ _ | ramoAdd _ _ | ramoAnd _ _ | ramoOr _ _ | ramoXor _ _ | ramoMin _ _ | ramoMax _ _ | ramoMinu _ _
    | ramoMaxu _ _ | ramoSwap _ _ | fchain _ _ => exact keeps_appendES h ..
  | vadd _ _ | vsub _ _ | vadds _ _ | vsubs _ _ | vmul _ _ | vmulh _ _ | vmin _ _ | vmax _ _ | vand _ _ | vor _ _ | vxor _ _ | vandn _ _
    | vabs _ _ | vneg _ _ | vavg _ _ | vabsd _ _ | vfadd _ _ | vfsub _ _ | vfmul _ _ | vfdiv _ _ | vfmin _ _ | vfmax _ _ | vfabs _ _
    | vfneg _ _ | vfma _ _ | vfms _ _ | vfnma _ _ | vfnms _ _ | vmac _ _ | vmacs _ _ | vcmpEq _ _ | vcmpNe _ _ | vcmpLt _ _ | vcmpLe _ _
    | vcmpGt _ _ | vcmpGe _ _ | vcmpUn _ _ | vsel _ _ | vshl _ _ | vshr _ _ | vsra _ _ | vrotr _ _ | vshlImm _ _ | vshrImm _ _ | vsraImm _ _
    | vrotrImm _ _ | vcvt _ _ | vcvtWrap _ _ | vwiden _ _ | vnarrow _ _ | vnarrowWrap _ _ | vrsum _ _ | vrmin _ _ | vrmax _ _ | vrand _ _
    | vror _ _ | vrxor _ _ | vscanSum _ _ | vscanMin _ _ | vscanMax _ _ | vperm _ _ | vzipLo _ _ | vzipHi _ _ | vunzipEv _ _ | vunzipOd _ _
    | vrev _ _ | vbcast _ _ | vexp2 _ _ | vlog2 _ _ | vrcp _ _ | vrsqrt _ _ | vsqrt _ _ | vsinpi _ _ | vcospi _ _ | vtanh _ _ | vsigm _ _
    | vexp _ _ | vlog _ _ => exact keeps_appendEV h ..
  | vtrd _ _ | vtwr _ _ | vtacc _ _ => exact keeps_appendET h ..
  | collSum _ _ _ | collMin _ _ _ | collMax _ _ _ => exact keeps_appendColl h ..
  | queueRefill _ _ => exact .next (h.queueRefill ..)
  | queueWithdrawal _ _ => exact .next (h.queueWithdrawal ..)
  | chainStep _ => exact .next (h.chainStepEv _)
  | engineCommandStart _ _ => exact .next (h.engineStart ..)
  | engineCommandComplete _ _ => exact .next (h.engineComplete ..)
  | multicastDestComplete _ _ => exact .next (h.multicastDest ..)
  | resultArrival _ _ _ => exact .next (h.resultArrival ..)
  | pageWalk _ _ _ _ => exact .next (h.pageWalk ..)
  | heatNotificationAppend _ _ => exact .next (h.heatNotify ..)
  | writerRetry _ _ => exact .next (h.writerRetry ..)
  | writeBlockTimeout _ _ => exact .next (h.writeBlockTimeout ..)
  | homeSliceOperation _ _ _ => exact .next (h.homeSlice ..)
  | futureReissue _ _ _ => exact .next (h.futureReissue ..)
  | futureWithdrawal _ _ _ => exact .next (h.futureWithdrawal ..)
  | patrolScrub _ => exact .next (h.patrolScrub ..)
  | stepRetire _ => exact .next (h.stepRetire ..)
  | stopArrival _ => exact .next (h.stopArrival ..)
  | cutDecision _ => exact .next (h.cutDecision ..)
  | cutHalt _ => exact .next (h.cutHalt ..)
  | cutreqWrite _ _ => exact keeps_execCutreqWrite h ..
  | trapEntry _ _ => exact keeps_execTrapEntry h ..
  | genprofWrite _ _ _ => exact keeps_execGenprofWrite h ..
  | rewindWrite _ _ => exact .next (h.rewindWrite ..)
  | ringRegisterWrite _ _ _ => exact keeps_execRingRegisterWrite h ..
  | hqctlWrite _ _ _ => exact .next (h.hqWrite ..)
  | heatclrWrite _ _ _ => exact .next (h.heatClear ..)
  | launchAccept _ => exact .next (h.launchAccept ..)
  | stepSelect _ => exact .next (h.stepSelect ..)
  | coreBind _ => exact .next (h.coreBind ..)
  | instanceComplete _ _ => exact .next (h.instanceComplete ..)
  | priorityAgeing _ _ => exact .next (h.priorityAgeing ..)
  | priosetWrite _ _ | penctlEnable _ _ | penctlResume _ _ | penctlAbandon _ _ | brkctlGo _ _ | brkctlEnable _ _ => exact keeps_penPut h ..
  | priorityPreempt _ => exact .next (h.priorityPreempt ..)
  | preemptLanding _ _ => exact .next (h.preemptLanding ..)
  | distributorRestore _ _ => exact .next (h.distributorRestore ..)
  | lqctlWrite _ _ _ => exact .ite (keeps_penPut h ..) (.withPower (.next h))
  | c3startWrite _ _ => exact keeps_execC3startWrite h ..
  | bcnctlWrite _ => exact keeps_execBcnctlWrite h ..
  | beacon => exact .next (h.beacon ..)
  | traceDrain _ => exact .next (h.traceDrain ..)
  | shedPowerGate _ => exact .next (h.shedPowerGate ..)
  | traceDrainTimeout _ => exact .next (h.traceDrainTimeout ..)
  | lostRecordWrite _ => exact .next (h.lostRecordWrite ..)
  | regWriteLowHalf _ _ _ | regWriteHighHalf _ _ _ | registerWrite _ _ _ => exact keeps_blockWriteBy h ..
  | hostWrite _ _ _ => exact keeps_execHostWrite h ..
  | hostRead _ _ => exact keeps_execHostRead h ..
  | hostProcessorWrite _ _ _ => exact keeps_execHostProcessorWrite h ..
  | putArrival _ => exact .next (h.putArrival ..)
  | putAckArrival _ => exact .next (h.putAckArrival ..)
  | getRequestArrival _ => exact .next (h.getRequestArrival ..)
  | getReplyArrival _ => exact .next (h.getReplyArrival ..)
  | remoteAtomicArrival _ => exact .next (h.remoteAtomicArrival ..)
  | fabricRefusal _ => exact .next (h.fabricRefusal ..)
  | spanningGroupMessage _ => exact .next (h.spanningGroupMessage ..)
  | flitCrcRetry _ => exact keeps_execFlitCrcRetry h ..
  | linkOutOfService _ => exact .powered (by exact h.linkOut _)
  | linkRetrain _ => exact keeps_execLinkRetrain h ..
  | penConfigure _ => exact .powered (by exact h.penConfigure ..)
  | accessTableWrite _ _ _ _ => exact .powered (by exact h.accessTableWrite ..)
  | fabidWrite _ => exact keeps_execFabidWrite h ..
  | firmwareVerify => exact .powered (by exact h.firmwareVerify ..)
  | powerUp => exact .next (h.powerUp ..)
  | overTemperature _ => exact .powered (by exact h.overTemperature ..)
  | imageAdmission _ => exact keeps_execImageAdmission h ..
  | hostLinkReset _ => exact .powered (by exact h.hostLinkReset ..)
  | shedPowerRestore _ => exact .next (h.shedPowerRestore ..)
  | spanningGroupCompletion _ => exact .next (h.spanningGroupCompletion ..)

end Sys2Proof.Machine

namespace Sys2Proof.Machine

/-! ### Turns and steps -/

theorem State.Canon.fetchCur {s : State} (h : s.Canon) : (fetchCur s).state.Canon := by
  unfold Machine.fetchCur
  extract_lets again
  have h1 := h.fetchWord s.curCore s.curCtx s.cur.pc.toNat again
  split
  · exact h1.of_snd ‹_›
  · exact h1.of_snd ‹_›
  · rename_i w s1 e
    have hs : s1.Canon := h1.of_snd e
    have h2 := hs.fetchWord s1.curCore s1.curCtx (s1.cur.pc + 4).toNat again
    split
    · exact hs
    split
    · exact h2.of_snd ‹_›
    · rename_i s2 e2
      have h3 : s2.Canon := h2.of_snd e2
      exact ⟨h3.1, h3.2.1, h3.2.2.1, h.2.2.2⟩
    · exact h2.of_snd ‹_›
theorem State.Canon.focus {s : State} (h : s.Canon) (core ctx : Nat) : (s.focus core ctx).Canon := h.congr rfl rfl rfl rfl
theorem State.Canon.tickOn {s : State} (h : s.Canon) : (tickOn s).Canon := State.Canon.beacon (h.cutServe.congr rfl rfl rfl rfl)
theorem State.Canon.slowWalk {s : State} (h : s.Canon) : (slowWalk s).Canon := h.congr rfl rfl rfl rfl
theorem State.Canon.walkStep {s : State} (h : s.Canon) (n : Nat) : (walkStep n s).Canon := h.walkRead n
theorem State.Canon.inject {s : State} (h : s.Canon) (p : Pkt) : (inject p s).Canon := .ite (h.net _) h
theorem State.Canon.softError {s : State} (h : s.Canon) (line : Nat) (c : Bool) : (softError line c s).Canon := by
  unfold Machine.softError
  refine .ite (.ite h (h.congr rfl rfl rfl rfl)) ?_
  split
  · exact h.putDie _ rfl
  · exact h.putDie _ rfl
  · exact h
theorem State.Canon.corrected {s : State} (h : s.Canon) (die word : Nat) : (corrected die word s).Canon := .ite (h.putDie die rfl) h
theorem State.Canon.machineCheck {s : State} (h : s.Canon) (core ctx : Nat) : (machineCheck core ctx s).Canon := .ite (h.pendTrap ..) h
theorem State.Canon.badEntry {s : State} (h : s.Canon) (what a n : Nat) : (badEntry what a n s).Canon :=
  h.foldl _ fun _ _ ht => ht.machineCheck ..
theorem State.Canon.before {s t : State} (h : s.Canon) {core ctx : Nat} (e : s.before core ctx = some t) : t.Canon := by
  unfold State.before at e
  split at e
  · cases e; exact (h.takePending ‹_›).modCtx ..
  · exact h.landed? e

section
variable {s : State} (h : s.Canon)
include h

theorem runWords_keepsCanon (w t : Nat) : KeepsCanon (runWords w t s) := by
  unfold runWords
  split
  · exact .next (h.trapCur _)
  · exact exec_keepsCanon _ h
theorem issueCur_keepsCanon : KeepsCanon (issueCur s) := by
  unfold issueCur
  split
  · exact exec_keepsCanon _ h
  split
  · exact .next (State.Canon.trapFetch (h.fetchCur.along ‹_› (by rfl)) _)
  · exact .next (h.fetchCur.along ‹_› (by rfl))
  · exact runWords_keepsCanon (h.fetchCur.along ‹_› (by rfl)) ..
theorem issue_keepsCanon (core ctx : Nat) : KeepsCanon (issue core ctx s) := by
  unfold issue
  refine .ite (.next h) ?_
  split
  · exact .next ((h.focus ..).before ‹_›)
  · exact .ite (issueCur_keepsCanon (h.focus ..)) (.next h)
theorem turnOn_keepsCanon (t : Turn) : KeepsCanon (turnOn t s) := by
  cases t with
  | issue core ctx => exact issue_keepsCanon h core ctx
  | perform core ctx seq => exact .next (h.perform ..)
  | part core eng n => exact .next (h.enginePart ..)
  | unit pkt n => exact .next (h.arrivalUnit ..)
  | serve num => exact .next (h.serveDword _)
  | event i => exact exec_keepsCanon i h
  | slowWalk => exact .next h.slowWalk
  | walkStep n => exact .next (h.walkStep _)
  | tick => exact .next h.tickOn
  | inject p => exact .next (h.inject _)
  | softError line c => exact .next (h.softError ..)
  | machineCheck core ctx => exact .next (h.machineCheck ..)
  | corrected die word => exact .next (h.corrected ..)
  | badEntry what a n => exact .next (h.badEntry ..)
theorem turn_keepsCanon (t : Turn) : KeepsCanon (turn t s) := by
  unfold turn
  refine .ite (turnOn_keepsCanon h t) ?_
  split
  · exact exec_keepsCanon _ h
  · exact .next h
theorem step_keepsCanon : KeepsCanon (step s) := by
  unfold step
  split
  · exact turn_keepsCanon (by exact h.congr rfl rfl rfl rfl) _
  · have h1 : ({ s with turns := s.turns + 1 } : State).Canon := h.congr rfl rfl rfl rfl
    exact .ite (turn_keepsCanon h1 _) (.next h1)

end

/-- Settles O58: no function of the model makes a memory leave the canonical form, so that no turn of a step does. -/
theorem memoriesStayCanonical : Obligations.MemoriesStayCanonical :=
  fun _ t hm hl e => (step_keepsCanon ⟨hm, hl⟩).of_next t e

end Sys2Proof.Machine

/-!
SUPPORT. O30: what an invalidation discards (R34, R339, R340), and what it leaves of the contexts.
-/
namespace Sys2Proof.Machine
open Sys2Proof.Claims

/-- A numbered map read after a map that keeps every number and the value of an unlisted place. -/
theorem mget_map_default {α : Type} {g : Nat × α → Nat × α} {d : α} (hg : ∀ p, (g p).1 = p.1) (hd : ∀ i, (g (i, d)).2 = d) (m : SMap α)
    (i : Nat) : mget d (m.map g) i = (g (i, mget d m i)).2 := by
  induction m with
  | nil => exact (hd i).symm
  | cons p m ih =>
    obtain ⟨k, v⟩ := p
    have hk : (g (k, v)).1 = k := hg _
    simp only [List.map_cons, mget, hk]
    split_ifs with e
    · subst e; rfl
    · exact ih

/-- The contexts of a core after its parked writers woke. -/
theorem State.ctxs_wakeParked (s : State) (pen : Nat) (i : Inval) (j : Nat) :
    ((s.wakeParked pen i).core j).ctxs = (s.core j).ctxs ∨
      ((s.wakeParked pen i).core j).ctxs = (s.core j).ctxs.map (fun x => (x.1, { x.2 with
        wblk := x.2.wblk.map (fun p => if p.parked && i.covers s x.2.space p then { p with parked := false, woken := true } else p) })) := by
  unfold State.wakeParked State.core
  rw [mget_map_default (fun p => by dsimp only; split <;> rfl) (fun k => by dsimp only; split <;> rfl)]
  dsimp only
  split
  · exact .inl rfl
  · exact .inr rfl

/-- Waking the parked writers changes no context but in the write that it waits with. -/
theorem State.ctx_wakeParked (s : State) (pen : Nat) (i : Inval) (j y : Nat) :
    ∃ w, (s.wakeParked pen i).ctx j y = { s.ctx j y with wblk := w } := by
  rcases s.ctxs_wakeParked pen i j with e | e
  · exact ⟨(s.ctx j y).wblk, congrArg (fun m => mget ({} : Ctx) m y) e⟩
  · exact ⟨_, (congrArg (fun m => mget ({} : Ctx) m y) e).trans
      (mget_map_default (d := ({} : Ctx)) (g := fun x => (x.1, { x.2 with
        wblk := x.2.wblk.map (fun p => if p.parked && i.covers s x.2.space p then { p with parked := false, woken := true } else p) }))
        (fun _ => rfl) (fun _ => rfl) _ y)⟩

/-- An invalidation that an earlier access of its context holds back blocks the context. -/
theorem invalCur_blocked {i : Inval} {s : State} (h : s.cur.drained = false) : invalCur i s = blockCur s := by simp [invalCur, h]

/-- An invalidation that nothing holds back. -/
theorem invalCur_done {i : Inval} {s : State} {kept : Tlb → Bool} (hk : ∀ t, kept t = !i.hits ((s.penOf s.curCore).getD 16) t)
    (h : s.cur.drained = true) (hd : s.invalDone ((s.penOf s.curCore).getD 16) (s.tlb.filter (fun t => !kept t)) = true) :
    invalCur i s = fall 1 (({ s with tlb := s.tlb.filter kept, walks := dropWalks ((s.penOf s.curCore).getD 16) s.walks } : State).wakeParked
      ((s.penOf s.curCore).getD 16) i) := by
  obtain rfl : kept = fun t => !i.hits ((s.penOf s.curCore).getD 16) t := funext hk
  simp only [Bool.not_not] at hd
  simp [invalCur, h, hd]

/-- An invalidation discards exactly the translations that it hits, and the results of the pen's walks; its walks under way begin again. -/
theorem invalCur_discards {i : Inval} {s : State} {kept : Tlb → Bool} (hk : ∀ t, kept t = !i.hits ((s.penOf s.curCore).getD 16) t)
    (h : s.cur.drained = true) (hd : s.invalDone ((s.penOf s.curCore).getD 16) (s.tlb.filter (fun t => !kept t)) = true) :
    let pen := (s.penOf s.curCore).getD 16
    let t := invalCur i s
    t.tlb = s.tlb.filter kept ∧
      t.walks = (s.walks.filter (fun k => !(k.pen == pen && k.done))).map
        (fun k => if k.pen = pen then { k with level := 4, table := k.sp.root k.va, leaf := none } else k) ∧
      t.cur = s.cur.fall 1 ∧ (∀ a, byteAt t.mem a = byteAt s.mem a) ∧
      ∀ j y, ¬(j = s.curCore ∧ y = s.curCtx) → { t.ctx j y with wblk := none } = { s.ctx j y with wblk := none } := by
  intro pen t
  have ht := invalCur_done hk h hd
  change t = _ at ht
  clear_value t
  obtain rfl := ht
  refine ⟨rfl, rfl, ?_, fun _ => rfl, fun j y hj => ?_⟩
  · obtain ⟨w, hw⟩ := State.ctx_wakeParked ({ s with tlb := s.tlb.filter kept, walks := dropWalks pen s.walks } : State) pen i s.curCore s.curCtx
    rw [fall, State.cur_setCur]
    exact (congrArg (Ctx.fall · 1) hw).trans rfl
  · obtain ⟨w, hw⟩ := State.ctx_wakeParked ({ s with tlb := s.tlb.filter kept, walks := dropWalks pen s.walks } : State) pen i j y
    rw [fall, State.setCur, State.ctx_setCtx, if_neg (by exact hj)]
    exact congrArg (fun c : Ctx => { c with wblk := none }) hw

/-- An invalidation held back blocks its context and changes nothing else. -/
theorem invalCur_held {i : Inval} {s : State} (h : s.cur.drained = false) :
    OnlyCur s (invalCur i s) ∧ (invalCur i s).cur = { s.cur with st := .blocked } := by
  rw [invalCur_blocked h]
  exact ⟨onlyCur_setCur s _, State.cur_setCur s _⟩

/-- Reflection entries that a test picks go from the pen of the core. -/
theorem State.refl_rfDrop {s : State} {core pn : Nat} (h : s.penOf core = some pn) (hit : List (Nat × Nat) → Bool) :
    ((s.rfDrop core hit).pen pn).refl = (s.pen pn).refl.filter (fun e => !hit (e.ins ++ e.watch)) := by
  rw [State.rfDrop, h]
  exact congrArg Pen.refl ((s.pen_setPen pn pn _).trans (if_pos rfl))

/-- Dropping reflection entries changes no core, and no byte of memory. -/
theorem State.rfDrop_cores (s : State) (core : Nat) (hit : List (Nat × Nat) → Bool) :
    (s.rfDrop core hit).cores = s.cores ∧ (s.rfDrop core hit).mem = s.mem ∧ (s.rfDrop core hit).curCore = s.curCore ∧
      (s.rfDrop core hit).curCtx = s.curCtx := by
  unfold State.rfDrop
  split
  · exact ⟨rfl, rfl, rfl, rfl⟩
  · exact ⟨rfl, rfl, rfl, rfl⟩

/-- What falling through after a state that has the same cores leaves. -/
theorem fall_frame {s u : State} (w : Nat) (hc : u.cores = s.cores) (hm : u.mem = s.mem) (hi : u.curCore = s.curCore) (hx : u.curCtx = s.curCtx) :
    (fall w u).cur = s.cur.fall w ∧ OtherCtxs s (fall w u) ∧ ∀ a, byteAt (fall w u).mem a = byteAt s.mem a := by
  have hctx : ∀ j y, u.ctx j y = s.ctx j y := fun j y => by rw [State.ctx, State.core, hc]; rfl
  refine ⟨?_, fun j y hj => ?_, fun a => by rw [← hm]; rfl⟩
  · rw [fall, State.cur_setCur, State.cur, hi, hx, hctx]; rfl
  · rw [fall, State.setCur, State.ctx_setCtx, hi, hx, if_neg hj, hctx]

/-- `rfinv` and `rfclr`, issued: the entries that the test picks go, and nothing else changes but the context. -/
theorem fall_rfDrop {s : State} {pn : Nat} (h : s.penOf s.curCore = some pn) (hit : List (Nat × Nat) → Bool) :
    let t := fall 1 (s.rfDrop s.curCore hit)
    t.cur = s.cur.fall 1 ∧ OtherCtxs s t ∧ (∀ x, byteAt t.mem x = byteAt s.mem x) ∧
      (t.pen pn).refl = (s.pen pn).refl.filter (fun e => !hit (e.ins ++ e.watch)) := by
  obtain ⟨hc, hm, hi, hx⟩ := s.rfDrop_cores s.curCore hit
  obtain ⟨hcur, hoth, hmem⟩ := fall_frame 1 hc hm hi hx
  exact ⟨hcur, hoth, hmem, State.refl_rfDrop h hit⟩

/-- The entries that a range does not meet. -/
theorem not_meets_iff {a n : Nat} {rs : List (Nat × Nat)} :
    (!(n != 0 && rs.any (fun r => overlaps a n r.1 r.2))) = true ↔ ∀ r ∈ rs, n = 0 ∨ a + n ≤ r.1 ∨ r.1 + r.2 ≤ a := by
  simp only [overlaps, Bool.not_eq_true', Bool.and_eq_false_iff, bne_eq_false_iff_eq, List.any_eq_false, decide_eq_true_eq]
  constructor
  · rintro (h | h) r hr
    · exact .inl h
    · have := h r hr; omega
  · intro h
    by_cases hn : n = 0
    · exact .inl hn
    · exact .inr fun r hr => by have := h r hr; omega

/-- `tinval.pg`, issued. -/
theorem exec_tinvalPg {f : FAB} {s : State}
    (h : Ready { p := f.p.toNat, sys := true, src := [(f.a.toNat, f.fa == 1), (f.b.toNat, f.fb == 1)] } s.cur) :
    exec (.tinvalPg f) s = .next (invalCur (.page (s.cur.rd f.a.toNat).toNat ((s.cur.rd f.b.toNat).setWidth 16)) s) :=
  guard_ready (fun s => invalCur (.page (s.cur.rd f.a.toNat).toNat ((s.cur.rd f.b.toNat).setWidth 16)) s) h

/-- `tinval.sp`, issued. -/
theorem exec_tinvalSp {f : FB1} {s : State} (h : Ready { p := f.p.toNat, sys := true, src := [(f.b.toNat, f.fb == 1)] } s.cur) :
    exec (.tinvalSp f) s = .next (invalCur (.space ((s.cur.rd f.b.toNat).setWidth 16)) s) :=
  guard_ready (fun s => invalCur (.space ((s.cur.rd f.b.toNat).setWidth 16)) s) h

/-- `tinval.all`, issued. -/
theorem exec_tinvalAll {f : FN0} {s : State} (h : Ready { p := f.p.toNat, sys := true } s.cur) :
    exec (.tinvalAll f) s = .next (invalCur .all s) := guard_ready (invalCur .all) h

/-- `rfinv`, issued. -/
theorem exec_rfinv {f : FAB} {s : State} (h : Ready { p := f.p.toNat, src := [(f.a.toNat, f.fa == 1), (f.b.toNat, f.fb == 1)] } s.cur) :
    exec (.rfinv f) s = .next (fall 1 (s.rfDrop s.curCore (fun rs => (s.cur.rd f.b.toNat).toNat != 0 &&
      rs.any (fun r => overlaps (s.cur.rd f.a.toNat).toNat (s.cur.rd f.b.toNat).toNat r.1 r.2)))) :=
  guard_ready (fun s => fall 1 (s.rfDrop s.curCore (fun rs => (s.cur.rd f.b.toNat).toNat != 0 &&
      rs.any (fun r => overlaps (s.cur.rd f.a.toNat).toNat (s.cur.rd f.b.toNat).toNat r.1 r.2)))) h

/-- `rfclr`, issued. -/
theorem exec_rfclr {f : FN0} {s : State} (h : Ready { p := f.p.toNat } s.cur) :
    exec (.rfclr f) s = .next (fall 1 (s.rfDrop s.curCore (fun _ => true))) :=
  guard_ready (fun s => fall 1 (s.rfDrop s.curCore (fun _ => true))) h

/-- Settles O30: each invalidation is `invalCur` of what it names, and `rfinv` and `rfclr` filter the entries of the pen. -/
theorem invalidation : Obligations.Invalidation := by
  unfold Obligations.Invalidation
  constructor
  · intro s i kept pen h
    obtain ⟨v, hx, hk⟩ : ∃ v : Inval, exec i s = .next (invalCur v s) ∧ ∀ t, kept t = !v.hits pen t := by
      rcases h with ⟨f, rfl, hr, hk⟩ | ⟨f, rfl, hr, hk⟩ | ⟨f, rfl, hr, hk⟩
      · exact ⟨_, exec_tinvalPg hr, fun t => (hk t).trans (by simp [Inval.hits, Bool.and_assoc])⟩
      · exact ⟨_, exec_tinvalSp hr, fun t => (hk t).trans (by simp [Inval.hits, Bool.and_assoc])⟩
      · exact ⟨_, exec_tinvalAll hr, fun t => (hk t).trans (by simp [Inval.hits])⟩
    exact ⟨fun hdr hd => ⟨_, hx, invalCur_discards hk hdr hd⟩, fun hdr => ⟨_, hx, invalCur_held hdr⟩⟩
  · intro s pn hpn
    constructor
    · intro f hr a n
      obtain ⟨hcur, hoth, hmem, hrefl⟩ := fall_rfDrop hpn (fun rs => n != 0 && rs.any (fun r => overlaps a n r.1 r.2))
      refine ⟨_, exec_rfinv hr, hcur, hoth, hmem, fun e => ?_⟩
      rw [hrefl, List.mem_filter, not_meets_iff]
    · intro f hr
      obtain ⟨hcur, hoth, hmem, hrefl⟩ := fall_rfDrop hpn (fun _ => true)
      exact ⟨_, exec_rfclr hr, hcur, hoth, by rw [hrefl]; simp, hmem⟩

end Sys2Proof.Machine

/-!
SUPPORT. O54: the board controller's events (R35, R36, R403, R406, R407), and which writes of a register block are let through (R35, R396).
-/
namespace Sys2Proof.Machine
open Sys2Proof.Claims

/-! ### A master's write of a register block (R35, R396) -/

/-- A write that the block's table admits is the register's own write. -/
theorem regPut_open {s : State} {master addr n : Nat} (value : Nat) (tier : tierOf addr = .regs) (shape : regShape addr n = true)
    (lies : regAt addr = true) (grant : s.granted master addr n true = true) (up : master = 81 ∨ master = 82 → s.up = true)
    (way : master = 81 → s.hostWay addr = true) : s.regPut master addr n value = s.regWrite master addr n value false := by
  have hup : (outer master && !s.up) = false := by
    by_cases hm : master = 81 ∨ master = 82
    · simp [up hm]
    · simp [outer, hostMaster, not_or.1 hm]
  have hway : (master == hostMaster && !s.hostWay addr) = false := by
    by_cases hm : master = 81
    · simp [way hm]
    · simp [hostMaster, hm]
  refine if_neg ?_
  rw [hup, hway, tier, shape, lies, grant]
  decide

/-- One that is not admitted does nothing. -/
theorem regPut_closed {s : State} {master addr n : Nat} (value : Nat)
    (h : regAt addr = false ∨ s.granted master addr n true = false ∨ ((master = 81 ∨ master = 82) ∧ s.up = false) ∨
      (master = 81 ∧ s.hostWay addr = false)) : s.regPut master addr n value = s := by
  refine if_pos ?_
  rcases h with h | h | ⟨rfl | rfl, h⟩ | ⟨rfl, h⟩ <;> simp [h, outer, hostMaster]

/-- Eight bytes at a register's place have the size and alignment of a register. -/
theorem regShape_eight {addr : Nat} (h : addr % 8 = 0) : regShape addr 8 = true := by simp [regShape, h]

/-! ### Events without power (R407) -/

theorem withPower_on {s : State} (h : s.powered = true) (k : State → Host.Outcome State Fault Refusal) : withPower s k = k s := if_pos h

theorem withPower_off {s : State} (h : s.powered = false) (k : State → Host.Outcome State Fault Refusal) : withPower s k = .fault .noPower :=
  if_neg (by simp [h])

theorem penPut_off {s : State} (h : s.powered = false) (pen off value : Nat) : penPut pen off value s = .fault .noPower := withPower_off h _

theorem blockWriteBy_off {s : State} (h : s.powered = false) (master addr n value : Nat) : blockWriteBy master addr n value s = .fault .noPower :=
  withPower_off h _

theorem execLqctlWrite_off {s : State} (h : s.powered = false) (pen q value : Nat) : execLqctlWrite pen q value s = .fault .noPower := by
  unfold execLqctlWrite
  split
  · exact penPut_off h _ _ _
  · exact withPower_off h _

/-! ### Access tables (R35, R36) -/

theorem exec_accessTableWrite {s : State} (on : s.powered = true) (target master slot value : Nat) :
    exec (.accessTableWrite target master slot value) s = .next (accessTableWrite target master slot value s) :=
  withPower_on on (fun s => .next (accessTableWrite target master slot value s))

/-- Entries of the other slots stay, and the slot's own goes. -/
theorem mem_otherSlots {l : List Range} {target master slot : Nat} {r : Range} :
    r ∈ l.filter (fun r => !(r.target == target && r.master == master && r.slot == slot)) ↔
      r ∈ l ∧ ¬(r.target = target ∧ r.master = master ∧ r.slot = slot) := by
  rw [List.mem_filter, Bool.not_eq_true', ← Bool.not_eq_true]
  simp only [Bool.and_eq_true, beq_iff_eq, and_assoc]

/-- A write of a slot while the device is up. -/
theorem accessTableWrite_up {s : State} {master slot : Nat} (target value : Nat) (up : s.up = true) (hs : slot < 64) (hm : master < 83) :
    accessTableWrite target master slot value s =
      { s with ranges := s.ranges.filter (fun r => !(r.target == target && r.master == master && r.slot == slot)) ++
        if field value 74 1 = 0 then [] else
          [⟨target, master, slot, field value 0 36 * 2 ^ 16, field value 36 37 * 2 ^ 16, field value 73 1 == 1⟩] } := by
  unfold accessTableWrite
  rw [if_neg (by simp [up, Nat.not_le.2 hs, Nat.not_le.2 hm])]
  split_ifs
  · rw [List.append_nil]
  · rfl

/-- A field of one bit is 0 or 1. -/
theorem field_one_cases (x lo : Nat) : field x lo 1 = 0 ∨ field x lo 1 = 1 := by
  unfold field; omega

/-! ### FABID (R403) -/

theorem exec_fabidWrite {s : State} (on : s.powered = true) (value : Nat) :
    exec (.fabidWrite value) s = .next (s.regPut 82 (regAddr 0 0) 8 value) :=
  withPower_on on (fun s => .next (s.regPut 82 (regAddr 0 0) 8 value))

/-- The board controller's write of FABID that its block's table admits. -/
theorem regPut_fabid {s : State} (value : Nat) (up : s.up = true) (grant : s.granted 82 (regAddr 0 0) 8 true = true) :
    s.regPut 82 (regAddr 0 0) 8 value = (s.unstage 82).fabidWrite (value % 2 ^ 64) := by
  have block : regBlock (regAddr 0 0) = some (0, 0) := regBlock_regAddr (by decide) (by decide)
  have lies : regAt (regAddr 0 0) = true := by rw [regAt_of_regBlock block]; decide
  rw [regPut_open value (tierOf_regAddr (by decide) (by decide)) (regShape_eight (regAddr_mod_eight 0 0)) lies grant (fun _ => up)
    (fun h => by simp at h), regWrite_eight s 82 value false block]
  rfl

/-- One that does not reach it does nothing. -/
theorem regPut_fabid_closed {s : State} (value : Nat) (h : ¬(s.up = true ∧ s.granted 82 (regAddr 0 0) 8 true = true)) :
    s.regPut 82 (regAddr 0 0) 8 value = s := by
  refine regPut_closed value ?_
  by_cases up : s.up = true
  · exact .inr (.inl (by simpa [up] using h))
  · exact .inr (.inr (.inl ⟨.inr rfl, by simpa using up⟩))

/-- FABID stays while a pen is enabled, and takes no 0xFFFF. -/
theorem fabidWrite_kept {s : State} {value : Nat} (h : value % 2 ^ 16 = 0xFFFF ∨ ∃ p ∈ s.pens, p.2.enable = true) : s.fabidWrite value = s := by
  refine if_pos ?_
  rcases h with h | h
  · exact .inr h
  · exact .inl (List.any_eq_true.2 h)

theorem fabidWrite_set {s : State} {value : Nat} (h : value % 2 ^ 16 ≠ 0xFFFF) (hp : ∀ p ∈ s.pens, p.2.enable = false) :
    s.fabidWrite value = { s with fabid := value % 2 ^ 16, fabSet := true } := by
  refine if_neg ?_
  rintro (e | e)
  · obtain ⟨p, hm, he⟩ := List.any_eq_true.1 e
    rw [hp p hm] at he
    cases he
  · exact h e

/-! ### Firmware and power (R406, R407) -/

theorem exec_firmwareVerify {s : State} (on : s.powered = true) : exec .firmwareVerify s = .next (firmwareVerify s) :=
  withPower_on on (fun s => .next (firmwareVerify s))

theorem exec_overTemperature {s : State} (on : s.powered = true) (temp : Nat) :
    exec (.overTemperature temp) s = .next (overTemperature temp s) :=
  withPower_on on (fun s => .next (overTemperature temp s))

/-- The image is accepted by its version, its key and its signature. -/
theorem firmwareVerify_pending {s : State} (h : s.firmware = none) :
    firmwareVerify s = if s.fwRollback ≤ s.fwVersion ∧ sha256 s.fwKey = s.fwKeyHash ∧ slhVerify s.fwKey s.fwSigned s.fwSig = true
      then { s with firmware := some true, hostLink := true, msgs := (5, 0, 0) :: s.msgs } else { s with firmware := some false } := by
  have accepted : (s.fwAccepted = true) = (s.fwRollback ≤ s.fwVersion ∧ sha256 s.fwKey = s.fwKeyHash ∧ slhVerify s.fwKey s.fwSigned s.fwSig = true) := by
    simp only [State.fwAccepted, Bool.and_eq_true, decide_eq_true_eq, and_assoc]
  rw [firmwareVerify, if_neg (by simp [h])]
  simp only [accepted]

/-- Settles O54: an access table by the slots it keeps, FABID by `regPut_fabid`, the firmware by what its acceptance asks, and the other events by
`withPower_off`. -/
theorem boardController : Obligations.BoardController := by
  unfold Obligations.BoardController
  refine ⟨?_, ?_, ?_, ?_, ?_, ?_⟩
  · intro target master slot value s on hs hm
    rw [exec_accessTableWrite on]
    refine ⟨fun down => congrArg _ (if_pos (.inl (by simp [down]))), fun up => ⟨_, rfl, ?_, fun r => ?_⟩⟩ <;>
      rw [accessTableWrite_up target value up hs hm]
    rw [List.mem_append, mem_otherSlots]
    rcases field_one_cases value 74 with e | e <;> simp [e]
  · intro value s on reaches
    rw [exec_fabidWrite on]
    have low : value % 2 ^ 64 % 2 ^ 16 = value % 2 ^ 16 := Nat.mod_mod_of_dvd value (by decide)
    refine ⟨fun h => congrArg _ (regPut_fabid_closed value h), fun h kept => ?_, fun h free idle => ?_⟩ <;> rw [regPut_fabid value h.1 h.2]
    · exact congrArg _ (fabidWrite_kept (by rw [low]; exact kept))
    · refine congrArg _ ((fabidWrite_set (s := s.unstage 82) (by rw [low]; exact free) idle).trans ?_)
      rw [low]
  · intro s on pending
    rw [exec_firmwareVerify on, firmwareVerify_pending pending]
  · intro s off
    refine ⟨_, show exec .powerUp s = .next (powerUp s) from rfl, ?_⟩
    rw [powerUp, if_neg (by simp [off])]
    exact ⟨rfl, rfl, rfl, rfl, rfl, rfl, rfl, rfl, rfl, rfl⟩
  · intro temp s on
    exact exec_overTemperature on temp
  · intro s off a b c d
    exact ⟨show execFirmwareVerify s = _ from withPower_off off _, show execOverTemperature a s = _ from withPower_off off _,
      show execFabidWrite a s = _ from withPower_off off _, show execAccessTableWrite a b c d s = _ from withPower_off off _,
      show execPenConfigure a s = _ from withPower_off off _, show execImageAdmission a s = _ from withPower_off off _,
      show execFlitCrcRetry a s = _ from withPower_off off _, show execLinkOutOfService a s = _ from withPower_off off _,
      show execLinkRetrain a s = _ from withPower_off off _, show execHostWrite a b c s = _ from withPower_off off _,
      show execHostRead a b s = _ from withPower_off off _, show execHostProcessorWrite a b c s = _ from withPower_off off _,
      show execRegWriteLowHalf a b c s = _ from blockWriteBy_off off _ _ _ _, show execRegWriteHighHalf a b c s = _ from blockWriteBy_off off _ _ _ _,
      show execRegisterWrite a b c s = _ from blockWriteBy_off off _ _ _ _, execLqctlWrite_off off a b c,
      show execC3startWrite a b s = _ from withPower_off off _, show execBcnctlWrite a s = _ from withPower_off off _,
      show execHostLinkReset a s = _ from withPower_off off _, show execBrkctlGo a b s = _ from penPut_off off _ _ _,
      show execBrkctlEnable a b s = _ from penPut_off off _ _ _, show execPriosetWrite a b s = _ from penPut_off off _ _ _,
      show execPenctlEnable a b s = _ from penPut_off off _ _ _, show execPenctlResume a b s = _ from penPut_off off _ _ _,
      show execPenctlAbandon a b s = _ from penPut_off off _ _ _, show execCutreqWrite a b s = _ from withPower_off off _⟩

end Sys2Proof.Machine

/-!
SUPPORT. O49: beacons and breakpoints (R383 to R388, R392, R393).
-/
namespace Sys2Proof.Machine
open Sys2Proof.Claims

/-! ### Reads of a part of what was written, and of a map's listed places -/

/-- A part of the bytes of a write reads as that part of the number. -/
theorem readLE_writeLE_part (n a x : Nat) (m : Mem) (h : Memory.wf m = true) (j i : Nat) (hij : i + j ≤ n) :
    readLE (writeLE m a n x) (a + i) j = x / 256 ^ i % 256 ^ j := by
  induction j generalizing i with
  | zero => simp [readLE, Nat.mod_one]
  | succ j ih =>
    rw [readLE, byteAt_writeLE_on n a x i m h (by omega), Nat.add_assoc, ih (i + 1) (by omega), BitVec.toNat_ofNat, pow_succ 256 i,
      ← Nat.div_div_eq_div_mul, pow_succ' 256 j, Nat.mod_mul]

/-- Bytes apart from a write read as before. -/
theorem readLE_writeLE_off {n a b j : Nat} (x : Nat) (m : Mem) (h : Memory.wf m = true) (apart : b + j ≤ a ∨ a + n ≤ b) :
    readLE (writeLE m a n x) b j = readLE m b j :=
  readLE_congr _ _ _ _ fun _ _ _ => byteAt_writeLE_off _ _ _ _ _ h (by omega)

/-- What a numbered map reads is listed, or the value of an unlisted place. -/
theorem mget_mem {α : Type} (d : α) (m : SMap α) (i : Nat) : mget d m i = d ∨ (i, mget d m i) ∈ m := by
  induction m with
  | nil => exact .inl rfl
  | cons p m ih =>
    obtain ⟨k, v⟩ := p
    simp only [mget]
    split_ifs with e
    · subst e; exact .inr (.head _)
    · exact ih.imp id (.tail _)

/-- A field of one bit is that bit. -/
theorem field_one_bit (x : Dword) (i : Nat) : field x.toNat i 1 = (x.getLsbD i).toNat := by
  rw [field, pow_one, BitVec.getLsbD, Nat.toNat_testBit]

/-! ### BCNCTL (R383, R384) -/

theorem exec_bcnctlWrite {s : State} (on : s.powered = true) (value : Nat) :
    exec (.bcnctlWrite value) s = .next (s.hostPut 0 0x08 value) := withPower_on on (fun s => .next (s.hostPut 0 0x08 value))

/-- The host's write that reaches BCNCTL. -/
theorem hostPut_bcnctl {s : State} (value : Nat) (h : HostReaches 0 0x08 s) :
    s.hostPut 0 0x08 value = (s.unstage 81).bcnctl (value % 2 ^ 64) :=
  hostPut_reached value h (by decide) (by decide) (by decide) (by decide)

/-- The counters of every shed and die after a restart. -/
theorem restartCounters_counts (s : State) :
    (∀ h, (s.restartCounters.shed h).cnt = [] ∧ (s.restartCounters.shed h).fov = []) ∧ ∀ d, (s.restartCounters.die d).cnt = [] := by
  refine ⟨fun h => ?_, fun d => ?_⟩
  · have e : s.restartCounters.shed h = (s.shed h).restart :=
      mget_map_default (d := ({} : Shed)) (g := fun p : Nat × Shed => (p.1, p.2.restart)) (fun _ => rfl) (fun _ => rfl) s.sheds h
    rw [e]; exact ⟨rfl, rfl⟩
  · have e : s.restartCounters.die d = { s.die d with cnt := [] } :=
      mget_map_default (d := ({} : Die)) (g := fun p : Nat × Die => (p.1, { p.2 with cnt := [] })) (fun _ => rfl) (fun _ => rfl) s.dies d
    rw [e]

/-- A new interval is not taken while beacons are enabled. -/
theorem bcnctl_ignored {s : State} {value : Nat} (h : s.bcnEnable = true) (hk : field value 16 5 ≠ s.bcnK) : s.bcnctl value = s :=
  if_pos (by simp [h, hk])

/-- What BCNCTL takes otherwise. -/
theorem bcnctl_taken {s : State} {value : Nat} (h : s.bcnEnable = false ∨ field value 16 5 = s.bcnK) :
    let t := s.bcnctl value
    t.bcnEnable = (field value 31 1 == 1) ∧ t.bcnK = field value 16 5 ∧
      ((field value 31 1 == 1) = true → s.bcnEnable = false → t.bcnPartial = true ∧ t.bcnLast = s.tick ∧
        (∀ h, (t.shed h).cnt = [] ∧ (t.shed h).fov = []) ∧ ∀ d, (t.die d).cnt = []) ∧ t.mem = s.mem ∧ t.cores = s.cores := by
  have taken : ¬((s.bcnEnable && field value 16 5 != s.bcnK) = true) := by rcases h with h | h <;> simp [h]
  unfold State.bcnctl
  rw [if_neg taken]
  by_cases start : ((field value 31 1 == 1) && !s.bcnEnable) = true
  · rw [if_pos start]
    simp only [Bool.and_eq_true] at start
    exact ⟨start.1.symm, rfl, fun _ _ => ⟨rfl, rfl, restartCounters_counts s⟩, rfl, rfl⟩
  · rw [if_neg start]
    exact ⟨rfl, rfl, fun en off => absurd (by simp [en, off]) start, rfl, rfl⟩

/-! ### What writing records leaves (R385, R386) -/

/-- A write of the package itself changes memory, its bad lines and what stands encrypted. -/
theorem physWrite_frame (s : State) (key : Option Nat) (pa n x : Nat) :
    { s.physWrite key pa n x with mem := [], bad := [], enc := [] } = { s with mem := [], bad := [], enc := [] } := by
  unfold State.physWrite
  split <;> rfl

theorem physWrite_mem {s : State} (key : Option Nat) {pa n : Nat} (x : Nat) (h : s.badWrite [(pa, n)] = false) :
    (s.physWrite key pa n x).mem = writeLE s.mem pa n x := by
  rw [State.physWrite, if_neg (by simp [h])]
  rfl

/-- Whole lines are written, bad ones too. -/
theorem badWrite_lines (s : State) {pa n : Nat} (ha : pa % 64 = 0) (hn : n % 64 = 0) : s.badWrite [(pa, n)] = false := by
  simp only [State.badWrite, coversLine, overlaps, List.any_cons, List.any_nil, Bool.or_false, List.any_eq_false, Bool.and_eq_true,
    Bool.not_eq_true', decide_eq_true_eq, decide_eq_false_iff_not, not_and]
  intro l _ h
  omega

theorem putBeacon_frame (s : State) (b : BRing) (r : BRec) (key : Option Nat) :
    { (s.putBeacon b r key).2 with mem := [], bad := [], enc := [] } = { s with mem := [], bad := [], enc := [] } := by
  unfold State.putBeacon
  dsimp only
  split_ifs
  · rfl
  · rfl
  · exact physWrite_frame s _ _ _ _

/-- A state without what the writing of records changes: memory and the rings. -/
def State.unwritten (s : State) : State := { s with mem := [], bad := [], enc := [], pens := [], bcnr := {} }

theorem adminRec_frame (s : State) (r : BRec) : (s.adminRec r).unwritten = s.unwritten :=
  (congrArg State.unwritten (putBeacon_frame s s.bcnr r none) :)

theorem penRec_frame (s : State) (p : Nat) (r : BRec) :
    (s.penRec p r).unwritten = s.unwritten :=
  (congrArg State.unwritten (putBeacon_frame s (s.pen p).pbcn r (s.pen p).seals) :)

theorem putShedRec_frame (s : State) (p : Nat) (r : BRec) :
    (s.putShedRec p r).unwritten = s.unwritten := by
  unfold State.putShedRec
  split_ifs
  · exact penRec_frame s p r
  · exact (penRec_frame _ p r).trans (adminRec_frame s r)

/-- A ring that is not enabled takes no record. -/
theorem putBeacon_off {s : State} {b : BRing} (r : BRec) (key : Option Nat) (h : b.ctl.getLsbD 63 = false) : s.putBeacon b r key = (b, s) :=
  if_pos (.inl (by rw [field_one_bit, h]; rfl))

/-- No ring takes records, and memory stands as it did. -/
def State.Unrecorded (s t : State) : Prop := t.mem = s.mem ∧ t.bcnr.ctl.getLsbD 63 = false ∧ ∀ p, (t.pen p).pbcn.ctl.getLsbD 63 = false

theorem State.Unrecorded.adminRec {s t : State} (h : s.Unrecorded t) (r : BRec) : s.Unrecorded (t.adminRec r) := by
  unfold State.adminRec
  rw [putBeacon_off r none h.2.1]
  exact h

theorem State.Unrecorded.penRec {s t : State} (h : s.Unrecorded t) (p : Nat) (r : BRec) : s.Unrecorded (t.penRec p r) := by
  unfold State.penRec
  rw [putBeacon_off r _ (h.2.2 p)]
  refine ⟨h.1, h.2.1, fun q => ?_⟩
  rw [State.pen_setPen]
  split_ifs
  · exact h.2.2 p
  · exact h.2.2 q

theorem State.Unrecorded.putShedRec {s t : State} (h : s.Unrecorded t) (p : Nat) (r : BRec) : s.Unrecorded (t.putShedRec p r) := by
  unfold State.putShedRec
  split_ifs
  · exact h.penRec p r
  · exact (h.adminRec r).penRec p r

/-! ### A beacon's parts -/

/-- The records of the sheds that write one, with their pens. -/
def State.shedRecs (s : State) : List (Nat × BRec) :=
  (List.range 72).filterMap (fun sh => match s.penOfShed sh with
    | some p => if (s.shed sh).records then some (p, s.shedRec p sh false) else none
    | none => none)

/-- The records of the dies. -/
def State.dieRecs (s : State) : List BRec := (List.range 9).map (fun d => { kind := 1, partial_ := s.bcnPartial, die := d, words := s.dieWords d })

/-- The aggregates of the confidential pens. -/
def State.aggRecs (s : State) : List BRec :=
  (List.range 16).filterMap (fun p =>
    if (s.pen p).conf then
      some { kind := 2, partial_ := s.bcnPartial || (s.shedRecs.filter (fun r => r.1 == p)).any (fun r => r.2.partial_), conf := true, pen := p,
             words := aggregate ((s.shedRecs.filter (fun r => r.1 == p)).map (fun r => r.2.words)) }
    else none)

/-- Every record of a beacon is written. -/
def State.recorded (s : State) : State :=
  s.aggRecs.foldl State.adminRec (s.shedRecs.foldl (fun s r => s.putShedRec r.1 r.2) (s.dieRecs.foldl State.adminRec s))

/-- The counters of a shed that writes records start again, those of the rest stand. -/
def State.restartShed (s : State) (sh : Nat) : State := if (s.shed sh).records then s.setShed sh (s.shed sh).restart else s

/-- The counters of a die start again. -/
def State.restartDie (s : State) (d : Nat) : State := s.setDie d { s.die d with cnt := [] }

/-- Its counters start again. -/
def State.restarted (s : State) : State := (List.range 9).foldl State.restartDie ((List.range 72).foldl State.restartShed s)

/-- A beacon that falls. -/
theorem beacon_due {s : State} (h : s.beaconDue = true) :
    beacon s = { s.recorded.restarted with bcnPartial := false, bcnLast := s.tick, free := s.free + beaconFree } := by
  unfold beacon State.recorded State.restarted State.dieRecs State.aggRecs State.shedRecs
  rw [if_neg (by simp [h])]
  rfl

/-- What every step of a fold keeps, the fold keeps. -/
theorem foldl_keeps {α β : Type} {f : β → α → β} {P : β → Prop} (hf : ∀ t a, P t → P (f t a)) (l : List α) {s : β} (h : P s) : P (l.foldl f s) :=
  List.foldlRecOn l f h fun t ht a _ => hf t a ht

theorem recorded_frame (s : State) : s.recorded.unwritten = s.unwritten := by
  have dies : (s.dieRecs.foldl State.adminRec s).unwritten = s.unwritten :=
    foldl_keeps (P := fun t : State => t.unwritten = s.unwritten) (fun t r h => (adminRec_frame t r).trans h) _ rfl
  have sheds : (s.shedRecs.foldl (fun s r => s.putShedRec r.1 r.2) (s.dieRecs.foldl State.adminRec s)).unwritten = s.unwritten :=
    foldl_keeps (P := fun t : State => t.unwritten = s.unwritten) (fun t r h => (putShedRec_frame t r.1 r.2).trans h) _ dies
  exact foldl_keeps (P := fun t : State => t.unwritten = s.unwritten) (fun t r h => (adminRec_frame t r).trans h) _ sheds

/-- With every ring off, nothing is written. -/
theorem recorded_mem {s : State} (hb : s.bcnr.ctl.getLsbD 63 = false) (hp : ∀ p ∈ s.pens, p.2.pbcn.ctl.getLsbD 63 = false) :
    s.recorded.mem = s.mem := by
  have pens (p : Nat) : (s.pen p).pbcn.ctl.getLsbD 63 = false := by
    rcases mget_mem {} s.pens p with e | e
    · rw [State.pen, e]; rfl
    · exact hp (p, s.pen p) e
  have dies : s.Unrecorded (s.dieRecs.foldl State.adminRec s) :=
    foldl_keeps (P := s.Unrecorded) (fun t r h => h.adminRec r) s.dieRecs ⟨rfl, hb, pens⟩
  have sheds : s.Unrecorded (s.shedRecs.foldl (fun s r => s.putShedRec r.1 r.2) (s.dieRecs.foldl State.adminRec s)) :=
    foldl_keeps (P := s.Unrecorded) (fun t r h => h.putShedRec r.1 r.2) s.shedRecs dies
  have all : s.Unrecorded s.recorded := foldl_keeps (P := s.Unrecorded) (fun t r h => h.adminRec r) s.aggRecs sheds
  exact all.1

/-! ### Counters that start again -/

theorem shed_restartShed (s : State) (sh h : Nat) :
    (s.restartShed sh).shed h = if h = sh ∧ (s.shed h).records = true then (s.shed h).restart else s.shed h := by
  unfold State.restartShed
  by_cases e : h = sh
  · subst e
    by_cases r : (s.shed h).records = true <;> simp [r]
  · split_ifs <;> simp_all

/-- After a list of sheds, those of it that write records have started again. -/
theorem shed_foldl_restartShed (l : List Nat) (s : State) (h : Nat) :
    (l.foldl State.restartShed s).shed h = if h ∈ l ∧ (s.shed h).records = true then (s.shed h).restart else s.shed h := by
  induction l generalizing s with
  | nil => simp
  | cons sh l ih =>
    rw [List.foldl_cons, ih, shed_restartShed]
    by_cases records : (s.shed h).records = true
    · have again : (s.shed h).restart.restart = (s.shed h).restart := rfl
      have keeps : (s.shed h).restart.records = true := records
      rcases eq_or_ne h sh with rfl | e
      · by_cases m : h ∈ l <;> simp [m, records, again, keeps]
      · by_cases m : h ∈ l <;> simp [e, m, records]
    · simp [records]

/-- After a list of dies, the counters of those are empty. -/
theorem die_foldl_restartDie (l : List Nat) (s : State) (d : Nat) :
    (l.foldl State.restartDie s).die d = if d ∈ l then { s.die d with cnt := [] } else s.die d := by
  induction l generalizing s with
  | nil => simp
  | cons e l ih =>
    rw [List.foldl_cons, ih, State.restartDie, State.die_setDie]
    by_cases h : d = e
    · subst h; by_cases m : d ∈ l <;> simp [m]
    · simp [h]

/-- A state without the counters of a beacon's interval. -/
def State.uncounted (s : State) : State := { s with sheds := [], dies := [] }

theorem restartShed_frame (s : State) (sh : Nat) : (s.restartShed sh).uncounted = s.uncounted := by
  unfold State.restartShed
  split
  · rfl
  · rfl

theorem foldl_restartShed_frame (l : List Nat) (s : State) : (l.foldl State.restartShed s).uncounted = s.uncounted :=
  foldl_keeps (P := fun t : State => t.uncounted = s.uncounted) (fun t sh h => (restartShed_frame t sh).trans h) l rfl

theorem foldl_restartDie_frame (l : List Nat) (s : State) :
    (l.foldl State.restartDie s).uncounted = s.uncounted ∧ (l.foldl State.restartDie s).sheds = s.sheds :=
  foldl_keeps (f := State.restartDie) (P := fun t : State => t.uncounted = s.uncounted ∧ t.sheds = s.sheds) (fun _ _ h => h) l ⟨rfl, rfl⟩

/-- Starting the counters again changes sheds and dies alone. -/
theorem restarted_frame (s : State) : s.restarted.uncounted = s.uncounted := by
  unfold State.restarted
  exact (foldl_restartDie_frame _ _).1.trans (foldl_restartShed_frame _ s)

theorem restarted_sheds (s : State) (h : Nat) :
    s.restarted.shed h = if h < 72 ∧ (s.shed h).records = true then (s.shed h).restart else s.shed h := by
  have sheds : s.restarted.shed h = ((List.range 72).foldl State.restartShed s).shed h :=
    congrArg (fun m => mget ({} : Shed) m h) (foldl_restartDie_frame (List.range 9) _).2
  rw [sheds, shed_foldl_restartShed]
  simp only [List.mem_range]

theorem restarted_dies (s : State) {d : Nat} (h : d < 9) : (s.restarted.die d).cnt = [] := by
  unfold State.restarted
  rw [die_foldl_restartDie, if_pos (List.mem_range.2 h)]

/-! ### The administrator's ring (R385, R386, R388) -/

/-- A record of a die holds its kind, its die and the tick in their places. -/
theorem dieRec_image {r : BRec} (hk : r.kind = 1) (hp : r.pen = 0) (hs : r.shed = 0) (hd : r.die < 9) (hc : r.conf = false) (hg : r.gated = false)
    (tick k drops : Nat) :
    r.image tick k drops / 256 ^ 49 % 256 ^ 1 = 1 ∧ r.image tick k drops / 256 ^ 47 % 256 ^ 1 = r.die ∧
      r.image tick k drops / 256 ^ 58 % 256 ^ 6 = tick % 2 ^ 48 := by
  have partBit : (if r.partial_ then 2 ^ 386 else 0) = 2 ^ 386 * (if r.partial_ then 1 else 0) := by rw [mul_ite, mul_one, mul_zero]
  have bit : (if r.partial_ then 1 else 0) ≤ 1 := by split <;> omega
  simp only [BRec.image, hk, hp, hs, hc, hg, partBit, Bool.false_eq_true, if_false]
  generalize r.words.foldr _ 0 = words
  generalize tick / 2 ^ k = epoch
  generalize (if r.partial_ then 1 else 0) = p at bit
  refine ⟨?_, ?_, ?_⟩ <;> omega

theorem adminRec_eq {s u : State} {r : BRec} {b : BRing} (put : s.putBeacon s.bcnr r none = (b, u)) : s.adminRec r = { u with bcnr := b } := by
  rw [State.adminRec, put]

/-- The administrator's ring while it is enabled and empty up to a few records: it takes one more. -/
theorem adminRec_open {s : State} (r : BRec) (on : s.bcnr.ctl.getLsbD 63 = true) (log : 4 ≤ field s.bcnr.ctl.toNat 52 4) (head : s.bcnr.head = 0)
    (tail : s.bcnr.tail < 9) :
    let t := s.adminRec r
    t.bcnr = { s.bcnr with tail := s.bcnr.tail + 1, drops := 0 } ∧
      t.mem = writeLE s.mem (field s.bcnr.ctl.toNat 10 42 * 1024 + 1024 * s.bcnr.tail) 1024 (r.image s.tick s.bcnK s.bcnr.drops) ∧
      t.unwritten = s.unwritten := by
  intro t
  have room : 16 ≤ 2 ^ field s.bcnr.ctl.toNat 52 4 := Nat.pow_le_pow_right (n := 2) (by decide) log
  have put : s.putBeacon s.bcnr r none = ({ s.bcnr with tail := s.bcnr.tail + 1, drops := 0 },
      s.physWrite none (field s.bcnr.ctl.toNat 10 42 * 1024 + 1024 * s.bcnr.tail) 1024 (r.image s.tick s.bcnK s.bcnr.drops)) := by
    unfold State.putBeacon
    dsimp only
    rw [if_neg (by rw [field_one_bit, on]; simp only [Bool.toNat_true]; omega), if_neg (by rw [head]; omega), Nat.mod_eq_of_lt (by omega : s.bcnr.tail < _),
      Nat.mod_eq_of_lt (by omega : s.bcnr.tail + 1 < 2 ^ 32)]
  have whole : s.badWrite [(field s.bcnr.ctl.toNat 10 42 * 1024 + 1024 * s.bcnr.tail, 1024)] = false := badWrite_lines s (by omega) (by decide)
  refine ⟨?_, ?_, adminRec_frame s r⟩
  · rw [show t = _ from adminRec_eq put]
  · rw [show t = _ from adminRec_eq put]
    exact physWrite_mem none _ whole

/-- The records of the first dies stand in the administrator's ring. -/
def State.DiesStand (s : State) (n : Nat) (t : State) : Prop :=
  t.unwritten = s.unwritten ∧ Memory.wf t.mem = true ∧ t.bcnr = { s.bcnr with tail := n, drops := if n = 0 then s.bcnr.drops else 0 } ∧
    ∀ d, d < n → readLE t.mem (field s.bcnr.ctl.toNat 10 42 * 1024 + 1024 * d + 49) 1 = 1 ∧
      readLE t.mem (field s.bcnr.ctl.toNat 10 42 * 1024 + 1024 * d + 47) 1 = d ∧
      readLE t.mem (field s.bcnr.ctl.toNat 10 42 * 1024 + 1024 * d + 58) 6 = s.tick % 2 ^ 48

/-- The record of the next die is written behind them. -/
theorem State.DiesStand.next {s t : State} {n : Nat} (h : s.DiesStand n t) (hn : n < 9) (on : s.bcnr.ctl.getLsbD 63 = true)
    (log : 4 ≤ field s.bcnr.ctl.toNat 52 4) (head : s.bcnr.head = 0) (part : Bool) (words : List Nat) :
    s.DiesStand (n + 1) (t.adminRec { kind := 1, partial_ := part, die := n, words := words }) := by
  obtain ⟨frame, wf, ring, recs⟩ := h
  have tick : t.tick = s.tick := (congrArg State.tick frame :)
  obtain ⟨ring', mem', frame'⟩ := adminRec_open (s := t) { kind := 1, partial_ := part, die := n, words := words }
    (by rw [ring]; exact on) (by rw [ring]; exact log) (by rw [ring]; exact head) (by rw [ring]; exact hn)
  obtain ⟨kind, die, time⟩ := dieRec_image (r := { kind := 1, partial_ := part, die := n, words := words }) rfl rfl rfl hn rfl rfl t.tick t.bcnK t.bcnr.drops
  refine ⟨frame'.trans frame, by rw [mem']; exact writeLE_wf _ _ _ _ wf, by rw [ring', ring]; rfl, fun d hd => ?_⟩
  rw [mem', show t.bcnr.ctl = s.bcnr.ctl by rw [ring], show t.bcnr.tail = n by rw [ring]]
  by_cases last : d = n
  · subst last
    rw [readLE_writeLE_part _ _ _ _ wf 1 49 (by decide), readLE_writeLE_part _ _ _ _ wf 1 47 (by decide), readLE_writeLE_part _ _ _ _ wf 6 58 (by decide), ← tick]
    exact ⟨kind, die, time⟩
  · obtain ⟨k, e, q⟩ := recs d (by omega)
    refine ⟨?_, ?_, ?_⟩
    · exact (readLE_writeLE_off _ _ wf (by omega)).trans k
    · exact (readLE_writeLE_off _ _ wf (by omega)).trans e
    · exact (readLE_writeLE_off _ _ wf (by omega)).trans q

/-- The records of n dies, written into an empty ring. -/
theorem diesStand_foldl {s : State} (wf : Memory.wf s.mem = true) (on : s.bcnr.ctl.getLsbD 63 = true) (log : 4 ≤ field s.bcnr.ctl.toNat 52 4)
    (head : s.bcnr.head = 0) (tail : s.bcnr.tail = 0) (part : Bool) (words : Nat → List Nat) (n : Nat) (hn : n ≤ 9) :
    s.DiesStand n (((List.range n).map (fun d => ({ kind := 1, partial_ := part, die := d, words := words d } : BRec))).foldl State.adminRec s) := by
  induction n with
  | zero => exact ⟨rfl, wf, show s.bcnr = ⟨s.bcnr.ctl, s.bcnr.head, 0, s.bcnr.drops⟩ by rw [← tail], fun d hd => absurd hd (Nat.not_lt_zero d)⟩
  | succ n ih =>
    rw [List.range_succ, List.map_append, List.foldl_append]
    exact (ih (by omega)).next hn on log head part (words n)

/-- Without pens, the records of a beacon are those of the dies. -/
theorem recorded_no_pens {s : State} (h : s.pens = []) : s.recorded = s.dieRecs.foldl State.adminRec s := by
  have sheds : s.shedRecs = [] := by
    have none (sh : Nat) : s.penOfShed sh = none := by rw [State.penOfShed, h]; rfl
    simp [State.shedRecs, none]
  have aggs : s.aggRecs = [] := by
    have conf (p : Nat) : (s.pen p).conf = false := by rw [State.pen, h]; rfl
    simp [State.aggRecs, conf]
  rw [State.recorded, sheds, aggs]
  rfl

/-! ### A beacon (R384 to R388) -/

theorem exec_beacon (s : State) : exec .beacon s = .next (beacon s) := rfl

theorem beaconDue_iff (s : State) :
    s.beaconDue = true ↔ s.bcnEnable = true ∧ 10 ≤ s.bcnK ∧ s.bcnK ≤ 24 ∧ s.tick % 2 ^ s.bcnK = 0 ∧ s.bcnLast < s.tick := by
  simp only [State.beaconDue, Bool.and_eq_true, decide_eq_true_eq]

theorem beacon_not_due {s : State} (h : ¬s.beaconDue = true) : beacon s = s := if_pos (by simpa using h)

theorem State.parts_of_uncounted {s t : State} (h : s.uncounted = t.uncounted) : s.cores = t.cores ∧ s.mem = t.mem ∧ s.bcnr = t.bcnr :=
  ⟨(congrArg State.cores h :), (congrArg State.mem h :), (congrArg State.bcnr h :)⟩

theorem State.parts_of_unwritten {s t : State} (h : s.unwritten = t.unwritten) : s.cores = t.cores ∧ s.sheds = t.sheds :=
  ⟨(congrArg State.cores h :), (congrArg State.sheds h :)⟩

/-- A beacon's parts are those of the state with its records written and its counters started again. -/
theorem beacon_parts {s : State} (due : s.beaconDue = true) :
    (beacon s).cores = s.recorded.restarted.cores ∧ (beacon s).sheds = s.recorded.restarted.sheds ∧ (beacon s).dies = s.recorded.restarted.dies ∧
      (beacon s).mem = s.recorded.restarted.mem ∧ (beacon s).bcnr = s.recorded.restarted.bcnr ∧ (beacon s).bcnPartial = false ∧
      (beacon s).bcnLast = s.tick := by
  rw [beacon_due due]
  generalize s.recorded.restarted = t
  exact ⟨rfl, rfl, rfl, rfl, rfl, rfl, rfl⟩

/-- What a beacon leaves of the package, and which of its counters start again. -/
theorem beacon_counts {s : State} (due : s.beaconDue = true) :
    (beacon s).cores = s.cores ∧ (∀ d, d < 9 → ((beacon s).die d).cnt = []) ∧
      ∀ h, h < 72 → (s.shed h).records = true → (beacon s).shed h = (s.shed h).restart := by
  obtain ⟨cores, sheds, dies, -⟩ := beacon_parts due
  obtain ⟨cores', sheds'⟩ := State.parts_of_unwritten (recorded_frame s)
  refine ⟨cores.trans ((State.parts_of_uncounted (restarted_frame s.recorded)).1.trans cores'), fun d hd => ?_, fun h hh on => ?_⟩
  · rw [show (beacon s).die d = s.recorded.restarted.die d from congrArg (fun m => mget ({} : Die) m d) dies]
    exact restarted_dies s.recorded hd
  · have same : s.recorded.shed h = s.shed h := congrArg (fun m => mget ({} : Shed) m h) sheds'
    have start := restarted_sheds s.recorded h
    rw [same, if_pos ⟨hh, on⟩] at start
    rw [State.shed, sheds]
    exact start

/-- The memory and the administrator's ring after a beacon are those with its records. -/
theorem beacon_mem {s : State} (due : s.beaconDue = true) : (beacon s).mem = s.recorded.mem ∧ (beacon s).bcnr = s.recorded.bcnr := by
  obtain ⟨-, -, -, mem, ring, -⟩ := beacon_parts due
  obtain ⟨-, mem', ring'⟩ := State.parts_of_uncounted (restarted_frame s.recorded)
  exact ⟨mem.trans mem', ring.trans ring'⟩

/-! ### BRKCTL (R392, R393) -/

theorem exec_brkctlGo {s : State} (on : s.powered = true) {pen : Nat} (hp : pen < 16) (value : Nat) :
    exec (.brkctlGo pen value) s = .next (s.hostPut (10 + pen) 0xE8 value) := (if_pos on).trans (congrArg _ (if_pos hp))

theorem exec_brkctlEnable {s : State} (on : s.powered = true) {pen : Nat} (hp : pen < 16) (value : Nat) :
    exec (.brkctlEnable pen value) s = .next (s.hostPut (10 + pen) 0xE8 value) := (if_pos on).trans (congrArg _ (if_pos hp))

theorem regListed_brkctl {pen : Nat} (hp : pen < 16) : regListed (10 + pen) 0xE8 = true := by
  unfold regListed
  rw [if_neg (by omega), if_neg (by omega), if_pos (by omega)]
  rfl

/-- The registers of a pen's breakpoints are hidden from the host while the pen is confidential (R392). -/
theorem hidden_brkctl (s : State) {pen : Nat} (hp : pen < 16) : s.hidden 81 (10 + pen) 0xE8 false = (s.pen pen).conf := by
  have block : 10 ≤ 10 + pen ∧ 10 + pen ≤ 25 := by omega
  have reg : hiddenReg 0xE8 = true := by decide
  simp [State.hidden, block, reg]

/-- The host's write that reaches BRKCTL. -/
theorem hostPut_brkctl {s : State} {pen : Nat} (value : Nat) (hp : pen < 16) (h : HostReaches (10 + pen) 0xE8 s) :
    s.hostPut (10 + pen) 0xE8 value = if (s.pen pen).conf = true then s.unstage 81 else (s.unstage 81).brkctl pen (value % 2 ^ 64) := by
  rw [hostPut_reached value h (by omega) (by decide) (by decide) (regListed_brkctl hp)]
  unfold State.blockWrite
  rw [show (s.unstage hostMaster).hidden hostMaster (10 + pen) 0xE8 false = (s.pen pen).conf from hidden_brkctl (s.unstage 81) hp]
  by_cases conf : (s.pen pen).conf = true
  · rw [if_pos conf, if_pos conf]; rfl
  · rw [if_neg conf, if_neg conf, if_neg (by omega), if_neg (by omega), if_pos (by omega)]
    dsimp only
    rw [if_neg (by decide), Nat.add_sub_cancel_left]
    rfl

/-- The fields of a written value lie in its low 64 bits. -/
theorem field_low64 (value : Nat) : field (value % 2 ^ 64) 31 1 = field value 31 1 ∧ field (value % 2 ^ 64) 29 1 = field value 29 1 ∧
    field (value % 2 ^ 64) 16 5 = field value 16 5 :=
  ⟨field_mod value 31 1 64 (by decide), field_mod value 29 1 64 (by decide), field_mod value 16 5 64 (by decide)⟩

/-- BRKCTL without GO sets ENABLE alone. -/
theorem brkctl_enable {s : State} {value : Nat} (pen : Nat) (h : field value 29 1 = 0) :
    s.brkctl pen value = s.setPen pen { s.pen pen with brkEnable := field value 31 1 == 1 } := by
  unfold State.brkctl
  exact if_neg (by rw [h]; decide)

/-- GO releases what a breakpoint holds. -/
theorem brkctl_go {s : State} {value pen : Nat} {a : Inst} (h : field value 29 1 = 1) (hi : s.insts = [a]) (hp : a.pen = pen) (held : a.brkHeld = true) :
    s.brkctl pen value = { s.setPen pen { s.pen pen with brkEnable := field value 31 1 == 1 } with
      insts := [{ a with brkHeld := false, since := s.tick, entering := a.pure }] } := by
  unfold State.brkctl
  dsimp only
  rw [if_pos h]
  have mine : ((s.setPen pen { s.pen pen with brkEnable := field value 31 1 == 1 }).penInsts pen).filter Inst.brkHeld = [a] := by
    simp [State.penInsts, hi, hp, held]
  rw [mine]
  simp only [List.foldl_cons, List.foldl_nil, State.modInst, State.setPen_insts, hi, List.map_cons, List.map_nil, if_true, State.setPen_tick]

/-- Settles O49: BCNCTL by `bcnctl_taken`, a beacon by the records it writes and the counters it restarts, BRKCTL by `hostPut_brkctl`. -/
theorem beaconsAndBreakpoints : Obligations.BeaconsAndBreakpoints := by
  unfold Obligations.BeaconsAndBreakpoints
  refine ⟨⟨?_, ?_⟩, ?_⟩
  · intro value s on reaches k en
    obtain ⟨enable, -, interval⟩ := field_low64 value
    rw [exec_bcnctlWrite on, hostPut_bcnctl value reaches]
    refine ⟨fun was other => congrArg _ (bcnctl_ignored (s := s.unstage 81) was (by rw [interval]; exact other)), fun free => ⟨_, rfl, ?_⟩⟩
    have taken := bcnctl_taken (s := s.unstage 81) (value := value % 2 ^ 64) (by rw [interval]; exact free)
    rw [enable, interval] at taken
    exact taken
  · intro s
    rw [exec_beacon]
    refine ⟨fun early => congrArg _ (beacon_not_due ?_), fun en lo hi at_ later => ⟨_, rfl, ?_⟩⟩
    · rw [beaconDue_iff]
      rintro ⟨en, lo, hi, at_, later⟩
      rcases early with h | h | h | h | h
      · rw [en] at h; cases h
      · omega
      · omega
      · exact h at_
      · omega
    · have due := (beaconDue_iff s).2 ⟨en, lo, hi, at_, later⟩
      obtain ⟨cores, dies, sheds⟩ := beacon_counts due
      obtain ⟨-, -, -, -, -, part, last⟩ := beacon_parts due
      obtain ⟨mem, ring⟩ := beacon_mem due
      refine ⟨cores, part, last, dies, fun h hh on drained _ => ?_, fun admin pens => mem.trans (recorded_mem admin pens),
        fun wf none admin log head tail => ?_⟩
      · rw [sheds h hh (by simp [Shed.records, on, drained])]
        exact ⟨rfl, rfl, rfl⟩
      · obtain ⟨-, -, ring', recs⟩ := diesStand_foldl wf admin log head tail s.bcnPartial s.dieWords 9 (le_refl 9)
        rw [mem, ring, recorded_no_pens none]
        exact ⟨ring', recs⟩
  · intro pen value s i hi on hp reaches p
    obtain ⟨enable, go, -⟩ := field_low64 value
    have write : exec i s = .next (s.hostPut (10 + pen) 0xE8 value) := by
      rcases hi with rfl | rfl
      · exact exec_brkctlGo on hp value
      · exact exec_brkctlEnable on hp value
    rw [write, hostPut_brkctl value hp reaches]
    refine ⟨fun conf => by rw [if_pos conf], fun open_ noGo => ?_, fun a open_ hgo insts mine held => ?_⟩ <;> rw [if_neg (by simp [open_])]
    · rw [brkctl_enable pen (by rw [go]; exact noGo), enable]
      exact ⟨_, rfl, rfl, (State.pen_setPen _ _ _ _).trans (if_pos rfl), fun j hj => (State.pen_setPen _ _ _ _).trans (if_neg hj)⟩
    · rw [brkctl_go (s := s.unstage 81) (by rw [go]; exact hgo) insts mine held, enable]
      exact ⟨_, rfl, rfl, (State.pen_setPen _ _ _ _).trans (if_pos rfl), rfl⟩

end Sys2Proof.Machine

/-!
SUPPORT. O50: writes of a register block in halves and whole (R396), and the host's accesses of memory (R350, R399, R400).
-/
namespace Sys2Proof.Machine
open Sys2Proof.Claims

/-! ### Halves of a register (R396) -/

/-- A write of part of a register is what its block and the half say. The lemmas that follow cite this one, which unfolds `regWrite` as a whole:
of its application to an address that is no literal the kernel would evaluate `regBlock`. -/
theorem regWrite_four (s : State) (master : Nat) {pa b off : Nat} (value : Nat) (sys : Bool) (h : regBlock pa = some (b, off)) :
    s.regWrite master pa 4 value sys =
      if off % 8 = 0 then { s.unstage master with staged := (s.unstage master).staged ++ [(master, pa, value % 2 ^ 32)] }
      else (s.unstage master).blockWrite master b (off / 8 * 8)
        (((s.staged.find? (fun x => x.1 == master && x.2.1 == pa / 8 * 8)).map (fun x => x.2.2)).getD (s.regRead master (pa / 8 * 8) 4 sys) +
          value % 2 ^ 32 * 2 ^ 32) sys := by
  have e : State.regWrite = State.regWrite := rfl
  conv at e => rhs; delta State.regWrite
  have e := congrFun (congrFun (congrFun (congrFun (congrFun (congrFun e s) master) pa) 4) value) sys
  beta_reduce at e
  rw [h] at e
  exact e.trans (if_neg (by decide))

/-- A low half is staged. -/
theorem regWrite_low (s : State) (master : Nat) {pa b off : Nat} (value : Nat) (sys : Bool) (h : regBlock pa = some (b, off)) (ho : off % 8 = 0) :
    s.regWrite master pa 4 value sys = { s with staged := s.staged.filter (fun x => x.1 != master) ++ [(master, pa, value % 2 ^ 32)] } :=
  (regWrite_four s master value sys h).trans (if_pos ho)

/-- The high half then writes the whole register. -/
theorem regWrite_high (s : State) (master : Nat) {pa b off lo : Nat} (value : Nat) (sys : Bool) (h : regBlock (pa + 4) = some (b, off + 4))
    (ha : pa % 8 = 0) (ho : off % 8 = 0) :
    ({ s with staged := s.staged.filter (fun x => x.1 != master) ++ [(master, pa, lo)] } : State).regWrite master (pa + 4) 4 value sys =
      ({ s with staged := s.staged.filter (fun x => x.1 != master) } : State).blockWrite master b off (lo + value % 2 ^ 32 * 2 ^ 32) sys := by
  have found : (s.staged.filter (fun x => x.1 != master) ++ [(master, pa, lo)]).find? (fun x => x.1 == master && x.2.1 == (pa + 4) / 8 * 8) =
      some (master, pa, lo) := by
    rw [List.find?_append, List.find?_eq_none.2, Option.none_or]
    · rw [List.find?_cons_of_pos]
      have : (pa + 4) / 8 * 8 = pa := by omega
      simp [this]
    · simp +contextual
  have clear : (s.staged.filter (fun x => x.1 != master) ++ [(master, pa, lo)]).filter (fun x => x.1 != master) =
      s.staged.filter (fun x => x.1 != master) := by
    simp [List.filter_append, List.filter_filter]
  rw [regWrite_four _ master value sys h, if_neg (by omega), show (off + 4) / 8 * 8 = off by omega]
  dsimp only [State.unstage]
  rw [found, clear]
  rfl

theorem exec_regWriteLowHalf (master addr value : Nat) (s : State) :
    exec (.regWriteLowHalf master addr value) s = blockWriteBy master (addr / 8 * 8) 4 value s := rfl
theorem exec_regWriteHighHalf (master addr value : Nat) (s : State) :
    exec (.regWriteHighHalf master addr value) s = blockWriteBy master (addr / 8 * 8 + 4) 4 value s := rfl
theorem exec_registerWrite (master addr value : Nat) (s : State) :
    exec (.registerWrite master addr value) s = blockWriteBy master (addr / 8 * 8) 8 value s := rfl

/-- A write to no mailbox is the block's. -/
theorem blockWriteBy_register {s : State} (on : s.powered = true) {master addr : Nat} (n value : Nat) (h : isMailbox addr = false) :
    blockWriteBy master addr n value s = .next (s.regPut master addr n value) := by
  rw [blockWriteBy, withPower_on on, h]
  rfl

/-- The host's and the board controller's write to the mailbox is refused by name. -/
theorem blockWriteBy_mailbox {s : State} (on : s.powered = true) {master addr : Nat} (n value : Nat) (h : isMailbox addr = true)
    (hm : master = 81 ∨ master = 82) : blockWriteBy master addr n value s = .refused .boardMailbox := by
  rw [blockWriteBy, withPower_on on, h]
  rcases hm with rfl | rfl <;> rfl

/-- A write that the block's table admits. -/
theorem blockWriteBy_open {s : State} {master addr n : Nat} (value : Nat) (h : RegOpen master addr n s) (shape : regShape addr n = true) :
    blockWriteBy master addr n value s = .next (s.regWrite master addr n value false) := by
  obtain ⟨on, tier, lies, noBox, grant, up, way⟩ := h
  rw [blockWriteBy_register on n value noBox, regPut_open value tier shape lies grant up way]

/-- One that it does not let through. -/
theorem blockWriteBy_closed {s : State} (on : s.powered = true) {master addr n : Nat} (value : Nat) (noBox : isMailbox addr = false)
    (h : regAt addr = false ∨ s.granted master addr n true = false ∨ ((master = 81 ∨ master = 82) ∧ s.up = false) ∨
      (master = 81 ∧ s.hostWay addr = false)) : blockWriteBy master addr n value s = .next s := by
  rw [blockWriteBy_register on n value noBox, regPut_closed value h]

/-! ### Registers of a pen's block (R397) -/

/-- A write of a pen's block that is not hidden, past its launch queues. -/
theorem blockWrite_trchead {s : State} {master pn : Nat} (value : Nat) {sys : Bool} (hp : pn < 16) (h : s.hidden master (10 + pn) 0xD8 sys = false) :
    s.blockWrite master (10 + pn) 0xD8 value sys = s.setPen pn { s.pen pn with trchead := value % 2 ^ 32 } := by
  unfold State.blockWrite
  rw [h, if_neg (by decide), if_neg (by omega), if_neg (by omega), if_pos (by omega), Nat.add_sub_cancel_left]
  rfl

theorem blockWrite_brkaddr {s : State} {master pn : Nat} (value : Nat) {sys : Bool} (hp : pn < 16) (h : s.hidden master (10 + pn) 0xE0 sys = false) :
    s.blockWrite master (10 + pn) 0xE0 value sys = s.setPen pn { s.pen pn with brkaddr := BitVec.ofNat 64 (value % 2 ^ 57) } := by
  unfold State.blockWrite
  rw [h, if_neg (by decide), if_neg (by omega), if_neg (by omega), if_pos (by omega), Nat.add_sub_cancel_left]
  rfl

/-- A register that is only read ignores a write. -/
theorem blockWrite_readOnly {s : State} {master pn : Nat} (value : Nat) {sys : Bool} (hp : pn < 16) :
    s.blockWrite master (10 + pn) 0xA0 value sys = s := by
  have shown : s.hidden master (10 + pn) 0xA0 sys = false := by
    have reg : hiddenReg 0xA0 = false := by decide
    simp [State.hidden, reg]
  unfold State.blockWrite
  rw [shown, if_neg (by decide), if_neg (by omega), if_neg (by omega), if_pos (by omega), Nat.add_sub_cancel_left]
  rfl

/-- FABID is the board controller's to write. -/
theorem blockWrite_fabid_kept {s : State} {master value : Nat} {sys : Bool}
    (h : master ≠ 82 ∨ value % 2 ^ 16 = 0xFFFF ∨ ∃ p ∈ s.pens, p.2.enable = true) : s.blockWrite master 0 0 value sys = s := by
  have shown : s.hidden master 0 0 sys = false := by simp [State.hidden]
  unfold State.blockWrite
  rw [shown, if_neg (by decide), if_pos rfl]
  dsimp only
  rcases h with h | h
  · exact if_neg h
  · exact (congrArg (ite (master = 82) · s) (fabidWrite_kept h)).trans (ite_self s)

/-! ### The host's accesses (R350, R399, R400) -/

theorem exec_hostWrite (addr n x : Nat) (s : State) : exec (.hostWrite addr n x) s = execHostWrite addr n x s := rfl
theorem exec_hostRead (addr n : Nat) (s : State) : exec (.hostRead addr n) s = execHostRead addr n s := rfl
theorem exec_hostProcessorWrite (addr n x : Nat) (s : State) : exec (.hostProcessorWrite addr n x) s = execHostProcessorWrite addr n x s := rfl

/-- A mailbox lies among the registers. -/
theorem not_isMailbox {addr : Nat} (h : tierOf addr ≠ .regs) : isMailbox addr = false := by
  simp [isMailbox, h]

/-- The host's write of memory. -/
theorem execHostWrite_memory {s : State} (on : s.powered = true) {addr : Nat} (n x : Nat) (h : tierOf addr ≠ .regs) :
    execHostWrite addr n x s = if !s.hostMay addr n true then .next s
      else if s.badWrite [(addr, n)] then .next (patrolScrub (addr / 64) s) else .next (s.physWrite none addr n x) := by
  rw [execHostWrite, withPower_on on, not_isMailbox h, if_neg (by decide), if_neg h]

/-- The host's read of memory. -/
theorem execHostRead_memory {s : State} (on : s.powered = true) {addr : Nat} (n : Nat) (h : tierOf addr ≠ .regs) :
    execHostRead addr n s = if !s.hostMay addr n false then .next s else .next { s with hostReads := (addr, s.stored addr n) :: s.hostReads } := by
  rw [execHostRead, withPower_on on, not_isMailbox h, if_neg (by decide), if_neg h]

/-- Scrubbing reports, and leaves memory and its bad lines. -/
theorem patrolScrub_mem (line : Nat) (s : State) : (patrolScrub line s).mem = s.mem ∧ (patrolScrub line s).bad = s.bad := by
  unfold patrolScrub
  split
  · exact ⟨rfl, rfl⟩
  · exact ⟨rfl, rfl⟩

/-- A write of plain bytes by the package itself. -/
theorem physWrite_plain {s : State} {addr n : Nat} (x : Nat) (h : s.badWrite [(addr, n)] = false) :
    OnlyMem addr n s (s.physWrite none addr n x) ∧ StoredAt addr n x s.mem (s.physWrite none addr n x).mem := by
  refine ⟨⟨physWrite_frame s none addr n x, fun p => ?_⟩, by rw [physWrite_mem none x h]; exact storedAt_writeLE addr n x s.mem⟩
  rw [State.physWrite, if_neg (by simp [h])]
  simp only [State.sealWith, State.clearBad, List.mem_filter, List.any_cons, List.any_nil, Bool.or_false, Bool.not_eq_true', decide_eq_false_iff_not]

/-- Bytes of which none stands encrypted read as they are. -/
theorem stored_plain {s : State} {addr n : Nat} (h : ∀ p ∈ s.enc, ¬(addr ≤ p.1 ∧ p.1 < addr + n)) : s.stored addr n = readLE s.mem addr n := by
  induction n generalizing addr with
  | zero => rfl
  | succ n ih =>
    have plain : s.enc.find? (fun p => p.1 == addr) = none := by
      rw [List.find?_eq_none]
      intro p hp
      have := h p hp
      simp only [beq_iff_eq]
      omega
    rw [State.stored, readLE, ih fun p hp => by have := h p hp; omega, State.storedByte, plain]
    rfl

/-- Device memory holds no registers, and neither does host memory. -/
theorem tierOf_ne_regs {addr : Nat} (h : tableOk addr = true ∨ tierOf addr = .host) : tierOf addr ≠ .regs := by
  intro regs
  rcases h with h | h
  · rw [tableOk, regs] at h; cases h
  · rw [h] at regs; cases regs

/-- A write of part of a register or of a whole one, to no mailbox, that its block does not let through. -/
theorem exec_registerWrites_closed {s : State} {i : Instr} {master addr value : Nat} (ha : addr % 8 = 0) (on : s.powered = true)
    (hi : i = .regWriteLowHalf master addr value ∨ i = .regWriteHighHalf master addr value ∨ i = .registerWrite master addr value)
    (noBox : isMailbox addr = false) (noBox' : isMailbox (addr + 4) = false)
    (h : (regAt addr = false ∧ regAt (addr + 4) = false) ∨ (∀ a n, s.granted master a n true = false) ∨ ((master = 81 ∨ master = 82) ∧ s.up = false) ∨
      (master = 81 ∧ s.hostWay addr = false ∧ s.hostWay (addr + 4) = false)) : exec i s = .next s := by
  have low : addr / 8 * 8 = addr := by omega
  have closed (n : Nat) : regAt addr = false ∨ s.granted master addr n true = false ∨ ((master = 81 ∨ master = 82) ∧ s.up = false) ∨
      (master = 81 ∧ s.hostWay addr = false) := h.imp (·.1) (Or.imp (· addr n) (Or.imp id fun x => ⟨x.1, x.2.1⟩))
  have closed' : regAt (addr + 4) = false ∨ s.granted master (addr + 4) 4 true = false ∨ ((master = 81 ∨ master = 82) ∧ s.up = false) ∨
      (master = 81 ∧ s.hostWay (addr + 4) = false) := h.imp (·.2) (Or.imp (· (addr + 4) 4) (Or.imp id fun x => ⟨x.1, x.2.2⟩))
  rcases hi with rfl | rfl | rfl
  · rw [exec_regWriteLowHalf, low, blockWriteBy_closed on value noBox (closed 4)]
  · rw [exec_regWriteHighHalf, low, blockWriteBy_closed on value noBox' closed']
  · rw [exec_registerWrite, low, blockWriteBy_closed on value noBox (closed 8)]

/-- One to the mailbox of the board controller. -/
theorem exec_registerWrites_mailbox {s : State} {i : Instr} {master addr value : Nat} (ha : addr % 8 = 0) (on : s.powered = true)
    (hi : i = .regWriteLowHalf master addr value ∨ i = .regWriteHighHalf master addr value ∨ i = .registerWrite master addr value)
    (box : isMailbox addr = true) (box' : isMailbox (addr + 4) = true) (hm : master = 81 ∨ master = 82) : exec i s = .refused .boardMailbox := by
  have low : addr / 8 * 8 = addr := by omega
  rcases hi with rfl | rfl | rfl
  · rw [exec_regWriteLowHalf, low, blockWriteBy_mailbox on _ _ box hm]
  · rw [exec_regWriteHighHalf, low, blockWriteBy_mailbox on _ _ box' hm]
  · rw [exec_registerWrite, low, blockWriteBy_mailbox on _ _ box hm]

/-- A low half staged, then the high half: the whole register is written. -/
theorem exec_halves {s : State} {master addr lo hi b off : Nat} (ha : addr % 8 = 0) (open_ : RegOpen master addr 4 s) (open' : RegOpen master (addr + 4) 4 s)
    (block : regBlock addr = some (b, off)) (ho : off % 8 = 0) (block' : regBlock (addr + 4) = some (b, off + 4)) (hlo : lo < 2 ^ 32) (hhi : hi < 2 ^ 32) :
    ∃ s1, exec (.regWriteLowHalf master addr lo) s = .next s1 ∧ { s1 with staged := [] } = { s with staged := [] } ∧
      exec (.regWriteHighHalf master addr hi) s1 =
        .next (({ s with staged := s.staged.filter (fun x => x.1 != master) } : State).blockWrite master b off (lo + hi * 2 ^ 32) false) := by
  have low : addr / 8 * 8 = addr := by omega
  have shape : regShape addr 4 = true := by simp [regShape, show addr % 4 = 0 by omega]
  have shape' : regShape (addr + 4) 4 = true := by simp [regShape, show (addr + 4) % 4 = 0 by omega]
  refine ⟨{ s with staged := s.staged.filter (fun x => x.1 != master) ++ [(master, addr, lo % 2 ^ 32)] }, ?_, rfl, ?_⟩
  · rw [exec_regWriteLowHalf, low, blockWriteBy_open lo open_ shape, regWrite_low s master lo false block ho]
  · rw [exec_regWriteHighHalf, low, blockWriteBy_open hi (by exact open') shape', regWrite_high s master hi false block' ha ho, Nat.mod_eq_of_lt hlo,
      Nat.mod_eq_of_lt hhi]

/-- Eight bytes write the whole register. -/
theorem exec_whole {s : State} {master addr value b off : Nat} (ha : addr % 8 = 0) (open_ : RegOpen master addr 8 s)
    (block : regBlock addr = some (b, off)) (hv : value < 2 ^ 64) :
    exec (.registerWrite master addr value) s =
      .next (({ s with staged := s.staged.filter (fun x => x.1 != master) } : State).blockWrite master b off value false) := by
  have low : addr / 8 * 8 = addr := by omega
  rw [exec_registerWrite, low, blockWriteBy_open value open_ (regShape_eight ha), regWrite_eight s master value false block, Nat.mod_eq_of_lt hv]
  rfl

/-- Settles O50: register blocks by `exec_halves`, `exec_whole` and the writes that are not admitted; the host's accesses of memory by what its
rights and the lines that it writes let through. -/
theorem hostAndRegisterBlocks : Obligations.HostAndRegisterBlocks := by
  unfold Obligations.HostAndRegisterBlocks
  refine ⟨⟨?_, ?_, ?_, ?_⟩, ?_⟩
  · intro master addr lo hi b off s ha open_ open' block ho block' hlo hhi
    exact exec_halves ha open_ open' block ho block' hlo hhi
  · intro master addr value b off s ha open_ block _ hv
    exact exec_whole ha open_ block hv
  · intro master pn value sys s hp shownHead shownAddr
    refine ⟨?_, ?_, blockWrite_readOnly value hp, blockWrite_fabid_kept⟩
    · rw [blockWrite_trchead value hp shownHead, State.pen_setPen, if_pos rfl]
    · rw [blockWrite_brkaddr value hp shownAddr, State.pen_setPen, if_pos rfl]
  · intro master addr value s i ha on hi
    exact ⟨exec_registerWrites_closed ha on hi, exec_registerWrites_mailbox ha on hi⟩
  · intro addr n x s on
    refine ⟨fun dev may good => ?_, fun dev bad => ?_, fun dev may => ?_, fun dev may => ⟨?_, stored_plain⟩, fun dev may => ?_, fun host fits good => ?_,
      fun box => ⟨?_, ?_⟩⟩
    · rw [exec_hostWrite, execHostWrite_memory on n x (tierOf_ne_regs (.inl dev)), may, good]
      exact ⟨_, rfl, physWrite_plain x good⟩
    · rw [exec_hostWrite, execHostWrite_memory on n x (tierOf_ne_regs (.inl dev)), bad]
      by_cases may : s.hostMay addr n true = true
      · rw [may]; exact ⟨_, rfl, patrolScrub_mem _ s⟩
      · exact ⟨s, if_pos (by simpa using may), rfl, rfl⟩
    · rw [exec_hostWrite, execHostWrite_memory on n x (tierOf_ne_regs (.inl dev)), may]; rfl
    · rw [exec_hostRead, execHostRead_memory on n (tierOf_ne_regs (.inl dev)), may]; rfl
    · rw [exec_hostRead, execHostRead_memory on n (tierOf_ne_regs (.inl dev)), may]; rfl
    · rw [exec_hostProcessorWrite, execHostProcessorWrite, withPower_on on, if_pos ⟨host, fits⟩]
      exact ⟨_, rfl, physWrite_plain x good⟩
    · rw [exec_hostWrite, execHostWrite, withPower_on on, if_pos box]
    · rw [exec_hostRead, execHostRead, withPower_on on, if_pos box]

end Sys2Proof.Machine

/-!
SUPPORT. O40: page walks that end at once (R22, R27, R31), heat (R39 to R41), scrubbing (R80).
-/
namespace Sys2Proof.Machine
open Sys2Proof.Claims

/-! ### Walks (R22) -/

/-- The bytes of a number that memory holds. -/
theorem byteAt_readLE (m : Mem) (a n i : Nat) (h : i < n) : byteAt m (a + i) = BitVec.ofNat 8 (readLE m a n / 256 ^ i) := by
  induction n generalizing a i with
  | zero => omega
  | succ n ih =>
    rw [readLE]
    have low : (byteAt m a).toNat < 256 := (byteAt m a).isLt
    cases i with
    | zero =>
      rw [pow_zero, Nat.div_one, Nat.add_zero]
      refine BitVec.eq_of_toNat_eq ?_
      rw [BitVec.toNat_ofNat]
      omega
    | succ i =>
      rw [show a + (i + 1) = a + 1 + i by omega, ih (a + 1) i (by omega), pow_succ', ← Nat.div_div_eq_div_mul,
        show ((byteAt m a).toNat + 256 * readLE m (a + 1) n) / 256 = readLE m (a + 1) n by omega]

/-- What stands at an address is stored there. -/
theorem storedAt_self (m : Mem) (a n : Nat) : StoredAt a n (readLE m a n) m m := by
  intro _ b
  split_ifs with on
  · obtain ⟨i, rfl⟩ := Nat.exists_eq_add_of_le on.1
    rw [byteAt_readLE m a n i (by omega), Nat.add_sub_cancel_left, Nat.pow_mul]
  · rfl

/-- The leaf that a walk ends at stands at its entry's address. -/
theorem walkAt_leaf {s : State} {fuel table va e l a : Nat} (h : walkAt s fuel table va = .leaf e l a) : readLE s.mem a 8 = e := by
  induction fuel generalizing table with
  | zero => cases h
  | succ n ih =>
    unfold walkAt at h
    dsimp only at h
    split_ifs at h <;> first | exact ih h | (cases h; rfl)

theorem walkOn_leaf {s : State} {die va e l a : Nat} {sp : Space} (h : s.walkOn die sp va = .leaf e l a) : readLE s.mem a 8 = e := by
  unfold State.walkOn State.walkFrom at h
  split at h
  · cases h
  · exact walkAt_leaf h

/-- Where no walk is under way a slot is free (R33). -/
theorem walkFree_empty {s : State} (w : Who) (hw : s.walks = []) : s.walkFree (s.walkPen w) w.onDie = true := by
  have share : 0 < s.walkShare (s.walkPen w) w.onDie := by
    unfold State.walkShare
    split_ifs
    · omega
    · decide
  rw [State.walkFree, hw]
  simp only [List.filter_nil, List.length_nil, List.any_nil, Bool.not_false, Bool.and_true]
  exact decide_eq_true share

/-- Where none is to take longer, a miss walks to its end at once (R33). -/
theorem walkMiss_free {s : State} (sp : Space) (w : Who) (kind : Nat) (home : Bool) (va : Nat) (hw : s.walks = []) (hs : s.slow = 0) :
    s.walkMiss sp w kind home va = s.useWalk sp w kind home va (s.walkOn w.onDie sp va) := by
  rw [State.walkMiss, hw]
  dsimp only [List.find?_nil]
  rw [State.newWalk, walkFree_empty w hw, hs]
  rfl

/-- A leaf that passes its checks and is not write-blocked gets its bits, and is cached (R27, R31). -/
theorem useLeaf_marks {s : State} {sp : Space} {w : Who} {kind va e a : Nat} {home : Bool} (level : Nat) (stands : readLE s.mem a 8 = e)
    (check : leafCheck sp w kind home e (leafPa e va) = none) (open_ : ¬((kind = 1 ∨ kind = 2) ∧ field e 62 1 = 1)) :
    ∃ t, s.useLeaf sp w kind home va e level (some a) = (.ok (leafPa e va) e, t) ∧
      StoredAt a 8 (if kind = 1 ∨ kind = 2 then e ||| 0x60 else e ||| 0x20) s.mem t.mem ∧ { t with mem := [], tlb := [] } = { s with mem := [], tlb := [] } := by
  have write : ((kind == 1 || kind == 2) = true) = (kind = 1 ∨ kind = 2) := by simp
  have stored : StoredAt a 8 (if kind = 1 ∨ kind = 2 then e ||| 0x60 else e ||| 0x20) s.mem (s.markEntry a e (kind == 1 || kind == 2)).mem := by
    unfold State.markEntry
    simp only [write]
    split_ifs with set same same
    · rw [same, ← stands]; exact storedAt_self _ _ _
    · exact storedAt_writeLE _ _ _ _
    · rw [same, ← stands]; exact storedAt_self _ _ _
    · exact storedAt_writeLE _ _ _ _
  obtain ⟨m, mark⟩ := s.markEntry_eq a e (kind == 1 || kind == 2)
  obtain ⟨l, cache⟩ := (s.markEntry a e (kind == 1 || kind == 2)).cache_eq (s.walkPen w) sp va
    (readLE (s.markEntry a e (kind == 1 || kind == 2)).mem a 8)
  refine ⟨{ s.markEntry a e (kind == 1 || kind == 2) with tlb := l }, ?_, stored, by rw [mark]⟩
  rw [State.useLeaf, check]
  dsimp only
  rw [if_neg (by simpa using open_), cache]

theorem exec_pageWalk (core ctx va kind : Nat) (s : State) : exec (.pageWalk core ctx va kind) s = .next (pageWalk core ctx va kind s) := rfl

/-- A walk that ends at a fault leaves it to the access that raises it. -/
theorem pageWalk_bad {s : State} {core ctx va c l : Nat} (kind : Nat) (hw : s.walks = []) (hs : s.slow = 0)
    (h : s.walkOn (dieOf core) (s.ctx core ctx).space va = .bad c l) : pageWalk core ctx va kind s = s := by
  unfold pageWalk
  dsimp only
  rw [walkMiss_free _ (s.whoCtx core ctx 0) _ _ _ hw hs, show (s.whoCtx core ctx 0).onDie = dieOf core from rfl, h, ite_eq_left_iff]
  exact fun _ => rfl

/-- A walk that ends at a leaf which goes sets its bits. -/
theorem pageWalk_leaf {s : State} {core ctx va kind e l a : Nat} (hw : s.walks = []) (hs : s.slow = 0) (low : va < 2 ^ 56)
    (h : s.walkOn (dieOf core) (s.ctx core ctx).space va = .leaf e l a)
    (check : leafCheck (s.ctx core ctx).space (s.whoCtx core ctx 0) (kind % 4) false e (leafPa e va) = none)
    (open_ : ¬((kind % 4 = 1 ∨ kind % 4 = 2) ∧ field e 62 1 = 1)) :
    StoredAt a 8 (if kind % 4 = 1 ∨ kind % 4 = 2 then e ||| 0x60 else e ||| 0x20) s.mem (pageWalk core ctx va kind s).mem ∧
      { pageWalk core ctx va kind s with mem := [], tlb := [] } = { s with mem := [], tlb := [] } := by
  obtain ⟨t, use, stored, frame⟩ := useLeaf_marks l (walkOn_leaf h) check open_
  have reach : ¬((!canonical va || (systemHalf va && !(s.ctx core ctx).space.sys)) = true) := by
    have c : canonical va = true := by simp only [canonical, low, decide_true, Bool.true_or]
    have u : systemHalf va = false := by simp [systemHalf]; omega
    simp [c, u]
  have walk : pageWalk core ctx va kind s = t := by
    unfold pageWalk
    dsimp only
    rw [if_neg reach, walkMiss_free _ (s.whoCtx core ctx 0) _ _ _ hw hs, show (s.whoCtx core ctx 0).onDie = dieOf core from rfl, h, State.useWalk, use]
  rw [walk]
  exact ⟨stored, frame⟩

/-! ### Heat (R39 to R41) -/

theorem exec_heatNotificationAppend (die pen : Nat) (s : State) : exec (.heatNotificationAppend die pen) s = .next (heatNotify die pen s) := rfl
theorem exec_heatclrWrite (die pen value : Nat) (s : State) :
    exec (.heatclrWrite die pen value) s = .next (s.heatClear die pen (s.heatReg die pen).clr.toNat value) := rfl

/-- The one entry that is hot and not told of is the next. -/
theorem firstHot_single {pen i : Nat} {h : Heat} (hp : h.pen = pen) (hot : 256 ≤ h.count) (new : h.told = false) :
    firstHot pen [(i, h)] = some (i, h) := by
  simp [firstHot, hp, hot, new]

/-- A hot entry that is told of: its record lies in the ring of its pen, and the gate is raised. -/
theorem heatNotify_told {s : State} {die pen i : Nat} {h : Heat} (heat : (s.die die).heat = [(i, h)]) (hp : h.pen = pen) (hot : 256 ≤ h.count)
    (new : h.told = false) (on : (s.heatReg die pen).enable = true)
    (size : 4 ≤ (s.heatReg die pen).logsize ∧ (s.heatReg die pen).logsize ≤ 12) (mine : (s.pen pen).cores.contains (s.heatReg die pen).core = true)
    (room : ((s.heatReg die pen).tail + 2 ^ 32 - (s.heatReg die pen).head) % 2 ^ 32 < 2 ^ (s.heatReg die pen).logsize ∧
      (s.heatReg die pen).base.toNat + 32 * ((s.heatReg die pen).tail % 2 ^ (s.heatReg die pen).logsize) + 32 ≤ (s.chipWin pen die).2) :
    heatNotify die pen s =
      ((s.setDie die { s.die die with
          heat := mset (s.die die).heat i { h with told := true }, heatSeq := ((s.die die).heatSeq + 1) % 2 ^ 16,
          csp := writeLE (s.die die).csp ((s.chipWin pen die).1 + (s.heatReg die pen).base.toNat +
            32 * ((s.heatReg die pen).tail % 2 ^ (s.heatReg die pen).logsize)) 32 (heatImage (s.die die).heatSeq h.tick die h pen) }).setHeatReg die pen
        { s.heatReg die pen with tail := ((s.heatReg die pen).tail + 1) % 2 ^ 32 }).modCore (s.heatReg die pen).core
          (fun c => (c.raiseGate (s.heatReg die pen).gate).2) := by
  unfold heatNotify
  dsimp only
  rw [if_pos (by simp only [Bool.and_eq_true, decide_eq_true_eq]; exact ⟨⟨⟨on, size⟩, mine⟩, room⟩), heat, firstHot_single hp hot new]

/-- A gate that does not overflow counts one more, and no context of its core changes. -/
theorem raiseGate_counts {c : Core} {n : Nat} (h : mget 0 c.gates n < 65535) :
    (∀ g, mget 0 (c.raiseGate n).2.gates g = if g = n then mget 0 c.gates g + 1 else mget 0 c.gates g) ∧ (c.raiseGate n).2.ctxs = c.ctxs := by
  unfold Core.raiseGate
  dsimp only
  rw [if_neg (by simp only [gateMax]; omega)]
  refine ⟨fun g => ?_, rfl⟩
  rw [mget_mset]
  split_ifs with e
  · rw [e]
  · rfl

/-- An update of a core that leaves its contexts changes none. -/
theorem ctx_modCore {s : State} {i : Nat} {f : Core → Core} (h : (f (s.core i)).ctxs = (s.core i).ctxs) (j y : Nat) :
    (s.modCore i f).ctx j y = s.ctx j y := by
  unfold State.ctx State.modCore
  rw [State.core_setCore]
  split_ifs with e
  · subst e; exact congrArg (fun m => mget ({} : Ctx) m y) h
  · rfl

/-- The parts of a package with a die, its heat registers of a pen and a core written. -/
theorem notified_parts (s : State) (die pen k : Nat) (x : Die) (y : HeatRegs) {f : Core → Core} (hf : (f (s.core k)).ctxs = (s.core k).ctxs) :
    let t := ((s.setDie die x).setHeatReg die pen y).modCore k f
    t.mem = s.mem ∧ (t.die die).csp = x.csp ∧ (t.die die).heat = x.heat ∧ t.heatReg die pen = y ∧ t.core k = f (s.core k) ∧
      ∀ j z, t.ctx j z = s.ctx j z := by
  intro t
  have at_ : t.die die = { x with heatRegs := mset x.heatRegs pen y } := by
    refine (State.die_setDie (s.setDie die x) die die _).trans ((if_pos rfl).trans ?_)
    rw [State.die_setDie, if_pos rfl]
  exact ⟨rfl, by rw [at_], by rw [at_], by rw [State.heatReg, at_]; exact mget_mset_self _ _ _ _, (State.core_setCore _ k k _).trans (if_pos rfl),
    fun j z => ctx_modCore (s := (s.setDie die x).setHeatReg die pen y) hf j z⟩

/-- Clearing an entry frees the pen's entry of the page, and no other (R39). -/
theorem mem_heatClear {s : State} {die pen va value : Nat} (p : Nat × Heat) :
    p ∈ ((s.heatClear die pen va value).die die).heat ↔ p ∈ (s.die die).heat ∧
      ¬(p.2.pen = pen ∧ p.2.spaceid.toNat = value % 2 ^ 16 ∧ p.2.page ≤ va ∧ va < p.2.page + pageBytes p.2.size) := by
  unfold State.heatClear
  dsimp only
  rw [State.die_setDie, if_pos rfl]
  dsimp only
  rw [List.mem_filter, Bool.not_eq_true', ← Bool.not_eq_true]
  simp only [Bool.and_eq_true, beq_iff_eq, decide_eq_true_eq, and_assoc]

/-! ### Scrubbing (R80) -/

theorem exec_patrolScrub (line : Nat) (s : State) : exec (.patrolScrub line) s = .next (patrolScrub line s) := rfl

/-- The record of a bad line holds its class and its address. -/
theorem scrubRec_fields (addr tick : Nat) :
    field ({ cls := 0x32, addr := addr, tick := tick } : FRec).image 56 8 = 0x32 ∧
      field ({ cls := 0x32, addr := addr, tick := tick } : FRec).image 64 57 = addr % 2 ^ 57 := by
  have key : ({} : Coord).pack = 0 := rfl
  simp only [field, FRec.image, key]
  refine ⟨?_, ?_⟩ <;> omega

/-- Settles O40: a walk by `pageWalk_bad` and `pageWalk_leaf`, a notification by `heatNotify_told`, clearing by `mem_heatClear`, scrubbing by the
record it reports. -/
theorem walksHeatAndScrubbing : Obligations.WalksHeatAndScrubbing := by
  unfold Obligations.WalksHeatAndScrubbing
  refine ⟨?_, ?_, ?_, ?_⟩
  · intro core ctx va kind s sp write hw hs
    rw [exec_pageWalk]
    exact ⟨fun c l bad => congrArg _ (pageWalk_bad kind hw hs bad), fun e l a low leaf check open_ => ⟨_, rfl, pageWalk_leaf hw hs low leaf check open_⟩⟩
  · intro die pen i h s d r at_ heat hp hot new on four twelve mine room fits gate
    have told := heatNotify_told heat hp hot new on ⟨four, twelve⟩ mine ⟨room, fits⟩
    obtain ⟨gates, ctxs⟩ := raiseGate_counts gate
    obtain ⟨mem, csp, hot_, reg, core, ctx⟩ := notified_parts s die pen r.core
      { d with heat := mset d.heat i { h with told := true }, heatSeq := (d.heatSeq + 1) % 2 ^ 16,
               csp := writeLE d.csp ((s.chipWin pen die).1 + r.base.toNat + 32 * (r.tail % 2 ^ r.logsize)) 32 (heatImage d.heatSeq h.tick die h pen) }
      { r with tail := (r.tail + 1) % 2 ^ 32 } (f := fun c => (c.raiseGate r.gate).2) ctxs
    refine ⟨_, (exec_heatNotificationAppend die pen s).trans (congrArg _ told), mem, ?_, reg, ?_, ?_, ctx⟩
    · rw [csp, ← Nat.add_assoc]
      dsimp only
      exact storedAt_writeLE _ _ _ _
    · rw [hot_, heat]
      simp [mset]
    · rw [core]
      exact gates
  · intro die pen value s va
    rw [exec_heatclrWrite]
    refine ⟨_, rfl, rfl, fun j => ?_, fun j hj => ?_, mem_heatClear⟩
    · rw [State.heatClear, State.die_setDie]
      split_ifs with e
      · rw [e]
      · rfl
    · exact (State.die_setDie _ _ _ _).trans (if_neg hj)
  · intro line s
    rw [exec_patrolScrub]
    refine ⟨fun good => congrArg _ (if_neg (by simpa using good)), fun bad => ⟨_, _, rfl, if_pos bad, scrubRec_fields _ _⟩⟩

end Sys2Proof.Machine

/-!
SUPPORT. O39: queue refills and withdrawals (R73, R74, R276), and writers that wait on a page (R42, R43).
-/
namespace Sys2Proof.Machine
open Sys2Proof.Claims

/-! ### Queues (R73, R74, R276) -/

theorem exec_queueRefill (shed n : Nat) (s : State) : exec (.queueRefill shed n) s = .next (queueRefill shed n s) := rfl
theorem exec_queueWithdrawal (core ctx : Nat) (s : State) : exec (.queueWithdrawal core ctx) s = .next (queueWithdrawal core ctx s) := rfl

/-- The ring's oldest record moves on chip where there is room. -/
theorem queueRefill_moves {shed n : Nat} {s : State} (hs : shed < 72) (ring : 0 < (s.hq shed n).ring) (room : (s.hq shed n).chip.length < 32) :
    queueRefill shed n s = s.setHq shed n { s.hq shed n with
      chip := (s.hq shed n).chip ++ [s.rdSpc (12 * shed) 3 ((s.hq shed n).slot ((s.hq shed n).spill - (s.hq shed n).ring)) 32],
      ring := (s.hq shed n).ring - 1 } :=
  if_neg (by omega)

/-- A slot of a queue's ring lies in the chip scratchpad of the shed's die. -/
theorem rdSpc_slot (s : State) (shed i : Nat) (q : HQ) :
    s.rdSpc (12 * shed) 3 (q.slot i) 32 =
      readLE (s.die (dieOfShed shed)).csp ((s.chipOf (12 * shed)).1 + field q.base.toNat 5 27 * 32 + 32 * (i % 2 ^ q.logsize)) 32 := by
  have die_ : dieOf (12 * shed) = dieOfShed shed := by unfold dieOf dieOfShed; omega
  rw [← die_, Nat.add_assoc]
  rfl

/-- A register made full, and the rest as they were (R93). -/
theorem full_mark_false (c : Ctx) (n m : Nat) : (c.mark n false).full m = (m == n || c.full m) := by
  rw [Ctx.full_mark]
  by_cases hm : m = n
  · by_cases hn : n = 0 <;> simp [hm, hn, Ctx.full]
  · simp [hm]

theorem mark_frame (c : Ctx) (n : Nat) (b : Bool) : { c.mark n b with sE := [] } = { c with sE := [] } := by
  unfold Ctx.mark
  split_ifs <;> rfl

/-- The four registers of a record made full. -/
theorem full_markRecord_false (c : Ctx) (rb m : Nat) : (c.markRecord rb false).full m = (decide (rb ≤ m ∧ m < rb + 4) || c.full m) := by
  have four : (m == rb || (m == rb + 1 || (m == rb + 2 || m == rb + 3))) = decide (rb ≤ m ∧ m < rb + 4) := by
    rw [Bool.eq_iff_iff]
    simp only [Bool.or_eq_true, beq_iff_eq, decide_eq_true_eq]
    omega
  rw [← four, Ctx.markRecord, full_mark_false, full_mark_false, full_mark_false, full_mark_false]
  cases m == rb <;> cases m == rb + 1 <;> cases m == rb + 2 <;> cases m == rb + 3 <;> rfl

theorem markRecord_frame (c : Ctx) (rb : Nat) (b : Bool) : { c.markRecord rb b with sE := [] } = { c with sE := [] } := by
  rw [Ctx.markRecord, mark_frame, mark_frame, mark_frame, mark_frame]

/-- A wait on a queue that is withdrawn: its registers are full again. -/
theorem queueWithdrawal_waiting {core ctx rb : Nat} {s : State} (h : (s.ctx core ctx).req = some (5, rb)) :
    queueWithdrawal core ctx s = (s.modCtx core ctx (·.markRecord rb false)).modCtx core ctx (fun c => { c with req := none }) := by
  rw [queueWithdrawal, h]
  rw [State.withdrawReq, h]
  rfl

/-- A context that waits on no queue is left alone. -/
theorem queueWithdrawal_other {core ctx : Nat} {s : State} (h : ∀ rb, (s.ctx core ctx).req ≠ some (5, rb)) : queueWithdrawal core ctx s = s := by
  unfold queueWithdrawal
  split
  · exact absurd ‹_› (h _)
  · rfl

/-! ### Writers (R42, R43) -/

theorem exec_writerRetry (core agent : Nat) (s : State) : exec (.writerRetry core agent) s = .next (writerRetry core agent s) := rfl
theorem exec_writeBlockTimeout (core agent : Nat) (s : State) : exec (.writeBlockTimeout core agent) s = .next (writeBlockTimeout core agent s) := rfl

section
variable {core ctx : Nat} {p : Park} {s : State}

/-- The wait of a context. -/
theorem parkOf_ctx (hc : ctx < 4) (h : (s.ctx core ctx).wblk = some p) : s.parkOf core ctx = some ⟨p, (s.ctx core ctx).space, dieOf core⟩ := by
  refine (if_pos hc).trans ?_
  rw [h]
  rfl

theorem setPark_ctx (hc : ctx < 4) (w : Option Park) : s.setPark core ctx w = s.setCtx core ctx { s.ctx core ctx with wblk := w } := if_pos hc

/-- A writer that may try now. -/
theorem mayTry_iff (tick : Nat) : p.mayTry tick = true ↔ p.parked = false ∧ (p.woken = true ∨ p.tried + 64 ≤ tick) := by
  simp [Park.mayTry]

/-- Any other stays. -/
theorem writerRetry_stays (hc : ctx < 4) (h : (s.ctx core ctx).wblk = some p) (stay : ¬p.mayTry s.tick = true) : writerRetry core ctx s = s := by
  rw [writerRetry, parkOf_ctx hc h]
  exact if_pos (by simpa using stay)

/-- One that may try goes on, or parks once more while its page is write-blocked. -/
theorem writerRetry_tries {e l a : Nat} (hc : ctx < 4) (h : (s.ctx core ctx).wblk = some p) (go : p.mayTry s.tick = true)
    (leaf : s.walk (s.ctx core ctx).space p.va = .leaf e l a) :
    writerRetry core ctx s = s.setCtx core ctx { s.ctx core ctx with
      wblk := if field e 62 1 = 0 then none else some { p with parked := decide (s.parkedOn (dieOf core) < 64), tried := s.tick, woken := false } } := by
  have blocked : s.stillBlocked (s.ctx core ctx).space p.va = (field e 62 1 == 1) := by rw [State.stillBlocked, leaf]
  rw [writerRetry, parkOf_ctx hc h]
  dsimp only
  rw [go, blocked, if_neg (by decide), setPark_ctx hc, setPark_ctx hc]
  rcases field_one_cases e 62 with z | z <;> rw [z] <;> rfl

/-- A wait within WBTIME goes on. -/
theorem writeBlockTimeout_within (hc : ctx < 4) (h : (s.ctx core ctx).wblk = some p)
    (within : (s.die (dieOf core)).wbtime.toNat = 0 ∨ s.tick ≤ p.since + (s.die (dieOf core)).wbtime.toNat) : writeBlockTimeout core ctx s = s := by
  rw [writeBlockTimeout, parkOf_ctx hc h]
  exact if_pos within

/-- A longer one ends with the trap. -/
theorem writeBlockTimeout_over (hc : ctx < 4) (h : (s.ctx core ctx).wblk = some p)
    (late : ¬((s.die (dieOf core)).wbtime.toNat = 0 ∨ s.tick ≤ p.since + (s.die (dieOf core)).wbtime.toNat)) :
    writeBlockTimeout core ctx s = (s.setCtx core ctx { s.ctx core ctx with wblk := none }).ownTrap core ctx
      { (s.whoCtx core ctx (s.ctx core ctx).group.toNat).frec (s.ctx core ctx).space p.kind p.n ⟨0x09, p.va, 7⟩ with done := p.done, remhi := p.hi }
      (s.ctx core ctx).group (s.ctx core ctx).st := by
  rw [writeBlockTimeout, parkOf_ctx hc h]
  dsimp only
  rw [if_neg late, if_pos hc, ctxTimeout, setPark_ctx hc]

end

/-- Settles O39: a refill by `queueRefill_moves`, a withdrawal by `queueWithdrawal_waiting`, a writer by whether it may try, and whether its time is
over. -/
theorem queuesAndWriters : Obligations.QueuesAndWriters := by
  unfold Obligations.QueuesAndWriters
  refine ⟨?_, ?_, ?_⟩
  · intro shed n s q hs ring room pos
    refine ⟨_, exec_queueRefill shed n s, ?_⟩
    rw [queueRefill_moves hs ring room, rdSpc_slot]
    exact ⟨fun h j => hq_setHq s shed n h j _, rfl, fun h => shed_setHq_queues s shed n h _⟩
  · intro core ctx s
    refine ⟨_, exec_queueWithdrawal core ctx s, ?_⟩
    by_cases waits : ∃ rb, (s.ctx core ctx).req = some (5, rb)
    · obtain ⟨rb, req⟩ := waits
      have own : (queueWithdrawal core ctx s).ctx core ctx = { (s.ctx core ctx).markRecord rb false with req := none } := by
        rw [queueWithdrawal_waiting req]; simp
      refine ⟨by rw [queueWithdrawal_waiting req]; rfl, fun h j => by rw [queueWithdrawal_waiting req]; rfl,
        fun j y away => by rw [queueWithdrawal_waiting req]; simp [away], fun rb' req' => ?_, fun none_ => absurd req (none_ rb)⟩
      obtain rfl : rb = rb' := by rw [req] at req'; cases req'; rfl
      rw [own]
      exact ⟨rfl, congrArg (fun c : Ctx => { c with req := none }) (markRecord_frame _ rb false), full_markRecord_false _ rb⟩
    · have none_ : ∀ rb, (s.ctx core ctx).req ≠ some (5, rb) := not_exists.1 waits
      rw [queueWithdrawal_other none_]
      exact ⟨rfl, fun _ _ => rfl, fun _ _ _ => rfl, fun rb req => absurd req (none_ rb), fun _ => rfl⟩
  · intro core ctx p s hc h goes
    refine ⟨fun stay => congrArg _ (writerRetry_stays hc h (mt (mayTry_iff s.tick).1 stay)), fun go e l a leaf => ?_,
      fun within => congrArg _ (writeBlockTimeout_within hc h within), fun pos late => ?_⟩
    · intro still
      refine ⟨_, congrArg Host.Outcome.next (writerRetry_tries hc h ((mayTry_iff s.tick).2 go) leaf), rfl, fun j y away => ?_, ?_⟩
      · exact (State.ctx_setCtx _ _ _ _ _ _).trans (if_neg away)
      · exact (State.ctx_setCtx _ _ _ _ _ _).trans (if_pos ⟨rfl, rfl⟩)
    · exact ⟨_, rfl, rfl, rfl, rfl, rfl, rfl, congrArg _ (writeBlockTimeout_over hc h (by omega))⟩

end Sys2Proof.Machine

/-!
SUPPORT. O20: the translation of an access within one page (R16, R22, R27, R31, R33, R260, R404), and the order of a leaf's faults (R31).
-/
namespace Sys2Proof.Machine
open Sys2Proof.Claims

/-! ### The one piece of an access within a page -/

/-- An access within one page has one piece. -/
theorem pieces_one {va n : Nat} (fuel : Nat) (hn : 0 < n) (page : va % 4096 + n ≤ 4096) (hva : va < 2 ^ 64) : pieces (fuel + 2) va n = [(va, n)] := by
  have whole : min n (4096 - va % 4096) = n := by omega
  have none : ∀ b, pieces (fuel + 1) b 0 = [] := fun b => if_pos rfl
  rw [pieces, if_neg (by omega)]
  dsimp only
  rw [whole, Nat.sub_self, none, Nat.mod_eq_of_lt hva]

/-- What its piece gives, the access gives: a home that no link reaches fails it (R404). -/
def State.oneXlate (s : State) (w : Who) (va n : Nat) : Piece → Xl
  | .ok pa e => if s.routed w.onDie (homeDie pa) then { segs := [(pa, n)], leaves := [e], leaf := 0 ||| leafTag e }
      else { segs := [(pa, n)], leaves := [e], leaf := 0 ||| leafTag e, flt := some ⟨0x24, va, 7⟩ }
  | .wait => { wait := some va }
  | .busy => { busy := true }
  | .bad f => { flt := some f }

theorem xlate_one {va n : Nat} (s : State) (sp : Space) (w : Who) (kind : Nat) (home : Bool) (hn : 0 < n) (page : va % 4096 + n ≤ 4096)
    (hva : va < 2 ^ 64) :
    s.xlate sp w kind home va n = (s.oneXlate w va n (s.xlatePiece sp w kind home va).1, (s.xlatePiece sp w kind home va).2) := by
  unfold State.xlate
  rw [pieces_one _ hn page hva, State.xlateAll]
  obtain ⟨p, s1⟩ := s.xlatePiece sp w kind home va
  cases p with
  | ok pa e => cases h : s.routed w.onDie (homeDie pa) <;> simp [State.xlateAll, State.oneXlate, h]
  | wait => rfl
  | busy => rfl
  | bad f => rfl

/-! ### Its translation -/

section
variable {s : State} {sp : Space} {w : Who} {va : Nat} (kind : Nat) (home : Bool)

/-- An address that is not canonical (R16). -/
theorem xlatePiece_noncanonical (h : ¬(va < 2 ^ 56 ∨ 2 ^ 64 - 2 ^ 56 ≤ va)) : s.xlatePiece sp w kind home va = (.bad ⟨0x04, va, 7⟩, s) := by
  have low : canonical va = false := by
    rw [canonical, Bool.or_eq_false_iff, decide_eq_false_iff_not, decide_eq_false_iff_not]
    exact ⟨fun c => h (.inl c), fun c => h (.inr c.1)⟩
  rw [State.xlatePiece, low]
  rfl

/-- One that its space reaches, and that no cached translation covers, is walked to, or waits where no entry may be read (R260). -/
theorem xlatePiece_miss (hva : va < 2 ^ 64) (reach : va < 2 ^ 56 ∨ (2 ^ 64 - 2 ^ 56 ≤ va ∧ sp.sys = true))
    (miss : ∀ t ∈ s.tlb, t.covers ((s.penOf w.core).getD 16) sp.spaceid va = false) :
    s.xlatePiece sp w kind home va = if w.cached then (.busy, s) else s.walkMiss sp w kind home va := by
  have canon : canonical va = true := by
    rw [canonical, Bool.or_eq_true, decide_eq_true_eq, decide_eq_true_eq]
    exact reach.imp id fun r => ⟨r.1, hva⟩
  have half : (systemHalf va && !sp.sys) = false := by
    rw [Bool.and_eq_false_iff]
    rcases reach with r | r
    · exact .inl (decide_eq_false (by omega))
    · exact .inr (by rw [r.2]; rfl)
  have uncached (ok : Tlb → Bool) : s.tlb.filter (fun t => t.covers (s.walkPen w) sp.spaceid va && ok t) = [] := by
    rw [List.filter_eq_nil_iff]
    intro t ht
    rw [State.walkPen, miss t ht]
    exact Bool.false_ne_true
  unfold State.xlatePiece
  rw [canon, half, if_neg (by decide), if_neg (by decide)]
  dsimp only
  rw [uncached]

/-- A walk that takes longer takes a slot (R33). -/
theorem walkMiss_slow (hw : s.walks = []) (hs : s.slow ≠ 0) : s.walkMiss sp w kind home va = (.busy, s.addWalk w sp kind home va true) := by
  rw [State.walkMiss, hw]
  dsimp only [List.find?_nil]
  rw [State.newWalk, walkFree_empty w hw, if_neg (by decide), if_pos hs]

/-- It is then the only one under way. -/
theorem addWalk_alone (hw : s.walks = []) :
    ∃ k : Walk, k.active = true ∧ k.mine w sp va = true ∧ k.level = 4 ∧ k.table = sp.root va ∧
      s.addWalk w sp kind home va true = { s with slow := s.slow - 1, walks := [k] } := by
  refine ⟨{ pen := s.walkPen w, die := w.onDie, core := w.core, ctx := w.ctx, eng := w.eng, letter := w.letter, home := home,
            va := va, kind := kind, sp := sp, level := 4, table := sp.root va, active := true }, rfl, ?_, rfl, rfl, ?_⟩
  · simp [Walk.mine]
  · rw [State.addWalk, hw]
    rfl

/-- A leaf that fails a check. -/
theorem useLeaf_refused {e c : Nat} (level : Nat) (at_ : Option Nat) (check : leafCheck sp w kind home e (leafPa e va) = some c) :
    s.useLeaf sp w kind home va e level at_ = (.bad ⟨c, va, level⟩, s) := by
  rw [State.useLeaf, check]

/-- A write to a page that is write-blocked waits (R27). -/
theorem useLeaf_waits {e : Nat} (level : Nat) (at_ : Option Nat) (check : leafCheck sp w kind home e (leafPa e va) = none)
    (write : (kind == 1 || kind == 2) = true) (blocked : field e 62 1 = 1) : s.useLeaf sp w kind home va e level at_ = (.wait, s) := by
  rw [State.useLeaf, check]
  exact if_pos (by rw [write, blocked]; rfl)

end

/-! ### The faults of a leaf, in their order (R31) -/

/-- A leaf's permissions let a kind of access through. -/
theorem leaf_allowed_iff {e kind letter : Nat} (hk : kind ≤ 3) :
    ((kind = 0 ∧ field e 1 1 = 1) ∨ (kind = 1 ∧ field e 2 1 = 1) ∨ (kind = 2 ∧ field e 1 1 = 1 ∧ field e 2 1 = 1) ∨
      (kind = 3 ∧ field e 3 1 = 1 ∧ letter = 56)) ↔
    ¬(kind == 0 && field e 1 1 == 0) = true ∧ ¬(kind == 1 && field e 2 1 == 0) = true ∧
      ¬(kind == 2 && (field e 1 1 == 0 || field e 2 1 == 0)) = true ∧ ¬(kind == 3 && (field e 3 1 == 0 || letter != 56)) = true := by
  have r := field_one_cases e 1
  have w := field_one_cases e 2
  have x := field_one_cases e 3
  simp only [Bool.and_eq_true, Bool.or_eq_true, beq_iff_eq, bne_iff_ne]
  omega

/-- Which fault a leaf raises. -/
theorem leafCheck_eq (sp : Space) {w : Who} {kind : Nat} (e pa : Nat) (home : Bool) (eng : w.eng ≠ 5) (hk : kind ≤ 3) :
    leafCheck sp w kind home e pa =
      if tierOf pa = .hole ∨ (tierOf pa = .regs ∧ regAt pa = false) then some 0x08 else if home = true ∧ field e 8 2 = 2 then some 0x02
      else if (tierOf pa = .regs ↔ field e 8 2 ≠ 2) then some 0x08
      else if ¬((kind = 0 ∧ field e 1 1 = 1) ∨ (kind = 1 ∧ field e 2 1 = 1) ∨ (kind = 2 ∧ field e 1 1 = 1 ∧ field e 2 1 = 1) ∨
        (kind = 3 ∧ field e 3 1 = 1 ∧ w.letter = 56)) then some 0x02
      else if field e w.letter 1 = 0 then some 0x03 else if sp.conf = true ∧ field e 7 1 = 0 then some 0x0A else none := by
  have chain : (w.eng == 5) = false := by simpa using eng
  have perm := leaf_allowed_iff (e := e) (letter := w.letter) hk
  unfold leafCheck
  dsimp only
  generalize tierOf pa = tier
  generalize regAt pa = lies
  rw [chain, Bool.false_and, if_neg Bool.false_ne_true]
  by_cases hole : tier = .hole ∨ (tier = .regs ∧ lies = false)
  · rw [if_pos hole, if_pos (by simpa using hole)]
  rw [if_neg hole, if_neg (by simpa using hole)]
  by_cases slice : home = true ∧ field e 8 2 = 2
  · rw [if_pos slice, if_pos (by simpa using slice)]
  rw [if_neg slice, if_neg (by simpa using slice)]
  have together : ((tier == Tier.regs) != (field e 8 2 == 2)) = true ↔ (tier = .regs ↔ field e 8 2 ≠ 2) := by
    by_cases r : tier = .regs <;> by_cases f : field e 8 2 = 2 <;> simp [r, f]
  by_cases apart : tier = .regs ↔ field e 8 2 ≠ 2
  · rw [if_pos apart, if_pos (together.2 apart)]
  rw [if_neg apart, if_neg (mt together.1 apart)]
  by_cases allowed : (kind = 0 ∧ field e 1 1 = 1) ∨ (kind = 1 ∧ field e 2 1 = 1) ∨ (kind = 2 ∧ field e 1 1 = 1 ∧ field e 2 1 = 1) ∨
      (kind = 3 ∧ field e 3 1 = 1 ∧ w.letter = 56)
  · obtain ⟨read, write, both, fetch⟩ := perm.1 allowed
    rw [if_neg (not_not.2 allowed), if_neg read, if_neg write, if_neg both, if_neg fetch]
    simp only [beq_iff_eq, Bool.and_eq_true]
  · rw [if_pos allowed]
    have refused := mt perm.2 allowed
    split_ifs with read write both fetch
    · rfl
    · rfl
    · rfl
    · rfl
    all_goals exact absurd ⟨read, write, both, fetch⟩ refused

/-- Settles O20: an access within one page has one piece (`xlate_one`), whose translation is a walk to its end (`walkMiss_free`) that a leaf's checks
let through (`useLeaf_marks`) or refuse; the order of these checks is `leafCheck_eq`. -/
theorem translation : Obligations.Translation := by
  unfold Obligations.Translation
  refine ⟨?_, fun sp w kind e pa home eng hk => leafCheck_eq sp e pa home eng hk⟩
  intro s sp w kind home va n hn page hva hk write
  rw [xlate_one s sp w kind home hn page hva]
  refine ⟨fun far => by rw [xlatePiece_noncanonical kind home far]; exact ⟨rfl, rfl⟩, fun reach miss => ?_⟩
  rw [xlatePiece_miss kind home hva reach miss]
  refine ⟨fun barred => by rw [if_pos barred]; exact ⟨rfl, rfl⟩, fun free hw => ?_⟩
  rw [if_neg (by simp [free])]
  refine ⟨fun slow => ?_, fun slow => ⟨fun c l bad => ?_, fun e l a leaf => ⟨fun c check => ?_, fun check => ⟨fun wait => ?_, fun go cut => ?_,
    fun go way => ?_⟩⟩⟩⟩
  · rw [walkMiss_slow kind home hw slow]
    exact ⟨rfl, addWalk_alone kind home hw⟩
  · rw [walkMiss_free sp w kind home va hw slow, bad]; exact ⟨rfl, rfl⟩
  · rw [walkMiss_free sp w kind home va hw slow, leaf, State.useWalk, useLeaf_refused kind home l (some a) check]; exact ⟨rfl, rfl⟩
  · rw [walkMiss_free sp w kind home va hw slow, leaf, State.useWalk, useLeaf_waits kind home l (some a) check wait.1 wait.2]; exact ⟨rfl, rfl⟩
  · obtain ⟨t, use, -, -⟩ := useLeaf_marks l (walkOn_leaf leaf) check (by simpa [write] using go)
    rw [walkMiss_free sp w kind home va hw slow, leaf, State.useWalk, use, State.oneXlate, cut]
    rfl
  · obtain ⟨t, use, stored, frame⟩ := useLeaf_marks l (walkOn_leaf leaf) check (by simpa [write] using go)
    refine ⟨_, t, by rw [walkMiss_free sp w kind home va hw slow, leaf, State.useWalk, use, State.oneXlate, way, if_pos rfl], rfl, rfl, rfl, rfl, frame, ?_⟩
    simpa [write] using stored

end Sys2Proof.Machine

/-!
SUPPORT. O23: an operation at its home slice: what lets it go, what it leaves of the contexts, and what an atomic writes (R59, R115, R261).
-/
namespace Sys2Proof.Machine
open Sys2Proof.Claims

/-! ### Entries that stay in their list -/

/-- Settling a list drops nothing but marks and fences. -/
theorem mem_settle (unsent : Nat → Bool) {b : Acc} (access : b.isOrder = false) (l kept : List Acc) (h : b ∈ kept ∨ b ∈ l) :
    b ∈ settle unsent kept l := by
  induction l generalizing kept with
  | nil => exact h.resolve_right List.not_mem_nil
  | cons a l ih =>
    rw [settle]
    split_ifs with gone
    · refine ih kept (h.imp_right fun mem => (List.mem_cons.1 mem).resolve_left ?_)
      rintro rfl
      simp [access] at gone
    · refine ih _ ?_
      rw [List.mem_append, List.mem_singleton]
      rw [List.mem_cons, ← or_assoc] at h
      exact h

theorem settleCtx_mem_pend {s : State} {core ctx : Nat} {b : Acc} (access : b.isOrder = false) (h : b ∈ (s.ctx core ctx).pend) :
    b ∈ ((s.settleCtx core ctx).ctx core ctx).pend := by
  rw [State.settleCtx, State.ctx_modCtx, if_pos ⟨rfl, rfl⟩]
  exact mem_settle _ access _ _ (.inr h)

@[simp] theorem settleCtx_mem (s : State) (core ctx : Nat) : (s.settleCtx core ctx).mem = s.mem := rfl
@[simp] theorem State.putAcc_mem (s : State) (core ctx : Nat) (a : Acc) : (s.putAcc core ctx a).mem = s.mem := rfl

/-- An entry put back in its place stands in its context's list. -/
theorem putAcc_mem_pend {s : State} {core ctx : Nat} {a b : Acc} (h : a ∈ (s.ctx core ctx).pend) (e : b.seq = a.seq) :
    b ∈ ((s.putAcc core ctx b).ctx core ctx).pend := by
  rw [State.putAcc, State.ctx_modCtx, if_pos ⟨rfl, rfl⟩]
  exact putAcc_mem h e

theorem SameCtxs.mem_pend {s t : State} {core ctx : Nat} {b : Acc} (same : SameCtxs s t) (h : b ∈ (s.ctx core ctx).pend) :
    b ∈ (t.ctx core ctx).pend := by rwa [same]

theorem SameCtxs.gone {s t : State} {core ctx seq : Nat} (same : SameCtxs s t) (h : Gone core ctx seq s) : Gone core ctx seq t := by
  rwa [Gone, same]

/-! ### What an operation at a home slice leaves of the contexts -/

/-- Marking a step committed touches the binding alone (R147). -/
theorem commit_sameCtxs (s : State) (core ctx : Nat) (k : Coord) : SameCtxs s (s.commit core ctx k) := by
  unfold State.commit
  split_ifs
  · exact fun _ _ => rfl
  · exact sameCtxs_setCore s core rfl

@[simp] theorem commit_mem (s : State) (core ctx : Nat) (k : Coord) : (s.commit core ctx k).mem = s.mem := by
  unfold State.commit; split_ifs <;> rfl

theorem sliceCount_sameCtxs (s : State) (pa word : Nat) : SameCtxs s (s.sliceCount pa word) := fun _ _ => rfl
@[simp] theorem sliceCount_mem (s : State) (pa word : Nat) : (s.sliceCount pa word).mem = s.mem := rfl

theorem homeWrite_sameCtxs (s : State) (core ctx : Nat) (a : Acc) (pa n x : Nat) : SameCtxs s (s.homeWrite core ctx a pa n x) :=
  (commit_sameCtxs { s with mem := writeLE s.mem pa n x } core ctx a.key).trans (sameCtxs_of_cores (wrote_cores ..))

@[simp] theorem homeWrite_mem (s : State) (core ctx : Nat) (a : Acc) (pa n x : Nat) : (s.homeWrite core ctx a pa n x).mem = writeLE s.mem pa n x :=
  (wrote_mem ..).trans (commit_mem ..)

/-! ### What lets an operation go (R59) -/

theorem exec_homeSliceOperation (core ctx seq : Nat) (s : State) :
    exec (.homeSliceOperation core ctx seq) s = .next (homeSlice core ctx seq s) := rfl

/-- An entry that nothing holds back, and that is not being answered, goes to its home slice. -/
theorem homeSlice_goes {core ctx seq : Nat} {a : Acc} {s : State} (next : Next core ctx seq a s) (home : a.isHome = true) (new : a.phase = 0)
    (ready : a.wait = 0) (awake : a.asleep (s.ctx core ctx) = false) : homeSlice core ctx seq s = s.atHome core ctx a := by
  simp [homeSlice, next.1, home, new, ready, awake]

/-- At its home slice the operation is performed, and counted, where no stop holds it, the slice is reached, the access table grants it and
its line is good. -/
theorem atHome_goes {core ctx pa n : Nat} {a : Acc} {s : State} (now : a.now = a) (segs : a.segs = [(pa, n)])
    (free : s.held core ctx a.key = .ok) (reached : s.routed (dieOf core) (homeDie pa) = true)
    (granted : s.granted (shedOf core) pa n (a.homeKind == kRmw) = true) (good : s.badAt pa n = false) :
    s.atHome core ctx a = (s.homeOp core ctx a pa).sliceCount pa 64 := by
  simp [State.atHome, now, segs, free, reached, granted, good]

/-! ### Atomics (R261) -/

/-- A number of w bits read as a signed one. -/
theorem signed_eq_toInt (w x : Nat) : signed w x = (BitVec.ofNat w x).toInt := by
  rw [signed, BitVec.toInt_eq_toNat_cond, BitVec.toNat_ofNat]
  have half : x % 2 ^ w < 2 ^ (w - 1) ↔ 2 * (x % 2 ^ w) < 2 ^ w := by
    cases w with
    | zero => simp [Nat.mod_one]
    | succ w => rw [Nat.add_sub_cancel, pow_succ]; omega
  simp only [half]

/-- What the model writes for an atomic is the result of R261. -/
theorem amoNew_eq_amoResult {op w old b c : Nat} (hop : op ≤ 9) (hb : b < 2 ^ w) (hc : c < 2 ^ w) : amoNew op w old b c = amoResult op w old b c := by
  have fits := Nat.mod_eq_of_lt hb
  interval_cases op <;> simp [amoNew, amoResult, fits, Nat.mod_eq_of_lt hc, signed_eq_toInt, Nat.min_def, Nat.max_def]

/-- An atomic at its home writes its result, and its context is answered the old value or, for a reduction, not at all. -/
theorem homeOp_rmw {core ctx pa op : Nat} {ret : Bool} {a : Acc} (s : State) (rmw : a.op = .rmw op ret) :
    s.homeOp core ctx a pa =
      let s1 := s.homeWrite core ctx a pa a.len (amoNew op (8 * a.len) (readLE s.mem pa a.len) a.data a.data2)
      if ret then s1.reply core ctx a (readLE s.mem pa a.len) else s1.dropAcc core ctx a.seq := by
  simp only [State.homeOp, rmw]

/-- The answer to an entry stands in its place in the list. -/
theorem reply_mem_pend {s : State} {core ctx : Nat} {a : Acc} (v flags : Nat) (access : a.isOrder = false) (h : a ∈ (s.ctx core ctx).pend) :
    { a with phase := 3, val := v, data2 := flags } ∈ ((s.reply core ctx a v flags).ctx core ctx).pend :=
  settleCtx_mem_pend access (putAcc_mem_pend h rfl)

@[simp] theorem reply_mem (s : State) (core ctx : Nat) (a : Acc) (v flags : Nat) : (s.reply core ctx a v flags).mem = s.mem := rfl

/-- Settles O23: nothing holds the atomic back at its home (`homeSlice_goes`, `atHome_goes`), where it writes its result (`homeOp_rmw`) and is
gone, or is answered the old value (`reply_mem_pend`). -/
theorem atomicsAtHome : Obligations.AtomicsAtHome := by
  unfold Obligations.AtomicsAtHome
  intro core ctx seq op ret a pa s next rmw hop new ready segs _ _ hb hc free _ reached granted good old
  have home : a.isHome = true := by rw [Acc.isHome, rmw]
  have awake : a.asleep (s.ctx core ctx) = false := by rw [Acc.asleep, rmw]; rfl
  have now : a.now = a := by rw [Acc.now, rmw]
  have writes : (a.homeKind == kRmw) = true := by rw [Acc.homeKind, rmw]; rfl
  have access : a.isOrder = false := by rw [Acc.isOrder, rmw]
  have done := exec_homeSliceOperation core ctx seq s
  rw [homeSlice_goes next home new ready awake, atHome_goes now segs free reached (writes ▸ granted) good, homeOp_rmw s rmw,
    amoNew_eq_amoResult hop hb hc] at done
  have stored := storedAt_writeLE pa a.len (amoResult op (8 * a.len) old a.data a.data2) s.mem
  have stands := (homeWrite_sameCtxs s core ctx a pa a.len (amoResult op (8 * a.len) old a.data a.data2)).mem_pend (Next.mem_pend next)
  cases ret with
  | false => exact ⟨_, done, by simpa using stored, fun _ => next.2 ▸ dropAcc_gone _ core ctx a.seq, nofun⟩
  | true => exact ⟨_, done, by simpa using stored, nofun, fun _ => ⟨_, reply_mem_pend old 0 access stands, next.2, rfl, rfl, rfl⟩⟩

end Sys2Proof.Machine

/-!
SUPPORT. O24: futures at their home slice: the state dword of a word and the requests deferred there (R66 to R70).
-/
namespace Sys2Proof.Machine
open Sys2Proof.Claims

/-! ### Deferred requests (R67, R68) -/

/-- A place of a numbered map is listed, or reads as an unlisted one. -/
theorem mem_or_mget_default {α : Type} (d : α) (m : SMap α) (i : Nat) : (i, mget d m i) ∈ m ∨ mget d m i = d := by
  induction m with
  | nil => exact .inr rfl
  | cons p m ih =>
    obtain ⟨k, v⟩ := p
    rw [mget]
    split_ifs with e
    · exact .inl (e ▸ List.mem_cons_self)
    · exact ih.imp_left (List.mem_cons_of_mem _)

theorem mem_insertBy {α : Type} (le : α → α → Bool) (x : α) {y : α} {l : List α} (h : y = x ∨ y ∈ l) : y ∈ insertBy le x l := by
  induction l with
  | nil => simpa [insertBy] using h
  | cons z l ih =>
    rw [insertBy]
    split_ifs
    · exact List.mem_cons.2 h
    · rcases h with h | h
      · exact List.mem_cons_of_mem z (ih (.inl h))
      · exact List.mem_cons.2 ((List.mem_cons.1 h).imp_right (ih ∘ .inr))

theorem mem_sortBy {α : Type} (le : α → α → Bool) {y : α} {l : List α} (h : y ∈ l) : y ∈ sortBy le l := by
  induction l with
  | nil => cases h
  | cons x l ih => exact mem_insertBy le x ((List.mem_cons.1 h).imp_right ih)

/-- A context with an access, and its core, are listed. -/
theorem mem_of_mem_pend {s : State} {core ctx : Nat} {a : Acc} (h : a ∈ (s.ctx core ctx).pend) :
    (core, s.core core) ∈ s.cores ∧ (ctx, s.ctx core ctx) ∈ (s.core core).ctxs := by
  have ctx_ : (ctx, s.ctx core ctx) ∈ (s.core core).ctxs := by
    refine (mem_or_mget_default {} (s.core core).ctxs ctx).resolve_right fun none => ?_
    rw [State.ctx, Core.ctx, none] at h
    cases h
  refine ⟨(mem_or_mget_default ({} : Core) s.cores core).resolve_right fun none => ?_, ctx_⟩
  rw [show s.core core = {} from none] at ctx_
  cases ctx_

/-- A request that waits at a word stands among its deferred ones. -/
theorem mem_deferred {s : State} {core ctx pa n : Nat} {a : Acc} (h : a ∈ (s.ctx core ctx).pend) (waits : a.phase = 2) (segs : a.segs = [(pa, n)]) :
    (core, ctx, a) ∈ s.deferred pa := by
  obtain ⟨core_, ctx_⟩ := mem_of_mem_pend h
  refine mem_sortBy _ (List.mem_flatMap.2 ⟨_, core_, List.mem_flatMap.2 ⟨_, ctx_, List.mem_map.2 ⟨a, List.mem_filter.2 ⟨h, ?_⟩, rfl⟩⟩⟩)
  simp [waits, segs]

/-! ### The state dword of a future word (R66) -/

theorem setFuture_sameCtxs (s : State) (pa : Nat) (full : Bool) : SameCtxs s (s.setFuture pa full) := fun _ _ => rfl

theorem setFuture_value {s : State} (wf : s.MemOk) (pa : Nat) (full : Bool) :
    readLE (s.setFuture pa full).mem (pa + 8) 8 = (if full then 1 else 0) + if (s.deferred pa).isEmpty then 0 else 2 := by
  refine (readLE_writeLE 8 (pa + 8) _ s.mem wf).trans (Nat.mod_eq_of_lt ?_)
  split_ifs <;> decide

/-- FULL, bit 0 of the state dword. -/
theorem setFuture_full {s : State} (wf : s.MemOk) (pa : Nat) (full : Bool) :
    readLE (s.setFuture pa full).mem (pa + 8) 8 % 2 = if full then 1 else 0 := by
  rw [setFuture_value wf]; split_ifs <;> rfl

/-- Nothing but the state dword is written. -/
theorem setFuture_byte {s : State} (wf : s.MemOk) (pa : Nat) (full : Bool) {y : Nat} (h : ¬(pa + 8 ≤ y ∧ y < pa + 16)) :
    byteAt (s.setFuture pa full).mem y = byteAt s.mem y :=
  byteAt_writeLE_off 8 (pa + 8) _ y s.mem wf (by omega)

theorem setFuture_data {s : State} (wf : s.MemOk) (pa : Nat) (full : Bool) : readLE (s.setFuture pa full).mem pa 8 = readLE s.mem pa 8 :=
  readLE_congr _ _ _ _ fun _ _ _ => setFuture_byte wf pa full (by omega)

/-! ### What a future's operations leave of the contexts, and of memory -/

theorem futureWrote_sameCtxs (s : State) (core ctx : Nat) (a : Acc) : SameCtxs s (s.futureWrote core ctx a) :=
  (commit_sameCtxs s core ctx a.key).trans (sameCtxs_of_cores (wrote_cores ..))

@[simp] theorem futureWrote_mem (s : State) (core ctx : Nat) (a : Acc) : (s.futureWrote core ctx a).mem = s.mem :=
  (wrote_mem ..).trans (commit_mem ..)

theorem uncached_sameCtxs (s : State) (core ctx : Nat) (a : Acc) : SameCtxs s (s.uncached core ctx a) := by
  unfold State.uncached
  split_ifs
  · exact commit_sameCtxs s core ctx a.key
  · exact fun _ _ => rfl

@[simp] theorem uncached_mem (s : State) (core ctx : Nat) (a : Acc) : (s.uncached core ctx a).mem = s.mem := by
  unfold State.uncached; split_ifs <;> simp

theorem putAcc_memOk {s : State} {core ctx : Nat} {a : Acc} (wf : s.MemOk) : (s.putAcc core ctx a).MemOk := by
  rw [State.MemOk, State.putAcc_mem]; exact wf

/-! ### Fills (R69, R268) -/

/-- Two numbers stored side by side are stored as one. -/
theorem storedAt_append {pa n k x y : Nat} {m : Mem} (low : x < 2 ^ (8 * n)) :
    StoredAt pa (n + k) (x + y * 2 ^ (8 * n)) m (writeLE (writeLE m pa n x) (pa + n) k y) := by
  intro wf b
  rw [storedAt_writeLE (pa + n) k y _ (writeLE_wf n pa x m wf) b, storedAt_writeLE pa n x m wf b]
  by_cases high : pa + n ≤ b ∧ b < pa + n + k
  · rw [if_pos high, if_pos (by omega)]
    obtain ⟨j, rfl⟩ := Nat.exists_eq_add_of_le high.1
    have all : (x + y * 2 ^ (8 * n)) / 2 ^ (8 * n) = y := by
      rw [Nat.add_mul_div_right _ _ (by positivity), Nat.div_eq_of_lt low, Nat.zero_add]
    rw [show pa + n + j - (pa + n) = j by omega, show pa + n + j - pa = n + j by omega, Nat.mul_add, pow_add, ← Nat.div_div_eq_div_mul, all]
  · rw [if_neg high]
    by_cases on : pa ≤ b ∧ b < pa + n
    · rw [if_pos on, if_pos (by omega)]
      obtain ⟨j, rfl⟩ := Nat.exists_eq_add_of_le on.1
      obtain ⟨r, rfl⟩ := Nat.exists_eq_add_of_le (show j + 1 ≤ n by omega)
      refine BitVec.eq_of_toNat_eq ?_
      rw [Nat.add_sub_cancel_left, BitVec.toNat_ofNat, BitVec.toNat_ofNat,
        show y * 2 ^ (8 * (j + 1 + r)) = y * 2 ^ (8 * r) * 2 ^ 8 * 2 ^ (8 * j) by rw [mul_assoc, mul_assoc, ← pow_add, ← pow_add]; congr 2; omega,
        Nat.add_mul_div_right _ _ (by positivity), Nat.add_mul_mod_self_right]
    · rw [if_neg on, if_neg (by omega)]

theorem deferred_congr {s u : State} (cores : u.cores = s.cores) (pa : Nat) : u.deferred pa = s.deferred pa := by
  rw [State.deferred, State.deferred, cores]

/-- A fill at which no load waits stores its value, and sets FULL. -/
theorem futureFill_mem {s : State} {core ctx pa : Nat} {a : Acc} (alone : s.deferred pa = []) :
    (s.futureFill core ctx a pa).mem = writeLE (writeLE s.mem pa 8 a.data) (pa + 8) 8 1 := by
  unfold State.futureFill
  dsimp only
  generalize counted : (if (readLE s.mem (pa + 8) 8 % 2 == 1) = true then s.sliceCount pa 128 else s) = s1
  obtain ⟨cores, mem⟩ : s1.cores = s.cores ∧ s1.mem = s.mem := by rw [← counted]; split_ifs <;> exact ⟨rfl, rfl⟩
  have none : ({ s1 with mem := writeLE s1.mem pa 8 a.data } : State).deferred pa = [] := (deferred_congr cores pa).trans alone
  simp only [none, serveAll, dropAcc_mem, futureWrote_mem, State.setFuture, List.isEmpty_nil, if_true, Nat.add_zero]
  rw [mem]

theorem futureFill_gone (s : State) (core ctx pa : Nat) (a : Acc) : Gone core ctx a.seq (s.futureFill core ctx a pa) := by
  unfold State.futureFill
  dsimp only
  exact dropAcc_gone _ core ctx a.seq

/-! ### Loads (R67, R68, R267) -/

section
variable {core ctx pa : Nat} {a : Acc} {take : Bool} {s : State}

/-- A consuming load of a full word is answered its value, and empties the word. -/
theorem futureLoad_takes (full : readLE s.mem (pa + 8) 8 % 2 = 1) : s.futureLoad core ctx a pa true =
    ((s.putAcc core ctx { a with phase := 3, val := readLE s.mem pa 8, wait := 0, retry := 0 }).setFuture pa false).futureWrote core ctx a :=
  if_pos full

/-- Another load of a full word is answered its value. -/
theorem futureLoad_reads (full : readLE s.mem (pa + 8) 8 % 2 = 1) : s.futureLoad core ctx a pa false =
    (s.putAcc core ctx { a with phase := 3, val := readLE s.mem pa 8, wait := 0, retry := 0 }).uncached core ctx a :=
  if_pos full

/-- A load of an empty word takes a place there. -/
theorem futureLoad_empty (empty : ¬readLE s.mem (pa + 8) 8 % 2 = 1) (kept : s.cutDrops core ctx a.key = false) (new : a.phase = 0)
    (room : s.placesUsed pa < 64) :
    s.futureLoad core ctx a pa take =
      (({ s with stamp := s.stamp + 1 } : State).putAcc core ctx { a with phase := 2, wait := s.stamp, retry := 0 }).setFuture pa false := by
  simp only [State.futureLoad, if_neg empty, kept, new, room, if_true, Bool.false_eq_true, if_false, OfNat.zero_ne_ofNat]

variable (stands : a ∈ (s.ctx core ctx).pend) (access : a.isOrder = false)
include stands access

/-- What a load of a full word leaves: its answer, and the word as the load is consuming or not. -/
theorem futureLoad_answered (wf : s.MemOk) (full : readLE s.mem (pa + 8) 8 % 2 = 1) :
    let t := (s.futureLoad core ctx a pa take).settleCtx core ctx
    { a with phase := 3, val := readLE s.mem pa 8, wait := 0, retry := 0 } ∈ (t.ctx core ctx).pend ∧
      (take = true → readLE t.mem (pa + 8) 8 % 2 = 0 ∧ readLE t.mem pa 8 = readLE s.mem pa 8) ∧ (take = false → t.mem = s.mem) := by
  have put := putAcc_mem_pend (b := { a with phase := 3, val := readLE s.mem pa 8, wait := 0, retry := 0 }) stands rfl
  cases take with
  | true =>
    rw [futureLoad_takes full]
    refine ⟨settleCtx_mem_pend access (((setFuture_sameCtxs _ pa false).trans (futureWrote_sameCtxs _ core ctx a)).mem_pend put), fun _ => ?_, nofun⟩
    rw [settleCtx_mem, futureWrote_mem]
    exact ⟨setFuture_full (putAcc_memOk wf) pa false, setFuture_data (putAcc_memOk wf) pa false⟩
  | false =>
    rw [futureLoad_reads full]
    refine ⟨settleCtx_mem_pend access ((uncached_sameCtxs _ core ctx a).mem_pend put), nofun, fun _ => ?_⟩
    rw [settleCtx_mem, uncached_mem, State.putAcc_mem]

/-- What a load of an empty word leaves: it waits there, and the word says so. -/
theorem futureLoad_deferred {n : Nat} (segs : a.segs = [(pa, n)]) (wf : s.MemOk) (empty : ¬readLE s.mem (pa + 8) 8 % 2 = 1)
    (kept : s.cutDrops core ctx a.key = false) (new : a.phase = 0) (room : s.placesUsed pa < 64) :
    let t := (s.futureLoad core ctx a pa take).settleCtx core ctx
    { a with phase := 2, wait := s.stamp, retry := 0 } ∈ (t.ctx core ctx).pend ∧ readLE t.mem (pa + 8) 8 = 2 ∧
      ∀ y, ¬(pa + 8 ≤ y ∧ y < pa + 16) → byteAt t.mem y = byteAt s.mem y := by
  have put : { a with phase := 2, wait := s.stamp, retry := 0 } ∈
      ((({ s with stamp := s.stamp + 1 } : State).putAcc core ctx { a with phase := 2, wait := s.stamp, retry := 0 }).ctx core ctx).pend :=
    putAcc_mem_pend (s := { s with stamp := s.stamp + 1 }) stands rfl
  have same : (({ s with stamp := s.stamp + 1 } : State).putAcc core ctx { a with phase := 2, wait := s.stamp, retry := 0 }).mem = s.mem := rfl
  rw [futureLoad_empty empty kept new room]
  generalize ({ s with stamp := s.stamp + 1 } : State).putAcc core ctx { a with phase := 2, wait := s.stamp, retry := 0 } = u at put same
  have wf : u.MemOk := by rw [State.MemOk, same]; exact wf
  refine ⟨settleCtx_mem_pend access ((setFuture_sameCtxs _ pa false).mem_pend put), ?_, fun y off => ?_⟩
  · rw [settleCtx_mem, setFuture_value wf, List.isEmpty_eq_false_iff.2 (List.ne_nil_of_mem (mem_deferred put rfl segs))]; rfl
  · rw [settleCtx_mem, setFuture_byte wf pa false off, same]

end

theorem exec_futureReissue (core ctx seq : Nat) (s : State) : exec (.futureReissue core ctx seq) s = .next (futureReissue core ctx seq s) := rfl
theorem exec_futureWithdrawal (core ctx seq : Nat) (s : State) :
    exec (.futureWithdrawal core ctx seq) s = .next (futureWithdrawal core ctx seq s) := rfl

/-- A refused load whose wait is over goes to its home slice again (R68). -/
theorem futureReissue_goes {core ctx seq : Nat} {a : Acc} {s : State} (next : Next core ctx seq a s) (new : a.phase = 0) (refused : 0 < a.wait)
    (due : a.wait ≤ s.tick) (awake : a.asleep (s.ctx core ctx) = false) : futureReissue core ctx seq s = s.atHome core ctx a := by
  simp [futureReissue, next.1, new, Nat.ne_of_gt refused, due, awake]

/-- A future load reaches its home slice, at first or again. -/
theorem fld_atHome {core ctx seq pa : Nat} {a : Acc} {take : Bool} {i : Instr} {s : State} (next : Next core ctx seq a s) (fld : a.op = .fld take)
    (new : a.phase = 0) (segs : a.segs = [(pa, 16)]) (free : s.held core ctx a.key = .ok) (reached : s.routed (dieOf core) (homeDie pa) = true)
    (granted : s.granted (shedOf core) pa 16 take = true) (good : s.badAt pa 16 = false) (awake : a.asleep (s.ctx core ctx) = false)
    (way : (a.wait = 0 ∧ i = .homeSliceOperation core ctx seq) ∨ (0 < a.wait ∧ a.wait ≤ s.tick ∧ i = .futureReissue core ctx seq)) :
    ∃ t, exec i s = .next t ∧ t.mem = ((s.futureLoad core ctx a pa take).settleCtx core ctx).mem ∧
      SameCtxs ((s.futureLoad core ctx a pa take).settleCtx core ctx) t := by
  have writes : (a.homeKind == kRmw) = take := by rw [Acc.homeKind, fld]; cases take <;> rfl
  have home : s.atHome core ctx a = ((s.futureLoad core ctx a pa take).settleCtx core ctx).sliceCount pa 64 := by
    rw [atHome_goes (by rw [Acc.now, fld]) segs free reached (writes.symm ▸ granted) good, State.homeOp, fld]
  refine ⟨s.atHome core ctx a, ?_, by rw [home, sliceCount_mem], home ▸ sliceCount_sameCtxs _ pa 64⟩
  rcases way with ⟨ready, rfl⟩ | ⟨refused, due, rfl⟩
  · rw [exec_homeSliceOperation, homeSlice_goes next (by rw [Acc.isHome, fld]) new ready awake]
  · rw [exec_futureReissue, futureReissue_goes next new refused due awake]

/-! ### Withdrawals (R70) -/

/-- What withdraws a deferred request: a pre-emption at safe points, landed or under way, a stopped context, a decided stop. -/
theorem withdraws_iff {s : State} {core ctx : Nat} {a : Acc} : s.withdraws core ctx a = true ↔
    (s.ctx core ctx).landed.isSome = true ∨ (∃ p, (s.core core).pre = some p ∧ p.safe = true ∧ ctx < 3) ∨ (s.ctx core ctx).st = .stopped ∨
      s.cutDrops core ctx a.key = true := by
  simp [State.withdraws, Option.any_eq_true, or_assoc, ← and_assoc]

/-- An entry found in a list has the number sought. -/
theorem seq_of_findAcc {seq : Nat} {l older : List Acc} {a : Acc} (h : findAcc seq l = some (older, a)) : a.seq = seq := by
  induction l generalizing older with
  | nil => cases h
  | cons b l ih =>
    rw [findAcc] at h
    split_ifs at h with e
    · cases h; exact e
    · obtain ⟨r, hr, e⟩ := Option.map_eq_some_iff.1 h
      cases e
      exact ih hr

section
variable {s : State} {core ctx seq pa n : Nat} {a : Acc} {older : List Acc} (found : findAcc seq (s.ctx core ctx).pend = some (older, a))
include found

theorem futureWithdrawal_stays (stay : ¬s.withdraws core ctx a = true) : futureWithdrawal core ctx seq s = s := by
  rw [futureWithdrawal, found]; exact if_neg stay

theorem futureWithdrawal_goes (goes : s.withdraws core ctx a = true) : futureWithdrawal core ctx seq s = s.withdraw core ctx a := by
  rw [futureWithdrawal, found]; exact if_pos goes

end

/-- In a bad line the withdrawal stops the context (R80). -/
theorem withdraw_bad {s : State} {core ctx pa n : Nat} {a : Acc} (waits : a.phase = 2) (segs : a.segs = [(pa, n)]) (bad : s.badAt pa 16 = true) :
    s.withdraw core ctx a = s.accTrap core ctx a (a.rcd core ctx 0x32 a.va kRmw) := by
  simp [State.withdraw, waits, segs, bad]

/-- In a good one the request is as new, and its place is free. -/
theorem withdraw_good {s : State} {core ctx pa n : Nat} {a : Acc} (waits : a.phase = 2) (segs : a.segs = [(pa, n)]) (good : s.badAt pa 16 = false) :
    s.withdraw core ctx a =
      (s.putAcc core ctx { a with phase := 0, wait := 0, retry := 0 }).setFuture pa (readLE s.mem (pa + 8) 8 % 2 == 1) := by
  simp [State.withdraw, waits, segs, good]

/-- Settles O24: a fill by what it writes (`futureFill_mem`), a load by whether it is answered or deferred (`futureLoad_answered`,
`futureLoad_deferred`), a withdrawal by whether its line is good. -/
theorem futures : Obligations.Futures := by
  unfold Obligations.Futures
  refine ⟨fun core ctx seq a pa s next new segs _ free kept good wf reached => ⟨?_, ?_⟩, fun core ctx seq pa a s older found waits segs wf => ⟨?_, ?_, ?_⟩⟩
  · intro fill ready granted fits alone
    have awake : a.asleep (s.ctx core ctx) = false := by rw [Acc.asleep, fill]; rfl
    have writes : (a.homeKind == kRmw) = true := by rw [Acc.homeKind, fill]; rfl
    have done := exec_homeSliceOperation core ctx seq s
    rw [homeSlice_goes next (by rw [Acc.isHome, fill]) new ready awake,
      atHome_goes (by rw [Acc.now, fill]) segs free reached (writes ▸ granted) good, State.homeOp, fill] at done
    refine ⟨_, done, ?_, (sliceCount_sameCtxs _ pa 64).gone (next.2 ▸ futureFill_gone s core ctx pa a)⟩
    rw [sliceCount_mem, futureFill_mem alone]
    simpa using storedAt_append (pa := pa) (k := 8) (y := 1) (m := s.mem) (show a.data < 2 ^ (8 * 8) from fits)
  · intro take fld awake granted full i way
    have access : a.isOrder = false := by rw [Acc.isOrder, fld]
    obtain ⟨t, done, mem_, same⟩ := fld_atHome next fld new segs free reached granted good awake way
    refine ⟨fun isFull => ?_, fun empty room => ?_⟩
    · obtain ⟨mem, taken, kept⟩ := futureLoad_answered (take := take) (Next.mem_pend next) access wf isFull
      refine ⟨t, _, done, same.mem_pend mem, next.2, rfl, rfl, ?_⟩
      rw [mem_]
      exact ⟨taken, kept⟩
    · obtain ⟨mem, deferred, frame⟩ := futureLoad_deferred (take := take) (Next.mem_pend next) access segs wf empty kept new room
      refine ⟨t, _, done, same.mem_pend mem, next.2, rfl, ?_⟩
      rw [mem_]
      exact ⟨deferred, frame⟩
  · intro stay
    rw [exec_futureWithdrawal, futureWithdrawal_stays found (withdraws_iff.not.2 stay)]
  · intro go bad
    refine ⟨_, exec_futureWithdrawal core ctx seq s, ?_⟩
    rw [futureWithdrawal_goes found (withdraws_iff.2 go), withdraw_bad waits segs bad, ← seq_of_findAcc found]
    exact accTrap_refuses s core ctx a (a.rcd core ctx 0x32 a.va kRmw)
  · intro go good
    refine ⟨_, { a with phase := 0, wait := 0, retry := 0 }, exec_futureWithdrawal core ctx seq s, ?_⟩
    rw [futureWithdrawal_goes found (withdraws_iff.2 go), withdraw_good waits segs good]
    refine ⟨(setFuture_sameCtxs _ pa _).mem_pend (putAcc_mem_pend (mem_of_findAcc found) rfl), rfl, ?_, fun y off => ?_⟩
    · rw [setFuture_full (putAcc_memOk wf)]
      rcases Nat.mod_two_eq_zero_or_one (readLE s.mem (pa + 8) 8) with z | z <;> rw [z] <;> rfl
    · rw [setFuture_byte (putAcc_memOk wf) pa _ off, State.putAcc_mem]

end Sys2Proof.Machine

/-!
SUPPORT. O13: held effects of the current context that nothing holds back (R146, R147, R181), and what an instruction that writes registers
leaves of it.
-/
namespace Sys2Proof.Machine
open Sys2Proof.Claims

/-! ### Registers written, and nothing else -/

/-- A context but for its scalar and predicate registers and the scalars' full bits is as it was. -/
def RegsOnly (c d : Ctx) : Prop := { d with s := [], sE := [], p := [] } = { c with s := [], sE := [], p := [] }

theorem RegsOnly.trans {c d e : Ctx} (h : RegsOnly c d) (k : RegsOnly d e) : RegsOnly c e := Eq.trans k h

theorem regsOnly_wr (c : Ctx) (n : Nat) (x : Dword) : RegsOnly c (c.wr n x) := by
  unfold Ctx.wr RegsOnly; split_ifs <;> rfl
theorem regsOnly_wrP (c : Ctx) (n : Nat) (x : Bool) : RegsOnly c (c.wrP n x) := by
  unfold Ctx.wrP RegsOnly; split_ifs <;> rfl

/-- A context that differs in registers alone goes on as the other would. -/
theorem RegsOnly.goesOn {c d : Ctx} (h : RegsOnly c d) (w : Nat) : GoesOn w c (d.fall w) := by
  have pc : d.pc = c.pc := (congrArg Ctx.pc h :)
  have pfx : d.pfx = c.pfx := (congrArg Ctx.pfx h :)
  have hl0 : d.hl0 = c.hl0 := (congrArg Ctx.hl0 h :)
  have hl1 : d.hl1 = c.hl1 := (congrArg Ctx.hl1 h :)
  refine ⟨by rw [Ctx.fall_eq], by rw [Ctx.fall_eq], by rw [Ctx.fall_eq], fun rep off0 off1 => ?_⟩
  rw [Ctx.fall_plain d w (by rw [pfx, rep]) (by rw [hl0, off0]) (by rw [hl1, off1])]
  exact ⟨congrArg (· + dw (4 * w)) pc, hl0, hl1, rfl⟩

theorem RegsOnly.rest_fall {c d : Ctx} (h : RegsOnly c d) (w : Nat) :
    rest { d.fall w with s := [], sE := [], p := [] } = rest { c with s := [], sE := [], p := [] } := by
  rw [Ctx.fall_eq]
  show rest { d with s := [], sE := [], p := [] } = _
  exact congrArg rest h

/-- An instruction that writes one scalar register and goes on. -/
theorem writesS_fall (s : State) (n : Nat) (v : Dword) : WritesS n v s (s.setCur ((s.cur.wr n v).fall 1)) := by
  refine ⟨onlyCur_setCur s _, ?_, ?_, fun m => ?_⟩ <;> rw [State.cur_setCur]
  · exact (regsOnly_wr s.cur n v).goesOn 1
  · rw [Ctx.fall_eq]
    unfold Ctx.wr
    split_ifs <;> rfl
  · rw [Ctx.fall_rd, Ctx.rd_wr]

/-- What an instruction needs it may need less of. -/
theorem Ready.fewer {n : Need} {c : Ctx} {dst pdst : List Nat} (h : Ready n c) (hd : dst ⊆ n.dst) (hp : pdst ⊆ n.pdst) :
    Ready { n with dst := dst, pdst := pdst } c := by
  obtain ⟨undef, legal, pfull, ptrue, sys, src, psrc, dfull, pdfull⟩ := h
  exact ⟨undef, legal, pfull, ptrue, sys, src, psrc, fun r hr => dfull r (hd hr), fun r hr => pdfull r (hp hr)⟩

/-! ### The commit of a step (R147), and purity (R181) -/

theorem commit_eq (s : State) (core ctx : Nat) (k : Coord) : ∃ c, s.commit core ctx k = { s with cores := c } := by
  unfold State.commit; split_ifs <;> exact ⟨_, rfl⟩

@[simp] theorem commitCur_curCore (s : State) : s.commitCur.curCore = s.curCore := by
  obtain ⟨c, h⟩ := commit_eq s s.curCore s.curCtx s.cur.k; rw [State.commitCur, h]
@[simp] theorem commitCur_curCtx (s : State) : s.commitCur.curCtx = s.curCtx := by
  obtain ⟨c, h⟩ := commit_eq s s.curCore s.curCtx s.cur.k; rw [State.commitCur, h]
@[simp] theorem commitCur_insts (s : State) : s.commitCur.insts = s.insts := by
  obtain ⟨c, h⟩ := commit_eq s s.curCore s.curCtx s.cur.k; rw [State.commitCur, h]
@[simp] theorem commitCur_sheds (s : State) : s.commitCur.sheds = s.sheds := by
  obtain ⟨c, h⟩ := commit_eq s s.curCore s.curCtx s.cur.k; rw [State.commitCur, h]
@[simp] theorem commitCur_mem (s : State) : s.commitCur.mem = s.mem := commit_mem ..

theorem commitCur_sameCtxs (s : State) : SameCtxs s s.commitCur := commit_sameCtxs s s.curCore s.curCtx s.cur.k

@[simp] theorem commitCur_hq (s : State) (shed n : Nat) : s.commitCur.hq shed n = s.hq shed n := by
  rw [State.hq, State.hq, State.shed, State.shed, commitCur_sheds]

@[simp] theorem commitCur_cur (s : State) : s.commitCur.cur = s.cur := by
  rw [State.cur, State.cur, commitCur_curCore, commitCur_curCtx, commitCur_sameCtxs]

/-- A commit leaves a core bound to what it is bound to. -/
theorem commitCur_bound (s : State) (j : Nat) : (s.commitCur.core j).bind.map Bind.inst = (s.core j).bind.map Bind.inst := by
  unfold State.commitCur State.commit
  split_ifs
  · rfl
  · rw [State.modCore, State.core_setCore]
    split_ifs with e
    · rw [e]; cases (s.core s.curCore).bind <;> rfl
    · rfl

theorem commitCur_who_inst (s : State) (core ctx cmd : Nat) : (s.commitCur.whoCtx core ctx cmd).inst = (s.whoCtx core ctx cmd).inst := by
  rw [State.whoCtx, State.whoCtx, commitCur_bound]

/-- An access of an agent that is bound to nothing pure violates no descriptor. -/
theorem purity_silent {s : State} {w : Who} (sp : Space) (how : Pure) (kind va n : Nat) (ps : List (Nat × Nat × Nat))
    (h : w.ctx = 3 ∨ ∀ i, s.inst? w.inst = some i → i.pure = false) : s.purity w sp how kind va n ps = s := by
  unfold State.purity
  split
  · rfl
  · next i served =>
    split_ifs at served with c3
    rw [if_pos (by rw [h.resolve_left c3 i served]; rfl)]

theorem NotPure.purity {s : State} (h : NotPure s) (cmd : Nat) (sp : Space) (how : Pure) (kind va n : Nat) (ps : List (Nat × Nat × Nat)) :
    s.purity (s.whoCtx s.curCore s.curCtx cmd) sp how kind va n ps = s := purity_silent sp how kind va n ps h

/-- So does one whose step has been committed. -/
theorem NotPure.purity_commitCur {s : State} (h : NotPure s) (cmd : Nat) (sp : Space) (how : Pure) (kind va n : Nat)
    (ps : List (Nat × Nat × Nat)) : s.commitCur.purity (s.whoCtx s.curCore s.curCtx cmd) sp how kind va n ps = s.commitCur :=
  purity_silent sp how kind va n ps (h.imp_right fun p i served => p i (by rw [State.inst?, commitCur_insts] at served; exact served))

/-- A held effect that nothing holds back goes, a release once the context's accesses have been performed. -/
theorem heldCur_goes {s : State} {rel : Bool} (k : State → State) (free : s.held s.curCore s.curCtx s.cur.k = .ok)
    (done : rel = true → s.cur.drained = true) : heldCur rel s k = k s := by
  rw [heldCur, free]
  refine if_pos ?_
  cases rel with
  | false => rfl
  | true => exact done rfl

/-- A release waits for them. -/
theorem heldCur_waits {s : State} (k : State → State) (free : s.held s.curCore s.curCtx s.cur.k = .ok) (left : s.cur.drained = false) :
    heldCur true s k = blockCur s := by
  rw [heldCur, free, left]; rfl

end Sys2Proof.Machine

/-!
O13: pushes and pops of a hardware queue (R72, R73, R75, R275, R276), and device launches (R279, R280).
-/
namespace Sys2Proof.Machine
open Sys2Proof.Claims

/-! ### Four registers (R274, R275) -/

/-- The answer of a try form, in its predicate; the plain form has none. -/
def Ctx.tried (c : Ctx) (pd : Option Nat) (v : Bool) : Ctx := match pd with
  | some p => c.wrP p v
  | none => c

theorem regsOnly_tried (c : Ctx) (pd : Option Nat) (v : Bool) : RegsOnly c (c.tried pd v) := by
  cases pd with
  | none => exact rfl
  | some p => exact regsOnly_wrP c p v

@[simp] theorem tried_rd (c : Ctx) (pd : Option Nat) (v : Bool) (m : Nat) : (c.tried pd v).rd m = c.rd m := by
  cases pd <;> simp [Ctx.tried, Ctx.rd]
@[simp] theorem tried_full (c : Ctx) (pd : Option Nat) (v : Bool) (m : Nat) : (c.tried pd v).full m = c.full m := by
  cases pd <;> simp [Ctx.tried, Ctx.full]

/-- The predicate of an attempt that succeeded; p0 is true anyway. -/
theorem tried_rdP (c : Ctx) (pd : Option Nat) (m : Nat) : (c.tried pd true).rdP m = if pd = some m then true else c.rdP m := by
  cases pd with
  | none => simp [Ctx.tried]
  | some p =>
    rw [Ctx.tried, Ctx.rdP_wrP]
    by_cases hm : m = p
    · subst hm
      by_cases h0 : m = 0 <;> simp [h0, Ctx.rdP]
    · simp [hm, Ne.symm hm]

theorem regsOnly_wrRecord (c : Ctx) (rb r : Nat) : RegsOnly c (c.wrRecord rb r) :=
  (((regsOnly_wr ..).trans (regsOnly_wr ..)).trans (regsOnly_wr ..)).trans (regsOnly_wr ..)
theorem regsOnly_markRecord (c : Ctx) (rb : Nat) (e : Bool) : RegsOnly c (c.markRecord rb e) :=
  (congrArg (fun x : Ctx => { x with s := [], p := [] }) (markRecord_frame c rb e) :)

@[simp] theorem wrRecord_full (c : Ctx) (rb r m : Nat) : (c.wrRecord rb r).full m = c.full m := by simp [Ctx.wrRecord, Ctx.full]
@[simp] theorem wrRecord_rdP (c : Ctx) (rb r m : Nat) : (c.wrRecord rb r).rdP m = c.rdP m := by simp [Ctx.wrRecord, Ctx.rdP]
@[simp] theorem markRecord_rd (c : Ctx) (rb m : Nat) (e : Bool) : (c.markRecord rb e).rd m = c.rd m := by simp [Ctx.markRecord, Ctx.rd]
@[simp] theorem markRecord_rdP (c : Ctx) (rb m : Nat) (e : Bool) : (c.markRecord rb e).rdP m = c.rdP m := by simp [Ctx.markRecord, Ctx.rdP]

/-- A record's dwords in its four registers, the lowest first; s0 keeps reading zero. -/
theorem wrRecord_rd (c : Ctx) (rb r m : Nat) :
    (c.wrRecord rb r).rd m = if rb ≤ m ∧ m < rb + 4 ∧ m ≠ 0 then BitVec.ofNat 64 (r / 2 ^ (64 * (m - rb))) else c.rd m := by
  rw [Ctx.wrRecord, Ctx.rd_wr, Ctx.rd_wr, Ctx.rd_wr, Ctx.rd_wr]
  by_cases on : rb ≤ m ∧ m < rb + 4 ∧ m ≠ 0
  · obtain ⟨low, high, s0⟩ := on
    obtain ⟨j, rfl⟩ := Nat.exists_eq_add_of_le low
    have hj : j < 4 := by omega
    interval_cases j <;> simp_all [dw]
  · rw [if_neg on, if_neg (by omega), if_neg (by omega), if_neg (by omega), if_neg (by omega)]

/-- A context that goes on with a record in four registers took it. -/
theorem takesRecord {s t : State} {rb r : Nat} {pd : Option Nat}
    (h : t.cur = (((s.cur.wrRecord rb r).markRecord rb false).tried pd true).fall 1) : TakesRecord rb r pd s t := by
  have regs : RegsOnly s.cur (((s.cur.wrRecord rb r).markRecord rb false).tried pd true) :=
    ((regsOnly_wrRecord ..).trans (regsOnly_markRecord ..)).trans (regsOnly_tried ..)
  rw [TakesRecord, h]
  refine ⟨regs.goesOn 1, regs.rest_fall 1, fun m => ?_, fun m => ?_, fun m => ?_⟩
  · rw [Ctx.fall_full, tried_full, full_markRecord_false, wrRecord_full]
  · rw [Ctx.fall_rd, tried_rd, markRecord_rd, wrRecord_rd]
  · rw [Ctx.fall_rdP, tried_rdP, markRecord_rdP, wrRecord_rdP]

/-! ### Queues (R72, R73, R75) -/

theorem setHq_setHq (s : State) (shed n : Nat) (q q' : HQ) : (s.setHq shed n q).setHq shed n q' = s.setHq shed n q' := by
  simp [State.setHq, State.setShed, State.shed]

@[simp] theorem setHq_cur (s : State) (shed n : Nat) (q : HQ) : (s.setHq shed n q).cur = s.cur := rfl
@[simp] theorem setCur_hq (s : State) (c : Ctx) (shed n : Nat) : (s.setCur c).hq shed n = s.hq shed n := rfl

/-- An update of the current context leaves every queue. -/
theorem queueIs_setCur (s : State) (n : Nat) (c : Ctx) : QueueIs n (s.hq (shedOf s.curCore) n) s (s.setCur c) := by
  refine ⟨fun sh j => ?_, fun j y away => by rw [State.ctx_setCur, if_neg away], fun _ => rfl⟩
  split_ifs with e
  · rw [setCur_hq, e.1, e.2]
  · rfl

/-- The current context's queue and its own registers written, for a step that is committed. -/
theorem queueIs_setHq (s : State) (n : Nat) (q : HQ) (c : Ctx) :
    QueueIs n q s ((s.commitCur.setHq (shedOf s.curCore) n q).setCur c) := by
  refine ⟨fun sh j => ?_, fun j y away => ?_, fun a => ?_⟩
  · rw [setCur_hq, hq_setHq, commitCur_hq]
  · have away' : ¬(j = s.commitCur.curCore ∧ y = s.commitCur.curCtx) := by rwa [commitCur_curCore, commitCur_curCtx]
    exact (State.ctx_setCur ..).trans ((if_neg away').trans (commitCur_sameCtxs s j y))
  · exact congrArg (byteAt · a) (commitCur_mem s)

/-- A record placed behind the others on chip, with who placed it. -/
def HQ.pushed (q : HQ) (r : Nat) (who : Nat × Nat × Nat) : HQ := { q with chip := q.chip ++ [r], by_ := q.by_ ++ [who] }

/-- The records l left when the oldest is taken. -/
def HQ.popped (q : HQ) (l : List Nat) : HQ := { q with chip := l, by_ := q.by_.tail }

/-- With room on chip, and none in the ring before it, a record lies behind the others. -/
theorem place_onChip {s : State} {shed n : Nat} {q : HQ} (at_ : s.hq shed n = q) (core ctx r : Nat) (room : q.ring = 0 ∧ q.chip.length < 32) :
    s.place core ctx shed n r = some (s.setHq shed n (q.pushed r (core, ctx, (s.whoCtx core ctx 0).inst))) := by
  subst at_; exact if_pos room

/-- At the high watermark or below it no pusher is held (R75). -/
theorem watermark_below {s : State} {core n : Nat} (ctx : Nat)
    (h : (s.hq (shedOf core) n).hiwm = 0 ∨ (s.hq (shedOf core) n).depth ≤ (s.hq (shedOf core) n).hiwm) : s.watermark core ctx n = s := by
  refine if_neg fun above => ?_
  obtain ⟨on, over_, -⟩ := above
  omega

theorem watermark_pushed {s : State} {core ctx n r : Nat} {q : HQ} {w : Nat × Nat × Nat} {c : Ctx} (low : q.hiwm = 0 ∨ q.depth + 1 ≤ q.hiwm) :
    ((s.setHq (shedOf core) n (q.pushed r w)).setCur c).watermark core ctx n = (s.setHq (shedOf core) n (q.pushed r w)).setCur c := by
  refine watermark_below ctx ?_
  rw [setCur_hq, hq_setHq, if_pos ⟨rfl, rfl⟩]
  refine low.imp_right fun h => ?_
  simp only [HQ.pushed, HQ.depth, List.length_append, List.length_singleton] at h ⊢
  omega

/-- A pop releases nobody of a queue that holds nobody. -/
theorem releaseHeld_nobody {s : State} {shed n : Nat} (h : (s.hq shed n).held = []) :
    s.releaseHeld shed n = s ∨ s.releaseHeld shed n = s.setHq shed n (s.hq shed n) := by
  unfold State.releaseHeld
  dsimp only
  split_ifs
  · refine .inr ?_
    rw [h, List.foldl_nil, ← h]
  · exact .inl rfl

theorem releaseHeld_popped {s : State} {shed n : Nat} {q : HQ} {l : List Nat} {f : Ctx → Ctx} (nobody : q.held = []) :
    ((s.setHq shed n (q.popped l)).onCur f).releaseHeld shed n = (s.setHq shed n (q.popped l)).onCur f := by
  have stands : ((s.setHq shed n (q.popped l)).onCur f).hq shed n = q.popped l := by
    rw [State.onCur, setCur_hq, hq_setHq, if_pos ⟨rfl, rfl⟩]
  refine (releaseHeld_nobody ((congrArg HQ.held stands).trans nobody)).elim id fun again => again.trans ?_
  rw [stands]
  exact congrArg (State.setCur · _) (setHq_setHq ..)

theorem onCur_onCur (s : State) (f g : Ctx → Ctx) : (s.onCur f).onCur g = s.onCur (fun c => g (f c)) := by simp [State.onCur]

/-! ### `push` and `pop` (R275, R276) -/

section
variable {s : State} {rb n : Nat} {pd : Option Nat} {q : HQ} (at_ : s.hq (shedOf s.curCore) n = q) (enable : q.enable = true) (ready : HeldReady s)
include at_ enable ready

/-- A push with room on chip. -/
theorem pushCur_places (drained : s.cur.drained = true) (room : q.ring = 0 ∧ q.chip.length < 32) (low : q.hiwm = 0 ∨ q.depth + 1 ≤ q.hiwm) :
    pushCur rb n pd s =
      (s.commitCur.setHq (shedOf s.curCore) n (q.pushed (recordOf s.cur rb) (s.curCore, s.curCtx, (s.whoCtx s.curCore s.curCtx 0).inst))).setCur
        ((s.cur.tried pd true).fall 1) := by
  have below : ¬(q.capacity ≤ q.depth ∨ (!s.cur.drained) = true) := by
    rw [drained, HQ.capacity, HQ.depth]
    simp only [Bool.not_true, Bool.false_eq_true, or_false]
    omega
  have placed := place_onChip (s := s.commitCur) ((commitCur_hq ..).trans at_) s.curCore s.curCtx (recordOf s.cur rb) room
  rw [commitCur_who_inst] at placed
  unfold pushCur
  dsimp only
  rw [at_, if_neg (by rw [enable]; decide), heldCur_goes _ ready.1 (fun _ => drained), if_neg below, NotPure.purity_commitCur ready.2, placed]
  dsimp only
  cases pd with
  | none => rw [fall_eq, watermark_pushed low, setHq_cur, commitCur_cur]; rfl
  | some p =>
    dsimp only
    rw [fall_onCur, watermark_pushed low, setHq_cur, commitCur_cur]; rfl

/-- Without room, or behind an access not yet performed, a push waits. -/
theorem pushCur_waits (full : q.capacity ≤ q.depth ∨ s.cur.drained = false) :
    pushCur rb n none s = s.setCur { s.cur with st := .blocked } := by
  unfold pushCur
  dsimp only
  rw [at_, if_neg (by rw [enable]; decide)]
  by_cases drained : s.cur.drained = true
  · rw [heldCur_goes _ ready.1 (fun _ => drained), if_pos (full.imp_right (by simp [drained]))]
    rfl
  · exact heldCur_waits _ ready.1 (by simpa using drained)

/-- Its try form says so. -/
theorem pushCur_refuses {p : Nat} (full : q.capacity ≤ q.depth ∨ s.cur.drained = false) :
    pushCur rb n (some p) s = s.setCur ((s.cur.wrP p false).fall 1) := by
  unfold pushCur
  dsimp only
  rw [at_, if_neg (by rw [enable]; decide), heldCur_goes _ ready.1 (by simp), if_pos (full.imp_right (by simp))]
  exact fall_onCur 1 _ s

/-- A pop of the oldest record. -/
theorem popCur_takes {r : Nat} {l : List Nat} (i : Instr) (chip : q.chip = r :: l) (nobody : q.held = []) :
    popCur i rb n pd s = (s.commitCur.setHq (shedOf s.curCore) n (q.popped l)).setCur
      ((((s.cur.wrRecord rb r).markRecord rb false).tried pd true).fall 1) := by
  have calm (f : Ctx → Ctx) : fall 1 (((s.commitCur.setHq (shedOf s.curCore) n (q.popped l)).onCur f).releaseHeld (shedOf s.curCore) n) =
      (s.commitCur.setHq (shedOf s.curCore) n (q.popped l)).setCur ((f s.cur).fall 1) := by
    rw [releaseHeld_popped nobody, fall_onCur, setHq_cur, commitCur_cur]
  unfold popCur
  dsimp only
  rw [at_, if_neg (by rw [enable]; decide), heldCur_goes _ ready.1 (by simp), chip]
  dsimp only
  rw [NotPure.purity_commitCur ready.2]
  cases pd with
  | none => exact calm _
  | some p =>
    dsimp only
    rw [onCur_onCur]
    exact calm _

/-- Without a record a pop waits, and its four registers are empty. -/
theorem popCur_waits (i : Instr) (chip : q.chip = []) : popCur i rb n none s =
    s.setCur { s.cur.markRecord rb true with st := .blocked, req := some (5, rb), asked := some i } := by
  unfold popCur
  dsimp only
  rw [at_, if_neg (by rw [enable]; decide), heldCur_goes _ ready.1 (by simp), chip]
  dsimp only
  rw [Option.isSome_none, if_neg (by decide), blockCur, State.cur_onCur, State.onCur, State.setCur_setCur]
  rfl

/-- Its try form says so. -/
theorem popCur_refuses {p : Nat} (i : Instr) (chip : q.chip = []) :
    popCur i rb n (some p) s = s.setCur ((s.cur.wrP p false).fall 1) := by
  unfold popCur
  dsimp only
  rw [at_, if_neg (by rw [enable]; decide), heldCur_goes _ ready.1 (by simp), chip]
  dsimp only
  rw [Option.isSome_some, if_pos rfl]
  exact fall_onCur 1 _ s

end

theorem exec_push (i : FPush) (s : State) : exec (.push i) s = execPush i s := rfl
theorem exec_pushTry (i : FPushT) (s : State) : exec (.pushTry i) s = execPushTry i s := rfl
theorem exec_pop (i : FPop) (s : State) : exec (.pop i) s = execPop i s := rfl
theorem exec_popTry (i : FPopT) (s : State) : exec (.popTry i) s = execPopTry i s := rfl

section
variable {s : State} {rb : BitVec 5} {fr : BitVec 1} {n : BitVec 4} {pr pd : BitVec 3}

/-- The plain push asks for all that the try form does but its predicate. -/
theorem exec_pushes (h : Ready { p := pr.toNat, src := four rb.toNat (sel fr), pdst := [pd.toNat] } s.cur) :
    exec (.push ⟨pr, rb, fr, n⟩) s = .next (pushCur rb.toNat n.toNat none s) ∧
      exec (.pushTry ⟨pr, rb, fr, n, pd⟩) s = .next (pushCur rb.toNat n.toNat (some pd.toNat) s) := by
  rw [exec_push, exec_pushTry, execPush, execPushTry]
  exact ⟨guard_ready _ (Ready.fewer h (List.Subset.refl _) (List.nil_subset _)), guard_ready _ h⟩

/-- So does the plain pop, and one that waits needs none of its registers. -/
theorem exec_pops (h : Ready { p := pr.toNat, dst := [rb.toNat, rb.toNat + 1, rb.toNat + 2, rb.toNat + 3], pdst := [pd.toNat] } s.cur) :
    exec (.pop ⟨pr, rb, n⟩) s = .next (popCur (.pop ⟨pr, rb, n⟩) rb.toNat n.toNat none s) ∧
      exec (.popTry ⟨pr, rb, n, pd⟩) s = .next (popCur (.popTry ⟨pr, rb, n, pd⟩) rb.toNat n.toNat (some pd.toNat) s) := by
  rw [exec_pop, exec_popTry, execPop, execPopTry]
  refine ⟨guard_ready _ (Ready.fewer h ?_ (List.nil_subset _)), guard_ready _ h⟩
  split_ifs
  · exact List.nil_subset _
  · exact List.Subset.refl _

theorem exec_pop_waiting (h : Ready { p := pr.toNat } s.cur) (waits : s.cur.req = some (5, rb.toNat)) :
    exec (.pop ⟨pr, rb, n⟩) s = .next (popCur (.pop ⟨pr, rb, n⟩) rb.toNat n.toNat none s) := by
  have needs : (if s.cur.req = some (askPop, rb.toNat) then [] else (four rb.toNat false).map Prod.fst) = [] := if_pos waits
  rw [exec_pop, execPop]
  dsimp only
  rw [needs]
  exact guard_ready _ h

end

/-! ### `launch` (R279, R280) -/

/-- A trap that waits changes nothing else of its context, and no other context. -/
theorem pendTrap_frame (s : State) (core ctx : Nat) (r : FRec) :
    { (s.pendTrap core ctx r).ctx core ctx with traps := [] } = { s.ctx core ctx with traps := [] } ∧
      ∀ j y, ¬(j = core ∧ y = ctx) → (s.pendTrap core ctx r).ctx j y = s.ctx j y := by
  have record := writeRec_sameCtxs s core { r with ctx := ctx }
  refine ⟨?_, fun j y away => ?_⟩
  · rw [State.pendTrap, State.ctx_modCtx, if_pos ⟨rfl, rfl⟩, record]
  · rw [State.pendTrap, State.ctx_modCtx, if_neg away, record]

/-- The current context goes on as c, and a trap of it waits. -/
theorem trapped_leaves (s : State) (c : Ctx) (r : FRec) :
    let t := (s.setCur c).pendTrap s.curCore s.curCtx r
    OtherCtxs s t ∧ (∀ m, t.cur.rd m = c.rd m) ∧ t.cur.traps.map PTrap.cls = c.traps.map PTrap.cls ++ [r.cls] ∧ t.mem = s.mem := by
  obtain ⟨same, others⟩ := pendTrap_frame (s.setCur c) s.curCore s.curCtx r
  have own : (s.setCur c).ctx s.curCore s.curCtx = c := State.cur_setCur s c
  have cur : ((s.setCur c).pendTrap s.curCore s.curCtx r).cur = ((s.setCur c).pendTrap s.curCore s.curCtx r).ctx s.curCore s.curCtx := by
    obtain ⟨cores, sheds, e⟩ := (s.setCur c).pendTrap_eq s.curCore s.curCtx r
    rw [e]; rfl
  have traps := pendTrap_traps (s.setCur c) s.curCore s.curCtx r
  rw [own] at same traps
  dsimp only
  rw [cur]
  exact ⟨fun j y away => (others j y away).trans ((State.ctx_setCur ..).trans (if_neg away)), fun m => (congrArg (Ctx.rd · m) same :), traps,
    pendTrap_mem ..⟩

section
variable {s : State} {d oprec : Nat}

/-- A record that is not aligned (R279). -/
theorem launchCur_misaligned (i : Instr) (new : s.cur.req = none) (odd : oprec % 64 ≠ 0) :
    launchCur i d oprec s = trapAccess kRead oprec 256 ⟨0x29, oprec, 7⟩ s := by
  rw [launchCur, new]; exact if_pos odd

/-- An aligned record enters the pen's queue, and its context waits for the distributor. -/
theorem launchCur_asks {pn : Nat} (i : Instr) (new : s.cur.req = none) (aligned : oprec % 64 = 0) (ready : HeldReady s)
    (drained : s.cur.drained = true) (pen : s.penOf s.curCore = some pn) (room : (s.pen pn).devRoom (dieOf s.curCore) = true) :
    launchCur i d oprec s = (s.setPen pn { s.pen pn with
      devq := (s.pen pn).devq ++ [⟨s.curCore, s.curCtx, oprec, s.cur.spaceid, s.cur.wb0, s.cur.wb1⟩] }).setCur
        { s.cur with st := .blocked, req := some (3, 0), asked := some i } := by
  rw [launchCur, new]
  dsimp only
  rw [if_neg (by simp [aligned]), heldCur_goes _ ready.1 (fun _ => drained), pen]
  dsimp only
  rw [room, if_neg (by decide), NotPure.purity ready.2, blockCur, State.cur_onCur, State.onCur, State.setCur_setCur]
  rfl

/-- Accepted, a launch writes its number and goes on. -/
theorem launchCur_answered {m : Nat} (i : Instr) (accepted : m ≠ 0) (answer : s.cur.req = some (4, m)) :
    launchCur i d oprec s = s.setCur ((s.cur.wr d (BitVec.ofNat 64 m)).fall 1) := by
  rw [launchCur, answer]
  exact (if_neg accepted).trans (fall_onCur 1 _ s)

/-- Refused, it goes on too, with the trap of the refusal. -/
theorem launchCur_refused (i : Instr) (answer : s.cur.req = some (4, 0)) : ∃ r : FRec, r.cls = 0x2E ∧
    launchCur i d oprec s = (s.setCur ((s.cur.wr d 0).fall 1)).pendTrap s.curCore s.curCtx r := by
  rw [launchCur, answer]
  refine ⟨{ cls := 0x2E, cmdaddr := s.cur.group.toNat, inst := (s.whoCtx s.curCore s.curCtx 0).inst, spaceid := s.cur.spaceid.toNat }, rfl,
    (if_pos rfl).trans ?_⟩
  rw [fall_onCur]
  rfl

end

theorem exec_launch (f : FU) (s : State) : exec (.launch f) s = execLaunch f s := rfl

theorem exec_launch_ready {f : FU} {s : State} (h : Ready { p := f.p.toNat, src := [(f.a.toNat, sel f.fa)], dst := [f.d.toNat] } s.cur) :
    exec (.launch f) s = .next (launchCur (.launch f) f.d.toNat (s.cur.rd f.a.toNat).toNat s) := by
  rw [exec_launch, execLaunch]
  exact guard_ready _ h

/-- Settles O13: pushes and pops by the four ways of `pushCur` and `popCur`, each said of the plain and of the try form; launches by the four
ways of `launchCur`. -/
theorem queuesAndDeviceLaunch : Obligations.QueuesAndDeviceLaunch := by
  unfold Obligations.QueuesAndDeviceLaunch
  refine ⟨fun rb fr n pr pd s => ?_, fun f s h => ?_⟩
  · intro q regs enable held
    have at_ : s.hq (shedOf s.curCore) n.toNat = q := rfl
    have pops (i : Instr) (pd : Option Nat) (r : Nat) (l : List Nat) (chip : q.chip = r :: l) (nobody : q.held = [])
        (ex : exec i s = .next (popCur i rb.toNat n.toNat pd s)) :
        ∃ t, exec i s = .next t ∧ QueueIs n.toNat (q.popped l) s t ∧ TakesRecord rb.toNat r pd s t :=
      ⟨_, ex.trans (congrArg _ (popCur_takes at_ enable held i chip nobody)), queueIs_setHq .., takesRecord (State.cur_setCur ..)⟩
    have waits (i : Instr) (chip : q.chip = []) (ex : exec i s = .next (popCur i rb.toNat n.toNat none s)) :
        ∃ t, exec i s = .next t ∧ QueueIs n.toNat q s t ∧
          t.cur = { s.cur.markRecord rb.toNat true with st := .blocked, req := some (5, rb.toNat), asked := some i } :=
      ⟨_, ex.trans (congrArg _ (popCur_waits at_ enable held i chip)), queueIs_setCur .., State.cur_setCur ..⟩
    refine ⟨fun h => ?_, fun h => ?_, fun h req => ?_⟩
    · intro i j q'
      obtain ⟨plain, try_⟩ := exec_pushes h
      refine ⟨fun drained ring chip low => ?_, fun full => ?_⟩
      · have places (pd : Option Nat) := pushCur_places (pd := pd) (rb := rb.toNat) at_ enable held drained ⟨ring, chip⟩ low
        exact ⟨⟨_, plain.trans (congrArg _ (places none)), State.cur_setCur .., queueIs_setHq ..⟩,
          ⟨_, try_.trans (congrArg _ (places _)), State.cur_setCur .., queueIs_setHq ..⟩⟩
      · exact ⟨⟨_, plain.trans (congrArg _ (pushCur_waits at_ enable held full)), State.cur_setCur .., queueIs_setCur ..⟩,
          ⟨_, try_.trans (congrArg _ (pushCur_refuses at_ enable held full)), State.cur_setCur .., queueIs_setCur ..⟩⟩
    · intro i j
      obtain ⟨plain, try_⟩ := exec_pops h
      refine ⟨fun r l chip nobody => ⟨pops _ none r l chip nobody plain, pops _ _ r l chip nobody try_⟩, fun chip => ⟨?_, ?_⟩⟩
      · obtain ⟨t, ex, queue, cur⟩ := waits _ chip plain
        exact ⟨t, ex, cur, queue⟩
      · exact ⟨_, try_.trans (congrArg _ (popCur_refuses at_ enable held _ chip)), State.cur_setCur .., queueIs_setCur ..⟩
    · have plain := exec_pop_waiting (n := n) h req
      exact ⟨fun r l chip nobody => pops _ none r l chip nobody plain, fun chip => waits _ chip plain⟩
  · intro a
    have launch := exec_launch_ready h
    refine ⟨fun new aligned held drained pn pen room => ?_, fun new odd => ?_, fun m accepted answer => ?_, fun answer => ?_⟩
    · rw [launchCur_asks _ new aligned held drained pen room] at launch
      exact ⟨_, launch, fun j y away => (State.ctx_setCur ..).trans (if_neg away), State.cur_setCur ..,
        (State.pen_setPen ..).trans (if_pos rfl), fun _ => rfl⟩
    · rw [launch, launchCur_misaligned _ new odd]
    · rw [launchCur_answered _ accepted answer] at launch
      exact ⟨_, launch, writesS_fall s _ _⟩
    · obtain ⟨r, cls, refused⟩ := launchCur_refused (s := s) (d := f.d.toNat) (oprec := (s.cur.rd f.a.toNat).toNat) (.launch f) answer
      obtain ⟨others, regs, traps, mem⟩ := trapped_leaves s ((s.cur.wr f.d.toNat 0).fall 1) r
      rw [refused] at launch
      refine ⟨_, launch, others, fun m hm => ?_, ?_, ?_, fun x => congrArg (byteAt · x) mem⟩
      · rw [regs, Ctx.fall_rd, Ctx.rd_wr, if_neg (fun e => hm e.1)]
      · rw [regs, Ctx.fall_rd, Ctx.rd_wr]
        split_ifs with written
        · rfl
        · rw [show f.d.toNat = 0 by simpa using written]; rfl
      · rw [traps, cls, Ctx.fall_traps, Ctx.wr_traps]

end Sys2Proof.Machine

/-!
O25: what keeps an instruction from its effect (R92, R93, R213, R327, R332).
-/
namespace Sys2Proof.Machine
open Sys2Proof.Claims

/-! ### What the guard finds of registers -/

theorem sel_eq_true {b : BitVec 1} : sel b = true ↔ b = 1 := by simp [sel]

/-- An empty predicate makes the instruction wait (R92). -/
theorem Ctx.verdict_emptyPredicate {c : Ctx} {n : Need} (undef : n.undef = false) (legal : c.pfx.legal n = true) (empty : c.fullP n.p = false) :
    c.verdict n = .wait := by
  simp [Ctx.verdict, undef, legal, empty]

section
variable {c : Ctx} {n : Need} (undef : n.undef = false) (legal : c.pfx.legal n = true) (full : c.fullP n.p = true) (true_ : c.rdP n.p = true)
  (priv : n.sys = true → c.sys = true)
include undef legal full true_ priv

/-- An empty source whose selector is 1 traps (R92). -/
theorem Ctx.verdict_emptyTraps (empty : ∃ r ∈ n.src, r.2 = true ∧ c.full r.1 = false) : c.verdict n = .trap 0x28 := by
  have asked : n.src.any (fun r => r.2 && !c.full r.1) = true := by simpa using empty
  have allowed : (n.sys && !c.sys) = false := by simpa using priv
  simp [Ctx.verdict, undef, legal, full, true_, allowed, asked]

/-- With none that traps, an empty source or destination makes the instruction wait (R92, R93). -/
theorem Ctx.verdict_emptyWaits (scalar : n.psrc = []) (calm : ∀ r ∈ n.src, r.2 = true → c.full r.1 = true)
    (empty : (∃ r ∈ n.src, c.full r.1 = false) ∨ ∃ r ∈ n.dst, c.full r = false) : c.verdict n = .wait := by
  have quiet : n.src.any (fun r => r.2 && !c.full r.1) = false := by simpa using calm
  have allowed : (n.sys && !c.sys) = false := by simpa using priv
  have asked : (n.src.any (fun r => !c.full r.1) || n.dst.any (fun r => !c.full r)) = true := by simpa using empty
  unfold Ctx.verdict
  rcases Bool.or_eq_true_iff.1 asked with h | h <;>
    simp only [undef, legal, full, true_, allowed, quiet, scalar, h, Bool.not_true, Bool.or_false, Bool.or_true, Bool.true_or, List.any_nil,
      Bool.false_eq_true, if_false, if_true]

end

/-- The register operations differ in what they compute alone. -/
theorem exec_rOps : ∀ o ∈ rOps, ∃ op, ∀ (f : FR) (s : State), exec (o.1 f) s = binR f op s := by
  simp only [rOps, List.forall_mem_cons, List.not_mem_nil, false_imp_iff, implies_true, and_true]
  exact ⟨⟨(· + ·), fun _ _ => rfl⟩, ⟨(· - ·), fun _ _ => rfl⟩, ⟨(· * ·), fun _ _ => rfl⟩, ⟨opMulh, fun _ _ => rfl⟩, ⟨opMulhu, fun _ _ => rfl⟩,
    ⟨opDiv, fun _ _ => rfl⟩, ⟨opDivu, fun _ _ => rfl⟩, ⟨opRem, fun _ _ => rfl⟩, ⟨opRemu, fun _ _ => rfl⟩, ⟨(· &&& ·), fun _ _ => rfl⟩,
    ⟨(· ||| ·), fun _ _ => rfl⟩, ⟨(· ^^^ ·), fun _ _ => rfl⟩, ⟨fun a b => a &&& ~~~b, fun _ _ => rfl⟩, ⟨opShl, fun _ _ => rfl⟩,
    ⟨opShr, fun _ _ => rfl⟩, ⟨opSra, fun _ _ => rfl⟩, ⟨opRotr, fun _ _ => rfl⟩, ⟨opMin, fun _ _ => rfl⟩, ⟨opMax, fun _ _ => rfl⟩,
    ⟨opMinu, fun _ _ => rfl⟩, ⟨opMaxu, fun _ _ => rfl⟩⟩

/-- A waiting instruction leaves its context blocked, and all else as it was. -/
theorem guard_waits {n : Need} {s : State} (k : State → State) (h : s.cur.verdict n = .wait) :
    ∃ t, guard n s k = .next t ∧ OnlyCur s t ∧ t.cur = { s.cur with st := .blocked } :=
  ⟨_, guard_wait k h, onlyCur_setCur s _, State.cur_setCur s _⟩

/-- A skipped one falls through. -/
theorem guard_skips {n : Need} {s : State} (k : State → State) (h : s.cur.verdict n = .skip) :
    ∃ t, guard n s k = .next t ∧ OnlyCur s t ∧ t.cur = s.cur.fall n.words :=
  ⟨_, guard_skip k h, onlyCur_setCur s _, State.cur_setCur s _⟩

/-! ### Privilege (R327) -/

/-- No prefix stands before an instruction: it takes what there is. -/
theorem legal_noPrefix {c : Ctx} (none : c.pfx = {}) (n : Need) : c.pfx.legal n = true := by
  rw [none]; simp [Pfx.legal]

/-- In program state a privileged instruction takes the privilege trap, whatever its operands. -/
theorem guard_privilege {n : Need} {s : State} (k : State → State) (program : s.cur.sys = false) (plain : s.cur.pfx = {})
    (h : s.cur.fullP n.p = true ∧ s.cur.rdP n.p = true) (undef : n.undef = false) (priv : n.sys = true) : guard n s k = .next (trapCur 0x31 s) :=
  guard_trap k (Ctx.verdict_priv _ _ undef (legal_noPrefix plain n) h.1 h.2 priv program)

/-- Registers 0x1B to 0x3A are read in system state alone (R328). -/
theorem systemReads {r : Nat} (low : 0x1B ≤ r) (high : r ≤ 0x3A) : srnBad r = false ∧ (!progReads r) = true := by
  constructor
  · simp only [srnBad, Bool.or_eq_false_iff, decide_eq_false_iff_not]; omega
  · simp only [progReads, Bool.not_eq_true', Bool.or_eq_false_iff, decide_eq_false_iff_not]; omega

/-- REWIND and the loop slots are written in system state alone (R328). -/
theorem systemWrites {r : Nat} (low : 0x0E ≤ r) (high : r ≤ 0x19) (other : r ≠ 0x0F) :
    srnBad r = false ∧ (!progReads r || (sysWrites r && !progWrites r)) = true := by
  have bad : srnBad r = false := by simp only [srnBad, Bool.or_eq_false_iff, decide_eq_false_iff_not]; omega
  have sys : sysWrites r = true := by simp only [sysWrites, Bool.or_eq_true, decide_eq_true_eq]; omega
  have prog : progWrites r = false := by simp only [progWrites, decide_eq_false_iff_not]; omega
  exact ⟨bad, by rw [sys, prog]; simp⟩

theorem exec_tret (f : FN0) (s : State) : exec (.tret f) s = execTret f s := rfl
theorem exec_tinvalAll_eq (f : FN0) (s : State) : exec (.tinvalAll f) s = execTinvalAll f s := rfl
theorem exec_tinvalPg_eq (f : FAB) (s : State) : exec (.tinvalPg f) s = execTinvalPg f s := rfl
theorem exec_tinvalSp_eq (f : FB1) (s : State) : exec (.tinvalSp f) s = execTinvalSp f s := rfl
theorem exec_cres (f : FJ) (s : State) : exec (.cres f) s = execCres f s := rfl
theorem exec_cpre (f : FU) (s : State) : exec (.cpre f) s = execCpre f s := rfl
theorem exec_cresume (f : FCr) (s : State) : exec (.cresume f) s = execCresume f s := rfl
theorem exec_mfsr (f : FMf) (s : State) : exec (.mfsr f) s = execMfsr f s := rfl

/-- Settles O25: a register operation by what the guard finds of its predicate and registers, a privileged instruction by `guard_privilege`. -/
theorem whatHoldsBack : Obligations.WhatHoldsBack := by
  unfold Obligations.WhatHoldsBack
  refine ⟨fun o ho f s legal => ?_, fun s program plain => ?_⟩
  · obtain ⟨op, ex⟩ := exec_rOps o ho
    have priv : f.need.sys = true → s.cur.sys = true := nofun
    intro c
    rw [ex f s, binR]
    refine ⟨fun empty => guard_waits _ (Ctx.verdict_emptyPredicate rfl legal empty),
      fun full false_ => guard_skips _ (Ctx.verdict_skip _ _ rfl legal full false_), fun full true_ => ⟨fun empty => ?_, fun calmA calmB empty => ?_⟩⟩
    · refine guard_trap _ (Ctx.verdict_emptyTraps rfl legal full true_ priv ?_)
      simpa [FR.need, sel_eq_true] using empty
    · refine guard_waits _ (Ctx.verdict_emptyWaits rfl legal full true_ priv rfl ?_ ?_)
      · simpa [FR.need, sel_eq_true] using And.intro calmA calmB
      · simpa [FR.need, or_assoc] using empty
  · intro ok
    have trap {n : Need} (k : State → State) (undef : n.undef = false) (sys : n.sys = true)
        (h : s.cur.fullP n.p = true ∧ s.cur.rdP n.p = true) : guard n s k = .next (trapCur 0x31 s) :=
      guard_privilege k program plain h undef sys
    refine ⟨fun f h => ⟨?_, ?_⟩, fun f h => ?_, fun f h => ?_, fun f h => ⟨?_, ?_⟩, fun f h => ?_, fun f h => ?_, fun f h low high => ?_,
      fun f h low high other => ?_⟩
    · rw [exec_tret]; exact trap _ rfl rfl h
    · rw [exec_tinvalAll_eq]; exact trap _ rfl rfl h
    · rw [exec_tinvalPg_eq]; exact trap _ rfl rfl h
    · rw [exec_tinvalSp_eq]; exact trap _ rfl rfl h
    · rw [exec_setovf]; exact trap _ rfl rfl h
    · rw [exec_cres]; exact trap _ rfl rfl h
    · rw [exec_cpre]; exact trap _ rfl rfl h
    · rw [exec_cresume]; exact trap _ rfl rfl h
    · obtain ⟨undef, sys⟩ := systemReads low high
      rw [exec_mfsr, execMfsr]; exact trap _ undef sys h
    · obtain ⟨undef, sys⟩ := systemWrites low high (fun e => other (BitVec.eq_of_toNat_eq e))
      rw [exec_mtsr, execMtsr]; exact trap _ undef sys h

end Sys2Proof.Machine

/-!
SUPPORT. A part of the current core changed, and its current context with it; what a record of a trap leaves of a core.
-/
namespace Sys2Proof.Machine
open Sys2Proof.Claims

/-- An integer as a dword, in the claims' words. -/
theorem dwordOfInt_eq (x : Int) : dwordOfInt x = BitVec.ofInt 64 x := by
  apply BitVec.eq_of_toNat_eq
  rw [dwordOfInt, wrapInt, BitVec.toNat_ofNat, BitVec.toNat_ofInt]
  omega

section
variable {s : State} {c : Core} (h : c.ctxs = (s.core s.curCore).ctxs)
include h

/-- The current context stays as it was when other parts of its core change. -/
theorem cur_setCore : (s.setCore s.curCore c).cur = s.cur := (onlyCore_setCore s s.curCore h).2.2 _ _

theorem fall_setCore (w : Nat) : fall w (s.setCore s.curCore c) = (s.setCore s.curCore c).setCur (s.cur.fall w) := by
  rw [fall_eq, cur_setCore h]

theorem blockCur_setCore : blockCur (s.setCore s.curCore c) = (s.setCore s.curCore c).setCur { s.cur with st := .blocked } := by
  rw [blockCur, cur_setCore h]

/-- Nothing changes but the current core, and of its contexts the current one. -/
theorem onlyCurCore_setCur (d : Ctx) : OnlyCurCore s ((s.setCore s.curCore c).setCur d) := by
  obtain ⟨-, cores, ctxs⟩ := onlyCore_setCore s s.curCore h
  refine ⟨⟨rfl, fun _ => rfl⟩, fun j away => ?_, fun j y away => ?_⟩
  · exact (State.core_setCore _ _ _ _).trans ((if_neg away).trans (cores j away))
  · exact (State.ctx_setCur _ _ _ _).trans ((if_neg away).trans (ctxs j y))

end

theorem core_setCore_setCur (s : State) (c : Core) (d : Ctx) : ((s.setCore s.curCore c).setCur d).core s.curCore = c.setCtx s.curCtx d := by
  rw [State.setCur, State.core_setCtx]
  simp

/-! ### What a record leaves -/

/-- A core but for its contexts, and what a record of a trap moves: the scratchpad, the fault ring's tail and the count of records. -/
def RecordsOnly (c d : Core) : Prop :=
  { d with ctxs := [], sp := [], frtail := 0, recSeq := 0 } = { c with ctxs := [], sp := [], frtail := 0, recSeq := 0 }

theorem RecordsOnly.gates {c d : Core} (h : RecordsOnly c d) : d.gates = c.gates := (congrArg Core.gates h :)
theorem RecordsOnly.ctrs {c d : Core} (h : RecordsOnly c d) : d.ctrs = c.ctrs := (congrArg Core.ctrs h :)
theorem RecordsOnly.engs {c d : Core} (h : RecordsOnly c d) : d.engs = c.engs := (congrArg Core.engs h :)

theorem writeRec_recordsOnly (s : State) (core : Nat) (r : FRec) (j : Nat) : RecordsOnly (s.core j) ((s.writeRec core r).2.core j) := by
  have appended (image n : Nat) : RecordsOnly (s.core core) { ((s.core core).appendRec image).1 with recSeq := n } := by
    unfold Core.appendRec; split_ifs <;> rfl
  have numbered (image n : Nat) :
      RecordsOnly (s.core j) ((s.setCore core { ((s.core core).appendRec image).1 with recSeq := n }).core j) := by
    rw [State.core_setCore]
    split_ifs with e
    · rw [e]; exact appended image n
    · rfl
  unfold State.writeRec
  simp only []
  split_ifs <;> exact numbered _ _

theorem pendTrap_recordsOnly (s : State) (core ctx : Nat) (r : FRec) (j : Nat) : RecordsOnly (s.core j) ((s.pendTrap core ctx r).core j) :=
  .trans ((congrArg (fun c : Core => { c with sp := [], frtail := 0, recSeq := 0 })
    ((onlyCtx_modCtx (s.writeRec core { r with ctx := ctx }).2 core ctx _).2.1 j) :)) (writeRec_recordsOnly s core { r with ctx := ctx } j)

theorem pendTrap_curCore (s : State) (core ctx : Nat) (r : FRec) : (s.pendTrap core ctx r).curCore = s.curCore := by
  obtain ⟨c, h, e⟩ := s.pendTrap_eq core ctx r; rw [e]
theorem pendTrap_curCtx (s : State) (core ctx : Nat) (r : FRec) : (s.pendTrap core ctx r).curCtx = s.curCtx := by
  obtain ⟨c, h, e⟩ := s.pendTrap_eq core ctx r; rw [e]

/-- The turn-back that the model examines is the one of R252. -/
theorem Ctx.loopEnd_turnBack (c : Ctx) (e : Dword) : ((c.loopEnd e).hl0, (c.loopEnd e).hl1, (c.loopEnd e).pc) = turnBack c.hl0 c.hl1 e c.pc := by
  have atInner : (c.hl1.active && c.hl1.last == e) = true ↔ c.hl1.active = true ∧ c.hl1.last = e := by simp
  have atOuter : (c.hl0.active && c.hl0.last == e) = true ↔ c.hl0.active = true ∧ c.hl0.last = e := by simp
  unfold Ctx.loopEnd turnBack
  by_cases again : (c.hl1.active = true ∧ c.hl1.last = e) ∧ 1 < c.hl1.count.toNat
  · simp [again]
  · have once : ¬(c.hl1.active && c.hl1.last == e && decide (1 < c.hl1.count.toNat)) = true := by simpa using again
    simp only [Bool.eq_false_of_not_eq_true once, again, if_false, Bool.false_eq_true]
    by_cases inner : c.hl1.active = true ∧ c.hl1.last = e
    · by_cases outer : c.hl0.active = true ∧ c.hl0.last = e
      · by_cases more : 1 < c.hl0.count.toNat <;> simp [inner, outer, more]
      · simp [atOuter, inner, outer]
    · by_cases outer : c.hl0.active = true ∧ c.hl0.last = e
      · by_cases more : 1 < c.hl0.count.toNat
        · simp [atInner, inner, outer, more]
        · simp only [atInner, inner, outer, more, and_false, if_false, if_true, and_self, beq_self_eq_true, Bool.and_self]
          split_ifs <;> rfl
      · simp [atInner, atOuter, inner, outer]

/-- Where a context goes on is said by its pc, its loop slots and its prefixes. -/
theorem Ctx.fall_congr {c d : Ctx} (pc : d.pc = c.pc) (hl0 : d.hl0 = c.hl0) (hl1 : d.hl1 = c.hl1) (pfx : d.pfx = c.pfx) (w : Nat) :
    (d.fall w).pc = (c.fall w).pc ∧ (d.fall w).hl0 = (c.fall w).hl0 ∧ (d.fall w).hl1 = (c.fall w).hl1 ∧ (d.fall w).pfx = (c.fall w).pfx := by
  have next : let e := c.pc + dw (4 * (w - 1))
      let n (x : Ctx) : Ctx := { x with st := .running, req := none, wblk := none, pfx := {}, pc := x.pc + dw (4 * w) }
      ((n d).loopEnd e).pc = ((n c).loopEnd e).pc ∧ ((n d).loopEnd e).hl0 = ((n c).loopEnd e).hl0 ∧
        ((n d).loopEnd e).hl1 = ((n c).loopEnd e).hl1 ∧ ((n d).loopEnd e).pfx = ((n c).loopEnd e).pfx := by
    intro e n
    have turn : turnBack (n d).hl0 (n d).hl1 e (n d).pc = turnBack (n c).hl0 (n c).hl1 e (n c).pc := by simp only [n, pc, hl0, hl1]
    rw [← Ctx.loopEnd_turnBack, ← Ctx.loopEnd_turnBack, Prod.mk.injEq, Prod.mk.injEq] at turn
    exact ⟨turn.2.2, turn.1, turn.2.1, by rw [Ctx.loopEnd_eq, Ctx.loopEnd_eq (n c)]⟩
  unfold Ctx.fall
  dsimp only at next ⊢
  rw [pfx, pc] at *
  cases c.pfx.rep with
  | none => exact next
  | some r =>
    dsimp only
    split_ifs
    · exact ⟨pc, hl0, hl1, rfl⟩
    · exact next

end Sys2Proof.Machine

/-!
O10, O11: gates (R98 to R100, R269) and arrival counters (R102 to R104, R270).
-/
namespace Sys2Proof.Machine
open Sys2Proof.Claims

theorem exec_gwait (f : FG) (s : State) : exec (.gwait f) s = execGwait f s := rfl
theorem exec_graise (f : FG) (s : State) : exec (.graise f) s = execGraise f s := rfl
theorem exec_gread (f : FGD) (s : State) : exec (.gread f) s = execGread f s := rfl
theorem exec_barmImm (f : FBarmI) (s : State) : exec (.barmImm f) s = execBarmImm f s := rfl
theorem exec_barm (f : FBarm) (s : State) : exec (.barm f) s = execBarm f s := rfl
theorem exec_bwait (f : FBw) (s : State) : exec (.bwait f) s = execBwait f s := rfl
theorem exec_bread (f : FBr) (s : State) : exec (.bread f) s = execBread f s := rfl

/-- A core with n units at a gate, and with a count in an arrival counter. -/
def Core.withGate (c : Core) (g n : Nat) : Core := { c with gates := mset c.gates g n }
def Core.withCtr (c : Core) (b : Nat) (n : Int) : Core := { c with ctrs := mset c.ctrs b n }

/-! ### Waiting on a gate (R98, R100) -/

theorem mem_insertWait (w : Nat × Nat × Nat) (l : List (Nat × Nat × Nat)) : w ∈ insertWait w l := by
  induction l with
  | nil => exact List.mem_singleton_self w
  | cons x l ih =>
    rw [insertWait]
    split_ifs
    · exact List.mem_cons_self
    · exact List.mem_cons_of_mem x ih

/-- An agent that stands in a core's list of waits waits on its gate. -/
theorem mem_waiters {c : Core} {g agent tick : Nat} (h : (g, agent, tick) ∈ c.gwait) : agent ∈ c.waiters g :=
  List.mem_map.2 ⟨_, List.mem_filter.2 ⟨h, by simp⟩, rfl⟩

section
variable {s : State} {g : Nat} (first : FirstAt g s)
include first

/-- The first agent at a gate with a unit takes it. -/
theorem awaitGate_takes (unit : 1 ≤ mget 0 (s.core s.curCore).gates g) (tick : Nat) :
    (s.core s.curCore).awaitGate g s.curCtx tick =
      (true, ((s.core s.curCore).dropWait s.curCtx).withGate g (mget 0 (s.core s.curCore).gates g - 1)) := by
  have units : mget 0 (s.core s.curCore).gates g > 0 := unit
  rcases first with none | own
  · simp [Core.awaitGate, none, units, Core.withGate, Core.dropWait]
  · simp [Core.awaitGate, own, units, Core.withGate, Core.dropWait]

/-- At a gate without units it waits, or begins to. -/
theorem awaitGate_waits (empty : mget 0 (s.core s.curCore).gates g = 0) (tick : Nat) :
    ∃ l, (s.core s.curCore).awaitGate g s.curCtx tick = (false, { s.core s.curCore with gwait := l }) ∧
      s.curCtx ∈ ({ s.core s.curCore with gwait := l } : Core).waiters g := by
  rcases first with none | own
  · exact ⟨insertWait (g, s.curCtx, tick) (s.core s.curCore).gwait, by simp [Core.awaitGate, none, empty], mem_waiters (mem_insertWait _ _)⟩
  · refine ⟨(s.core s.curCore).gwait, by simp [Core.awaitGate, own, empty], ?_⟩
    exact own ▸ List.mem_singleton_self s.curCtx

end

/-- A core but for its gates and the waits on them, with the current context put back. -/
theorem gates_of_setCur {s : State} {c : Core} (d : Ctx) (h : butGates c = butGates (s.core s.curCore)) {g n : Nat}
    (hg : ∀ i, mget 0 c.gates i = if i = g then n else mget 0 (s.core s.curCore).gates i) :
    GateIs g n s ((s.setCore s.curCore c).setCur d) ∧
      butGates (((s.setCore s.curCore c).setCur d).core s.curCore) = butGates (s.core s.curCore) := by
  rw [GateIs, core_setCore_setCur]
  exact ⟨hg, h⟩

/-! ### `gwait` and `graise` (R98 to R100, R269) -/

section
variable {f : FG} {s : State} (ready : Ready { p := f.p.toNat } s.cur)
include ready

theorem exec_gwait_takes (stays : s.cutDrops s.curCore s.curCtx s.cur.k = false) (first : FirstAt f.g.toNat s)
    (unit : 1 ≤ mget 0 (s.core s.curCore).gates f.g.toNat) :
    exec (.gwait f) s = .next ((s.setCore s.curCore
      (((s.core s.curCore).dropWait s.curCtx).withGate f.g.toNat (mget 0 (s.core s.curCore).gates f.g.toNat - 1))).setCur (s.cur.fall 1)) := by
  rw [exec_gwait, execGwait, guard_ready _ ready, stays, awaitGate_takes first unit]
  exact congrArg _ (fall_setCore (by rfl) 1)

theorem exec_gwait_waits (stays : s.cutDrops s.curCore s.curCtx s.cur.k = false) (first : FirstAt f.g.toNat s)
    (empty : mget 0 (s.core s.curCore).gates f.g.toNat = 0) :
    ∃ l, exec (.gwait f) s = .next ((s.setCore s.curCore { s.core s.curCore with gwait := l }).setCur { s.cur with st := .blocked }) ∧
      s.curCtx ∈ ({ s.core s.curCore with gwait := l } : Core).waiters f.g.toNat := by
  obtain ⟨l, await, waits⟩ := awaitGate_waits first empty s.tick
  refine ⟨l, ?_, waits⟩
  rw [exec_gwait, execGwait, guard_ready _ ready, stays, await]
  exact congrArg _ (blockCur_setCore (by rfl))

variable (drained : s.cur.drained = true)
include drained

theorem exec_graise_raises (room : mget 0 (s.core s.curCore).gates f.g.toNat < 65535) :
    exec (.graise f) s = .next ((s.setCore s.curCore
      ((s.core s.curCore).withGate f.g.toNat (mget 0 (s.core s.curCore).gates f.g.toNat + 1))).setCur (s.cur.fall 1)) := by
  have raise := ((s.core s.curCore).raiseGate_cases f.g.toNat).resolve_left (fun h => absurd room (Nat.not_lt.2 h.2))
  rw [exec_graise, execGraise, guard_ready _ ready]
  dsimp only
  rw [drained, if_pos rfl, State.graiseNow, raise.1]
  exact congrArg _ (fall_setCore (by rfl) 1)

theorem exec_graise_overflows (full : 65535 ≤ mget 0 (s.core s.curCore).gates f.g.toNat) :
    ∃ r : FRec, r.cls = 0x2A ∧ exec (.graise f) s = .next (fall 1 ((s.setCore s.curCore (s.core s.curCore)).pendTrap s.curCore s.curCtx r)) := by
  have raise := ((s.core s.curCore).raiseGate_cases f.g.toNat).resolve_right (fun h => absurd h.2 (Nat.not_lt.2 full))
  let w := s.whoCtx s.curCore s.curCtx s.cur.group.toNat
  refine ⟨{ cls := 0x2A, cmdaddr := w.cmdaddr, inst := w.inst, key := w.key }, rfl, ?_⟩
  rw [exec_graise, execGraise, guard_ready _ ready]
  dsimp only
  rw [drained, if_pos rfl, State.graiseNow, raise.1]

end

/-- A trap of the current context that waits: no other context changes, no gate, no memory, and it goes on where it would have. -/
theorem fall_pendTrap {s u : State} (core : ∀ j, u.core j = s.core j) (mem : u.mem = s.mem) (c : u.curCore = s.curCore) (x : u.curCtx = s.curCtx)
    (r : FRec) :
    let t := fall 1 (u.pendTrap s.curCore s.curCtx r)
    OtherCtxs s t ∧ (∀ g, mget 0 (t.core s.curCore).gates g = mget 0 (s.core s.curCore).gates g) ∧ t.mem = s.mem ∧
      t.cur.traps.map PTrap.cls = s.cur.traps.map PTrap.cls ++ [r.cls] ∧ t.cur.pc = (s.cur.fall 1).pc := by
  have same (j y : Nat) : u.ctx j y = s.ctx j y := by rw [State.ctx, State.ctx, core]
  have cur : (u.pendTrap s.curCore s.curCtx r).cur = (u.pendTrap s.curCore s.curCtx r).ctx s.curCore s.curCtx := by
    rw [State.cur, pendTrap_curCore, pendTrap_curCtx, c, x]
  obtain ⟨kept, others⟩ := pendTrap_frame u s.curCore s.curCtx r
  have traps := pendTrap_traps u s.curCore s.curCtx r
  have own : u.ctx s.curCore s.curCtx = s.cur := same _ _
  rw [own] at kept traps
  dsimp only
  rw [cur_fall, cur]
  refine ⟨fun j y away => ?_, fun g => ?_, (pendTrap_mem ..).trans mem, ?_, ?_⟩
  · rw [fall_eq, State.ctx_setCur, pendTrap_curCore, pendTrap_curCtx, c, x, if_neg away, others j y away, same]
  · rw [fall_eq, State.setCur, State.setCtx_core_gates, (pendTrap_recordsOnly u s.curCore s.curCtx r _).gates, core]
  · rw [Ctx.fall_traps, traps]
  · refine (Ctx.fall_congr ?_ ?_ ?_ ?_ 1).1
    exacts [(congrArg Ctx.pc kept :), (congrArg Ctx.hl0 kept :), (congrArg Ctx.hl1 kept :), (congrArg Ctx.pfx kept :)]

/-- Settles O10: `gwait` by what `awaitGate` gives its first agent, `graise` by whether the gate has room, `gread` as a register written. -/
theorem gates : Obligations.Gates := by
  unfold Obligations.Gates
  refine ⟨fun f s ready stays first => ?_, fun f s ready drained => ?_, fun f s ready => ?_⟩
  · intro n
    refine ⟨fun unit => ?_, fun empty => ?_⟩
    · obtain ⟨gate, others⟩ := gates_of_setCur (s := s) (c := ((s.core s.curCore).dropWait s.curCtx).withGate f.g.toNat (n - 1))
        (s.cur.fall 1) rfl (fun i => mget_mset 0 _ f.g.toNat i _)
      exact ⟨_, exec_gwait_takes ready stays first unit, onlyCurCore_setCur (by rfl) _, State.cur_setCur _ _, gate, others⟩
    · obtain ⟨l, ex, waits⟩ := exec_gwait_waits ready stays first empty
      obtain ⟨gate, others⟩ := gates_of_setCur (s := s) (c := { s.core s.curCore with gwait := l }) (g := f.g.toNat) (n := 0)
        { s.cur with st := .blocked } rfl (fun i => by split_ifs with e <;> [rw [e]; rfl]; exact empty)
      refine ⟨_, ex, onlyCurCore_setCur (by rfl) _, State.cur_setCur _ _, gate, others, ?_⟩
      rw [core_setCore_setCur]; exact waits
  · intro n
    refine ⟨fun room => ?_, fun full => ?_⟩
    · obtain ⟨gate, others⟩ := gates_of_setCur (s := s) (c := (s.core s.curCore).withGate f.g.toNat (n + 1))
        (s.cur.fall 1) rfl (fun i => mget_mset 0 _ f.g.toNat i _)
      exact ⟨_, exec_graise_raises ready drained room, onlyCurCore_setCur (by rfl) _, State.cur_setCur _ _, gate, others⟩
    · obtain ⟨r, cls, ex⟩ := exec_graise_overflows ready drained full
      obtain ⟨ctxs, gate, mem, traps, pc⟩ := fall_pendTrap (s := s) (u := s.setCore s.curCore (s.core s.curCore))
        (fun j => by rw [State.core_setCore]; split_ifs with e <;> [rw [e]; rfl]) rfl rfl rfl r
      refine ⟨_, ex, ctxs, fun i => (gate i).trans ?_, fun a => congrArg (byteAt · a) mem, traps.trans (by rw [cls]), pc⟩
      split_ifs with e <;> [rw [e]; rfl]
  · rw [exec_gread, execGread, guard_ready _ ready, setS_eq]
    exact ⟨_, rfl, writesS_fall s _ _⟩

/-! ### Arming and delivering (R102, R104, R270) -/

/-- Arming within the range adds to the counter. -/
theorem armCur_adds {s : State} {b : Nat} {n : Int} (small : -2 ^ 31 ≤ n ∧ n < 2 ^ 31)
    (fits : -2 ^ 31 ≤ mget 0 (s.core s.curCore).ctrs b + n ∧ mget 0 (s.core s.curCore).ctrs b + n < 2 ^ 31) :
    armCur b n s = (s.setCore s.curCore ((s.core s.curCore).withCtr b (mget 0 (s.core s.curCore).ctrs b + n))).setCur (s.cur.fall 1) := by
  rw [armCur, Core.arm_eq_some.2 ⟨⟨small.1, small.2, fits⟩, rfl⟩]
  exact fall_setCore (by rfl) 1

/-- Out of it, arming is an illegal operand. -/
theorem armCur_refuses {s : State} {b : Nat} {n : Int}
    (out : mget 0 (s.core s.curCore).ctrs b + n < -2 ^ 31 ∨ 2 ^ 31 ≤ mget 0 (s.core s.curCore).ctrs b + n) : armCur b n s = trapCur 0x27 s := by
  have none : (s.core s.curCore).arm b n = none := by
    refine Option.eq_none_iff_forall_ne_some.2 fun c e => ?_
    obtain ⟨⟨-, -, low, high⟩, -⟩ := Core.arm_eq_some.1 e
    omega
  rw [armCur, none]

theorem exec_barmImm_arms {s : State} {f : FBarmI} (ready : Ready { p := f.p.toNat, xim := 1 } s.cur) :
    exec (.barmImm f) s = .next (armCur f.ctr.toNat (immS 14 f.imm.toNat s.cur.pfx.xims) s) := by
  rw [exec_barmImm, execBarmImm, guard_ready _ ready]

theorem exec_barm_arms {s : State} {f : FBarm} (ready : Ready { p := f.p.toNat, src := [(f.a.toNat, f.fa == 1)] } s.cur) :
    exec (.barm f) s = .next (armCur f.ctr.toNat (s.cur.rd f.a.toNat).toInt s) := by
  rw [exec_barm, execBarm]
  exact guard_ready _ ready

/-- A delivery is the difference, kept from falling below the least count, of which it tells. -/
theorem deliver_saturates (c : Core) (b n : Nat) :
    ((c.deliver b n).1 = true ↔ mget 0 c.ctrs b - (n : Int) < -2 ^ 31) ∧
      (c.deliver b n).2 = c.withCtr b (max (mget 0 c.ctrs b - (n : Int)) (-2 ^ 31)) := by
  rcases c.deliver_cases b n with ⟨h, low⟩ | ⟨h, within⟩
  · rw [h, max_eq_right low.le]
    exact ⟨iff_of_true rfl low, rfl⟩
  · rw [h, max_eq_left within]
    exact ⟨iff_of_false Bool.false_ne_true (not_lt.2 within), rfl⟩

/-- Settles O11: arming by its range, `bwait` by the count, `bread` as a register written, a delivery by `deliver_saturates`. -/
theorem arrivalCounters : Obligations.ArrivalCounters := by
  unfold Obligations.ArrivalCounters
  refine ⟨⟨fun ctr n s i arms small => ?_, fun f s ready stays => ?_, fun f s ready => ?_⟩, fun c b n => ?_⟩
  · intro x
    have arms : exec i s = .next (armCur ctr n s) := by
      rcases arms with ⟨f, hi, hc, hn, ready⟩ | ⟨f, hi, hc, hn, ready⟩
      · rw [hi, hc, hn, exec_barmImm_arms ready]
      · rw [hi, hc, hn, exec_barm_arms ready]
    refine ⟨fun fits => ⟨_, arms.trans (congrArg _ (armCur_adds small fits)), onlyCurCore_setCur (by rfl) _, State.cur_setCur _ _, fun i => ?_, ?_⟩,
      fun out => arms.trans (congrArg _ (armCur_refuses out))⟩ <;> rw [core_setCore_setCur]
    · exact mget_mset 0 _ ctr i x
    · rfl
  · have ex : exec (.bwait f) s = .next (if mget 0 (s.core s.curCore).ctrs f.ctr.toNat = 0 then fall 1 s else blockCur s) := by
      rw [exec_bwait, execBwait, guard_ready _ ready, stays]; simp
    refine ⟨fun zero => ?_, fun left => ?_⟩
    · rw [ex, if_pos zero]; exact ⟨_, rfl, onlyCur_setCur s _, State.cur_setCur s _⟩
    · rw [ex, if_neg left]; exact ⟨_, rfl, onlyCur_setCur s _, State.cur_setCur s _⟩
  · rw [exec_bread, execBread, guard_ready _ ready, setS_eq, dwordOfInt_eq]
    exact ⟨_, rfl, writesS_fall s _ _⟩
  · obtain ⟨tells, is⟩ := deliver_saturates c b n
    dsimp only
    rw [is]
    exact ⟨tells, rfl, rfl, fun i => mget_mset 0 _ b i _⟩

end Sys2Proof.Machine

/-!
O19: chained loads, marks and fences take their places in the context's list of accesses (R88, R89, R111, R146, R153, R277, R278).
-/
namespace Sys2Proof.Machine
open Sys2Proof.Claims

theorem exec_chainLd (f : FChL) (s : State) : exec (.chainLd f) s = execChainLd f s := rfl
theorem exec_chainAdd (f : FChA) (s : State) : exec (.chainAdd f) s = execChainAdd f s := rfl
theorem exec_chainSwap (f : FChA) (s : State) : exec (.chainSwap f) s = execChainSwap f s := rfl
theorem exec_mark (f : FN0) (s : State) : exec (.mark f) s = execMark f s := rfl
theorem exec_fence (f : FFence) (s : State) : exec (.fence f) s = execFence f s := rfl

/-! ### Going on with other fields changed -/

/-- A context that differs in neither its place, its loop slots nor its prefixes goes on as the other would. -/
theorem goesOn_fall {c d : Ctx} (pc : d.pc = c.pc) (hl0 : d.hl0 = c.hl0) (hl1 : d.hl1 = c.hl1) (pfx : d.pfx = c.pfx) (w : Nat) :
    GoesOn w c (d.fall w) := by
  refine ⟨Ctx.fall_st .., Ctx.fall_req .., Ctx.fall_wblk .., fun rep off0 off1 => ?_⟩
  rw [Ctx.fall_plain d w (pfx ▸ rep) (hl0 ▸ off0) (hl1 ▸ off1)]
  exact ⟨congrArg (· + dw (4 * w)) pc, hl0, hl1, rfl⟩

/-- A context's count of accesses does not change where its context goes on. -/
theorem Ctx.fall_withSeq (c : Ctx) (n w : Nat) : ({ c with seq := n } : Ctx).fall w = { c.fall w with seq := n } := by
  obtain ⟨pc, hl0, hl1, pfx⟩ := Ctx.fall_congr (c := c) (d := { c with seq := n }) rfl rfl rfl rfl w
  rw [Ctx.fall_eq { c with seq := n }, pc, hl0, hl1, pfx, Ctx.fall_eq c]

/-! ### An access issued (R91) -/

/-- A context with the destination of an access marked empty. -/
def Ctx.emptied (c : Ctx) (dst : Option Nat) : Ctx := match dst with
  | some d => c.mark d true
  | none => c

theorem issueAcc_eq (c : Ctx) (a : Acc) : c.issueAcc a =
    { c with sE := (c.emptied a.dst).sE, pend := c.pend ++ [{ a with seq := c.seq, spaceid := c.spaceid, sys := c.sys }], seq := c.seq + 1 } := by
  unfold Ctx.issueAcc Ctx.emptied
  cases a.dst with
  | none => rfl
  | some d => unfold Ctx.mark; dsimp only; split_ifs <;> rfl

theorem emptied_full (c : Ctx) (dst : Option Nat) (m : Nat) :
    (c.emptied dst).full m = if dst = some m ∧ m ≠ 0 then false else c.full m := by
  cases dst with
  | none => rfl
  | some d =>
    rw [Ctx.emptied, Ctx.full_mark]
    by_cases h : m = d
    · rw [h]; simp
    · rw [if_neg (fun e => h e.1), if_neg (fun e => h (Option.some.inj e.1).symm)]

/-- A context that issues an access and goes on has issued it. -/
theorem issues_fall {s t : State} {a b : Acc} (h : t.cur = (s.cur.issueAcc a).fall 1)
    (tag : { a with seq := s.cur.seq, spaceid := s.cur.spaceid, sys := s.cur.sys } = { b with seq := s.cur.seq }) : Issues b s t := by
  have dst : a.dst = b.dst := (congrArg Acc.dst tag :)
  rw [issueAcc_eq] at h
  refine ⟨?_, ?_, ?_, fun m => ?_, ?_⟩ <;> rw [h]
  · rw [Ctx.fall_pend, tag]
  · rw [Ctx.fall_seq]
  · exact goesOn_fall rfl rfl rfl rfl 1
  · rw [Ctx.fall_full, ← dst, ← emptied_full]; rfl
  · rw [Ctx.fall_eq]; rfl

/-! ### Chains (R277, R278) -/

/-- Behind a pending acquire a chain waits (R111). -/
theorem chainCur_waits (d r fin ns os : Nat) {s : State} (held : s.cur.acqHeld = true) : chainCur d r fin ns os s = blockCur s := if_pos held

/-- Else its entry takes its place, and the chain stands at its first step. -/
theorem chainCur_issues (d r fin ns os : Nat) {s : State} (free : s.cur.acqHeld = false) :
    let t := chainCur d r fin ns os s
    OtherCtxs s t ∧ (∀ x, byteAt t.mem x = byteAt s.mem x) ∧
      Issues (tagged s { chainAcc r fin ns s with dst := some d, acq := acqOf os }) s t ∧
      t.fchains = s.fchains ++ [{ id := s.nextPkt, core := s.curCore, isCtx := true, ctx := s.curCtx, seq := s.cur.seq, step := 0,
                                  addr := (s.cur.rd r).toNat, die := dieOf s.curCore }] := by
  intro t
  let w := s.whoCtx s.curCore s.curCtx s.cur.group.toNat
  let a : Acc := { chainAcc r fin ns s with dst := some d, acq := osAcq os, pc := s.cur.group, inst := w.inst, key := w.key }
  let chain : FChain := { id := s.nextPkt, core := s.curCore, isCtx := true, ctx := s.curCtx, seq := s.cur.seq, step := 0,
                          addr := (s.cur.rd r).toNat, die := dieOf s.curCore }
  let u : State := { s with nextPkt := s.nextPkt + 1, fchains := s.fchains ++ [chain] }
  have goes : t = u.setCur ((s.cur.issueAcc a).fall 1) := (if_neg (by simp [free])).trans (fall_onCur 1 (·.issueAcc a) u)
  rw [goes]
  exact ⟨fun j y away => (State.ctx_setCur ..).trans (if_neg away), fun _ => rfl, issues_fall (State.cur_setCur ..) rfl, rfl⟩

section
variable {s : State} (d r fin ns os : Nat)

/-- A chain with a final atomic is a held effect (R146, R153). -/
theorem chainAtomic_stalls (h : s.held s.curCore s.curCtx s.cur.k = .stall) : chainAtomic d r fin ns os s = holdCur s := by rw [chainAtomic, h]
theorem chainAtomic_dropped (h : s.held s.curCore s.curCtx s.cur.k = .drop) : chainAtomic d r fin ns os s = fall 1 s := by rw [chainAtomic, h]
theorem chainAtomic_goes (h : s.held s.curCore s.curCtx s.cur.k = .ok) : chainAtomic d r fin ns os s = chainCur d r fin ns os s := by
  rw [chainAtomic, h]

end

/-! ### Marks and fences (R88, R89) -/

/-- A mark or fence that no access precedes orders nothing. -/
theorem settle_alone {unsent : Nat → Bool} {a : Acc} (order : a.isOrder = true) (sent : a.sentOk unsent = true) : settle unsent [] [a] = [] := by
  simp [settle, order, sent]

/-- One behind an access that it holds back stays. -/
theorem settle_behind (unsent : Nat → Bool) {a b : Acc} (access : b.isOrder = false) (blocks : b.blocks a = true) :
    settle unsent [] [b, a] = [b, a] := by
  simp [settle, access, blocks]

/-- The list of a context after a mark or fence is settled when it is issued, and the context goes on. -/
theorem fall_settleCtx (s : State) {a : Acc} (none : a.dst = none) :
    ∃ unsent, fall 1 ((s.onCur (·.issueAcc a)).settleCtx s.curCore s.curCtx) = s.setCur (({ s.cur with
      pend := settle unsent [] (s.cur.pend ++ [{ a with seq := s.cur.seq, spaceid := s.cur.spaceid, sys := s.cur.sys }]), seq := s.cur.seq + 1 } : Ctx).fall 1) := by
  let u := s.onCur (·.issueAcc a)
  let unsent := (u.core s.curCore).unsent s.curCtx
  have issued : u.ctx s.curCore s.curCtx = s.cur.issueAcc a := State.cur_onCur s _
  have settled : u.settleCtx s.curCore s.curCtx = s.setCur { s.cur.issueAcc a with pend := settle unsent [] (s.cur.issueAcc a).pend } := by
    rw [State.settleCtx, State.modCtx, issued]
    exact State.setCtx_setCtx ..
  refine ⟨unsent, ?_⟩
  rw [settled, fall_eq, State.cur_setCur, State.setCur_setCur, issueAcc_eq, none]
  rfl

/-- A mark or fence issued behind nothing. -/
theorem order_alone {s : State} {a : Acc} (none : a.dst = none) (order : a.isOrder = true)
    (sent : ∀ unsent n sp sys, ({ a with seq := n, spaceid := sp, sys := sys } : Acc).sentOk unsent = true) (empty : s.cur.pend = []) :
    fall 1 ((s.onCur (·.issueAcc a)).settleCtx s.curCore s.curCtx) = s.setCur { s.cur.fall 1 with seq := s.cur.seq + 1 } := by
  obtain ⟨unsent, e⟩ := fall_settleCtx s none
  rw [e, empty, List.nil_append, settle_alone (a := { a with seq := s.cur.seq, spaceid := s.cur.spaceid, sys := s.cur.sys }) order (sent ..), ← empty]
  exact congrArg s.setCur (Ctx.fall_withSeq ..)

/-- One issued behind an access that it orders. -/
theorem order_behind {s : State} {a b : Acc} (none : a.dst = none) (only : s.cur.pend = [b]) (access : b.isOrder = false)
    (blocks : b.blocks { a with seq := s.cur.seq, spaceid := s.cur.spaceid, sys := s.cur.sys } = true) :
    let t := fall 1 ((s.onCur (·.issueAcc a)).settleCtx s.curCore s.curCtx)
    OnlyCur s t ∧ t.cur.pc = (s.cur.fall 1).pc ∧
      t.cur.pend = [b, { a with seq := s.cur.seq, spaceid := s.cur.spaceid, sys := s.cur.sys }] := by
  obtain ⟨unsent, e⟩ := fall_settleCtx s none
  dsimp only
  rw [e, only, List.singleton_append, settle_behind unsent access blocks, State.cur_setCur]
  refine ⟨onlyCur_setCur s _, (Ctx.fall_congr ?_ ?_ ?_ ?_ 1).1, Ctx.fall_pend ..⟩ <;> rfl

/-- An access not performed holds back a mark when it is of a class that a mark orders, and a fence when it is of the fence's earlier set. -/
theorem blocks_mark {b a : Acc} (left : b.performed = false) (mark : a.op = .mark) (cls : b.cls % 16 ≠ 0) : b.blocks a = true := by
  have meet : meets b.cls 15 = true := by simpa [meets, Nat.and_two_pow_sub_one_eq_mod b.cls 4] using cls
  simp [Acc.blocks, left, mark, meet]

theorem blocks_fence {b a : Acc} {early late scope : Nat} (left : b.performed = false) (fence : a.op = .fence early late scope)
    (cls : b.cls &&& early ≠ 0) : b.blocks a = true := by
  have meet : meets b.cls early = true := by simpa [meets] using cls
  simp [Acc.blocks, left, fence, meet]

/-- Settles O19: a chain by whether an acquire holds it, one with an atomic by how its step stands, a mark or fence by what stands before it. -/
theorem chainsAndOrder : Obligations.ChainsAndOrder := by
  unfold Obligations.ChainsAndOrder
  refine ⟨fun f s => ?_, fun f s ready => ?_, fun f s ready => ?_, fun f s ready => ?_⟩
  · intro a ready
    have ex : exec (.chainLd f) s = .next (chainCur f.d.toNat f.a.toNat f.fin.toNat f.ns.toNat f.os.toNat s) := by
      rw [exec_chainLd, execChainLd]; exact guard_ready _ ready
    refine ⟨fun held => ?_, fun free => ⟨_, ex, chainCur_issues _ _ _ _ _ free⟩⟩
    exact ⟨_, ex.trans (congrArg _ (chainCur_waits _ _ _ _ _ held)), onlyCur_setCur s _, State.cur_setCur s _⟩
  · intro a
    have add : exec (.chainAdd f) s = .next (chainAtomic f.d.toNat f.a.toNat 4 f.ns.toNat f.os.toNat s) := by
      rw [exec_chainAdd, execChainAdd]; exact guard_ready _ ready
    have swap : exec (.chainSwap f) s = .next (chainAtomic f.d.toNat f.a.toNat 5 f.ns.toNat f.os.toNat s) := by
      rw [exec_chainSwap, execChainSwap]; exact guard_ready _ ready
    rw [add, swap, Waits, Waits, add, swap]
    refine ⟨fun h => ?_, fun h => ?_, fun h held => ?_, fun h free => ?_⟩
    · rw [chainAtomic_stalls _ _ _ _ _ h, chainAtomic_stalls _ _ _ _ _ h]
      exact ⟨⟨_, rfl, onlyCur_setCur s _, State.cur_setCur s _⟩, ⟨_, rfl, onlyCur_setCur s _, State.cur_setCur s _⟩⟩
    · rw [chainAtomic_dropped _ _ _ _ _ h, chainAtomic_dropped _ _ _ _ _ h]
      exact ⟨rfl, rfl⟩
    · rw [chainAtomic_goes _ _ _ _ _ h, chainAtomic_goes _ _ _ _ _ h, chainCur_waits _ _ _ _ _ held, chainCur_waits _ _ _ _ _ held]
      exact ⟨⟨_, rfl, onlyCur_setCur s _, State.cur_setCur s _⟩, ⟨_, rfl, onlyCur_setCur s _, State.cur_setCur s _⟩⟩
    · rw [chainAtomic_goes _ _ _ _ _ h, chainAtomic_goes _ _ _ _ _ h]
      have issues (fin : Nat) := chainCur_issues f.d.toNat f.a.toNat fin f.ns.toNat f.os.toNat free
      obtain ⟨ctxs4, mem4, issues4, -⟩ := issues 4
      obtain ⟨ctxs5, mem5, issues5, -⟩ := issues 5
      exact ⟨⟨_, rfl, ctxs4, mem4, issues4⟩, ⟨_, rfl, ctxs5, mem5, issues5⟩⟩
  · rw [exec_mark, execMark, guard_ready _ ready]
    refine ⟨fun empty => ?_, fun b only access left cls => ?_⟩
    · rw [order_alone rfl rfl (fun _ _ _ _ => rfl) empty]
      exact ⟨_, rfl, onlyCur_setCur s _, State.cur_setCur s _⟩
    · exact ⟨_, rfl, order_behind rfl only access (blocks_mark left rfl cls)⟩
  · rw [exec_fence, execFence, guard_ready _ ready]
    dsimp only
    refine ⟨fun empty remote => ?_, fun b only access left cls => ?_⟩
    · rw [order_alone rfl rfl (fun _ _ _ _ => by simp [Acc.sentOk, remote]) empty]
      exact ⟨_, rfl, onlyCur_setCur s _, State.cur_setCur s _⟩
    · let a : Acc := { seq := 0, data := ((s.core s.curCore).eng 4).tail, op := .fence f.early.toNat f.late.toNat f.scope.toNat }
      obtain ⟨frame, pc, pend⟩ := order_behind (a := a) rfl only access (blocks_fence left rfl cls)
      exact ⟨_, rfl, frame, pc, congrArg (List.map Acc.op) pend⟩

end Sys2Proof.Machine

/-!
O22: a load's data arrives in its destination (R84, R91, R93, R258).
-/
namespace Sys2Proof.Machine
open Sys2Proof.Claims

theorem exec_resultArrival (core ctx seq : Nat) (s : State) : exec (.resultArrival core ctx seq) s = .next (resultArrival core ctx seq s) := rfl

/-! ### The value (R258) -/

/-- A loaded value as its destination takes it. -/
theorem dw_extend (sgn : Bool) (n x : Nat) :
    dw (extend sgn n x) = if sgn then (BitVec.ofNat (8 * n) x).signExtend 64 else BitVec.ofNat 64 x := by
  cases sgn with
  | false => rfl
  | true =>
    rw [extend, if_pos rfl, if_pos rfl, signed_eq_toInt]
    exact dwordOfInt_eq _

/-! ### The destination (R91) -/

/-- The value of a load stands in its destination, which is full, and its entry is gone from the list. -/
theorem deliver_load (s : State) (core ctx v : Nat) {a : Acc} {sgn : Bool} {d : Nat} (load : a.op = .load sgn) (dst : a.dst = some d) :
    ∃ l, s.deliver core ctx a v = s.setCtx core ctx { ((s.ctx core ctx).wr d (dw v)).mark d false with pend := l } ∧ ∀ b ∈ l, b.seq ≠ a.seq := by
  let arrived (c : Ctx) : Ctx := (c.wr d (dw v)).mark d false
  have delivered : s.deliver core ctx a v = (s.modCtx core ctx arrived).dropAcc core ctx a.seq := by
    unfold State.deliver
    rw [load, dst]
    dsimp only
    refine congrArg (fun f => (s.modCtx core ctx f).dropAcc core ctx a.seq) (funext fun c => ?_)
    rw [show dw 0 = 0#64 from rfl, BitVec.or_zero]
  obtain ⟨l, dropped, gone⟩ := dropAcc_eq (s.modCtx core ctx arrived) core ctx a.seq
  refine ⟨l, ?_, gone⟩
  rw [delivered, dropped, State.ctx_modCtx, if_pos ⟨rfl, rfl⟩]
  exact State.setCtx_setCtx ..

theorem loaded_rd (c : Ctx) (d r : Nat) (v : Dword) : ((c.wr d v).mark d false).rd r = if r = d ∧ d ≠ 0 then v else c.rd r := by
  rw [← Ctx.rd_wr]
  simp [Ctx.rd]

theorem loaded_full (c : Ctx) (d r : Nat) (v : Dword) : ((c.wr d v).mark d false).full r = if r = d then true else c.full r := by
  rw [Ctx.full_mark]
  by_cases h : r = d
  · by_cases zero : d = 0
    · simp [h, zero, Ctx.full]
    · simp [h, zero]
  · rw [if_neg (fun e => h e.1), if_neg h]
    simp [Ctx.full]

theorem loaded_rest (c : Ctx) (d : Nat) (v : Dword) (l : List Acc) :
    rest { { (c.wr d v).mark d false with pend := l } with s := [], sE := [], pend := [] } = rest { c with s := [], sE := [], pend := [] } := by
  unfold Ctx.mark Ctx.wr
  split_ifs <;> rfl

/-! ### A whole load that its target grants (R84) -/

section
variable {s : State} {core ctx seq pa n : Nat} {a : Acc}

/-- A whole load whose only atom has read x. -/
def Acc.read (a : Acc) (x : Nat) : Acc := { a with val := x, ans := [0] }

theorem atomOff_zero (a : Acc) : a.atomOff 0 = 0 := by simp [Acc.atomOff, segBytes]

/-- Package memory that is reached, grants the read and holds no bad line refuses no part of a whole load. -/
theorem loadRefusal_package (segs : a.segs = [(pa, n)]) (whole : Atomic pa n) (ans : a.ans = []) (reached : s.routed (dieOf core) (homeDie pa) = true)
    (granted : s.granted (shedOf core) pa n false = true) (good : s.badAt pa n = false) : s.atomRefusal core a 0 false = none := by
  by_cases spc : a.spc = 0
  · simp [State.atomRefusal, mates_whole segs whole, ans, spc, Acc.part, atoms_whole segs whole, State.refuses, grantedAll_single, reached, granted, good]
  · exact atomRefusal_local 0 false spc

/-- An entry that may be performed is the one that its list holds under the number. -/
theorem findAcc_of_next (next : Next core ctx seq a s) : ∃ older, findAcc seq (s.ctx core ctx).pend = some (older, a) := by
  have may := (Option.filter_eq_some_iff.1 next.1).1
  unfold Ctx.mayPerform at may
  split at may
  · next older b found =>
    split_ifs at may
    exact ⟨older, found.trans (by rw [Option.some.inj may])⟩
  · cases may

/-- A load that nothing holds back performs its only atom, and its data arrives. -/
theorem resultArrival_whole {sgn : Bool} (next : Next core ctx seq a s) (load : a.op = .load sgn) (left : a.performed = false) (segs : a.segs = [(pa, n)])
    (whole : Atomic pa n) (ans : a.ans = []) (good : a.bad = []) (fresh : a.val = 0) (cached : a.spc ≠ 0 ∨ field a.leaf 8 2 = 0)
    (pass : s.atomRefusal core a 0 false = none) (memory : ¬(a.spc = 0 ∧ tierOf pa = .regs)) :
    resultArrival core ctx seq s =
      s.deliver core ctx (a.read (s.rdSpc core a.spc pa n)) (extend sgn a.len (s.rdSpc core a.spc pa n)) := by
  obtain ⟨older, found⟩ := findAcc_of_next next
  have read : s.rdAny core (shedOf core) a.spc (a.atomSegs 0) a.sys = s.rdSpc core a.spc pa n := by
    rw [atomSegs_whole segs whole, State.rdAny]; exact if_neg memory
  have answer : ({ a with val := a.val + s.rdSpc core a.spc pa n * 2 ^ (8 * a.atomOff 0) } : Acc).answer 0 none =
      a.read (s.rdSpc core a.spc pa n) := by
    rw [Acc.answer, fresh, atomOff_zero]; simp [ans, Acc.read]
  have all : (a.read (s.rdSpc core a.spc pa n)).answered = true := by
    rw [Acc.answered, show (a.read (s.rdSpc core a.spc pa n)).atoms = a.atoms from rfl, atoms_whole segs whole]; simp [Acc.read]
  unfold resultArrival
  rw [found]
  dsimp only
  rw [left, load, next.1]
  dsimp only
  rw [if_neg Bool.false_ne_true, if_pos cached, nextAtom_whole s segs whole ans good]
  dsimp only
  unfold State.loadAtom
  rw [pass]
  dsimp only
  rw [if_pos cached, read, answer, afterAtom_complete _ _ _ _ _ _ all good]
  rfl

end

/-- Settles O22: a load that nothing holds back is whole (`resultArrival_whole`), and `deliver_load` says where its value stands. -/
theorem loadsArrive : Obligations.LoadsArrive := by
  unfold Obligations.LoadsArrive
  intro core ctx seq d sgn a pa n s next load left segs len whole dst ans good fresh place m v
  have cached : a.spc ≠ 0 ∨ field a.leaf 8 2 = 0 := by
    rcases place with ⟨-, leaf, -⟩ | spc | spc
    · exact .inr leaf
    · exact .inl (by omega)
    · exact .inl (by omega)
  have pass : s.atomRefusal core a 0 false = none := by
    rcases place with ⟨-, -, reached, granted, lines, -⟩ | spc | spc
    · exact loadRefusal_package segs whole ans reached granted lines
    · exact atomRefusal_local 0 false (by omega)
    · exact atomRefusal_local 0 false (by omega)
  have memory : ¬(a.spc = 0 ∧ tierOf pa = .regs) := by
    rintro ⟨spc, regs⟩
    rcases place with ⟨-, -, -, -, -, notRegs⟩ | other | other
    · exact notRegs regs
    · omega
    · omega
  have read : s.rdSpc core a.spc pa n = readLE m pa n := by
    rcases place with ⟨spc, -⟩ | spc | spc <;> simp [m, spc, State.rdSpc]
  have arrives := resultArrival_whole next load left segs whole ans good fresh cached pass memory
  rw [read, len] at arrives
  obtain ⟨l, delivered, gone⟩ := deliver_load s core ctx (extend sgn n (readLE m pa n)) (a := a.read (readLE m pa n)) load dst
  have value : dw (extend sgn n (readLE m pa n)) = v := dw_extend sgn n _
  rw [value] at delivered
  have own : (s.setCtx core ctx { ((s.ctx core ctx).wr d v).mark d false with pend := l }).ctx core ctx =
      { ((s.ctx core ctx).wr d v).mark d false with pend := l } := by rw [State.ctx_setCtx, if_pos ⟨rfl, rfl⟩]
  refine ⟨_, (exec_resultArrival ..).trans (congrArg _ (arrives.trans delivered)), rfl, ?_, fun r => ?_, fun r => ?_, fun j y away => ?_, ?_⟩
  · rw [Gone, own]; exact fun b hb => next.2 ▸ gone b hb
  · rw [own]; exact loaded_rd (s.ctx core ctx) d r v
  · rw [own]; exact loaded_full (s.ctx core ctx) d r v
  · rw [State.ctx_setCtx, if_neg away]
  · rw [own]; exact loaded_rest (s.ctx core ctx) d v l

end Sys2Proof.Machine

/-!
O33 and O34, what they share: a command at issue enters its engine's ring (R95, R97, R163, R164, R169).
-/
namespace Sys2Proof.Machine
open Sys2Proof.Claims

/-! ### The ring's entry (R164) -/

theorem listVal_eq (l : List Nat) : listVal l = l.foldr (fun x n => x + 2 ^ 64 * n) 0 := by
  induction l with
  | nil => rfl
  | cons x l ih => rw [listVal, ih]; rfl

/-- The tail's word is the second of the instruction's words. -/
theorem tailWord_eq (t : Tail) : tailWord t = encTail t := by
  simp only [tailWord, encTail, pack]
  ring

/-- An entry of words and slots that fit holds them as they are. -/
theorem ringEntry_eq {i : Instr} {t : Tail} {w a b c : Nat} (word : encode i = (w, encTail t)) (w32 : w < 2 ^ 32) (a64 : a < 2 ^ 64)
    (b64 : b < 2 ^ 64) (c64 : c < 2 ^ 64) (inst : Nat) (k : Coord) (ctx : Nat) :
    ringEntry w (tailWord t) a b c inst k ctx =
      [(encode i).1 + (encode i).2 * 2 ^ 32, a, b, c, inst % 2 ^ 32 + k.pack % 2 ^ 32 * 2 ^ 32, k.pack / 2 ^ 32, ctx, 0] := by
  rw [ringEntry, tailWord_eq, word, Nat.mod_eq_of_lt w32, Nat.mod_eq_of_lt (tail32 t), Nat.mod_eq_of_lt a64, Nat.mod_eq_of_lt b64,
    Nat.mod_eq_of_lt c64]

/-! ### The append -/

theorem Ctx.emptied_eq (c : Ctx) (ret : Option Nat) : c.emptied ret = { c with sE := (c.emptied ret).sE } := by
  cases ret with
  | none => rfl
  | some d => simp only [Ctx.emptied, Ctx.mark]; split_ifs <;> rfl

/-- The current core with an entry appended, and the current context past its command with the scalar that returns marked empty. -/
theorem appendCur_appended {e cmd : Nat} {t : Tail} {a b c : Nat} {ret : Option Nat} {s : State} {inst : Nat} {k : Coord}
    (stage : s.stageKey t.stage.toNat = some (inst, k)) (takes : RingTakes e s) :
    appendCur e cmd t a b c ret s =
      (s.setCore s.curCore ((s.core s.curCore).append e s.curCtx s.tick (ringEntry cmd (tailWord t) a b c inst k s.curCtx))).setCur
        ((s.cur.emptied ret).fall 2) := by
  obtain ⟨low, high, room, turn, fence⟩ := takes
  have legal : ((s.core s.curCore).eng e).legal = true := decide_eq_true ⟨low, high⟩
  have free : (((s.core s.curCore).eng e).isFull || ((s.core s.curCore).eng e).ahead s.tick s.curCtx || (e == 4 && s.cur.fencesRm)) = false := by
    simp only [Eng.isFull, Eng.ahead, Bool.or_eq_false_iff, decide_eq_false_iff_not, not_le, Bool.and_eq_false_imp, beq_iff_eq]
    exact ⟨⟨room, fun first later => turn ⟨first, later⟩⟩, fence⟩
  simp only [appendCur, stage, legal, free, Bool.not_true, Bool.false_eq_true, if_false, State.modCore]
  cases ret with
  | none => exact fall_setCore (by rfl) 2
  | some d => rw [fall_onCur, cur_setCore (by rfl)]; rfl

theorem Core.sp_append_setCtx (c : Core) (e ctx tick : Nat) (entry : List Nat) (d : Ctx) :
    ((c.append e ctx tick entry).setCtx ctx d).sp =
      writeLE c.sp ((c.eng e).base + 64 * ((c.eng e).tail % 2 ^ (c.eng e).logsize)) 64 (listVal entry) := by
  simp only [Core.append, Core.setCtx, Core.setEng, Eng.slotAt]

/-- A command that its ring takes is appended (R95, R97, R164, R91). -/
theorem appends {e : Nat} {i : Instr} {t : Tail} {w a b c : Nat} {ret : Option Nat} {s : State} {inst : Nat} {k : Coord}
    (word : encode i = (w, encTail t)) (w32 : w < 2 ^ 32) (a64 : a < 2 ^ 64) (b64 : b < 2 ^ 64) (c64 : c < 2 ^ 64)
    (stage : s.stageKey t.stage.toNat = some (inst, k)) (takes : RingTakes e s) :
    Appends e i a b c inst k ret s (appendCur e w t a b c ret s) := by
  rw [appendCur_appended stage takes, ringEntry_eq word w32 a64 b64 c64]
  have kept : ∀ entry, ((s.core s.curCore).append e s.curCtx s.tick entry).ctxs = (s.core s.curCore).ctxs := fun _ => rfl
  obtain ⟨cores, others, ctxs⟩ := onlyCurCore_setCur (kept _) ((s.cur.emptied ret).fall 2)
  refine ⟨cores, others, ctxs, ?_, fun x => ?_, ?_, ?_, fun m => ?_, ?_⟩
  · rw [core_setCore_setCur]; rfl
  · rw [core_setCore_setCur]; exact Core.eng_setEng ..
  · rw [core_setCore_setCur, Core.sp_append_setCtx, listVal_eq]; exact storedAt_writeLE _ _ _ _
  · rw [State.cur_setCur, s.cur.emptied_eq]; exact goesOn_fall rfl rfl rfl rfl 2
  · rw [State.cur_setCur, Ctx.fall_full, emptied_full]
  · rw [State.cur_setCur, s.cur.emptied_eq, Ctx.fall_eq]; rfl

theorem appendCur_noStage {e cmd : Nat} {t : Tail} {a b c : Nat} {ret : Option Nat} {s : State} (stage : s.stageKey t.stage.toNat = none) :
    appendCur e cmd t a b c ret s = trapCur 0x27 s := by simp only [appendCur, stage]

theorem appendCur_noRing {e cmd : Nat} {t : Tail} {a b c : Nat} {ret : Option Nat} {s : State} {inst : Nat} {k : Coord}
    (stage : s.stageKey t.stage.toNat = some (inst, k))
    (size : ((s.core s.curCore).eng e).logsize < 4 ∨ 12 < ((s.core s.curCore).eng e).logsize) :
    appendCur e cmd t a b c ret s = trapCur 0x27 s := by
  have illegal : ((s.core s.curCore).eng e).legal = false := decide_eq_false (by omega)
  simp only [appendCur, stage, illegal, Bool.not_false, if_true]

theorem appendCur_waits {e cmd : Nat} {t : Tail} {a b c : Nat} {ret : Option Nat} {s : State} {inst : Nat} {k : Coord}
    (stage : s.stageKey t.stage.toNat = some (inst, k)) (low : 4 ≤ ((s.core s.curCore).eng e).logsize)
    (high : ((s.core s.curCore).eng e).logsize ≤ 12) (held : ¬RingTakes e s) :
    appendCur e cmd t a b c ret s = blockCur s := by
  have legal : ((s.core s.curCore).eng e).legal = true := decide_eq_true ⟨low, high⟩
  have waits : (((s.core s.curCore).eng e).isFull || ((s.core s.curCore).eng e).ahead s.tick s.curCtx || (e == 4 && s.cur.fencesRm)) = true := by
    by_contra free
    simp only [Eng.isFull, Eng.ahead, Bool.not_eq_true, Bool.or_eq_false_iff, decide_eq_false_iff_not, not_le, Bool.and_eq_false_imp,
      beq_iff_eq] at free
    obtain ⟨⟨room, turn⟩, fence⟩ := free
    exact held ⟨low, high, room, fun first => turn first.1 first.2, fence⟩
  simp only [appendCur, stage, legal, waits, Bool.not_true, Bool.false_eq_true, if_false, if_true]

/-! ### The guard of a command -/

/-- A field is enabled or holds 0 (R225). -/
theorem enabled_iff {n : Nat} (x : BitVec 1) (y : BitVec n) : (x == 1 || y == 0) = true ↔ (x = 0 → y = 0) := by
  rcases BitVec.eq_zero_or_eq_one x with rfl | rfl <;> simp

/-- What makes a command's tail undefined is what R220 and R225 name. -/
theorem tailUndef_iff {op fn bx : Nat} {i : Instr} {t : Tail} (mode : rounds i t = takesMode op fn bx t.esp.toNat) :
    tailUndef op fn bx t = true ↔ ¬TailGood i t := by
  have enables : tailOk t = true ↔ tailLegal t := by simp only [tailOk, tailLegal, Bool.and_eq_true, enabled_iff, and_assoc]
  rw [TailGood, ← enables, mode, tailUndef, Bool.or_eq_true, Bool.and_eq_true, decide_eq_true_eq, Bool.not_eq_true', not_and_or,
    Bool.not_eq_true, not_not]

/-- A command that is ready and whose tail is legal has its effect. -/
theorem command_runs {i : Instr} {need : Need} {t : Tail} {s : State} {undef : Bool} {f : State → State}
    (runs : exec i s = guard { need with undef := undef } s f) (bad : undef = true ↔ ¬TailGood i t) (ready : Ready need s.cur)
    (good : TailGood i t) : exec i s = .next (f s) := by
  have off : undef = false := Bool.eq_false_iff.2 fun on => bad.1 on good
  rw [runs, guard_ready f (n := { need with undef := undef }) ⟨off, ready.2⟩]

/-- An instruction whose effect is an append, under the guard of a command, issues as one. -/
theorem commandIssues {e : Nat} {i : Instr} {need : Need} {t : Tail} {w a b c : Nat} {ret : Option Nat} {s : State} {undef : Bool}
    {f : State → State} (runs : exec i s = guard { need with undef := undef } s f) (bad : undef = true ↔ ¬TailGood i t)
    (effect : f s = appendCur e w t a b c ret s) (word : encode i = (w, encTail t)) (w32 : w < 2 ^ 32) (a64 : a < 2 ^ 64)
    (b64 : b < 2 ^ 64) (c64 : c < 2 ^ 64) : CommandIssues e i need t a b c ret s := by
  have issues (ready : Ready need s.cur) (good : TailGood i t) : exec i s = .next (appendCur e w t a b c ret s) :=
    (command_runs runs bad ready good).trans (congrArg _ effect)
  refine ⟨fun tail => ?_, fun ready good => ⟨fun stage => ?_, fun inst k stage => ⟨fun size => ?_, fun low high held => ?_, fun takes => ?_⟩⟩⟩
  · rw [runs]; exact guard_trap f (Ctx.verdict_undef _ _ (.inl (bad.2 tail)))
  · rw [issues ready good, appendCur_noStage stage]
  · rw [issues ready good, appendCur_noRing stage size]
  · exact ⟨_, (issues ready good).trans (congrArg _ (appendCur_waits stage low high held)), onlyCur_setCur s _, State.cur_setCur ..⟩
  · exact ⟨_, issues ready good, appends word w32 a64 b64 c64 stage takes⟩



/-- The bit of a type code that says a float's (R223), as the model reads it. -/
theorem floatCode_eq (esp : BitVec 10) : floatCode esp.toNat = esp.getLsbD 9 := by
  rw [floatCode, BitVec.getLsbD, Nat.testBit_eq_decide_div_mod_eq, decide_eq_decide]
  omega

/-- The bit of a BX type code that says a float's. -/
theorem floatField_eq (bx : BitVec 5) : decide (8 ≤ bx.toNat % 16) = bx.getLsbD 3 := by
  rw [BitVec.getLsbD, Nat.testBit_eq_decide_div_mod_eq, decide_eq_decide]
  omega

/-! ### Format EV (R221) -/

/-- The first word of format EV, its fields packed. -/
def evPack (op fn : Nat) (f : FEV) : List ((n : Nat) × BitVec n) :=
  [⟨7, BitVec.ofNat 7 fn⟩, ⟨5, f.bx⟩, ⟨5, f.ax⟩, ⟨5, f.dx⟩, ⟨3, f.p⟩, ⟨7, BitVec.ofNat 7 op⟩]

/-- A command of format EV with its major opcode and its function code: its effect, its words and whether it rounds. -/
structure EvCommand (scalar : Bool) (op fn : Nat) (o : FEV → Tail → Instr) : Prop where
  effect : ∀ f t s, exec (o f t) s = appendEV op fn f t scalar s
  word : ∀ f t, encode (o f t) = (pack (evPack op fn f), encTail t)
  mode : ∀ f t, rounds (o f t) t = takesMode op fn f.bx.toNat t.esp.toNat
  vector : op < 0x60
  code : fn < 2 ^ 7

/-- The commands of a major opcode, in the order of their function codes from a first one. -/
def EvMajor (scalar : Bool) (op : Nat) : Nat → List (FEV → Tail → Instr) → Prop
  | _, [] => True
  | fn, o :: l => EvCommand scalar op fn o ∧ EvMajor scalar op (fn + 1) l

theorem EvMajor.append {scalar : Bool} {op fn : Nat} {l m : List (FEV → Tail → Instr)} (major : EvMajor scalar op fn l)
    (later : ∀ o ∈ m, ∃ op fn, EvCommand scalar op fn o) : ∀ o ∈ l ++ m, ∃ op fn, EvCommand scalar op fn o := by
  induction l generalizing fn with
  | nil => exact later
  | cons o l ih => exact List.forall_mem_cons.2 ⟨⟨op, fn, major.1⟩, ih major.2⟩

theorem evMajor44 : EvMajor false 0x44 0
    [.vadd, .vsub, .vadds, .vsubs, .vmul, .vmulh, .vmin, .vmax, .vand, .vor, .vxor, .vandn, .vabs, .vneg, .vavg, .vabsd] := by
  repeat refine ⟨⟨fun _ _ _ => rfl, fun _ _ => rfl, fun _ _ => rfl, by decide, by decide⟩, ?_⟩
  trivial

theorem evMajor46 : EvMajor false 0x46 0 [.vfadd, .vfsub, .vfmul, .vfdiv, .vfmin, .vfmax, .vfabs, .vfneg] := by
  repeat refine ⟨⟨fun _ _ _ => rfl, fun _ _ => rfl, fun _ _ => rfl, by decide, by decide⟩, ?_⟩
  trivial

theorem evMajor48 : EvMajor false 0x48 0 [.vfma, .vfms, .vfnma, .vfnms, .vmac, .vmacs] := by
  repeat refine ⟨⟨fun _ _ _ => rfl, fun _ _ => rfl, fun _ _ => rfl, by decide, by decide⟩, ?_⟩
  trivial

theorem evMajor49 : EvMajor false 0x49 0 [.vcmpEq, .vcmpNe, .vcmpLt, .vcmpLe, .vcmpGt, .vcmpGe, .vcmpUn, .vsel] := by
  repeat refine ⟨⟨fun _ _ _ => rfl, fun _ _ => rfl, fun _ _ => rfl, by decide, by decide⟩, ?_⟩
  trivial

theorem evMajor4A : EvMajor false 0x4A 0 [.vshl, .vshr, .vsra, .vrotr, .vshlImm, .vshrImm, .vsraImm, .vrotrImm] := by
  repeat refine ⟨⟨fun _ _ _ => rfl, fun _ _ => rfl, fun _ _ => rfl, by decide, by decide⟩, ?_⟩
  trivial

theorem evMajor4E : EvMajor false 0x4E 0 [.vperm, .vzipLo, .vzipHi, .vunzipEv, .vunzipOd, .vrev, .vbcast] := by
  repeat refine ⟨⟨fun _ _ _ => rfl, fun _ _ => rfl, fun _ _ => rfl, by decide, by decide⟩, ?_⟩
  trivial

theorem evMajor50 : EvMajor false 0x50 0 [.vexp2, .vlog2, .vrcp, .vrsqrt, .vsqrt, .vsinpi, .vcospi, .vtanh, .vsigm, .vexp, .vlog] := by
  repeat refine ⟨⟨fun _ _ _ => rfl, fun _ _ => rfl, fun _ _ => rfl, by decide, by decide⟩, ?_⟩
  trivial

/-- A conversion rounds if either of its types is a float's. -/
theorem convert_mode (bx : BitVec 5) (esp : BitVec 10) :
    (esp.getLsbD 9 || bx.getLsbD 3) = (floatCode esp.toNat || decide (8 ≤ bx.toNat % 16)) := by
  rw [floatCode_eq, floatField_eq]

theorem evMajor4B : EvMajor false 0x4B 0 [.vcvt, .vcvtWrap] :=
  ⟨⟨fun _ _ _ => rfl, fun _ _ => rfl, fun f t => convert_mode f.bx t.esp, by decide, by decide⟩,
   ⟨fun _ _ _ => rfl, fun _ _ => rfl, fun _ _ => rfl, by decide, by decide⟩, trivial⟩

theorem evMajor4C : EvMajor false 0x4C 0 [.vwiden, .vnarrow, .vnarrowWrap] :=
  ⟨⟨fun _ _ _ => rfl, fun _ _ => rfl, fun f t => convert_mode f.bx t.esp, by decide, by decide⟩,
   ⟨fun _ _ _ => rfl, fun _ _ => rfl, fun f t => convert_mode f.bx t.esp, by decide, by decide⟩,
   ⟨fun _ _ _ => rfl, fun _ _ => rfl, fun _ _ => rfl, by decide, by decide⟩, trivial⟩

/-- The scans, which return nothing, from function code 8 on. -/
theorem evMajor4D_scans : EvMajor false 0x4D 8 [.vscanSum, .vscanMin, .vscanMax] :=
  ⟨⟨fun _ _ _ => rfl, fun _ _ => rfl, fun _ t => (floatCode_eq t.esp).symm, by decide, by decide⟩,
   ⟨fun _ _ _ => rfl, fun _ _ => rfl, fun _ _ => rfl, by decide, by decide⟩,
   ⟨fun _ _ _ => rfl, fun _ _ => rfl, fun _ _ => rfl, by decide, by decide⟩, trivial⟩

/-- The reductions, which return a scalar (R293). -/
theorem evMajor4D_reductions : EvMajor true 0x4D 0 [.vrsum, .vrmin, .vrmax, .vrand, .vror, .vrxor] := by
  refine ⟨⟨fun _ _ _ => rfl, fun _ _ => rfl, fun _ t => (floatCode_eq t.esp).symm, by decide, by decide⟩, ?_⟩
  repeat refine ⟨⟨fun _ _ _ => rfl, fun _ _ => rfl, fun _ _ => rfl, by decide, by decide⟩, ?_⟩
  trivial

theorem evCmds_commands : ∀ o ∈ evCmds, ∃ op fn, EvCommand false op fn o :=
  (evMajor44.append (evMajor46.append (evMajor48.append (evMajor49.append (evMajor4A.append (evMajor4B.append (evMajor4C.append
    (evMajor4D_scans.append (evMajor4E.append (evMajor50.append (m := []) (by simp)))))))))) :)

theorem redCmds_commands : ∀ o ∈ redCmds, ∃ op fn, EvCommand true op fn o := (evMajor4D_reductions.append (m := []) (by simp) :)

theorem evWord_eq {op fn : Nat} (f : FEV) (major : op < 2 ^ 7) (code : fn < 2 ^ 7) :
    pack (evPack op fn f) = evWord op fn f := by
  simp only [evPack, pack, evWord, BitVec.toNat_ofNat, Nat.mod_eq_of_lt major, Nat.mod_eq_of_lt code]
  ring

/-- A command of format EV enters the ring of V. -/
theorem EvCommand.issues {scalar : Bool} {op fn : Nat} {o : FEV → Tail → Instr} (h : EvCommand scalar op fn o) (f : FEV) (t : Tail) (s : State) :
    CommandIssues 2 (o f t) { p := f.p.toNat, words := 2, rep := some (true, true, true, false), dst := if scalar then [f.dx.toNat] else [] }
      t 0 0 0 (if scalar then some f.dx.toNat else none) s := by
  have vector := h.vector
  have engine : engineOf op = 2 := if_pos vector
  have word := h.word f t
  have w32 : pack (evPack op fn f) < 2 ^ 32 := pack32 rfl
  rw [evWord_eq f (by omega) h.code] at word w32
  exact commandIssues (f := appendCur (engineOf op) (evWord op fn f) t 0 0 0 (if scalar then some f.dx.toNat else none))
    (h.effect f t s) (tailUndef_iff (h.mode f t)) (by rw [engine]) word w32 (by decide) (by decide) (by decide)

/-- Settles O33: each command of format EV has its row of R229, and appends as the row's word and scalar say. -/
theorem vectorCommandsIssue : Obligations.VectorCommandsIssue := by
  refine ⟨fun o ho f t s => ?_, fun o ho f t s => ?_⟩
  · obtain ⟨op, fn, h⟩ := evCmds_commands o ho
    exact h.issues f t s
  · obtain ⟨op, fn, h⟩ := redCmds_commands o ho
    exact h.issues f t s

end Sys2Proof.Machine

/-!
O34: the commands of formats ES and ET enter their rings with the values of their scalar slots (R95, R163, R164, R217, R221, R224).
-/
namespace Sys2Proof.Machine
open Sys2Proof.Claims

/-! ### Format ES (R221) -/

/-- The first word of format ES, its fields packed. -/
def esPack (op fn : Nat) (f : FES) : List ((n : Nat) × BitVec n) :=
  [⟨4, BitVec.ofNat 4 fn⟩, ⟨1, f.fc⟩, ⟨5, f.sc⟩, ⟨1, f.fb⟩, ⟨5, f.sb⟩, ⟨1, f.fa⟩, ⟨5, f.sa⟩, ⟨3, f.p⟩, ⟨7, BitVec.ofNat 7 op⟩]

/-- A command of format ES with its major opcode, its function code and its slots: its effect, its words and whether it rounds. -/
structure EsCommand (ka kb kc : Slot) (op fn : Nat) (o : FES → Tail → Instr) : Prop where
  effect : ∀ f t s, exec (o f t) s = appendES op fn ka kb kc f t s
  word : ∀ f t, encode (o f t) = (pack (esPack op fn f), encTail t)
  mode : ∀ f t, rounds (o f t) t = takesMode op fn 0 t.esp.toNat
  major : op < 2 ^ 7
  code : fn < 2 ^ 4

/-- What the table of commands says of each: the command, its engine, and which of its slots are scalars. -/
abbrev EsEntry : Type := (FES → Tail → Instr) × Nat × Bool × Bool × Bool

/-- A row of the table of commands: the command, its engine, and its scalar slots. -/
def esRow (ka kb kc : Slot) (op : Nat) (o : FES → Tail → Instr) : EsEntry :=
  (o, engineOf op, decide (ka = .scalar), decide (kb = .scalar), decide (kc = .scalar))

/-- A row says of a command what its issue does. -/
def EsRow (x : EsEntry) : Prop :=
  ∃ ka kb kc op fn, x = esRow ka kb kc op x.1 ∧ EsCommand ka kb kc op fn x.1

/-- The commands of a major opcode with the same slots, in the order of their function codes from a first one. -/
def EsMajor (ka kb kc : Slot) (op : Nat) : Nat → List (FES → Tail → Instr) → Prop
  | _, [] => True
  | fn, o :: l => EsCommand ka kb kc op fn o ∧ EsMajor ka kb kc op (fn + 1) l

theorem EsMajor.append {ka kb kc : Slot} {op fn : Nat} {l : List (FES → Tail → Instr)} {m : List EsEntry}
    (h : EsMajor ka kb kc op fn l) (later : ∀ x ∈ m, EsRow x) : ∀ x ∈ l.map (esRow ka kb kc op) ++ m, EsRow x := by
  induction l generalizing fn with
  | nil => exact later
  | cons o l ih => exact List.forall_mem_cons.2 ⟨⟨ka, kb, kc, op, fn, rfl, h.1⟩, ih h.2⟩

theorem esMajor40 : EsMajor .scalar .reg .none 0x40 0 [.vld, .vst] := by
  repeat refine ⟨⟨fun _ _ _ => rfl, fun _ _ => rfl, fun _ _ => rfl, by decide, by decide⟩, ?_⟩
  trivial

theorem esMajor40_strided : EsMajor .scalar .reg .scalar 0x40 2 [.vldStr, .vstStr] := by
  repeat refine ⟨⟨fun _ _ _ => rfl, fun _ _ => rfl, fun _ _ => rfl, by decide, by decide⟩, ?_⟩
  trivial

theorem esMajor41 : EsMajor .scalar .reg .none 0x41 0 [.vldl, .vstl] := by
  repeat refine ⟨⟨fun _ _ _ => rfl, fun _ _ => rfl, fun _ _ => rfl, by decide, by decide⟩, ?_⟩
  trivial

theorem esMajor41_indexed : EsMajor .scalar .reg .reg 0x41 2 [.vldlX, .vstlX] := by
  repeat refine ⟨⟨fun _ _ _ => rfl, fun _ _ => rfl, fun _ _ => rfl, by decide, by decide⟩, ?_⟩
  trivial

theorem esMajor42 : EsMajor .scalar .reg .reg 0x42 0 [.vgather, .vscatter] := by
  repeat refine ⟨⟨fun _ _ _ => rfl, fun _ _ => rfl, fun _ _ => rfl, by decide, by decide⟩, ?_⟩
  trivial

theorem esMajor45 : EsMajor .reg .reg .scalar 0x45 0
    [.vaddS, .vsubS, .vaddsS, .vsubsS, .vmulS, .vmulhS, .vminS, .vmaxS, .vandS, .vorS, .vxorS, .vandnS] := by
  repeat refine ⟨⟨fun _ _ _ => rfl, fun _ _ => rfl, fun _ _ => rfl, by decide, by decide⟩, ?_⟩
  trivial

theorem esMajor45_averages : EsMajor .reg .reg .scalar 0x45 14 [.vavgS, .vabsdS] := by
  repeat refine ⟨⟨fun _ _ _ => rfl, fun _ _ => rfl, fun _ _ => rfl, by decide, by decide⟩, ?_⟩
  trivial

theorem esMajor47 : EsMajor .reg .reg .scalar 0x47 0 [.vfaddS, .vfsubS, .vfmulS, .vfdivS, .vfminS, .vfmaxS] := by
  repeat refine ⟨⟨fun _ _ _ => rfl, fun _ _ => rfl, fun _ _ => rfl, by decide, by decide⟩, ?_⟩
  trivial

theorem esMajor62 : EsMajor .scalar .scalar .none 0x62 0 [.tld] :=
  ⟨⟨fun _ _ _ => rfl, fun _ _ => rfl, fun _ _ => rfl, by decide, by decide⟩, trivial⟩
theorem esMajor63 : EsMajor .scalar .scalar .none 0x63 0 [.tst] :=
  ⟨⟨fun _ _ _ => rfl, fun _ _ => rfl, fun _ _ => rfl, by decide, by decide⟩, trivial⟩
theorem esMajor64 : EsMajor .none .none .none 0x64 0 [.tzero] :=
  ⟨⟨fun _ _ _ => rfl, fun _ _ => rfl, fun _ _ => rfl, by decide, by decide⟩, trivial⟩
theorem esMajor65 : EsMajor .scalar .scalar .none 0x65 0 [.spub] :=
  ⟨⟨fun _ _ _ => rfl, fun _ _ => rfl, fun _ _ => rfl, by decide, by decide⟩, trivial⟩

theorem esMajor65_plain : EsMajor .none .none .none 0x65 1 [.ssub, .sunsub] := by
  repeat refine ⟨⟨fun _ _ _ => rfl, fun _ _ => rfl, fun _ _ => rfl, by decide, by decide⟩, ?_⟩
  trivial

theorem esMajor68 : EsMajor .scalar .scalar .scalar 0x68 0 [.copy, .copySt] := by
  repeat refine ⟨⟨fun _ _ _ => rfl, fun _ _ => rfl, fun _ _ => rfl, by decide, by decide⟩, ?_⟩
  trivial

theorem esMajor69 : EsMajor .scalar .scalar .scalar 0x69 0 [.mcast] :=
  ⟨⟨fun _ _ _ => rfl, fun _ _ => rfl, fun _ _ => rfl, by decide, by decide⟩, trivial⟩
theorem esMajor6A : EsMajor .scalar .scalar .scalar 0x6A 0 [.fill] :=
  ⟨⟨fun _ _ _ => rfl, fun _ _ => rfl, fun _ _ => rfl, by decide, by decide⟩, trivial⟩
theorem esMajor6B : EsMajor .scalar .scalar .scalar 0x6B 0 [.cvcopy] :=
  ⟨⟨fun _ _ _ => rfl, fun _ _ => rfl, fun _ _ => rfl, by decide, by decide⟩, trivial⟩
theorem esMajor72_target : EsMajor .scalar .scalar .none 0x72 0 [.wtgt] :=
  ⟨⟨fun _ _ _ => rfl, fun _ _ => rfl, fun _ _ => rfl, by decide, by decide⟩, trivial⟩
theorem esMajor72_initiate : EsMajor .scalar .none .none 0x72 1 [.wini] :=
  ⟨⟨fun _ _ _ => rfl, fun _ _ => rfl, fun _ _ => rfl, by decide, by decide⟩, trivial⟩
theorem esMajor72_close : EsMajor .none .none .none 0x72 2 [.wclose] :=
  ⟨⟨fun _ _ _ => rfl, fun _ _ => rfl, fun _ _ => rfl, by decide, by decide⟩, trivial⟩

theorem esMajor70 : EsMajor .scalar .scalar .scalar 0x70 0 [.put, .get] := by
  repeat refine ⟨⟨fun _ _ _ => rfl, fun _ _ => rfl, fun _ _ => rfl, by decide, by decide⟩, ?_⟩
  trivial

theorem esMajor71 : EsMajor .scalar .scalar .scalar 0x71 0
    [.ramoAdd, .ramoAnd, .ramoOr, .ramoXor, .ramoMin, .ramoMax, .ramoMinu, .ramoMaxu, .ramoSwap] := by
  repeat refine ⟨⟨fun _ _ _ => rfl, fun _ _ => rfl, fun _ _ => rfl, by decide, by decide⟩, ?_⟩
  trivial

theorem esMajor73 : EsMajor .scalar .scalar .scalar 0x73 0 [.fchain] :=
  ⟨⟨fun _ _ _ => rfl, fun _ _ => rfl, fun _ _ => rfl, by decide, by decide⟩, trivial⟩

/-! ### The atomics of V, whose function code says whether they return (R292) -/

/-- An atomic of V with the low bits of its function code: its effect, its words and that it does not round, without and with a return. -/
structure AmoCommand (fn : Nat) (o : BitVec 1 → FES → Tail → Instr) : Prop where
  effect : ∀ ret f t s, exec (o ret f t) s = appendES 0x43 (fn + 8 * ret.toNat) .scalar .reg .reg f t s
  word : ∀ ret f t, encode (o ret f t) = (pack (⟨3, BitVec.ofNat 3 fn⟩ :: ⟨1, ret⟩ :: (esPack 0x43 fn f).tail), encTail t)
  mode : ∀ ret f t, rounds (o ret f t) t = false
  code : fn < 2 ^ 3

/-- Two fields side by side are one. -/
theorem pack_join {m n : Nat} {x : BitVec m} {y : BitVec n} {z : BitVec (m + n)} (joined : x.toNat + 2 ^ m * y.toNat = z.toNat)
    (l : List ((n : Nat) × BitVec n)) : pack (⟨m, x⟩ :: ⟨n, y⟩ :: l) = pack (⟨m + n, z⟩ :: l) := by
  simp only [pack, ← joined]
  ring

/-- An atomic is a command of format ES, whose function code says whether it returns. -/
theorem AmoCommand.command {fn : Nat} {o : BitVec 1 → FES → Tail → Instr} (h : AmoCommand fn o) (ret : BitVec 1) :
    EsCommand .scalar .reg .reg 0x43 (fn + 8 * ret.toNat) (o ret) := by
  have code := h.code
  have bit := ret.isLt
  refine ⟨h.effect ret, fun f t => (h.word ret f t).trans (congrArg (·, encTail t) (pack_join ?_ _)), h.mode ret, by decide, by omega⟩
  simp only [BitVec.toNat_ofNat]
  omega

/-- The atomics of a list, in the order of their function codes from a first one. -/
def AmoMajor : Nat → List (BitVec 1 → FES → Tail → Instr) → Prop
  | _, [] => True
  | fn, o :: l => AmoCommand fn o ∧ AmoMajor (fn + 1) l

theorem AmoMajor.append {fn : Nat} {l : List (BitVec 1 → FES → Tail → Instr)} {m : List EsEntry}
    (h : AmoMajor fn l) (later : ∀ x ∈ m, EsRow x) :
    ∀ x ∈ l.flatMap (fun o => [esRow .scalar .reg .reg 0x43 (o 0), esRow .scalar .reg .reg 0x43 (o 1)]) ++ m, EsRow x := by
  induction l generalizing fn with
  | nil => exact later
  | cons o l ih =>
    exact List.forall_mem_cons.2 ⟨⟨_, _, _, _, _, rfl, h.1.command 0⟩, List.forall_mem_cons.2 ⟨⟨_, _, _, _, _, rfl, h.1.command 1⟩, ih h.2⟩⟩

theorem amoMajor43 : AmoMajor 0 [.vamoAdd, .vamoMin, .vamoMax, .vamoAnd, .vamoOr, .vamoXor, .vamoSwap, .vamoXsum] := by
  repeat refine ⟨⟨fun _ _ _ _ => rfl, fun _ _ _ => rfl, fun _ _ _ => rfl, by decide⟩, ?_⟩
  trivial

/-! ### The commands of the ES table -/

theorem esCmds_rows : ∀ x ∈ esCmds, EsRow x :=
  (esMajor40.append (esMajor40_strided.append (esMajor41.append (esMajor41_indexed.append (esMajor42.append (amoMajor43.append
    (esMajor45.append (esMajor45_averages.append (esMajor47.append (esMajor62.append (esMajor63.append (esMajor64.append
    (esMajor65.append (esMajor65_plain.append (esMajor68.append (esMajor69.append (esMajor6A.append (esMajor6B.append
    (esMajor72_target.append (esMajor72_initiate.append (esMajor72_close.append (esMajor70.append (esMajor71.append
    (esMajor73.append (m := []) (by simp)))))))))))))))))))))))) :)

theorem esWord_eq {op fn : Nat} (f : FES) (major : op < 2 ^ 7) (code : fn < 2 ^ 4) : pack (esPack op fn f) = esWord op fn f := by
  simp only [esPack, pack, esWord, BitVec.toNat_ofNat, Nat.mod_eq_of_lt major, Nat.mod_eq_of_lt code]
  ring

/-- The slots that are read at issue are those of the kind scalar. -/
theorem slotReads_eq (f : FES) (ka kb kc : Slot) :
    slotReads f (decide (ka = .scalar)) (decide (kb = .scalar)) (decide (kc = .scalar)) =
      slotSrc ka f.sa f.fa ++ slotSrc kb f.sb f.fb ++ slotSrc kc f.sc f.fc := by
  simp only [slotReads, slotSrc, sel, decide_eq_true_eq]

/-- Slot A holds its scalar with the displacement that xim gives (R217). -/
theorem slotAVal_eq (f : FES) (ka : Slot) (s : State) : slotAVal f (decide (ka = .scalar)) s = slotA s.cur ka f.sa := by
  simp only [slotAVal, slotA, engDisp, dwordOfInt_eq, List.isEmpty_iff, decide_eq_true_eq]

theorem slotVal_eq (c : Ctx) (k : Slot) (n : BitVec 5) :
    (if decide (k = .scalar) = true then (c.rd n.toNat).toNat else 0) = slotVal c k n := by
  simp only [slotVal, decide_eq_true_eq]

theorem slotA_lt (c : Ctx) (k : Slot) (n : BitVec 5) : slotA c k n < 2 ^ 64 := by
  unfold slotA; split_ifs
  · exact BitVec.isLt _
  · decide

theorem slotVal_lt (c : Ctx) (k : Slot) (n : BitVec 5) : slotVal c k n < 2 ^ 64 := by
  unfold slotVal; split_ifs
  · exact BitVec.isLt _
  · decide

/-- A command of format ES enters its engine's ring with its slots. -/
theorem EsCommand.issues {ka kb kc : Slot} {op fn : Nat} {o : FES → Tail → Instr} (h : EsCommand ka kb kc op fn o) (f : FES) (t : Tail)
    (s : State) :
    CommandIssues (engineOf op) (o f t)
      { p := f.p.toNat, words := 2, xim := 2, rep := some (true, true, true, false),
        src := slotReads f (decide (ka = .scalar)) (decide (kb = .scalar)) (decide (kc = .scalar)) } t
      (slotAVal f (decide (ka = .scalar)) s) (if decide (kb = .scalar) then (s.cur.rd f.sb.toNat).toNat else 0)
      (if decide (kc = .scalar) then (s.cur.rd f.sc.toNat).toNat else 0) none s := by
  rw [slotReads_eq, slotAVal_eq, slotVal_eq, slotVal_eq]
  have word := h.word f t
  have w32 : pack (esPack op fn f) < 2 ^ 32 := pack32 rfl
  rw [esWord_eq f h.major h.code] at word w32
  exact commandIssues
    (f := fun s => appendCur (engineOf op) (esWord op fn f) t (slotA s.cur ka f.sa) (slotVal s.cur kb f.sb) (slotVal s.cur kc f.sc) none s)
    (h.effect f t s) (tailUndef_iff (h.mode f t)) rfl word w32 (slotA_lt ..) (slotVal_lt ..) (slotVal_lt ..)

/-- The multiplications take their code from an operand's format. -/
theorem mma_command (fmtb : BitVec 4) : EsCommand .scalar .scalar .scalar 0x60 fmtb.toNat (.mma fmtb) :=
  ⟨fun _ _ _ => rfl, fun f t => by rw [esPack, BitVec.ofNat_toNat, BitVec.setWidth_eq]; rfl, fun _ _ => rfl, by decide, fmtb.isLt⟩
theorem mmas_command (fmtb : BitVec 4) : EsCommand .scalar .scalar .scalar 0x61 fmtb.toNat (.mmas fmtb) :=
  ⟨fun _ _ _ => rfl, fun f t => by rw [esPack, BitVec.ofNat_toNat, BitVec.setWidth_eq]; rfl, fun _ _ => rfl, by decide, fmtb.isLt⟩

/-! ### Format ET (R224) -/

/-- The first word of format ET, its fields packed. -/
def etPack (fn : Nat) (f : FET) : List ((n : Nat) × BitVec n) :=
  [⟨2, BitVec.ofNat 2 fn⟩, ⟨5, f.ix⟩, ⟨1, f.rc⟩, ⟨3, f.tr⟩, ⟨1, f.fx⟩, ⟨5, f.sx⟩, ⟨5, f.v⟩, ⟨3, f.p⟩, ⟨7, 0x4F⟩]

/-- A command of format ET with its function code: its effect, its words and whether it rounds. -/
structure EtCommand (fn : Nat) (o : FET → Tail → Instr) : Prop where
  effect : ∀ f t s, exec (o f t) s = appendET 0x4F fn f t s
  word : ∀ f t, encode (o f t) = (pack (etPack fn f), encTail t)
  mode : ∀ f t, rounds (o f t) t = takesMode 0x4F fn 0 t.esp.toNat
  code : fn < 2 ^ 2

theorem etCmds_commands : ∀ o ∈ etCmds, ∃ fn, EtCommand fn o := by
  simp only [etCmds, List.forall_mem_cons, List.not_mem_nil, false_implies, implies_true, and_true]
  exact ⟨⟨0, fun _ _ _ => rfl, fun _ _ => rfl, fun _ _ => rfl, by decide⟩, ⟨1, fun _ _ _ => rfl, fun _ _ => rfl, fun _ _ => rfl, by decide⟩,
    ⟨2, fun _ _ _ => rfl, fun _ _ => rfl, fun _ t => (floatCode_eq t.esp).symm, by decide⟩⟩

theorem etWord_eq {fn : Nat} (f : FET) (code : fn < 2 ^ 2) : pack (etPack fn f) = etWord 0x4F fn f := by
  simp only [etPack, pack, etWord, BitVec.toNat_ofNat, Nat.mod_eq_of_lt code, show (0x4F : BitVec 7).toNat = 0x4F from rfl]
  ring

/-- A command of format ET under the guard of its format: a slice index outside 0 to 31 is an illegal operand. -/
theorem EtCommand.runs {fn : Nat} {o : FET → Tail → Instr} (h : EtCommand fn o) (f : FET) (t : Tail) (s : State) :
    exec (o f t) s =
      guard { p := f.p.toNat, words := 2, undef := tailUndef 0x4F fn 0 t, rep := some (true, true, false, true), src := [(f.sx.toNat, f.fx == 1)] } s
        (fun s => if 31 < (s.cur.rd f.sx.toNat + f.ix.setWidth 64).toNat then trapCur 0x27 s
          else appendCur 2 (etWord 0x4F fn f) t (s.cur.rd f.sx.toNat + f.ix.setWidth 64).toNat 0 0 none s) := by
  rw [h.effect, ← BitVec.ofNat_toNat]; rfl

/-- With its slice index in range, a command of format ET enters the ring of V. -/
theorem EtCommand.issues {fn : Nat} {o : FET → Tail → Instr} (h : EtCommand fn o) (f : FET) (t : Tail) {s : State}
    (slice : (s.cur.rd f.sx.toNat + f.ix.setWidth 64).toNat ≤ 31) :
    CommandIssues 2 (o f t) { p := f.p.toNat, words := 2, rep := some (true, true, false, true), src := [(f.sx.toNat, f.fx == 1)] } t
      (s.cur.rd f.sx.toNat + f.ix.setWidth 64).toNat 0 0 none s := by
  have word := h.word f t
  have w32 : pack (etPack fn f) < 2 ^ 32 := pack32 rfl
  rw [etWord_eq f h.code] at word w32
  exact commandIssues (h.runs f t s) (tailUndef_iff (h.mode f t)) (if_neg (by omega)) word w32 (BitVec.isLt _) (by decide) (by decide)

/-- A slice index out of range traps. -/
theorem EtCommand.refuses {fn : Nat} {o : FET → Tail → Instr} (h : EtCommand fn o) (f : FET) (t : Tail) {s : State}
    (slice : 31 < (s.cur.rd f.sx.toNat + f.ix.setWidth 64).toNat)
    (ready : Ready { p := f.p.toNat, words := 2, rep := some (true, true, false, true), src := [(f.sx.toNat, f.fx == 1)] } s.cur)
    (good : TailGood (o f t) t) : exec (o f t) s = .next (trapCur 0x27 s) := by
  rw [command_runs (h.runs f t s) (tailUndef_iff (h.mode f t)) ready good, if_pos slice]

/-- Settles O34: the rows of the ES table, the multiplications, and the slice commands, each by the append of its format. -/
theorem scalarSlotCommandsIssue : Obligations.ScalarSlotCommandsIssue := by
  refine ⟨fun o ho f t s => ?_, fun fmtb f t s i hi => ?_, fun o ho f t s => ?_⟩
  · obtain ⟨ka, kb, kc, op, fn, row, h⟩ := esCmds_rows o ho
    rw [row]
    exact h.issues f t s
  · rcases hi with rfl | rfl
    · exact (mma_command fmtb).issues f t s
    · exact (mmas_command fmtb).issues f t s
  · obtain ⟨fn, h⟩ := etCmds_commands o ho
    exact ⟨h.issues f t, h.refuses f t⟩

end Sys2Proof.Machine

/-!
O36: how an engine reads its ring's next entry, starts its command, and completes it (R94, R96, R98, R99, R102, R165, R225).
-/
namespace Sys2Proof.Machine
open Sys2Proof.Claims

theorem exec_engineCommandStart (core e : Nat) (s : State) : exec (.engineCommandStart core e) s = .next (engineStart core e s) := rfl
theorem exec_engineCommandComplete (core e : Nat) (s : State) : exec (.engineCommandComplete core e) s = .next (engineComplete core e s) := rfl

/-! ### What an update of one engine leaves -/

/-- Nothing of the package changes but engine e of a core, which stands as g. -/
def OnlyEng (core e : Nat) (g : Eng) (s t : State) : Prop :=
  { t with cores := [] } = { s with cores := [] } ∧ (∀ j, { t.core j with engs := [] } = { s.core j with engs := [] }) ∧
    ∀ j x, t.eng j x = if j = core ∧ x = e then g else s.eng j x

theorem onlyEng_setEng (s : State) (core e : Nat) (g : Eng) : OnlyEng core e g s (s.setEng core e g) := by
  refine ⟨rfl, fun j => ?_, fun j x => ?_⟩
  · rw [State.setEng, State.core_setCore]
    split_ifs with own
    · rw [own]; rfl
    · rfl
  · rw [State.eng, State.setEng, State.core_setCore]
    by_cases own : j = core
    · rw [if_pos own, Core.eng_setEng, own]; simp only [true_and]; rfl
    · rw [if_neg own, if_neg fun h => own h.1]; rfl

section
variable {core e : Nat} {g : Eng} {s t : State} (h : OnlyEng core e g s t)
include h

theorem OnlyEng.own : t.eng core e = g := (h.2.2 core e).trans (if_pos ⟨rfl, rfl⟩)
theorem OnlyEng.mem : t.mem = s.mem := (congrArg State.mem h.1 :)
theorem OnlyEng.gates (j : Nat) : (t.core j).gates = (s.core j).gates := (congrArg Core.gates (h.2.1 j) :)
theorem OnlyEng.ctrs (j : Nat) : (t.core j).ctrs = (s.core j).ctrs := (congrArg Core.ctrs (h.2.1 j) :)
theorem OnlyEng.gwait (j : Nat) : (t.core j).gwait = (s.core j).gwait := (congrArg Core.gwait (h.2.1 j) :)
theorem OnlyEng.ctx (j y : Nat) : t.ctx j y = s.ctx j y := congrArg (mget ({} : Ctx) · y) ((congrArg Core.ctxs (h.2.1 j) :))

/-- What a command of a core waits for before its start asks nothing of the entries that have not started. -/
theorem OnlyEng.entryWait (cmds : g.cmds = (s.eng core e).cmds) (sent : g.sent = (s.eng core e).sent) (i x : Nat) (m : Cmd) :
    t.entryWait i x m = s.entryWait i x m := by
  have sheds : t.shed = s.shed := funext fun n => congrArg (mget ({} : Shed) · n) ((congrArg State.sheds h.1 :))
  have allCmds (j y : Nat) : (t.eng j y).cmds = (s.eng j y).cmds := by
    rw [h.2.2]; split_ifs with own
    · rw [own.1, own.2, cmds]
    · rfl
  have allSent (j y : Nat) : (t.eng j y).sent = (s.eng j y).sent := by
    rw [h.2.2]; split_ifs with own
    · rw [own.1, own.2, sent]
    · rfl
  simp only [State.entryWait, State.streamLoad, State.stream, Eng.running, Eng.usesWin, allCmds, allSent, sheds] <;>
    rfl

end

/-! ### What a context's update and a record leave of the engines -/

/-- Memory, and every core's gates, counters and engines, stay as they were. -/
def KeepsEngines (s t : State) : Prop :=
  t.mem = s.mem ∧ ∀ j, (t.core j).gates = (s.core j).gates ∧ (t.core j).ctrs = (s.core j).ctrs ∧ (t.core j).engs = (s.core j).engs

theorem KeepsEngines.trans {s t u : State} (h : KeepsEngines s t) (k : KeepsEngines t u) : KeepsEngines s u :=
  ⟨k.1.trans h.1, fun j => ⟨(k.2 j).1.trans (h.2 j).1, (k.2 j).2.1.trans (h.2 j).2.1, (k.2 j).2.2.trans (h.2 j).2.2⟩⟩

theorem KeepsEngines.eng {s t : State} (h : KeepsEngines s t) (j x : Nat) : t.eng j x = s.eng j x := congrArg (mget ({} : Eng) · x) (h.2 j).2.2

theorem keepsEngines_modCtx (s : State) (i x : Nat) (f : Ctx → Ctx) : KeepsEngines s (s.modCtx i x f) := by
  obtain ⟨rest, cores, -⟩ := onlyCtx_modCtx s i x f
  exact ⟨(congrArg State.mem rest :),
    fun j => ⟨(congrArg Core.gates (cores j) :), (congrArg Core.ctrs (cores j) :), (congrArg Core.engs (cores j) :)⟩⟩

theorem keepsEngines_pendTrap (s : State) (core ctx : Nat) (r : FRec) : KeepsEngines s (s.pendTrap core ctx r) :=
  ⟨pendTrap_mem s core ctx r, fun j => have h := pendTrap_recordsOnly s core ctx r j; ⟨h.gates, h.ctrs, h.engs⟩⟩

/-- Settling a context's list changes nothing but the list. -/
theorem settleCtx_butPend (s : State) (core ctx j y : Nat) : butPend ((s.settleCtx core ctx).ctx j y) = butPend (s.ctx j y) := by
  rw [State.settleCtx, State.ctx_modCtx]
  split_ifs with own
  · rw [own.1, own.2]; rfl
  · rfl

theorem keepsEngines_settleCtx (s : State) (core ctx : Nat) : KeepsEngines s (s.settleCtx core ctx) := keepsEngines_modCtx ..

/-! ### Leaving the ring (R165) -/

/-- An engine with a command marked as ended, and its head past those at the front that have ended. -/
def Eng.without (g : Eng) (m : Cmd) : Eng :=
  ({ g with cmds := g.cmds.map (fun c => if c.idx = m.idx then { c with ended := true } else c) } : Eng).advance

theorem Eng.without_apps (g : Eng) (m : Cmd) : (g.without m).apps = g.apps := rfl

theorem Eng.without_ended (g : Eng) (m : Cmd) : ∀ c ∈ (g.without m).cmds, c.idx = m.idx → c.ended = true := by
  intro c hc same
  obtain ⟨d, -, rfl⟩ := List.mem_map.1 ((List.dropWhile_sublist _).subset hc)
  by_cases own : d.idx = m.idx
  · rw [if_pos own]
  · rw [if_neg own] at same; exact absurd same own

section
variable (s : State) (core e : Nat) (m : Cmd)

theorem leaveRing_eng : (s.leaveRing core e m).eng core e = (s.eng core e).without m :=
  ((keepsEngines_settleCtx _ core m.ctx).eng core e).trans (onlyEng_setEng s core e _).own

theorem leaveRing_mem : (s.leaveRing core e m).mem = s.mem := rfl

theorem leaveRing_gates (j : Nat) : ((s.leaveRing core e m).core j).gates = (s.core j).gates :=
  ((keepsEngines_settleCtx _ core m.ctx).2 j).1.trans ((onlyEng_setEng s core e _).gates j)

theorem leaveRing_ctrs (j : Nat) : ((s.leaveRing core e m).core j).ctrs = (s.core j).ctrs :=
  ((keepsEngines_settleCtx _ core m.ctx).2 j).2.1.trans ((onlyEng_setEng s core e _).ctrs j)

theorem leaveRing_butPend (j y : Nat) : butPend ((s.leaveRing core e m).ctx j y) = butPend (s.ctx j y) :=
  (settleCtx_butPend ..).trans (congrArg butPend ((onlyEng_setEng s core e _).ctx j y))

theorem leaveRing_traps (j y : Nat) : ((s.leaveRing core e m).ctx j y).traps = (s.ctx j y).traps :=
  (congrArg Ctx.traps (leaveRing_butPend s core e m j y) :)

theorem leaveRing_aflags (j y : Nat) : ((s.leaveRing core e m).ctx j y).aflags = (s.ctx j y).aflags :=
  (congrArg Ctx.aflags (leaveRing_butPend s core e m j y) :)

end

/-- A command that an engine's checks refuse leaves the ring with a trap of class 0x22 pending (R225). -/
theorem refuseCmd_check (s : State) (core e : Nat) (m : Cmd) :
    let t := s.refuseCmd core e m ⟨0x22, 0, 7⟩ kRead 0 0
    t.eng core e = (s.eng core e).without m ∧ t.mem = s.mem ∧ (∀ j, (t.core j).gates = (s.core j).gates) ∧
      (t.ctx core m.ctx).traps.map PTrap.cls = (s.ctx core m.ctx).traps.map PTrap.cls ++ [0x22] := by
  intro t
  obtain ⟨s1, left, kept, traps⟩ : ∃ s1, t = (s1.pendTrap core m.ctx (s.cmdRec core e m 0x22)).leaveRing core e m ∧ KeepsEngines s s1 ∧
      (s1.ctx core m.ctx).traps = (s.ctx core m.ctx).traps := by
    refine ⟨_, rfl, ?_⟩
    cases m.scalarOut with
    | none => exact ⟨⟨rfl, fun _ => ⟨rfl, rfl, rfl⟩⟩, rfl⟩
    | some d => exact ⟨keepsEngines_modCtx .., by rw [State.ctx_modCtx, if_pos ⟨rfl, rfl⟩, Ctx.mark_traps]⟩
  have trapped := kept.trans (keepsEngines_pendTrap s1 core m.ctx (s.cmdRec core e m 0x22))
  rw [left]
  refine ⟨?_, ?_, fun j => ?_, ?_⟩
  · rw [leaveRing_eng, trapped.eng]
  · rw [leaveRing_mem, trapped.1]
  · rw [leaveRing_gates, (trapped.2 j).1]
  · rw [leaveRing_traps, pendTrap_traps, traps]; rfl

/-! ### Reading the entry (R165) -/

/-- Dwords that stand in the scratchpad as they were appended are read as they stand. -/
theorem readUnits_stored (sp : Mem) (at_ : Nat) (s : State) (l : List Nat) (i : Nat)
    (stored : ∀ j, j < l.length → readLE sp (at_ + 8 * (i + j)) 8 = l.getD j 0) : readUnits sp at_ i l s = (l, s) := by
  induction l generalizing i with
  | nil => rfl
  | cons x l ih =>
    have first : readLE sp (at_ + 8 * i) 8 = x := stored 0 (Nat.succ_pos _)
    have rest := ih (i + 1) fun j lt => by
      have := stored (j + 1) (Nat.succ_lt_succ lt)
      rwa [List.getD_cons_succ, ← Nat.add_assoc, Nat.add_right_comm] at this
    simp only [readUnits, first, if_true, rest]

/-- The entry read, its append notes that it has been; nothing else changes. -/
theorem readEntry_stored {s : State} {core e : Nat} {a : App} {l : List App} (apps : (s.eng core e).apps = a :: l)
    (stored : a.read = true ∨ ∀ i, i < a.entry.length → readLE (s.core core).sp ((s.eng core e).slotAt a.idx + 8 * i) 8 = a.entry.getD i 0) :
    ∃ s1, s.readEntry core e a = ({ a with read := true }, s1) ∧
      OnlyEng core e { s.eng core e with apps := { a with read := true } :: l } s s1 := by
  by_cases read : a.read = true
  · have same : ({ a with read := true } : App) = a := by rw [← read]
    refine ⟨s, ?_, rfl, fun _ => rfl, fun j x => ?_⟩
    · rw [State.readEntry, if_pos read, same]
    · rw [same, ← apps]
      split_ifs with own
      · rw [own.1, own.2]
      · rfl
  · have units := readUnits_stored (s.core core).sp ((s.eng core e).slotAt a.idx) s a.entry 0 fun j lt => by
      rw [Nat.zero_add]; exact stored.resolve_left read j lt
    refine ⟨_, ?_, onlyEng_setEng s core e _⟩
    simp only [State.readEntry, read, Bool.false_eq_true, if_false, units, apps, List.drop_succ_cons, List.drop_zero]

/-! ### Starting (R98, R311) -/

/-- An engine whose oldest append has become a command among those that have started. -/
def Eng.placed (g : Eng) (m : Cmd) : Eng :=
  { g with
    apps := g.apps.drop 1,
    cmds := g.cmds.filter (fun c => decide (c.idx < m.idx)) ++ [m] ++ g.cmds.filter (fun c => decide (m.idx < c.idx)) }

theorem Eng.mem_placed (g : Eng) (m : Cmd) : m ∈ (g.placed m).cmds :=
  List.mem_append_left _ (List.mem_append_right _ (List.mem_singleton_self m))

theorem onlyEng_placeCmd (s : State) (core e : Nat) (m : Cmd) : OnlyEng core e ((s.eng core e).placed m) s (s.placeCmd core e m) :=
  onlyEng_setEng ..

/-- A subscription marks nothing but its command and the stream. -/
theorem subscribe_eq (s : State) (core : Nat) (m : Cmd) : ∃ n h, s.subscribe core m = (n, { s with sheds := h }) ∧
    { n with ok := m.ok } = m ∧ (m.major ≠ 0x65 → n = m) := by
  unfold State.subscribe
  dsimp only
  split_ifs with subscribes
  · exact ⟨_, _, rfl, rfl, fun other => absurd subscribes.1 other⟩
  · exact ⟨m, s.sheds, rfl, rfl, fun _ => rfl⟩

/-- A command that starts takes its place among those that have; no memory, gate or register changes. -/
theorem begin_starts {s : State} {core e : Nat} {m : Cmd} (plain : e = 3 → m.major = 0x6A) :
    let t := s.begin core e m
    ∃ n, (t.eng core e).apps = (s.eng core e).apps.drop 1 ∧ n ∈ (t.eng core e).cmds ∧ { n with ok := m.ok } = m ∧
      (m.major ≠ 0x65 → n = m) ∧ t.mem = s.mem ∧ (∀ j, (t.core j).gates = (s.core j).gates) ∧ ∀ j y, butPend (t.ctx j y) = butPend (s.ctx j y) := by
  obtain ⟨n, h, pair, same, other⟩ : ∃ n h, (if e = 1 then s.subscribe core m else (m, s)) = (n, { s with sheds := h }) ∧
      { n with ok := m.ok } = m ∧ (m.major ≠ 0x65 → n = m) := by
    split_ifs
    · exact subscribe_eq s core m
    · exact ⟨m, s.sheds, rfl, rfl, fun _ => rfl⟩
  have shapeless : ¬(e = 3 ∧ m.shaped = true) := fun copy => by
    have fill := plain copy.1
    simp [Cmd.shaped, fill] at copy
  have begun : s.begin core e m = (({ s with sheds := h } : State).placeCmd core e n).settleCtx core m.ctx := by
    unfold State.begin
    rw [pair]
    dsimp only
    rw [if_neg shapeless]
  have placed := onlyEng_placeCmd { s with sheds := h } core e n
  have settled := keepsEngines_settleCtx (({ s with sheds := h } : State).placeCmd core e n) core m.ctx
  have eng := (settled.eng core e).trans placed.own
  intro t
  refine ⟨n, ?_, ?_, same, other, ?_, fun j => ?_, fun j y => ?_⟩ <;> simp only [t, begun]
  · rw [eng]; rfl
  · rw [eng]; exact Eng.mem_placed _ _
  · exact settled.1.trans placed.mem
  · exact (settled.2 j).1.trans (placed.gates j)
  · exact (settleCtx_butPend ..).trans (congrArg butPend (placed.ctx j y))

/-- An agent at a gate with a unit and nobody before it takes the unit. -/
theorem awaitGate_alone {c : Core} {g : Nat} (none : c.waiters g = []) (unit : 1 ≤ mget 0 c.gates g) (agent tick : Nat) :
    c.awaitGate g agent tick = (true, (c.dropWait agent).withGate g (mget 0 c.gates g - 1)) := by
  have units : mget 0 c.gates g > 0 := unit
  simp [Core.awaitGate, none, units, Core.withGate, Core.dropWait]

/-- What makes a command wait before its start: its counter, or its entry (R98, R102). -/
def Awaits (s : State) (core e : Nat) (m : Cmd) : Prop :=
  (m.ce = true ∧ delivers m = false ∧ m.streams = false ∧ mget 0 (s.core core).ctrs m.ctr ≠ 0) ∨ s.entryWait core e m = true

theorem awaits_iff (s : State) (core e : Nat) (m : Cmd) : ((s.core core).countWait m || s.entryWait core e m) = true ↔ Awaits s core e m := by
  simp only [Awaits, Core.countWait, Bool.or_eq_true, Bool.and_eq_true, Bool.not_eq_true', bne_iff_ne, and_assoc]

/-- The command that an entry comes to. -/
def App.cmd (a : App) : Cmd := { idx := a.idx, entry := a.entry, started := true }

section
variable {s : State} {core e : Nat} {a : App} {l : List App} (apps : (s.eng core e).apps = a :: l)
include apps

/-- Before the accesses that precede its append, and behind a command that still reads its record, an engine starts none (R94, R96). -/
theorem engineStart_holds (held : (s.ctx core a.ctx).drainedBefore a.seq = false ∨ (s.eng core e).starting = true) :
    engineStart core e s = s := by
  unfold engineStart
  rw [apps]
  rcases held with h | h <;> simp [h]

variable (drained : (s.ctx core a.ctx).drainedBefore a.seq = true) (ready : (s.eng core e).starting = false)
  (stored : a.read = true ∨ ∀ i, i < a.entry.length → readLE (s.core core).sp ((s.eng core e).slotAt a.idx + 8 * i) 8 = a.entry.getD i 0)
include drained ready stored

/-- The try of an engine whose next entry stands as it was appended: its branches, after the entry is read. -/
theorem engineStart_tries : ∃ s1, OnlyEng core e { s.eng core e with apps := { a with read := true } :: l } s s1 ∧
    engineStart core e s =
      if a.cmd.tailBad || !a.cmd.mine e then (s1.placeCmd core e a.cmd).refuseCmd core e a.cmd ⟨0x22, 0, 7⟩ kRead 0 0
      else if (s1.core core).countWait a.cmd || s1.entryWait core e a.cmd then s1
      else if a.cmd.ae then
        (match (s1.core core).awaitGate a.cmd.ag (3 + e) s1.tick with
         | (true, c) => (s1.setCore core c).begin core e a.cmd
         | (false, c) => s1.setCore core c)
      else s1.begin core e a.cmd := by
  obtain ⟨s1, entry, only⟩ := readEntry_stored apps stored
  refine ⟨s1, only, ?_⟩
  unfold engineStart
  rw [apps]
  simp only [drained, ready, Bool.not_true, Bool.or_self, Bool.false_eq_true, if_false, entry]
  rfl

/-- A malformed entry leaves the ring with its trap (R225). -/
theorem engineStart_refuses (bad : a.cmd.tailBad = true ∨ a.cmd.mine e = false) :
    let t := engineStart core e s
    (t.eng core e).apps = l ∧ t.mem = s.mem ∧ (∀ c ∈ (t.eng core e).cmds, c.idx = a.cmd.idx → c.ended = true) ∧
      (∀ g, mget 0 (t.core core).gates g = mget 0 (s.core core).gates g) ∧
      (t.ctx core a.cmd.ctx).traps.map PTrap.cls = (s.ctx core a.cmd.ctx).traps.map PTrap.cls ++ [0x22] := by
  obtain ⟨s1, only, tries⟩ := engineStart_tries apps drained ready stored
  have refused : (a.cmd.tailBad || !a.cmd.mine e) = true := by simpa using bad
  rw [if_pos refused] at tries
  have placed := onlyEng_placeCmd s1 core e a.cmd
  obtain ⟨eng, mem, gates, traps⟩ := refuseCmd_check (s1.placeCmd core e a.cmd) core e a.cmd
  intro t
  simp only [t, tries]
  refine ⟨?_, ?_, ?_, fun g => ?_, ?_⟩
  · rw [eng, Eng.without_apps]
    exact (congrArg Eng.apps placed.own).trans ((congrArg (fun g : Eng => (g.placed a.cmd).apps) only.own :))
  · exact mem.trans (placed.mem.trans only.mem)
  · rw [eng]; exact Eng.without_ended _ _
  · rw [gates]; exact congrArg (mget 0 · g) ((placed.gates core).trans (only.gates core))
  · rw [traps]; exact congrArg (List.map PTrap.cls ·.traps ++ [0x22]) ((placed.ctx _ _).trans (only.ctx _ _))

/-- A command that awaits its counter, or what its entry names, has been read, and nothing more (R98, R102). -/
theorem engineStart_waits (good : a.cmd.tailBad = false) (mine : a.cmd.mine e = true) (waits : Awaits s core e a.cmd) :
    let t := engineStart core e s
    (t.eng core e).apps = { a with read := true } :: l ∧ (t.eng core e).cmds = (s.eng core e).cmds ∧ t.mem = s.mem ∧
      (∀ g, mget 0 (t.core core).gates g = mget 0 (s.core core).gates g) ∧ ∀ j y, t.ctx j y = s.ctx j y := by
  obtain ⟨s1, only, tries⟩ := engineStart_tries apps drained ready stored
  have held : ((s1.core core).countWait a.cmd || s1.entryWait core e a.cmd) = true := by
    rw [awaits_iff, Awaits, only.ctrs, only.entryWait rfl rfl]; exact waits
  rw [good, mine, Bool.not_true, Bool.or_false, if_neg Bool.false_ne_true, if_pos held] at tries
  intro t
  simp only [t, tries]
  exact ⟨congrArg Eng.apps only.own, (congrArg Eng.cmds only.own :), only.mem, fun g => congrArg (mget 0 · g) (only.gates core), only.ctx⟩

/-- A command that awaits nothing any more takes its unit and starts (R94, R98). -/
theorem engineStart_starts (good : a.cmd.tailBad = false) (mine : a.cmd.mine e = true) (free : ¬Awaits s core e a.cmd)
    (plain : e = 3 → a.cmd.major = 0x6A)
    (unit : a.cmd.ae = true → (s.core core).waiters a.cmd.ag = [] ∧ 1 ≤ mget 0 (s.core core).gates a.cmd.ag) :
    ∃ n, let t := engineStart core e s
      (t.eng core e).apps = l ∧ n ∈ (t.eng core e).cmds ∧ { n with ok := false } = a.cmd ∧ (a.cmd.major ≠ 0x65 → n = a.cmd) ∧ t.mem = s.mem ∧
      (∀ g, mget 0 (t.core core).gates g =
        if a.cmd.ae = true ∧ g = a.cmd.ag then mget 0 (s.core core).gates g - 1 else mget 0 (s.core core).gates g) ∧
      ∀ j y, butPend (t.ctx j y) = butPend (s.ctx j y) := by
  obtain ⟨s1, only, tries⟩ := engineStart_tries apps drained ready stored
  have goes : ¬((s1.core core).countWait a.cmd || s1.entryWait core e a.cmd) = true := by
    rw [awaits_iff, Awaits, only.ctrs, only.entryWait rfl rfl]; exact free
  rw [good, mine, Bool.not_true, Bool.or_false, if_neg Bool.false_ne_true, if_neg goes] at tries
  obtain ⟨s2, begun, eng, mem, ctx, gates⟩ : ∃ s2 : State, engineStart core e s = s2.begin core e a.cmd ∧ s2.eng core e = s1.eng core e ∧
      s2.mem = s1.mem ∧ (∀ j y, s2.ctx j y = s1.ctx j y) ∧ ∀ g, mget 0 (s2.core core).gates g =
        if a.cmd.ae = true ∧ g = a.cmd.ag then mget 0 (s1.core core).gates g - 1 else mget 0 (s1.core core).gates g := by
    by_cases ae : a.cmd.ae = true
    · obtain ⟨alone, one⟩ := unit ae
      have alone1 : (s1.core core).waiters a.cmd.ag = [] := by rw [Core.waiters, only.gwait]; exact alone
      rw [if_pos ae, awaitGate_alone alone1 (by rw [only.gates]; exact one)] at tries
      refine ⟨_, tries, ?_, rfl, (onlyCore_setCore s1 core (by rfl)).2.2, fun g => ?_⟩
      · rw [State.eng, State.core_setCore, if_pos rfl]; rfl
      · rw [State.core_setCore, if_pos rfl, Core.withGate, mget_mset]
        by_cases own : g = a.cmd.ag
        · rw [if_pos own, if_pos ⟨ae, own⟩, own]
        · rw [if_neg own, if_neg fun h => own h.2]; rfl
    · rw [if_neg ae] at tries
      exact ⟨s1, tries, rfl, rfl, fun _ _ => rfl, fun g => (if_neg fun h => ae h.1).symm⟩
  obtain ⟨n, apps1, here, same, other, mem1, gates1, ctxs⟩ := begin_starts (s := s2) (core := core) (m := a.cmd) plain
  refine ⟨n, ?_⟩
  intro t
  simp only [t, begun]
  refine ⟨?_, here, same, other, mem1.trans (mem.trans only.mem), fun g => ?_, fun j y => ?_⟩
  · rw [apps1, eng, only.own]; rfl
  · rw [gates1, gates, only.gates]
  · rw [ctxs, ctx, only.ctx]

end

/-! ### Completing (R99, R102, R165) -/

/-- A delivery of a command that names a counter, within the counter's range, and nothing else (R102). -/
theorem delivers_within (s : State) (core e : Nat) (m : Cmd) (n : Nat)
    (within : m.ce = true → delivers m = true → -2 ^ 31 ≤ mget 0 (s.core core).ctrs m.ctr - (n : Int)) :
    let t := if delivers m && m.ce then s.deliverTo core core e m n else s
    t.mem = s.mem ∧ (t.core core).gates = (s.core core).gates ∧ (∀ j y, t.ctx j y = s.ctx j y) ∧ ∀ b, mget 0 (t.core core).ctrs b =
      if m.ce = true ∧ delivers m = true ∧ b = m.ctr then mget 0 (s.core core).ctrs b - n else mget 0 (s.core core).ctrs b := by
  intro t
  by_cases counts : (delivers m && m.ce) = true
  · obtain ⟨gives, ce⟩ := Bool.and_eq_true_iff.1 counts
    have step : t = s.setCore core ((s.core core).withCtr m.ctr (mget 0 (s.core core).ctrs m.ctr - (n : Int))) := by
      rcases (s.core core).deliver_cases m.ctr n with ⟨-, low⟩ | ⟨done, -⟩
      · exact absurd (within ce gives) (not_le.2 low)
      · simp only [t, counts, if_true, State.deliverTo, done, Bool.false_eq_true, if_false]; rfl
    rw [step, State.core_setCore, if_pos rfl]
    refine ⟨rfl, rfl, (onlyCore_setCore s core (by rfl)).2.2, fun b => ?_⟩
    rw [Core.withCtr, mget_mset]
    by_cases own : b = m.ctr
    · rw [if_pos own, if_pos ⟨ce, gives, own⟩, own]
    · rw [if_neg own, if_neg fun h => own h.2.2]
  · have step : t = s := if_neg counts
    rw [step]
    exact ⟨rfl, rfl, fun _ _ => rfl, fun b => (if_neg fun h => counts (Bool.and_eq_true_iff.2 ⟨h.2.1, h.1⟩)).symm⟩

/-- The raise of a command's gate, below its maximum, and nothing else (R99). -/
theorem raises_within (s : State) (core e : Nat) (m : Cmd) (room : m.re = true → mget 0 (s.core core).gates m.rg < 65535) :
    let t := s.raiseFor core e m
    t.mem = s.mem ∧ (t.core core).ctrs = (s.core core).ctrs ∧ (∀ j y, t.ctx j y = s.ctx j y) ∧ ∀ g, mget 0 (t.core core).gates g =
      if m.re = true ∧ g = m.rg then mget 0 (s.core core).gates g + 1 else mget 0 (s.core core).gates g := by
  intro t
  by_cases re : m.re = true
  · have step : t = s.setCore core ((s.core core).withGate m.rg (mget 0 (s.core core).gates m.rg + 1)) := by
      rcases (s.core core).raiseGate_cases m.rg with ⟨-, full⟩ | ⟨done, -⟩
      · exact absurd (room re) (not_lt.2 full)
      · simp only [t, State.raiseFor, re, done, Bool.not_true, Bool.false_eq_true, if_false]; rfl
    rw [step, State.core_setCore, if_pos rfl]
    refine ⟨rfl, rfl, (onlyCore_setCore s core (by rfl)).2.2, fun g => ?_⟩
    rw [Core.withGate, mget_mset]
    by_cases own : g = m.rg
    · rw [if_pos own, if_pos ⟨re, own⟩, own]
    · rw [if_neg own, if_neg fun h => own h.2]
  · have step : t = s := by simp only [t, State.raiseFor, re, Bool.not_false, if_true]
    rw [step]
    exact ⟨rfl, rfl, fun _ _ => rfl, fun g => (if_neg fun h => re h.1).symm⟩

/-- A command whose run is done, and that returns no scalar, completes as a whole (R99, R102, R165, R204). -/
theorem endCmd_completes (s : State) (core e fl n : Nat) (m : Cmd) (room : m.re = true → mget 0 (s.core core).gates m.rg < 65535)
    (within : m.ce = true → delivers m = true → -2 ^ 31 ≤ mget 0 (s.core core).ctrs m.ctr - (n : Int)) :
    let t := s.endCmd core e m fl n none
    t.mem = s.mem ∧
      (∀ g, mget 0 (t.core core).gates g = if m.re = true ∧ g = m.rg then mget 0 (s.core core).gates g + 1 else mget 0 (s.core core).gates g) ∧
      (∀ b, mget 0 (t.core core).ctrs b = if m.ce = true ∧ delivers m = true ∧ b = m.ctr then mget 0 (s.core core).ctrs b - n
        else mget 0 (s.core core).ctrs b) ∧
      (t.ctx core m.ctx).aflags = (s.ctx core m.ctx).aflags ||| BitVec.ofNat 64 fl ∧
      ∀ c ∈ (t.eng core e).cmds, c.idx = m.idx → c.ended = true := by
  obtain ⟨mem1, cores1⟩ := keepsEngines_modCtx s core m.ctx (·.results fl none)
  obtain ⟨gates1, ctrs1, -⟩ := cores1 core
  have flags : ((s.modCtx core m.ctx (·.results fl none)).ctx core m.ctx).aflags = (s.ctx core m.ctx).aflags ||| BitVec.ofNat 64 fl := by
    rw [State.ctx_modCtx, if_pos ⟨rfl, rfl⟩]; rfl
  obtain ⟨mem2, gates2, ctx2, ctrs2⟩ := delivers_within (s.modCtx core m.ctx (·.results fl none)) core e m n (by rw [ctrs1]; exact within)
  obtain ⟨mem3, ctrs3, ctx3, gates3⟩ := raises_within
    (if delivers m && m.ce then (s.modCtx core m.ctx (·.results fl none)).deliverTo core core e m n else s.modCtx core m.ctx (·.results fl none))
    core e m (by rw [gates2, gates1]; exact room)
  intro t
  simp only [t, State.endCmd]
  refine ⟨?_, fun g => ?_, fun b => ?_, ?_, ?_⟩
  · rw [leaveRing_mem, mem3, mem2, mem1]
  · rw [leaveRing_gates, gates3, gates2, gates1]
  · rw [leaveRing_ctrs, ctrs3, ctrs2, ctrs1]
  · rw [leaveRing_aflags, ctx3, ctx2, flags]
  · rw [leaveRing_eng]; exact Eng.without_ended _ _

/-- Settles O36: the tries of an engine by what holds its next entry, and a completion by what its command's tail names. -/
theorem engineCommands : Obligations.EngineCommands := by
  refine ⟨fun core e s a l apps => ⟨fun held => ?_, fun drained ready stored => ⟨fun bad => ?_, fun good mine waits => ?_,
    fun good mine free plain unit => ?_⟩⟩, fun core e fl n m s s0 s1 picked ran room within => ?_⟩
  · rw [exec_engineCommandStart, engineStart_holds apps held]
  · exact ⟨_, exec_engineCommandStart core e s, engineStart_refuses apps drained ready stored bad⟩
  · exact ⟨_, exec_engineCommandStart core e s, engineStart_waits apps drained ready stored good mine waits⟩
  · obtain ⟨n, starts⟩ := engineStart_starts apps drained ready stored good mine free plain unit
    exact ⟨_, n, exec_engineCommandStart core e s, starts⟩
  · have completes : engineComplete core e s = s1.endCmd core e m fl n none := by
      rw [engineComplete, engineRun, picked]
      simp only [ran, settleEff]
    exact ⟨_, (exec_engineCommandComplete core e s).trans (congrArg _ completes), endCmd_completes s1 core e fl n m room within⟩

end Sys2Proof.Machine

/-!
O14: the counts of a window are read, and waited for (R122, R126, R319).
-/
namespace Sys2Proof.Machine
open Sys2Proof.Claims

theorem exec_wreadSent (f : FWr) (s : State) : exec (.wreadSent f) s = execWreadSent f s := rfl
theorem exec_wreadSeen (f : FWr) (s : State) : exec (.wreadSeen f) s = execWreadSeen f s := rfl
theorem exec_wreadLand (f : FWr) (s : State) : exec (.wreadLand f) s = execWreadLand f s := rfl
theorem exec_wwaitSeen (f : FWw) (s : State) : exec (.wwaitSeen f) s = execWwaitSeen f s := rfl
theorem exec_wwaitLand (f : FWw) (s : State) : exec (.wwaitLand f) s = execWwaitLand f s := rfl

/-- A wait on a count that has come to its operand goes on. -/
theorem wwaitCur_passes {s : State} {count op : Dword} (reached : op.toNat ≤ count.toNat) : wwaitCur count op s = fall 1 s :=
  if_pos (.inl (BitVec.le_def.2 reached))

/-- A wait on a count below its operand stays, unless a stop lets it go (R153). -/
theorem wwaitCur_waits {s : State} {count op : Dword} (stays : s.cutDrops s.curCore s.curCtx s.cur.k = false) (below : count.toNat < op.toNat) :
    wwaitCur count op s = blockCur s := by
  refine if_neg (not_or.2 ⟨fun reached => ?_, by rw [stays]; exact Bool.false_ne_true⟩)
  exact absurd (BitVec.le_def.1 reached) (not_le.2 below)

/-- The instruction of a wait on a count: it passes at or above its operand, and waits below. -/
theorem wwait_ready {s : State} {f : FWw} {i : Instr} {count : Dword} (stays : s.cutDrops s.curCore s.curCtx s.cur.k = false)
    (runs : exec i s = .next (wwaitCur count (s.cur.rd f.a.toNat) s)) :
    ((s.cur.rd f.a.toNat).toNat ≤ count.toNat → ∃ t, exec i s = .next t ∧ OnlyCur s t ∧ t.cur = s.cur.fall 1) ∧
      (count.toNat < (s.cur.rd f.a.toNat).toNat → ∃ t, exec i s = .next t ∧ OnlyCur s t ∧ t.cur = { s.cur with st := .blocked }) := by
  refine ⟨fun reached => ?_, fun below => ?_⟩
  · rw [runs, wwaitCur_passes reached]; exact ⟨_, rfl, onlyCur_setCur s _, State.cur_setCur s _⟩
  · rw [runs, wwaitCur_waits stays below]; exact ⟨_, rfl, onlyCur_setCur s _, State.cur_setCur s _⟩

/-- Settles O14: the reads as registers written, the waits by `wwait_ready`. -/
theorem windows : Obligations.Windows := by
  unfold Obligations.Windows
  refine ⟨fun f s ready => ⟨?_, ?_, ?_⟩, fun f s ready stays => ?_⟩
  · rw [exec_wreadSent, execWreadSent, guard_ready _ ready, setS_eq]; exact ⟨_, rfl, writesS_fall s _ _⟩
  · rw [exec_wreadSeen, execWreadSeen, guard_ready _ ready, setS_eq]; exact ⟨_, rfl, writesS_fall s _ _⟩
  · rw [exec_wreadLand, execWreadLand, guard_ready _ ready, setS_eq]; exact ⟨_, rfl, writesS_fall s _ _⟩
  · obtain ⟨seenPasses, seenWaits⟩ := wwait_ready stays ((exec_wwaitSeen f s).trans (guard_ready _ ready))
    obtain ⟨landPasses, landWaits⟩ := wwait_ready stays ((exec_wwaitLand f s).trans (guard_ready _ ready))
    exact ⟨seenPasses, seenWaits, landPasses, landWaits⟩

end Sys2Proof.Machine

/-!
O37: the steps of a chain (R129 to R131), and a multicast's completion at a destination (R136).
-/
namespace Sys2Proof.Machine
open Sys2Proof.Claims

theorem exec_chainStep (id : Nat) (s : State) : exec (.chainStep id) s = .next (chainStepEv id s) := rfl
theorem exec_multicastDestComplete (core dest : Nat) (s : State) :
    exec (.multicastDestComplete core dest) s = .next (multicastDest core dest s) := rfl

/-! ### The access of a chain's step (R79, R130, R404) -/

/-- A target that gives bytes to a read has none of them in a bad line (R79). -/
theorem badAt_of_targetCheck {s : State} {core pa n : Nat} (given : s.targetCheck core pa n false = none) : s.badAt pa n = false := by
  unfold State.targetCheck at given
  split_ifs at given with refused bad
  simpa using bad

section
variable {s s1 : State} {v : ChainEnv} {kind n va : Nat} {x : Xl} (xl : s.xlate v.sp v.w kind (kind == kRmw) va n = (x, s1)) (last : Bool)
include xl

theorem chainAt_busy (busy : x.busy = true) : s.chainAt v kind n va last = (x, none, s1) := by
  rw [State.chainAt, xl]; exact if_pos busy

theorem chainAt_faults {f : Flt} (done : x.busy = false) (flt : x.flt = some f) : s.chainAt v kind n va last = (x, some f, s1) := by
  simp [State.chainAt, xl, done, flt]

/-- A write-blocked page gives no bytes to ask for. -/
theorem chainAt_blocked (done : x.busy = false) (flt : x.flt = none) (segs : x.segs = []) : s.chainAt v kind n va last = (x, none, s1) := by
  simp [State.chainAt, xl, done, flt, segs]

end

/-- A read of bytes that a way leads to, and that their target gives. -/
theorem chainAt_reads {s s1 : State} {v : ChainEnv} {n va pa k : Nat} {x : Xl} {last : Bool} (xl : s.xlate v.sp v.w kRead false va n = (x, s1))
    (done : x.busy = false) (flt : x.flt = none) (segs : x.segs = [(pa, k)]) (target : s1.targetCheck v.w.core pa k false = none)
    (way : last = true → s1.routed (homeDie pa) (dieOf v.w.core) = true) : s.chainAt v kRead n va last = (x, none, s1) := by
  have good := badAt_of_targetCheck target
  have load : (kRead == kRmw) = false := rfl
  cases last with
  | false => simp [State.chainAt, load, xl, done, flt, segs, target, good]
  | true => simp [State.chainAt, load, xl, done, flt, segs, target, good, way rfl]

/-! ### A step that reads a pointer (R129, R130) -/

/-- A segment of package memory reads as its bytes. -/
theorem rdSegs_single (s : State) (core pa n : Nat) : s.rdSegs core 0 [(pa, n)] = readLE s.mem pa n := by
  simp [State.rdSegs, State.rdSpc]

theorem chainOff_succ (offs j : Nat) : chainOff offs (j + 1) = (BitVec.ofNat 21 (offs / 2 ^ (21 * j))).toInt := by
  rw [chainOff, signed_eq_toInt, Nat.add_sub_cancel, field]
  exact congrArg BitVec.toInt (BitVec.eq_of_toNat_eq (by simp))

theorem wrapInt_eq (n : Nat) (x : Int) : wrapInt n x = (x % 2 ^ n).toNat := by
  rw [wrapInt, Nat.cast_pow, Nat.cast_ofNat]

/-- A chain as it stands once the step has read its pointer: on the die that read it, at the address that pointer and offset give. -/
def FChain.moved (c : FChain) (v : ChainEnv) (pa ptr : Nat) : FChain :=
  { c with step := c.step + 1, die := homeDie pa, addr := wrapInt 64 ((ptr : Int) + chainOff v.offs (c.step + 1)) }

/-- Counting heat leaves every instance as it is, so that an access of an agent that serves nothing pure violates no descriptor. -/
theorem purity_heatAll {s : State} {w : Who} (plain : AgentNotPure w s) (sp : Space) (va : Nat) (x : Xl) (how : Pure) (kind n : Nat) :
    (s.heatAll w sp va x).purity w sp how kind va n (x.leafs va) = s.heatAll w sp va x := by
  obtain ⟨d, heat⟩ := s.heatAll_eq w sp va x
  rw [heat]; exact purity_silent sp how kind va n _ plain

/-- An aligned final load of up to 8 bytes is single-copy atomic: it reads them whole, and the value goes back. -/
theorem chainLoad_whole {s : State} {c : FChain} {v : ChainEnv} {pa : Nat} (asked : c.isCtx = true) (whole : Atomic pa v.len) (units : c.units = []) (got : c.got = [])
    (good : s.badAt pa v.len = false) : s.chainLoad c v pa = s.chainEnd c (readLE s.mem pa v.len) := by
  have atoms : atomsOf [(pa, v.len)] = [[(pa, v.len)]] := if_pos ((atomic_iff pa v.len).2 whole)
  simp [State.chainLoad, asked, atoms, units, got, good, rdSegs_single, List.range_succ, mget, segBytes]

section
variable {s s1 : State} {c : FChain} {v : ChainEnv} {x : Xl} (fresh : c.pa = none)
include fresh

theorem chainStep_misaligned (more : c.step < v.ns) (odd : c.addr % 8 ≠ 0) : s.chainStep c v = s.chainFault c v kRead 8 ⟨0x29, c.addr, 7⟩ := by
  simp [State.chainStep, fresh, more.ne, odd]

section
variable (more : c.step < v.ns) (aligned : c.addr % 8 = 0)
include more aligned

theorem chainStep_walks (at_ : s.chainAt v kRead 8 c.addr false = (x, none, s1)) (busy : x.busy = true) : s.chainStep c v = s1 := by
  simp [State.chainStep, fresh, more.ne, aligned, at_, busy]

theorem chainStep_faults {f : Flt} (at_ : s.chainAt v kRead 8 c.addr false = (x, some f, s1)) : s.chainStep c v = s1.chainFault c v kRead 8 f := by
  simp [State.chainStep, fresh, more.ne, aligned, at_]

theorem chainStep_moves {pa : Nat} (at_ : s.chainAt v kRead 8 c.addr false = (x, none, s1)) (done : x.busy = false) (free : x.wait = none)
    (segs : x.segs = [(pa, 8)]) (first : s1.chainWaits c false x.segs = false) (cached : field x.leaf 8 2 = 0) (plain : AgentNotPure v.w s1) :
    s.chainStep c v = ((s1.heatAll v.w v.sp c.addr x).sliceCount pa 64).putChain (c.moved v pa (readLE s1.mem pa 8)) := by
  have silent := purity_heatAll plain v.sp c.addr x .load kRead 8
  rw [segs] at first
  simp [State.chainStep, fresh, more.ne, aligned, at_, done, free, segs, first, cached, silent, rdSegs_single, FChain.moved]

end

/-! ### The final step (R42, R84, R131) -/

theorem chainStep_loads {pa : Nat} (last : c.step = v.ns) (load : v.fin < 4) (line : c.addr % 64 + v.len ≤ 64)
    (at_ : s.chainAt v kRead v.len c.addr true = (x, none, s1)) (done : x.busy = false) (free : x.wait = none) (segs : x.segs = [(pa, v.len)])
    (first : s1.chainWaits c false x.segs = false) (cached : field x.leaf 8 2 = 0) (plain : AgentNotPure v.w s1) :
    s.chainStep c v = (s1.heatAll v.w v.sp c.addr x).chainLoad c v pa := by
  have silent := purity_heatAll plain v.sp c.addr x .load kRead v.len
  rw [segs] at first
  simp [State.chainStep, fresh, last, not_le.2 load, not_lt.2 line, at_, done, free, segs, first, cached, silent]

/-- A final atomic that meets a write-blocked page begins to wait on the die it stands on. -/
theorem chainStep_parks {w : Nat} (last : c.step = v.ns) (atomic : 4 ≤ v.fin) (aligned : c.addr % 8 = 0)
    (at_ : s.chainAt v kRmw 8 c.addr true = (x, none, s1)) (done : x.busy = false) (blocked : x.wait = some w) :
    s.chainStep c v = s1.putChain { c with wblk := some (s1.newPark c.die c.addr kRmw 8 0 (c.addr + 8 - 1)) } := by
  simp [State.chainStep, fresh, last, atomic, aligned, at_, done, blocked]

end

/-- CHAIN_STEP takes the step of a chain that waits on nothing. -/
theorem chainStepEv_runs {s : State} {id : Nat} {c : FChain} {v : ChainEnv} (found : s.fchains.find? (fun c => c.id == id) = some c)
    (calm : c.wblk = none) (may : c.isCtx = true → (s.mayPerform c.core c.ctx c.seq).isSome = true) (env : s.chainEnv c = some v) :
    chainStepEv id s = s.chainStep c v := by
  unfold chainStepEv
  rw [found]
  dsimp only
  rw [if_neg (by simpa [calm] using fun asked => Option.ne_none_iff_isSome.2 (may asked)), env]

/-! ### A multicast's destination (R136) -/

theorem OnlyEng.sp {core e : Nat} {g : Eng} {s t : State} (h : OnlyEng core e g s t) (j : Nat) : (t.core j).sp = (s.core j).sp :=
  (congrArg Core.sp (h.2.1 j) :)

/-- A delivery within the counter's range changes that counter of its core and nothing else (R102). -/
theorem deliverTo_within {s : State} {dest core e n : Nat} {m : Cmd} (within : -2 ^ 31 ≤ mget 0 (s.core dest).ctrs m.ctr - (n : Int)) :
    s.deliverTo dest core e m n = s.setCore dest ((s.core dest).withCtr m.ctr (mget 0 (s.core dest).ctrs m.ctr - (n : Int))) := by
  rcases (s.core dest).deliver_cases m.ctr n with ⟨-, low⟩ | ⟨done, -⟩
  · exact absurd within (not_le.2 low)
  · simp only [State.deliverTo, done, Bool.false_eq_true, if_false]; rfl

theorem deliverTo_leaves {s : State} {dest core e n : Nat} {m : Cmd} (within : -2 ^ 31 ≤ mget 0 (s.core dest).ctrs m.ctr - (n : Int)) :
    let t := s.deliverTo dest core e m n
    (∀ b, mget 0 (t.core dest).ctrs b = if b = m.ctr then mget 0 (s.core dest).ctrs b - n else mget 0 (s.core dest).ctrs b) ∧
      t.mem = s.mem ∧ (∀ j, (t.core j).sp = (s.core j).sp) ∧ (∀ j y, t.ctx j y = s.ctx j y) ∧ ∀ j x, t.eng j x = s.eng j x := by
  intro t
  simp only [t, deliverTo_within within]
  refine ⟨fun b => ?_, rfl, fun j => ?_, (onlyCore_setCore s dest (by rfl)).2.2, fun j x => ?_⟩
  · rw [State.core_setCore, if_pos rfl, Core.withCtr, mget_mset]
    split_ifs with own <;> [rw [own]; rfl]
  · rw [State.core_setCore]
    split_ifs with own <;> [rw [own]; rfl]
    rfl
  · rw [State.eng, State.core_setCore]
    split_ifs with own <;> [rw [own]; rfl]
    rfl

/-- The command of a multicast once a destination has its bytes. -/
def Cmd.servedAt (m : Cmd) (dest : Nat) : Cmd := { m with dests := m.dests.filter (fun d => d != dest) }

/-- The multicast under way delivers at a destination that it has still to serve. -/
theorem multicastDest_delivers {s : State} {core dest : Nat} {m : Cmd} (under : (s.eng core 3).cmds.find? (fun m => !m.ended) = some m)
    (major : m.major = 0x69) (sent : m.sent = true) (left : m.dests.contains dest = true) (ce : m.ce = true) :
    multicastDest core dest s = (s.setCmd core 3 (m.servedAt dest)).deliverTo dest core 3 m m.out := by
  unfold multicastDest
  rw [under]
  exact (if_pos ⟨major, sent, left⟩).trans (if_pos ce)

/-- Settles O37: a chain's step by its access (`chainAt_reads`) and what it comes to (`chainStep_moves`, `chainLoad_whole`, `chainStep_parks`);
a multicast as a delivery at the destination. -/
theorem chainsAndMulticasts : Obligations.ChainsAndMulticasts := by
  unfold Obligations.ChainsAndMulticasts
  refine ⟨fun id c v x pa s s1 found calm fresh may env => ?_, fun core dest m s under major sent left ce within => ?_⟩
  · have runs : exec (.chainStep id) s = .next (s.chainStep c v) := by rw [exec_chainStep, chainStepEv_runs found calm may env]
    rw [runs]
    refine ⟨fun more odd => ?_, fun more aligned xl => ⟨fun busy => ?_, fun done f flt => ?_, fun done flt segs target free first cached plain => ?_⟩,
      fun last asked load len whole line units got xl done flt segs free target way first cached plain => ?_,
      fun last atomic aligned xl done flt segs w blocked => ?_⟩
    · rw [chainStep_misaligned fresh more odd]
    · rw [chainStep_walks fresh more aligned (chainAt_busy xl false busy) busy]
    · rw [chainStep_faults fresh more aligned (chainAt_faults xl false done flt)]
    · have reads := chainAt_reads (last := false) xl done flt segs target nofun
      rw [chainStep_moves fresh more aligned reads done free segs first cached plain, FChain.moved, wrapInt_eq, chainOff_succ]
      rfl
    · have reads := chainAt_reads (last := true) xl done flt segs target fun _ => way
      have good : (s1.heatAll v.w v.sp c.addr x).badAt pa v.len = false := by
        obtain ⟨d, heat⟩ := s1.heatAll_eq v.w v.sp c.addr x
        rw [heat]; exact badAt_of_targetCheck target
      have sizes : v.len = 1 ∨ v.len = 2 ∨ v.len = 4 ∨ v.len = 8 := by
        rw [len]; interval_cases v.fin <;> simp
      rw [chainStep_loads fresh last load line reads done free segs first cached plain, chainLoad_whole asked ⟨sizes, whole⟩ units got good,
        State.heatAll_mem]
    · exact ⟨_, rfl, rfl, rfl, by rw [chainStep_parks fresh last atomic aligned (chainAt_blocked xl true done flt segs) done blocked]; rfl⟩
  · have served : OnlyEng core 3 _ s (s.setCmd core 3 (m.servedAt dest)) := onlyEng_setEng s core 3 _
    rw [← served.ctrs dest] at within
    obtain ⟨ctrs, mem, sp, ctxs, engs⟩ := deliverTo_leaves (e := 3) (core := core) within
    refine ⟨_, (exec_multicastDestComplete core dest s).trans (congrArg _ (multicastDest_delivers under major sent left ce)), fun b => ?_,
      fun k hk idx => ?_, mem.trans served.mem, fun j => (sp j).trans (served.sp j), fun j y => (ctxs j y).trans (served.ctx j y)⟩
    · rw [ctrs, served.ctrs]
    · rw [engs, served.own] at hk
      obtain ⟨k', -, rfl⟩ := List.mem_map.1 hk
      split_ifs at idx ⊢ with own
      · rfl
      · exact absurd idx own

end Sys2Proof.Machine

/-!
O46: PENCTL, before a stop and after one (R154, R363, R369, R374).
-/
namespace Sys2Proof.Machine
open Sys2Proof.Claims

/-! ### Updates of several cores, and of the list of instances -/

/-- The cores of a pen are listed once each (R364). -/
theorem Pen.cores_nodup (p : Pen) : p.cores.Nodup := by
  refine List.nodup_flatMap.2 ⟨fun sh _ => ?_, List.nodup_range.imp fun {a b} apart => ?_⟩
  · split_ifs
    · exact List.nodup_range.map fun a b e => by simpa using e
    · exact List.nodup_nil
  · intro x hx hy
    dsimp only at hx hy
    split_ifs at hx hy <;> simp only [List.mem_map, List.mem_range, List.not_mem_nil] at hx hy
    obtain ⟨i, hi, rfl⟩ := hx
    obtain ⟨j, hj, e⟩ := hy
    omega

/-- One update of each core of a list changes nothing else of the package. -/
theorem foldl_modCore_frame (f : Core → Core) (l : List Nat) (s : State) :
    { l.foldl (fun s c => s.modCore c f) s with cores := [] } = { s with cores := [] } :=
  foldl_keeps (f := fun s c => s.modCore c f) (P := fun t : State => { t with cores := [] } = { s with cores := [] }) (fun _ _ h => h) l rfl

theorem core_foldl_modCore (f : Core → Core) {l : List Nat} (once : l.Nodup) (s : State) (j : Nat) :
    (l.foldl (fun s c => s.modCore c f) s).core j = if j ∈ l then f (s.core j) else s.core j := by
  induction l generalizing s with
  | nil => rfl
  | cons c l ih =>
    obtain ⟨fresh, once⟩ := List.nodup_cons.1 once
    rw [List.foldl_cons, ih once, State.modCore, State.core_setCore]
    by_cases own : j = c
    · rw [if_pos own, own, if_neg fresh, if_pos List.mem_cons_self]
    · simp only [List.mem_cons, own, false_or, if_false]

/-- Updates of the instances, one after the other, change nothing else of the package. -/
theorem foldl_insts {α : Type} {f : State → α → State} (hf : ∀ s a, ∃ l, f s a = { s with insts := l }) (l : List α) (s : State) :
    ∃ i, l.foldl f s = { s with insts := i } := by
  induction l generalizing s with
  | nil => exact ⟨_, rfl⟩
  | cons a l ih =>
    obtain ⟨i, first⟩ := hf s a
    obtain ⟨k, rest⟩ := ih { s with insts := i }
    exact ⟨k, by rw [List.foldl_cons, first, rest]⟩

/-! ### The role contexts of a core -/

/-- The contexts of a core after an update of each of its role contexts. -/
def Core.mapRoles (c : Core) (f : Ctx → Ctx) : SMap Ctx := [0, 1, 2].foldl (fun m x => mset m x (f (c.ctx x))) c.ctxs

theorem mget_mapRoles (c : Core) (f : Ctx → Ctx) (y : Nat) : mget {} (c.mapRoles f) y = if y < 3 then f (c.ctx y) else c.ctx y := by
  simp only [Core.mapRoles, List.foldl_cons, List.foldl_nil, mget_mset]
  rcases y with - | - | - | y <;> simp
  rfl

/-! ### A core prepares for a resume (R363, R374) -/

/-- Freeing the entries of old steps changes a core's shadow store and its binding. -/
theorem rewindFree_frame (c : Core) : { c.rewindFree with shadow := [], bind := none } = { c with shadow := [], bind := none } := by
  unfold Core.rewindFree; split <;> rfl

/-- It retires no step, and drops none. -/
theorem rewindFree_retired {c : Core} (all : ∀ b, c.bind = some b → ∀ x ∈ b.steps, x.retired = true) :
    ∀ b, c.rewindFree.bind = some b → ∀ x ∈ b.steps, x.retired = true := by
  intro b' bound x hx
  cases bind : c.bind with
  | none => rw [rewindFree_unbound bind, bind] at bound; cases bound
  | some b =>
    rw [rewindFree_bound bind] at bound
    obtain rfl := Option.some.inj bound
    obtain ⟨y, hy, rfl⟩ := List.mem_map.1 hx
    have := all b bind y hy
    split_ifs <;> exact this

/-- A core that prepares for the resume: what it counts starts again, and its role contexts are cleared. -/
theorem resume_frame (c : Core) : { c.resume with shadow := [], bind := none, stepq := [] } =
    { c with gates := [], ctrs := [], tiles := [], cut := {}, ctxs := c.mapRoles Ctx.resumed, shadow := [], bind := none, stepq := [] } := by
  have stepq := fun c => congrArg (fun k : Core => { k with stepq := [] }) (rewindFree_frame c)
  unfold Core.resume
  exact (stepq _).trans (by cases c.bind <;> rfl)

theorem resume_retired (c : Core) : ∀ b, c.resume.bind = some b → ∀ x ∈ b.steps, x.retired = true := by
  unfold Core.resume
  refine rewindFree_retired fun b bound x hx => ?_
  cases bind : c.bind with
  | none => simp only [bind] at bound; cases bound
  | some b0 =>
    simp only [bind] at bound
    obtain rfl := Option.some.inj bound
    exact (List.mem_filter.1 hx).2

theorem mget_filter {α : Type} (p : Nat → Bool) (d : α) (m : SMap α) (i : Nat) :
    mget d (m.filter (fun r => p r.1)) i = if p i = true then mget d m i else d := by
  induction m with
  | nil => simp [mget]
  | cons q m ih =>
    obtain ⟨k, v⟩ := q
    rw [List.filter_cons]
    by_cases own : k = i
    · subst own; split_ifs with keep <;> simp_all [mget]
    · split_ifs at ih ⊢ <;> simp_all [mget]

/-- A cleared context keeps s1 to s12 (R363). -/
theorem resumed_rd (c : Ctx) (n : Nat) : c.resumed.rd n = if 1 ≤ n ∧ n ≤ 12 then c.rd n else 0 := by
  have kept : mget 0 c.resumed.s n = if decide (1 ≤ n ∧ n ≤ 12) = true then mget 0 c.s n else 0 :=
    mget_filter (fun i => decide (1 ≤ i ∧ i ≤ 12)) 0 c.s n
  rw [Ctx.rd, Ctx.rd, kept]
  split_ifs <;> simp_all

/-! ### The host's write of PENCTL (R363, R369) -/

theorem regListed_penctl {pen : Nat} (hp : pen < 16) : regListed (10 + pen) 0x88 = true := by
  unfold regListed
  rw [if_neg (by omega), if_neg (by omega), if_pos (by omega)]
  rfl

/-- The host's write that reaches PENCTL. -/
theorem hostPut_penctl {s : State} {pen : Nat} (value : Nat) (hp : pen < 16) (h : HostReaches (10 + pen) 0x88 s) :
    s.hostPut (10 + pen) 0x88 value = (s.unstage 81).penctl pen (value % 2 ^ 64) := by
  have shown : (s.unstage hostMaster).hidden hostMaster (10 + pen) 0x88 false = false := by
    have reg : hiddenReg 0x88 = false := by decide
    simp [State.hidden, reg]
  rw [hostPut_reached value h (by omega) (by decide) (by decide) (regListed_penctl hp)]
  unfold State.blockWrite
  rw [shown, if_neg (by decide), if_neg (by omega), if_neg (by omega), if_pos (by omega)]
  dsimp only
  rw [if_neg (by decide), Nat.add_sub_cancel_left]
  rfl

/-- The events of PENCTL are the host's write of it. -/
theorem exec_penctl {s : State} {pen value : Nat} {i : Instr} (event : i = .penctlEnable pen value ∨ i = .penctlResume pen value ∨ i = .penctlAbandon pen value)
    (on : s.powered = true) (hp : pen < 16) (reached : HostReaches (10 + pen) 0x88 s) :
    exec i s = .next ((s.unstage 81).penctl pen (value % 2 ^ 64)) := by
  have put : penPut pen 0x88 value s = .next (s.hostPut (10 + pen) 0x88 value) := (if_pos on).trans (congrArg _ (if_pos hp))
  rw [← hostPut_penctl value hp reached, ← put]
  rcases event with rfl | rfl | rfl <;> rfl

/-- A pen with the fields that a write of PENCTL gives it. -/
def Pen.controlled (p : Pen) (value : Nat) : Pen := { p with age := field value 12 4, premode := field value 8 1 == 1, enable := value % 2 == 1 }

/-- The fields of a written value lie in its low 64 bits. -/
theorem penctl_low (s : State) (pen value : Nat) : s.penctl pen (value % 2 ^ 64) = s.penctl pen value := by
  have bit : value % 2 ^ 64 % 2 = value % 2 := Nat.mod_mod_of_dvd value (by decide : 2 ∣ 2 ^ 64)
  simp only [State.penctl, field_mod value 12 4 64 (by decide), field_mod value 8 1 64 (by decide), field_mod value 1 2 64 (by decide), bit]

section
variable {s : State} {pen value : Nat}

theorem stopEnded {p : Pen} (done : p.cutDone = true) (idle : p.cutBusy = false) : (p.cutDone && !p.cutBusy) = true := by
  rw [done, idle]; rfl

theorem penctl_fields (code : field value 1 2 = 0) : s.penctl pen value = s.setPen pen ((s.pen pen).controlled value) := by
  simp only [State.penctl, code]; rfl

/-- With RESUME and ABANDON both set, or one of them before DONE, the write has no effect. -/
theorem penctl_ignored (h : field value 1 2 = 3 ∨ field value 1 2 ≠ 0 ∧ ((s.pen pen).cutDone = false ∨ (s.pen pen).cutBusy = true)) :
    s.penctl pen value = s := by
  have codes : field value 1 2 = 0 ∨ field value 1 2 = 1 ∨ field value 1 2 = 2 ∨ field value 1 2 = 3 := by unfold field; omega
  have early (n0 : field value 1 2 ≠ 3) : ((s.pen pen).cutDone && !(s.pen pen).cutBusy) = false := by
    rcases (h.resolve_left n0).2 with done | busy <;> simp [*]
  rcases codes with code | code | code | code
  · simp [code] at h
  · simp [State.penctl, code, early]
  · simp [State.penctl, code, early]
  · simp only [State.penctl, code]

theorem penctl_resumes (done : (s.pen pen).cutDone = true) (idle : (s.pen pen).cutBusy = false) (code : field value 1 2 = 1) :
    s.penctl pen value = (s.setPen pen ((s.pen pen).controlled value)).penResume pen := by
  simp only [State.penctl, code, stopEnded done idle, if_true]; rfl

theorem penctl_abandons (done : (s.pen pen).cutDone = true) (idle : (s.pen pen).cutBusy = false) (code : field value 1 2 = 2) :
    s.penctl pen value = (s.setPen pen ((s.pen pen).controlled value)).penAbandon pen := by
  simp only [State.penctl, code, stopEnded done idle, if_true]; rfl

end

/-! ### RESUME (R363, R374) -/

/-- What a resume makes of a core of the pen: the steps of the named instance leave its queue, and it prepares. -/
def Pen.readies (p : Pen) (k : Core) : Core :=
  { k with stepq := k.stepq.filter (fun q => p.cutNoinst || q.1 != p.cutreq.toNat / 2 ^ 96) }.resume

/-- What a resume leaves: each core of the pen is ready, the pen's controller starts again, and no memory changes. -/
theorem penResume_leaves (s : State) (pen : Nat) :
    (∀ j, j ∈ (s.pen pen).cores → (s.penResume pen).core j = (s.pen pen).readies (s.core j)) ∧ (s.penResume pen).mem = s.mem ∧
      (s.penResume pen).pen pen = { s.pen pen with cutDone := false, cutDecided := false, cutLate := false, cutNoinst := false, cutL := {} } := by
  unfold State.penResume
  extract_lets p named s1 s2
  obtain ⟨l, returned⟩ : ∃ l, s1 = { s with insts := l } := foldl_insts (fun _ _ => ⟨_, rfl⟩) _ s
  have rest : { s2 with cores := [] } = { s1 with cores := [] } := foldl_modCore_frame p.readies p.cores s1
  refine ⟨fun j hj => ?_, (congrArg State.mem rest).trans (by rw [returned]), by rw [State.pen_setPen, if_pos rfl]⟩
  have own : s2.core j = if j ∈ p.cores then p.readies (s1.core j) else s1.core j := core_foldl_modCore p.readies p.cores_nodup s1 j
  rw [if_pos hj, returned] at own
  exact own

/-- A core that is ready: what it counts starts again, its role contexts are Idle and cleared, and c3 is as it was. -/
theorem readies_leaves (p : Pen) (k : Core) :
    let c := p.readies k
    c.gates = [] ∧ c.ctrs = [] ∧ c.tiles = [] ∧ c.cut = {} ∧ (∀ b, c.bind = some b → ∀ x ∈ b.steps, x.retired = true) ∧
      ∀ y, c.ctx y = if y < 3 then (k.ctx y).resumed else k.ctx y := by
  intro c
  have frame := resume_frame { k with stepq := k.stepq.filter (fun q => p.cutNoinst || q.1 != p.cutreq.toNat / 2 ^ 96) }
  refine ⟨(congrArg Core.gates frame :), (congrArg Core.ctrs frame :), (congrArg Core.tiles frame :), (congrArg Core.cut frame :), resume_retired _,
    fun y => ?_⟩
  exact (congrArg (fun k : Core => k.ctx y) frame).trans (mget_mapRoles k Ctx.resumed y)

/-! ### ABANDON (R357, R363) -/

/-- Only cores and instances have changed, and every instance has one number. -/
def OnlyInsts (n : Nat) (s t : State) : Prop :=
  { t with cores := [], insts := [] } = { s with cores := [], insts := [] } ∧ ∀ i ∈ t.insts, i.num = n

theorem OnlyInsts.modInst {n num : Nat} {s t : State} {f : Inst → Inst} (h : OnlyInsts n s t) (keeps : ∀ i, (f i).num = i.num) :
    OnlyInsts n s (t.modInst num f) := by
  refine ⟨h.1, fun i hi => ?_⟩
  obtain ⟨j, hj, rfl⟩ := List.mem_map.1 hi
  split_ifs
  · rw [keeps]; exact h.2 j hj
  · exact h.2 j hj

theorem OnlyInsts.endBinding {n : Nat} {s t : State} (h : OnlyInsts n s t) (core : Nat) : OnlyInsts n s (t.endBinding core) := by
  unfold State.endBinding
  extract_lets c
  cases c.bind with
  | none => exact h
  | some b =>
    dsimp only
    split
    · exact h
    · exact OnlyInsts.modInst (t := t.setCore core _) h fun _ => rfl

theorem OnlyInsts.unbindAll {n : Nat} {s t : State} (h : OnlyInsts n s t) (num : Nat) : OnlyInsts n s (t.unbindAll num) := by
  unfold State.unbindAll
  refine foldl_keeps (P := OnlyInsts n s) (fun u c hu => ?_) t.cores h
  dsimp only
  split_ifs
  · exact hu.endBinding c.1
  · exact hu

theorem intr_eq (s : State) (pen : Nat) (b : Bool) (num : Nat) :
    s.intr pen b num = { s with msgs := if b = true then (1, pen, num) :: s.msgs else s.msgs } := by
  cases b <;> rfl

/-- An instance that ends abandoned, and names no completion record, is gone; its message has been sent (R357). -/
theorem finish_abandoned {s : State} {a : Inst} (none : a.doneaddr = 0) (one : ∀ i ∈ s.insts, i.num = a.num) :
    (s.finish a statusAbandoned).insts = [] ∧
      { s.finish a statusAbandoned with cores := [], insts := [] } = { s.intr a.pen a.intr a.num with cores := [], insts := [] } := by
  have ends : s.finish a statusAbandoned = ((s.intr a.pen a.intr a.num).unbindAll a.num).dropInst a.num := by
    simp [State.finish, State.writeDone, none, statusAbandoned, statusDone]
  have all : OnlyInsts a.num (s.intr a.pen a.intr a.num) (s.intr a.pen a.intr a.num) :=
    ⟨rfl, by unfold State.intr; split_ifs <;> exact one⟩
  obtain ⟨rest, nums⟩ := all.unbindAll a.num
  rw [ends]
  exact ⟨List.filter_eq_nil_iff.2 fun i hi => by simp [nums i hi], rest⟩

/-- What an abandon leaves of a package whose only instance is the one that the stop named. -/
theorem penAbandon_leaves {s : State} {pen : Nat} {a : Inst} (named : (s.pen pen).cutNoinst = false) (insts : s.insts = [a]) (own : a.pen = pen)
    (num : a.num = (s.pen pen).cutreq.toNat / 2 ^ 96) (none : a.doneaddr = 0) :
    let t := s.penAbandon pen
    t.mem = s.mem ∧ t.insts = [] ∧ (t.pen pen).cutDone = false ∧ (t.pen pen).cutLate = (s.pen pen).cutLate ∧ (t.pen pen).cutL = (s.pen pen).cutL ∧
      t.msgs = if a.intr = true then (1, pen, a.num) :: s.msgs else s.msgs := by
  unfold State.penAbandon
  extract_lets p halted ends s1 s2 p2 t
  have only : ends = [a] := by simp [ends, State.penInsts, insts, own, p, named, num]
  have rest : { s1 with cores := [] } = { s with cores := [] } := foldl_modCore_frame _ _ _
  have here : s1.insts = [a] := (congrArg State.insts rest).trans insts
  have last : s2 = (s1.modInst a.num fun i => { i with serving := Option.none, entering := false, wblk := Option.none }).finish a statusAbandoned := by
    simp [s2, only]
  have one : ∀ i ∈ (s1.modInst a.num fun i => { i with serving := Option.none, entering := false, wblk := Option.none }).insts, i.num = a.num := by
    simp [State.modInst, here]
  obtain ⟨gone, frame⟩ := finish_abandoned none one
  rw [← last, intr_eq] at frame
  rw [← last] at gone
  have mem : s2.mem = s1.mem := (congrArg State.mem frame :)
  have same : s1.mem = s.mem := (congrArg State.mem rest :)
  have msgs : s2.msgs = if a.intr = true then (1, a.pen, a.num) :: s1.msgs else s1.msgs := (congrArg State.msgs frame :)
  have before : s1.msgs = s.msgs := (congrArg State.msgs rest :)
  have pens : p2 = s1.pen pen := (congrArg (State.pen · pen) frame :)
  have kept : s1.pen pen = s.pen pen := (congrArg (State.pen · pen) rest :)
  refine ⟨mem.trans same, gone, ?_, ?_, ?_, by rw [← before, ← own]; exact msgs⟩ <;> simp only [t, State.pen_setPen, if_true, pens, kept]

end Sys2Proof.Machine

/-!
O46, continued: a core halts at a decided stop (R153, R157 to R159).
-/
namespace Sys2Proof.Machine
open Sys2Proof.Claims

theorem exec_cutHalt (core : Nat) (s : State) : exec (.cutHalt core) s = .next (cutHalt core s) := rfl

/-! ### When a core halts (R132, R153, R158) -/

theorem ranBelow_iff {s : State} {core : Nat} {p : Pen} : s.ranBelow core p = true ↔
    (s.core core).cut.phase = 2 ∧ p.cutBusy = true ∧ p.cutDecided = true ∧ (∀ x ∈ s.fchains, x.core = core → x.ctx = 3) ∧
      (s.core core).doneBelow = true ∧ (s.core core).faultsFor (fun k => !beyond (s.core core).cut.l k) = false := by
  simp [State.ranBelow, and_assoc]

theorem cutHalt_waits {s : State} {core pn : Nat} (pen : s.penOf core = some pn) (on : (s.core core).cut.phase ≠ 3)
    (left : ¬s.ranBelow core (s.pen pn) = true) : cutHalt core s = s := by
  simp [cutHalt, pen, on, left]

/-- While another core has still to halt, the stop is not complete. -/
theorem cutFinish_waits {s : State} {pn : Nat} (left : ∃ k ∈ (s.pen pn).cores, (s.core k).cut.phase ≠ 3) : s.cutFinish pn = s := by
  refine if_pos (.inr (List.any_eq_true.2 ?_))
  simpa using left

theorem cutHalt_halted {s : State} {core pn : Nat} (pen : s.penOf core = some pn) (off : (s.core core).cut.phase = 3)
    (left : ∃ k ∈ (s.pen pn).cores, (s.core k).cut.phase ≠ 3) : cutHalt core s = s := by
  simp [cutHalt, pen, off, cutFinish_waits left]

/-! ### Its role contexts stop (R153, R156) -/

/-- A role context with nothing outstanding, once it has halted. -/
def Ctx.halted (entry : Option Dword) (c : Ctx) : Ctx :=
  if c.st = .idle then { c with pend := [], req := none, wblk := none, landed := none }
  else { c with pend := [], st := .stopped, why := .cut, preSt := c.st, pc := entry.getD c.pc, hl0 := {}, hl1 := {}, pfx := {}, req := none,
                wblk := none, landed := none }

@[simp] theorem halted_rd (entry : Option Dword) (c : Ctx) (n : Nat) : (c.halted entry).rd n = c.rd n := by
  unfold Ctx.halted; split_ifs <;> rfl
theorem halted_idle {entry : Option Dword} {c : Ctx} (idle : c.st = .idle) : (c.halted entry).st = .idle := by
  rw [Ctx.halted, if_pos idle]; exact idle
theorem halted_stopped {entry : Option Dword} {c : Ctx} (busy : c.st ≠ .idle) :
    (c.halted entry).st = .stopped ∧ (c.halted entry).why = .cut ∧ (c.halted entry).preSt = c.st := by
  rw [Ctx.halted, if_neg busy]; exact ⟨rfl, rfl, rfl⟩

theorem haltCtx_eq {s : State} {core x : Nat} (calm : (s.ctx core x).pend = [] ∧ (s.ctx core x).req = none) :
    ∃ entry, s.haltCtx core x = s.modCtx core x (Ctx.halted entry) := by
  obtain ⟨pend, req⟩ := calm
  have none : s.withdrawReq core x = some s := by simp [State.withdrawReq, req]
  refine ⟨((s.core core).bind.bind (fun b => s.inst? b.inst)).map (fun i => dw (opEntry i.record x)), ?_⟩
  unfold State.haltCtx
  simp only [pend, List.foldl_nil, none, Option.getD_some]
  unfold State.modCtx
  simp only [pend, List.foldl_nil]
  rfl

/-- Some role contexts of a core have halted, and nothing else has changed. -/
structure Halts (core : Nat) (l : List Nat) (s t : State) : Prop where
  package : { t with cores := [] } = { s with cores := [] }
  body : ∀ j, { t.core j with ctxs := [] } = { s.core j with ctxs := [] }
  cores : ∀ j, j ≠ core → t.core j = s.core j
  others : ∀ y, y ∉ l → t.ctx core y = s.ctx core y
  halted : ∀ y ∈ l, ∃ entry, t.ctx core y = (s.ctx core y).halted entry

theorem foldl_haltCtx {core : Nat} {l : List Nat} (once : l.Nodup) {s : State} (calm : ∀ x ∈ l, (s.ctx core x).pend = [] ∧ (s.ctx core x).req = none) :
    Halts core l s (l.foldl (fun s x => s.haltCtx core x) s) := by
  induction l generalizing s with
  | nil => exact ⟨rfl, fun _ => rfl, fun _ _ => rfl, fun _ _ => rfl, fun _ h => absurd h List.not_mem_nil⟩
  | cons x l ih =>
    obtain ⟨fresh, once⟩ := List.nodup_cons.1 once
    obtain ⟨entry, first⟩ := haltCtx_eq (calm x List.mem_cons_self)
    obtain ⟨package, body, ctxs⟩ := onlyCtx_modCtx s core x (Ctx.halted entry)
    have others (y : Nat) (h : y ≠ x) : (s.modCtx core x (Ctx.halted entry)).ctx core y = s.ctx core y := ctxs core y fun e => h e.2
    have rest := ih (s := s.modCtx core x (Ctx.halted entry)) once fun y hy => by
      rw [others y fun e => fresh (e ▸ hy)]; exact calm y (List.mem_cons_of_mem x hy)
    rw [List.foldl_cons, first]
    refine ⟨rest.package.trans package, fun j => (rest.body j).trans (body j), fun j away => ?_, fun y hy => ?_, fun y hy => ?_⟩
    · rw [rest.cores j away, State.modCtx, State.core_setCtx, if_neg away]
    · obtain ⟨other, out⟩ := not_or.1 (fun h => hy (List.mem_cons.2 h))
      rw [rest.others y out, others y other]
    · rcases List.mem_cons.1 hy with rfl | hy
      · exact ⟨entry, by rw [rest.others y fresh, State.ctx_modCtx, if_pos ⟨rfl, rfl⟩]⟩
      · obtain ⟨e, h⟩ := rest.halted y hy
        exact ⟨e, by rw [h, others y fun e => fresh (e ▸ hy)]⟩

/-! ### The lines that later steps wrote (R76, R153, R182) -/

/-- What follows a restore in package memory: bad lines become good, watched ranges are told, and the reflection entries of every pen end. -/
theorem watchRestore_clearBad (s : State) (segs : List (Nat × Nat)) :
    ∃ b i, (s.clearBad segs).watchRestore = { s with bad := b, insts := i, pens := s.pens.map (fun p => (p.1, { p.2 with refl := [] })) } :=
  ⟨_, _, rfl⟩

/-- One line of package memory has its old value again. -/
theorem undo_single {s : State} {e : Shadow} (pn : Nat) (home : e.where_ < 2 ^ 46) :
    ∃ b i, s.undo pn [e] = { s with mem := writeLE s.mem (e.where_ * 64) 64 e.pre, bad := b, insts := i,
                                    pens := s.pens.map (fun p => (p.1, { p.2 with refl := [] })) } := by
  have memory : field e.where_ 62 2 = 0 := by
    rw [field, Nat.div_eq_of_lt (home.trans (by decide)), Nat.zero_mod]
  have line : e.where_ % 2 ^ 46 = e.where_ := Nat.mod_eq_of_lt home
  have restored : s.restoreLine pn e = ({ s with mem := writeLE s.mem (e.where_ * 64) 64 e.pre } : State).clearBad [(e.where_ * 64, 64)] := by
    simp only [State.restoreLine, memory, line]
  have undone : s.undo pn [e] = (s.restoreLine pn e).watchRestore := rfl
  rw [undone, restored]
  generalize writeLE s.mem (e.where_ * 64) 64 e.pre = m
  exact watchRestore_clearBad { s with mem := m } _

/-! ### What the core drops (R153) -/

/-- The role contexts of a core have halted, and the lines that its later steps wrote have their old values again. -/
def State.unwound (s : State) (core pn : Nat) : State :=
  ([0, 1, 2].foldl (fun s x => s.haltCtx core x) s).undo pn (s.core core).laterShadow

theorem foldl_setEng_eq (f : Eng → Eng) (l : List Nat) (c : Core) :
    ∃ engs, l.foldl (fun (c : Core) e => c.setEng e (f (c.eng e))) c = { c with engs := engs } := by
  induction l generalizing c with
  | nil => exact ⟨_, rfl⟩
  | cons e l ih =>
    obtain ⟨engs, rest⟩ := ih (c.setEng e (f (c.eng e)))
    exact ⟨engs, by rw [List.foldl_cons, rest]; rfl⟩

/-- What the core itself has after the restores: its binding is cut back, and the entries of the restored lines are free. -/
def Core.dropped (later : List Shadow) (c k : Core) : Prop :=
  { k with engs := [], gwait := [], frInst := 0, frKey := {} } =
    { c with engs := [], gwait := [], frInst := 0, frKey := {}, pre := none, bind := c.bind.map (fun b => b.cutBack c.cut.l)
             shadow := c.shadow.filter (fun e => !later.contains e) }

theorem discardBeyond_eq (s : State) (core pn : Nat) : ∃ k insts sheds, Core.dropped (s.core core).laterShadow ((s.unwound core pn).core core) k ∧
    s.discardBeyond core pn = { (s.unwound core pn).setCore core k with insts := insts, sheds := sheds } := by
  obtain ⟨engs, same⟩ := foldl_setEng_eq Eng.dropRole [1, 2, 3, 4] ((s.unwound core pn).core core)
  unfold State.discardBeyond
  extract_lets c later s2 heads s3
  have own : ∃ k, Core.dropped (s.core core).laterShadow ((s.unwound core pn).core core) k ∧ s3 = (s.unwound core pn).setCore core k := by
    refine ⟨_, ?_, rfl⟩
    have here : s2.core core = (s.unwound core pn).core core := rfl
    rw [here]
    beta_reduce
    rw [same]
    rfl
  obtain ⟨k, dropped, eq⟩ := own
  rw [eq]
  cases c.bind with
  | none => exact ⟨k, _, _, dropped, rfl⟩
  | some b => exact ⟨k, _, _, dropped, rfl⟩

theorem traceShed_eq (s : State) (core inst : Nat) (key : Coord) (ord arg kind ctx : Nat) :
    ∃ h, s.traceShed core inst key ord arg kind ctx = { s with sheds := h } := by
  unfold State.traceShed
  split
  · exact ⟨_, rfl⟩
  · dsimp only; split_ifs <;> exact ⟨_, rfl⟩

/-- Memory after the restore of one line, and the cores and lists of cores, which no restore changes. -/
theorem unwound_single {s : State} {core pn : Nat} {e : Shadow} (later : (s.core core).laterShadow = [e]) (home : e.where_ < 2 ^ 46)
    (calm : ∀ x, x < 3 → ((s.core core).ctx x).pend = [] ∧ ((s.core core).ctx x).req = none) :
    ∃ h, Halts core [0, 1, 2] s h ∧ (s.unwound core pn).cores = h.cores ∧ (s.unwound core pn).mem = writeLE s.mem (e.where_ * 64) 64 e.pre ∧
      ((s.unwound core pn).pen pn).cores = (s.pen pn).cores := by
  have halts : Halts core [0, 1, 2] s ([0, 1, 2].foldl (fun s x => s.haltCtx core x) s) :=
    foldl_haltCtx (by decide) fun x hx => calm x (by simp only [List.mem_cons, List.not_mem_nil, or_false] at hx; omega)
  refine ⟨_, halts, ?_⟩
  have package := halts.package
  unfold State.unwound
  rw [later]
  generalize [0, 1, 2].foldl (fun s x => s.haltCtx core x) s = h at package ⊢
  obtain ⟨bad, insts, undone⟩ := undo_single (s := h) (e := e) pn home
  have mem : h.mem = s.mem := (congrArg State.mem package :)
  have pens : h.pens = s.pens := (congrArg State.pens package :)
  have refl (i : Nat) : mget ({} : Pen) (s.pens.map fun p => (p.1, { p.2 with refl := [] })) i = { s.pen i with refl := [] } :=
    mget_map_default (g := fun p : Nat × Pen => (p.1, { p.2 with refl := [] })) (fun _ => rfl) (fun _ => rfl) s.pens i
  rw [undone, mem, pens]
  generalize writeLE s.mem (e.where_ * 64) 64 e.pre = m
  exact ⟨rfl, rfl, (congrArg Pen.cores (refl pn)).trans rfl⟩

/-- A core that halts drops what lies beyond its bound, and stands in the third phase; while another core has still to halt, no more happens. -/
theorem cutHalt_halts {s : State} {core pn : Nat} (pen : s.penOf core = some pn) (ran : s.ranBelow core (s.pen pn) = true)
    (paid : (s.core core).owes (s.pen pn) = false) (placed : s.allPlaced (s.pen pn) = true)
    (left : ∃ k ∈ ((s.discardBeyond core pn).pen pn).cores, k ≠ core ∧ ((s.discardBeyond core pn).core k).cut.phase ≠ 3) :
    ∃ sheds, cutHalt core s = { (s.discardBeyond core pn).modCore core (fun c => { c with cut := { c.cut with phase := 3 } }) with sheds := sheds } := by
  have phase : (s.core core).cut.phase ≠ 3 := by rw [(ranBelow_iff.1 ran).1]; decide
  simp only [cutHalt, pen, phase, ran, paid, placed, if_false, Bool.not_true, Bool.false_eq_true]
  generalize s.discardBeyond core pn = d at left ⊢
  obtain ⟨sheds, traced⟩ := traceShed_eq (d.modCore core (fun c => { c with cut := { c.cut with phase := 3 } })) core
    (((s.core core).bind.map Bind.inst).getD 0) ((d.modCore core (fun c => { c with cut := { c.cut with phase := 3 } })).core core).frKey 0xFFFF 1 6 0
  rw [traced]
  obtain ⟨k, hk, other, on⟩ := left
  refine ⟨sheds, cutFinish_waits ⟨k, hk, ?_⟩⟩
  have same : (d.modCore core (fun c => { c with cut := { c.cut with phase := 3 } })).core k = d.core k := by
    rw [State.modCore, State.core_setCore, if_neg other]
  exact fun h => on ((congrArg (fun c : Core => c.cut.phase) same).symm.trans h)

/-- A step of a binding that is cut back counts as retired only at or below the bound. -/
theorem cutBack_retired {b : Bind} {l : Coord} : ∀ x ∈ (b.cutBack (some l)).steps, x.retired = true → x.key.rank ≤ l.rank := by
  intro x hx retired
  obtain ⟨y, hy, rfl⟩ := List.mem_map.1 hx
  split_ifs at retired ⊢ with far
  exact Nat.le_of_not_lt fun h => far (decide_eq_true h)

section
variable {s : State} {core pn : Nat} {l : Coord} {e : Shadow} {b : Bind}

theorem laterShadow_single (bind : (s.core core).bind = some b) (bound : (s.core core).cut.l = some l) (entry : (s.core core).shadow = [e])
    (own : e.inst = b.inst) (far : l.rank < e.key.rank) : (s.core core).laterShadow = [e] := by
  simp [Core.laterShadow, bind, bound, entry, own, beyond, far]

theorem doneBelow_bound (bind : (s.core core).bind = some b) (bound : (s.core core).cut.l = some l)
    (done : ∀ x ∈ b.steps, x.retired = true ∨ l.rank < x.key.rank) : (s.core core).doneBelow = true := by
  simpa [Core.doneBelow, bind, bound, beyond] using done

/-- A core halts: what it drops, and what it keeps (R132, R153, R157, R158). -/
theorem cutHalt_leaves (pen : s.penOf core = some pn) (ran : s.ranBelow core (s.pen pn) = true) (bind : (s.core core).bind = some b)
    (bound : (s.core core).cut.l = some l) (queue : (s.core core).stepq = []) (placed : s.allPlaced (s.pen pn) = true)
    (left : ∃ k ∈ (s.pen pn).cores, k ≠ core ∧ (s.core k).cut.phase ≠ 3) (later : (s.core core).laterShadow = [e]) (entry : (s.core core).shadow = [e])
    (home : e.where_ < 2 ^ 46) (calm : ∀ x, x < 3 → ((s.core core).ctx x).pend = [] ∧ ((s.core core).ctx x).req = none) :
    let t := cutHalt core s
    ((t.core core).cut.phase = 3 ∧ (t.core core).pre = none ∧ t.mem = writeLE s.mem (e.where_ * 64) 64 e.pre ∧ (t.core core).shadow = [] ∧
      (t.core core).bind = some (b.cutBack (some l))) ∧ (∀ j, j ≠ core → t.core j = s.core j) ∧
      t.ctx core 3 = s.ctx core 3 ∧ ∀ x, x < 3 → ∃ entry, t.ctx core x = (s.ctx core x).halted entry := by
  obtain ⟨h, halts, cores, mem, list⟩ := unwound_single (pn := pn) later home calm
  obtain ⟨k, insts, sheds, dropped, discards⟩ := discardBeyond_eq s core pn
  have unwound (j : Nat) : (s.unwound core pn).core j = h.core j := congrArg (fun m => mget ({} : Core) m j) cores
  rw [unwound, Core.dropped, later] at dropped
  have own : (s.discardBeyond core pn).core core = k := by
    rw [discards]; exact (State.core_setCore _ core core k).trans (if_pos rfl)
  have others (j : Nat) (away : j ≠ core) : (s.discardBeyond core pn).core j = s.core j := by
    rw [discards]; exact (State.core_setCore _ core j k).trans ((if_neg away).trans ((unwound j).trans (halts.cores j away)))
  have pens : ((s.discardBeyond core pn).pen pn).cores = (s.pen pn).cores := by rw [discards]; exact list
  have memory : (s.discardBeyond core pn).mem = writeLE s.mem (e.where_ * 64) 64 e.pre := by rw [discards]; exact mem
  have paid : (s.core core).owes (s.pen pn) = false := by simp [Core.owes, queue]
  have waits : ∃ j ∈ ((s.discardBeyond core pn).pen pn).cores, j ≠ core ∧ ((s.discardBeyond core pn).core j).cut.phase ≠ 3 := by
    obtain ⟨j, hj, other, on⟩ := left
    exact ⟨j, pens ▸ hj, other, by rwa [others j other]⟩
  obtain ⟨sheds', ends⟩ := cutHalt_halts pen ran paid placed waits
  have body := halts.body core
  have bind' : (h.core core).bind = some b := (congrArg Core.bind body).trans bind
  have bound' : (h.core core).cut.l = some l := (congrArg (fun c : Core => c.cut.l) body).trans bound
  have entry' : (h.core core).shadow = [e] := (congrArg Core.shadow body).trans entry
  have ctxs (x : Nat) : k.ctx x = h.ctx core x := (congrArg (fun c : Core => c.ctx x) dropped :)
  have kept : (cutHalt core s).core core = { k with cut := { k.cut with phase := 3 } } := by
    rw [ends]; exact (State.core_setCore _ core core _).trans ((if_pos rfl).trans (by rw [own]))
  have ctx (x : Nat) : (cutHalt core s).ctx core x = h.ctx core x := (congrArg (fun c : Core => c.ctx x) kept).trans (ctxs x)
  refine ⟨⟨congrArg (fun c : Core => c.cut.phase) kept, (congrArg Core.pre kept).trans (congrArg Core.pre dropped :), ?_,
    (congrArg Core.shadow kept).trans ((congrArg Core.shadow dropped).trans ?_), (congrArg Core.bind kept).trans ((congrArg Core.bind dropped).trans ?_)⟩,
    fun j away => ?_, (ctx 3).trans (halts.others 3 (by decide)), fun x hx => ?_⟩
  · rw [ends]; exact memory
  · simp [entry']
  · simp [bind', bound']
  · rw [ends]; exact (State.core_setCore _ core j _).trans ((if_neg away).trans (others j away))
  · rw [ctx]; exact halts.halted x (by simp only [List.mem_cons, List.not_mem_nil, or_false]; omega)

end

/-! ### O46 -/

/-- Settles O46: a core waits or halts by the parts of `cutHalt`, and PENCTL's events are the host's write of it. -/
theorem stopCarriedOut : Obligations.StopCarriedOut := by
  refine ⟨fun core pn l e b s pen => ⟨fun on stays => ?_, fun off left => ?_, ?_⟩, fun pen value s i event power hp reached => ?_⟩
  · have left : ¬s.ranBelow core (s.pen pn) = true := fun ran => by
      obtain ⟨phase, busy, decided, chains, -, faults⟩ := ranBelow_iff.1 ran
      rcases stays with h | h | h | ⟨x, hx, own, role⟩ | h
      · exact h phase
      · exact absurd (busy.symm.trans h) (by decide)
      · exact absurd (decided.symm.trans h) (by decide)
      · exact role (chains x hx own)
      · exact absurd (faults.symm.trans h) (by decide)
    rw [exec_cutHalt, cutHalt_waits pen on left]
  · rw [exec_cutHalt, cutHalt_halted pen off left]
  · intro phase busy decided faults chains bind bound done queue placed left entry own far home calm
    have ran : s.ranBelow core (s.pen pn) = true := ranBelow_iff.2 ⟨phase, busy, decided, chains, doneBelow_bound bind bound done, faults⟩
    obtain ⟨⟨off, pre, mem, shadow, cut⟩, others, c3, roles⟩ :=
      cutHalt_leaves pen ran bind bound queue placed left (laterShadow_single bind bound entry own far) entry home calm
    refine ⟨_, exec_cutHalt core s, off, pre, mem ▸ storedAt_writeLE _ _ _ _, shadow, c3, others, fun b' hb => ?_, fun x hx => ?_⟩
    · rw [cut] at hb
      exact Option.some.inj hb ▸ cutBack_retired
    · obtain ⟨at_, ctx⟩ := roles x hx
      rw [ctx]
      exact ⟨halted_idle, halted_stopped, halted_rd at_ _⟩
  · rw [exec_penctl event power hp reached, penctl_low]
    intro p p1
    refine ⟨fun code => ⟨_, rfl, ?_⟩, fun h => congrArg _ (penctl_ignored h), fun done idle code => ⟨_, rfl, ?_⟩,
      fun a done idle code named insts own num none => ⟨_, rfl, ?_⟩⟩
    · rw [penctl_fields code]
      exact ⟨rfl, (State.pen_setPen ..).trans (if_pos rfl), fun j away => (State.pen_setPen ..).trans (if_neg away)⟩
    · rw [penctl_resumes (s := s.unstage 81) done idle code]
      obtain ⟨cores, mem, pens⟩ := penResume_leaves ((s.unstage 81).setPen pen (((s.unstage 81).pen pen).controlled value)) pen
      rw [State.pen_setPen, if_pos rfl] at cores pens
      refine ⟨mem, congrArg Pen.cutDone pens, congrArg Pen.cutLate pens, (congrArg Pen.enable pens :), fun c hc => ?_⟩
      have own := cores c hc
      obtain ⟨gates, ctrs, tiles, cut, bind, ctxs⟩ := readies_leaves (((s.unstage 81).pen pen).controlled value) (s.core c)
      rw [State.ctx, own]
      refine ⟨gates, ctrs, tiles, cut, ctxs 3, bind, fun x hx => ?_⟩
      have role := (congrArg (fun k : Core => k.ctx x) own).trans ((ctxs x).trans (if_pos hx))
      rw [State.ctx, role]
      exact ⟨rfl, rfl, fun n => by simp [Ctx.full, Ctx.resumed, mget], resumed_rd _⟩
    · rw [penctl_abandons (s := s.unstage 81) done idle code]
      have ends := penAbandon_leaves (s := (s.unstage 81).setPen pen (((s.unstage 81).pen pen).controlled value)) (pen := pen) (a := a)
      rw [State.pen_setPen, if_pos rfl] at ends
      exact ends named insts own num none

end Sys2Proof.Machine

/-!
O51: the packets of puts, gets and remote atomics (R115, R122 to R124, R320 to R322, R404).
-/
namespace Sys2Proof.Machine
open Sys2Proof.Claims

theorem exec_putArrival (i : Nat) (s : State) : exec (.putArrival i) s = .next (putArrival i s) := rfl
theorem exec_putAckArrival (i : Nat) (s : State) : exec (.putAckArrival i) s = .next (putAckArrival i s) := rfl
theorem exec_getRequestArrival (i : Nat) (s : State) : exec (.getRequestArrival i) s = .next (getRequestArrival i s) := rfl
theorem exec_getReplyArrival (i : Nat) (s : State) : exec (.getReplyArrival i) s = .next (getReplyArrival i s) := rfl
theorem exec_remoteAtomicArrival (i : Nat) (s : State) : exec (.remoteAtomicArrival i) s = .next (remoteAtomicArrival i s) := rfl
theorem exec_fabricRefusal (i : Nat) (s : State) : exec (.fabricRefusal i) s = .next (fabricRefusal i s) := rfl

/-! ### Bytes and their value (R8) -/

theorem bytesVal_lt (bs : List (BitVec 8)) : bytesVal bs < 2 ^ (8 * bs.length) := by
  induction bs with
  | nil => simp [bytesVal]
  | cons b bs ih =>
    have byte := b.isLt
    simp only [bytesVal, List.foldr_cons, List.length_cons, Nat.mul_succ, pow_add] at ih ⊢
    omega

/-- Byte j of the value of bytes is byte j of them. -/
theorem bytesVal_byte (bs : List (BitVec 8)) (j : Nat) : BitVec.ofNat 8 (bytesVal bs / 2 ^ (8 * j)) = bs.getD j 0 := by
  induction bs generalizing j with
  | nil => simp [bytesVal]
  | cons b bs ih =>
    have value : bytesVal (b :: bs) = b.toNat + 256 * bytesVal bs := rfl
    have byte : b.toNat < 256 := b.isLt
    cases j with
    | zero => exact BitVec.eq_of_toNat_eq (by simp [value, Nat.mod_eq_of_lt byte])
    | succ j =>
      have shift : bytesVal (b :: bs) / 2 ^ (8 * (j + 1)) = bytesVal bs / 2 ^ (8 * j) := by
        rw [Nat.mul_succ, Nat.add_comm, pow_add, ← Nat.div_div_eq_div_mul, value]
        exact congrArg (· / 2 ^ (8 * j)) (by omega)
      rw [shift, ih, List.getD_cons_succ]

/-- The bytes of a number read from memory are the bytes that stand there. -/
theorem bytesOf_readLE (m : Mem) (a n : Nat) : (bytesOf n (readLE m a n)).map (BitVec.ofNat 8) = (List.range n).map (fun j => byteAt m (a + j)) := by
  induction n generalizing a with
  | zero => rfl
  | succ n ih =>
    have byte : (byteAt m a).toNat < 256 := (byteAt m a).isLt
    have low : ((byteAt m a).toNat + 256 * readLE m (a + 1) n) % 256 = (byteAt m a).toNat := by omega
    have high : ((byteAt m a).toNat + 256 * readLE m (a + 1) n) / 256 = readLE m (a + 1) n := by omega
    rw [readLE, bytesOf, low, high, List.map_cons, ih, List.range_succ_eq_map, List.map_cons, List.map_map, BitVec.ofNat_toNat, BitVec.setWidth_eq]
    exact congrArg _ (List.map_congr_left fun j _ => congrArg (byteAt m) (by rw [Nat.add_assoc, Nat.add_comm 1]))

/-! ### Lists of packets and commands -/

theorem dropFirst_getD {α : Type} (p : α → Bool) (l : List α) : (dropFirst p l).getD l = l.eraseP p := by
  induction l with
  | nil => rfl
  | cons x l ih =>
    cases own : p x with
    | true => simp [dropFirst, own]
    | false =>
      rw [List.eraseP_cons_of_neg (by simp [own]), ← ih, dropFirst]
      simp only [own, Bool.false_eq_true, if_false]
      cases dropFirst p l <;> rfl

theorem takeAnswer_eq (s : State) (i core cmd : Nat) : s.takeAnswer i core cmd = { s with net := (s.net.eraseIdx i).eraseP (Pkt.asks core cmd) } :=
  congrArg (fun l => { s with net := l }) (dropFirst_getD (fun p => p.asks core cmd) (s.net.eraseIdx i))

/-- An arrival of an initiator of this package ends: its packet leaves the list, and the answer goes out. -/
theorem arrEnd_eq {s : State} {core : Nat} (here : core < 65536) (i : Nat) (p ans : Pkt) :
    s.arrEnd i core p ans = { s with arrs := s.arrs.filter (fun b => b.pkt != p), net := s.net.eraseIdx i ++ [ans] } := if_pos here

/-- Without another arrival under way, only the list of packets changes. -/
theorem arrEnd_alone {s : State} {core : Nat} (here : core < 65536) (alone : s.arrs = []) (i : Nat) (p ans : Pkt) :
    s.arrEnd i core p ans = { s with net := s.net.eraseIdx i ++ [ans] } := by
  rw [arrEnd_eq here, alone, List.filter_nil, ← alone]

theorem arr_alone {s : State} (alone : s.arrs = []) (p : Pkt) : s.arr p = { pkt := p } := by
  rw [State.arr, alone]; rfl

/-! ### Windows and what they count (R122) -/

theorem find?_mset {α : Type} (m : SMap α) (i : Nat) (x : α) : (mset m i x).find? (fun p => p.1 == i) = some (i, x) := by
  induction m with
  | nil => simp [mset]
  | cons p m ih =>
    obtain ⟨k, v⟩ := p
    rw [mset]
    split_ifs with before own
    · simp
    · simp
    · rw [List.find?_cons_of_neg (by simpa using own), ih]

theorem twin?_opened {c : Core} {win : Nat} {w : TWin} (h : c.twin? win = some w) : w.opened = true := by
  unfold Core.twin? at h
  split at h
  · split_ifs at h with opened
    exact Option.some.inj h ▸ opened
  · cases h

theorem iwin?_opened {c : Core} {win : Nat} {w : IWin} (h : c.iwin? win = some w) : w.opened = true := by
  unfold Core.iwin? at h
  split at h
  · split_ifs at h with opened
    exact Option.some.inj h ▸ opened
  · cases h

theorem twin?_mset {c : Core} {win : Nat} {w : TWin} (opened : w.opened = true) : ({ c with twin := mset c.twin win w } : Core).twin? win = some w := by
  simp [Core.twin?, find?_mset, opened]

theorem iwin?_mset {c : Core} {win : Nat} {w : IWin} (opened : w.opened = true) : ({ c with iwin := mset c.iwin win w } : Core).iwin? win = some w := by
  simp [Core.iwin?, find?_mset, opened]

section
variable (s : State) (core win n : Nat)

theorem addLand_core (j : Nat) : { (s.addLand core win n).core j with twin := [] } = { s.core j with twin := [] } := by
  rw [State.addLand, State.modCore, State.core_setCore]
  split_ifs with own
  · rw [own]; split <;> rfl
  · rfl

theorem addSeen_core (j : Nat) : { (s.addSeen core win n).core j with iwin := [] } = { s.core j with iwin := [] } := by
  rw [State.addSeen, State.modCore, State.core_setCore]
  split_ifs with own
  · rw [own]; split <;> rfl
  · rfl

theorem addLand_ctx (j y : Nat) : (s.addLand core win n).ctx j y = s.ctx j y := (congrArg (fun c : Core => c.ctx y) (addLand_core s core win n j) :)
theorem addSeen_ctx (j y : Nat) : (s.addSeen core win n).ctx j y = s.ctx j y := (congrArg (fun c : Core => c.ctx y) (addSeen_core s core win n j) :)
theorem addSeen_eng (j e : Nat) : (s.addSeen core win n).eng j e = s.eng j e := (congrArg (fun c : Core => c.eng e) (addSeen_core s core win n j) :)

variable {s core win}

theorem addLand_counts {w : TWin} (opened : (s.core core).twin? win = some w) :
    ((s.addLand core win n).core core).twin? win = some { w with land := w.land + BitVec.ofNat 64 n } := by
  rw [State.addLand, State.modCore, State.core_setCore, if_pos rfl, opened]
  exact twin?_mset (twin?_opened opened :)

theorem addSeen_counts {w : IWin} (opened : (s.core core).iwin? win = some w) :
    ((s.addSeen core win n).core core).iwin? win = some { w with seen := w.seen + BitVec.ofNat 64 n } := by
  rw [State.addSeen, State.modCore, State.core_setCore, if_pos rfl, opened]
  exact iwin?_mset (iwin?_opened opened :)

end

/-! ### One unit of an arrival (R123) -/

/-- Bytes within one aligned unit are one unit. -/
theorem unitAddrs_single {va n : Nat} (some_ : 0 < n) (unit : va % 8 + n ≤ 8) (low : va < 2 ^ 64) : unitAddrs va n = [(va, n)] := by
  have whole : min n (8 - va % 8) = n := Nat.min_eq_left (by omega)
  simp only [unitAddrs, unitsOf, whole, some_.ne', if_false, Nat.sub_self, if_true, List.map_cons, List.map_nil, Nat.add_zero, Nat.mod_eq_of_lt low]

theorem unitAddrs_none (va : Nat) : unitAddrs va 0 = [] := rfl

section
variable {s s1 : State} {w : TWin} {core kind va n pa : Nat} {x : Xl}

/-- An access of an arrival that is allowed has been translated, and has counted heat; nothing else of the package has changed. -/
theorem arrive_eq (ok : s.arrive w core kind va n = .ok x s1) :
    ∃ m t k j f d, s1 = { s with mem := m, tlb := t, walks := k, slow := j, free := f, dies := d } := by
  obtain ⟨m, t, k, j, f, xlated⟩ := s.xlate_eq (s.winSpace w core) (w.who core) kind (kind == kRmw) va n
  unfold State.arrive at ok
  generalize s.xlate (s.winSpace w core) (w.who core) kind (kind == kRmw) va n = r at xlated ok
  obtain ⟨y, s2⟩ := r
  obtain ⟨d, heat⟩ := s2.heatAll_eq (w.who core) (s.winSpace w core) va y
  dsimp only at xlated ok
  rw [heat, xlated] at ok
  refine ⟨m, t, k, j, f, d, ?_⟩
  split at ok
  · cases ok
  · split at ok
    · cases ok
    · cases ok
    · cases ok
    · split_ifs at ok <;> cases ok <;> rfl

theorem wrote_eq (s : State) (core : Nat) (sp : Space) (leaf va n : Nat) (segs : List (Nat × Nat)) :
    ∃ b e p i, s.wrote core sp leaf va n segs = { s with bad := b, enc := e, pens := p, insts := i } := by
  unfold State.wrote
  dsimp only
  split_ifs <;> exact ⟨_, _, _, _, rfl⟩

/-- The bytes of an arrival that meets no register are stored in memory. -/
theorem arrStore_eq (segs : x.segs = [(pa, n)]) (mem : tierOf pa ≠ .regs) (s : State) (w : TWin) (core va v : Nat) :
    ∃ b e p i, s.arrStore w core va n x v = { s with mem := writeLE s.mem pa n (v % 2 ^ (8 * n)), bad := b, enc := e, pens := p, insts := i } := by
  simp only [State.arrStore, segs, mem, if_false]
  exact wrote_eq ({ s with mem := writeLE s.mem pa n (v % 2 ^ (8 * n)) }) core _ x.leaf va n [(pa, n)]

theorem arrLoad_eq (segs : x.segs = [(pa, n)]) (mem : tierOf pa ≠ .regs) (s : State) (core : Nat) : s.arrLoad core x = readLE s.mem pa n := by
  simp [State.arrLoad, State.rdAny, segs, mem, State.rdSpc]

variable {a : Arrival} (fresh : a.units = []) (ok : s.arrive w core kind va n = .ok x s1)
include fresh ok

/-- A put of one unit: the unit is stored. -/
theorem arrUnits_put (write : kind = kWrite) (v : Nat) : State.arrUnits w core [(va, n)] (some v) (List.range 1) a s =
    .done { a with units := [0] } ((s1.arrStore w core va n x (v % 2 ^ (8 * n))).putArr { a with units := [0] }) := by
  subst write
  simp [List.range_succ, State.arrUnits, State.arrUnit, fresh, ok, unitOff, segBytes]

/-- A get of one unit: the unit is read. -/
theorem arrUnits_get (read : kind = kRead) (empty : a.got = []) : State.arrUnits w core [(va, n)] none (List.range 1) a s =
    .done { a with units := [0], got := [(0, s1.arrLoad core x)] } (s1.putArr { a with units := [0], got := [(0, s1.arrLoad core x)] }) := by
  subst read
  simp [List.range_succ, State.arrUnits, State.arrUnit, fresh, empty, ok]

end

end Sys2Proof.Machine

/-!
O51, continued: puts and gets at their target (R122, R123, R320, R322, R404).
-/
namespace Sys2Proof.Machine
open Sys2Proof.Claims

theorem units_single {w : TWin} {off len n : Nat} (fits : min len (w.len - off) = n) (some_ : 0 < n) (unit : (w.base + off) % 2 ^ 64 % 8 + n ≤ 8) :
    w.units off len = [((w.base + off) % 2 ^ 64, n)] := by
  rw [TWin.units, fits, unitAddrs_single some_ unit (Nat.mod_lt _ (by decide))]

theorem units_outside {w : TWin} {off : Nat} (outside : w.len ≤ off) (len : Nat) : w.units off len = [] := by
  rw [TWin.units, Nat.sub_eq_zero_of_le outside, Nat.min_zero, unitAddrs_none]

section
variable {kind core off n pa : Nat} {w : TWin} {x : Xl} {s s1 : State} (h : Arrives kind w core off n pa x s s1)
include h

theorem arrives_pos : 0 < n := by obtain ⟨-, pos, -⟩ := h; exact pos
theorem arrives_within : off + n ≤ w.len := by obtain ⟨-, -, within, -⟩ := h; exact within

/-- The access of an arrival changes no core. -/
theorem arrives_core (j : Nat) : s1.core j = s.core j := by
  obtain ⟨-, -, -, -, ok, -⟩ := h
  obtain ⟨_, _, _, _, _, _, arrived⟩ := arrive_eq ok
  rw [arrived]; rfl

end

/-! ### Puts -/

/-- Memory has become m, with what follows a write of it (lines good again, encrypted or not, watched ranges told) and arrivals under way. -/
def OnlyStored (m : Mem) (s t : State) : Prop :=
  { t with bad := [], enc := [], pens := [], insts := [], arrs := [] } = { s with mem := m, bad := [], enc := [], pens := [], insts := [], arrs := [] }

section
variable {m : Mem} {s t : State} (h : OnlyStored m s t)
include h

theorem OnlyStored.mem : t.mem = m := (congrArg State.mem h :)
theorem OnlyStored.net : t.net = s.net := (congrArg State.net h :)
theorem OnlyStored.putArr (a : Arrival) : OnlyStored m s (t.putArr a) := h
theorem OnlyStored.core (j : Nat) : t.core j = s.core j := (congrArg (State.core · j) h :)

end

/-- An arrival that has stored n bytes. -/
theorem onlyStored_arrStore {x : Xl} {pa n : Nat} (segs : x.segs = [(pa, n)]) (mem : tierOf pa ≠ .regs) (s : State) (w : TWin) (core va v : Nat) :
    OnlyStored (writeLE s.mem pa n (v % 2 ^ (8 * n))) s (s.arrStore w core va n x v) := by
  obtain ⟨b, e, p, i, stored⟩ := arrStore_eq segs mem s w core va v
  rw [stored]; rfl

section
variable {s : State} {i id core cmd tcore win off cnt : Nat} {bytes : List (BitVec 8)}
  (found : s.net[i]? = some (.put id core cmd s.fabid tcore win off bytes cnt)) (alone : s.arrs = [])
include found alone

theorem putArrival_cutOff (cut : s.cutOff core tcore = true) : putArrival i s =
    (s.arrEnd i core (.put id core cmd s.fabid tcore win off bytes cnt) (.refusal core cmd 0x24 off)).dropPuts core cmd := by
  simp [putArrival, found, arr_alone alone, cut]

variable (way : s.cutOff core tcore = false)
include way

theorem putArrival_unopened (none : (s.core tcore).twin? win = none) : putArrival i s =
    (s.arrEnd i core (.put id core cmd s.fabid tcore win off bytes cnt) (.refusal core cmd 0x25 off)).dropPuts core cmd := by
  simp [putArrival, found, arr_alone alone, way, none]

variable {w : TWin} (opened : (s.core tcore).twin? win = some w)
include opened

theorem putArrival_outside (outside : w.len ≤ off) : putArrival i s =
    (s.arrEnd i core (.put id core cmd s.fabid tcore win off bytes cnt) (.refusal core cmd 0x25 off)).dropPuts core cmd := by
  simp [putArrival, found, arr_alone alone, way, opened, outside]

/-- A put whose bytes within the window are one unit stores them; what becomes of it then depends on where the window ends, and on its other parts. -/
theorem putArrival_unit {s1 : State} {x : Xl} {pa n : Nat} (fits : min bytes.length (w.len - off) = n)
    (arrives : Arrives kWrite w tcore off n pa x s s1) :
    ∃ s2 a, OnlyStored (writeLE s1.mem pa n (bytesVal bytes % 2 ^ (8 * n))) s1 s2 ∧ putArrival i s =
      if w.len - off < bytes.length then
        (s2.arrEnd i core (.put id core cmd s.fabid tcore win off bytes cnt) (.refusal core cmd 0x25 w.len)).dropPuts core cmd
      else if cnt ≠ 0 ∧ s2.net.any (fun q => q.partOf core cmd false) then s2.putArr a
      else (s2.addLand tcore win cnt).arrEnd i core (.put id core cmd s.fabid tcore win off bytes cnt) (.putAck core win bytes.length cmd) := by
  obtain ⟨-, some_, within, unit, ok, segs, mem⟩ := arrives
  have inside : ¬w.len ≤ off := by omega
  have run := arrUnits_put (a := { pkt := .put id core cmd s.fabid tcore win off bytes cnt }) rfl ok rfl (bytesVal bytes)
  have stored := onlyStored_arrStore segs mem s1 w tcore ((w.base + off) % 2 ^ 64) (bytesVal bytes % 2 ^ (8 * n))
  rw [Nat.mod_mod] at stored
  refine ⟨_, { pkt := .put id core cmd s.fabid tcore win off bytes cnt, units := [0] },
    stored.putArr { pkt := .put id core cmd s.fabid tcore win off bytes cnt, units := [0] }, ?_⟩
  simp only [putArrival, found, arr_alone alone, way, opened, inside, units_single fits some_ unit, List.length_singleton, run, ne_eq, not_true_eq_false,
    Option.isSome_none, Bool.false_eq_true, or_self, if_false]

end

/-- What is left of a put that is refused ends with it. -/
theorem dropPuts_net (s : State) (core cmd : Nat) : ∀ q ∈ (s.dropPuts core cmd).net, q.partOf core cmd true = false := by
  intro q hq
  simpa using (List.mem_filter.1 hq).2

/-- The refusal of a put is under way. -/
theorem refusal_dropPuts {s : State} {core : Nat} (here : core < 65536) (i : Nat) (p : Pkt) (cmd cls o : Nat) :
    .refusal core cmd cls o ∈ ((s.arrEnd i core p (.refusal core cmd cls o)).dropPuts core cmd).net := by
  rw [arrEnd_eq here]
  exact List.mem_filter.2 ⟨List.mem_append_right _ (List.mem_singleton.2 rfl), rfl⟩

/-- Memory after a put's bytes have been stored. -/
theorem byteAt_put (pa : Nat) (bytes : List (BitVec 8)) {m : Mem} (wf : Memory.wf m = true) (j : Nat) :
    byteAt (writeLE m pa bytes.length (bytesVal bytes % 2 ^ (8 * bytes.length))) j =
      if pa ≤ j ∧ j < pa + bytes.length then bytes.getD (j - pa) 0 else byteAt m j := by
  rw [Nat.mod_eq_of_lt (bytesVal_lt bytes), storedAt_writeLE pa bytes.length (bytesVal bytes) m wf j]
  exact if_congr Iff.rfl (bytesVal_byte bytes (j - pa)) rfl

section
variable {s s1 : State} {i id core cmd tcore win off cnt pa : Nat} {bytes : List (BitVec 8)} {w : TWin} {x : Xl}
  (found : s.net[i]? = some (.put id core cmd s.fabid tcore win off bytes cnt)) (here : core < 65536) (alone : s.arrs = [])
  (way : s.cutOff core tcore = false) (opened : (s.core tcore).twin? win = some w)
include found here alone way opened

/-- A put that goes on behind its window's end is refused there, with what is left of it, and is not counted (R322). -/
theorem putArrival_endsShort (arrives : Arrives kWrite w tcore off (w.len - off) pa x s s1) (short : w.len < off + bytes.length) :
    let t := putArrival i s
    .refusal core cmd 0x25 w.len ∈ t.net ∧ (∀ q ∈ t.net, q.partOf core cmd true = false) ∧
      ((t.core tcore).twin? win).map (·.land) = ((s1.core tcore).twin? win).map (·.land) := by
  have pos := arrives_pos arrives
  obtain ⟨s2, a, stored, ends⟩ := putArrival_unit found alone way opened (Nat.min_eq_right (by omega)) arrives
  rw [if_pos (by omega)] at ends
  rw [ends]
  refine ⟨refusal_dropPuts here i _ cmd 0x25 w.len, dropPuts_net _ core cmd, ?_⟩
  rw [arrEnd_eq here]
  exact congrArg (fun c : Core => (c.twin? win).map (·.land)) (stored.core tcore)

/-- A put, or the last part of one, leaves its bytes, WLAND counts it, and its acknowledgement goes back (R122). -/
theorem putArrival_lands (arrives : Arrives kWrite w tcore off bytes.length pa x s s1) (last : cnt = 0 ∨ ∀ q ∈ s1.net, q.partOf core cmd false = false) :
    let t := putArrival i s
    t.net = s1.net.eraseIdx i ++ [.putAck core win bytes.length cmd] ∧
      (Memory.wf s1.mem = true → ∀ j, byteAt t.mem j = if pa ≤ j ∧ j < pa + bytes.length then bytes.getD (j - pa) 0 else byteAt s1.mem j) ∧
      (t.core tcore).twin? win = some { w with land := w.land + BitVec.ofNat 64 cnt } ∧ ∀ j y, t.ctx j y = s1.ctx j y := by
  have within := arrives_within arrives
  obtain ⟨s2, a, stored, ends⟩ := putArrival_unit found alone way opened (Nat.min_eq_left (by omega)) arrives
  have whole : ¬(cnt ≠ 0 ∧ s2.net.any (fun q => q.partOf core cmd false) = true) := by
    rw [stored.net]; simpa [or_iff_not_imp_left] using last
  rw [if_neg (by omega), if_neg whole, arrEnd_eq here] at ends
  have same : (s2.core tcore).twin? win = some w := by rw [stored.core, arrives_core arrives]; exact opened
  rw [ends]
  exact ⟨congrArg (fun l : List Pkt => l.eraseIdx i ++ [.putAck core win bytes.length cmd]) stored.net,
    fun wf j => (congrArg (byteAt · j) stored.mem).trans (byteAt_put pa bytes wf j), addLand_counts cnt same,
    fun j y => (addLand_ctx s2 tcore win cnt j y).trans (congrArg (fun c : Core => c.ctx y) (stored.core j))⟩

omit here in
/-- The last part of a put stays until its other parts have ended (R122). -/
theorem putArrival_waits (arrives : Arrives kWrite w tcore off bytes.length pa x s s1) (counted : cnt ≠ 0)
    (part : ∃ q ∈ s1.net, q.partOf core cmd false = true) :
    let t := putArrival i s
    t.net = s1.net ∧ ((t.core tcore).twin? win).map (·.land) = ((s1.core tcore).twin? win).map (·.land) := by
  have within := arrives_within arrives
  obtain ⟨s2, a, stored, ends⟩ := putArrival_unit found alone way opened (Nat.min_eq_left (by omega)) arrives
  have waits : cnt ≠ 0 ∧ s2.net.any (fun q => q.partOf core cmd false) = true := ⟨counted, by rw [stored.net]; exact List.any_eq_true.2 part⟩
  rw [if_neg (by omega), if_pos waits] at ends
  rw [ends]
  exact ⟨stored.net, congrArg (fun c : Core => (c.twin? win).map (·.land)) (stored.core tcore)⟩

end

/-! ### Gets -/

section
variable {s : State} {i id core cmd tcore win off n : Nat}
  (found : s.net[i]? = some (.getReq id core cmd s.fabid tcore win off n)) (here : core < 65536) (alone : s.arrs = [])
include found here alone

theorem getRequestArrival_cutOff (cut : s.cutOff core tcore = true) :
    getRequestArrival i s = { s with net := s.net.eraseIdx i ++ [.refusal core cmd 0x24 off] } := by
  rw [← arrEnd_alone here alone i (.getReq id core cmd s.fabid tcore win off n)]
  simp [getRequestArrival, found, cut]

variable (way : s.cutOff core tcore = false)
include way

theorem getRequestArrival_unopened (none : (s.core tcore).twin? win = none) :
    getRequestArrival i s = { s with net := s.net.eraseIdx i ++ [.refusal core cmd 0x25 off] } := by
  rw [← arrEnd_alone here alone i (.getReq id core cmd s.fabid tcore win off n)]
  simp [getRequestArrival, found, way, none]

variable {w : TWin} (opened : (s.core tcore).twin? win = some w)
include opened

theorem getRequestArrival_outside (outside : w.len ≤ off) (some_ : 0 < n) :
    getRequestArrival i s = { s with net := s.net.eraseIdx i ++ [.refusal core cmd 0x25 off] } := by
  rw [← arrEnd_alone here alone i (.getReq id core cmd s.fabid tcore win off n)]
  simp [getRequestArrival, found, way, opened, units_outside outside, State.arrUnits, Nat.sub_eq_zero_of_le outside, some_, max_eq_left outside]

/-- A get whose bytes within the window are one unit reads them: they go back, or the window's end is refused. -/
theorem getRequestArrival_unit {s1 : State} {x : Xl} {pa k : Nat} (fits : min n (w.len - off) = k)
    (arrives : Arrives kRead w tcore off k pa x s s1) : getRequestArrival i s =
      { s1 with net := s1.net.eraseIdx i ++ [if w.len - off < n then .refusal core cmd 0x25 (max off w.len)
                                             else .getReply core cmd ((List.range k).map (fun j => byteAt s1.mem (pa + j)))] } := by
  obtain ⟨-, some_, within, unit, ok, segs, mem⟩ := arrives
  have arrs : s1.arrs = [] := by
    obtain ⟨_, _, _, _, _, _, arrived⟩ := arrive_eq ok
    rw [arrived]; exact alone
  have run := arrUnits_get (a := { pkt := .getReq id core cmd s.fabid tcore win off n }) rfl ok rfl rfl
  have ends (ans : Pkt) :
      (s1.putArr { pkt := .getReq id core cmd s.fabid tcore win off n, units := [0], got := [(0, s1.arrLoad tcore x)] }).arrEnd i core
        (.getReq id core cmd s.fabid tcore win off n) ans = { s1 with net := s1.net.eraseIdx i ++ [ans] } := by
    rw [arrEnd_eq here]
    simp [State.putArr, arrs]
  have bytes : (List.range 1).flatMap (fun j =>
      (bytesOf ([((w.base + off) % 2 ^ 64, k)].getD j (0, 0)).2 (mget 0 [(0, s1.arrLoad tcore x)] j)).map (BitVec.ofNat 8)) =
      (List.range k).map (fun j => byteAt s1.mem (pa + j)) := by
    rw [← bytesOf_readLE, ← arrLoad_eq segs mem s1 tcore]
    simp [List.range_succ, mget]
  simp only [getRequestArrival, found, arr_alone alone, way, opened, units_single fits some_ unit, List.length_singleton, run, bytes, ne_eq, not_true_eq_false,
    Bool.false_eq_true, if_false]
  split_ifs <;> exact ends _

end

end Sys2Proof.Machine

/-!
O51, continued: remote atomics, and the answers at the initiator (R115, R122, R124, R321, R322).
-/
namespace Sys2Proof.Machine
open Sys2Proof.Claims

/-! ### Remote atomics at their target -/

theorem storedAt_writeLE_mod (pa n x : Nat) (m : Mem) : StoredAt pa n x m (writeLE m pa n (x % 2 ^ (8 * n))) := by
  intro wf b
  rw [storedAt_writeLE pa n (x % 2 ^ (8 * n)) m wf b]
  split_ifs with on
  · have byte (y : Nat) : (BitVec.ofNat 8 (y / 2 ^ (8 * (b - pa)))).toNat = field y (8 * (b - pa)) 8 := BitVec.toNat_ofNat ..
    exact BitVec.eq_of_toNat_eq (by rw [byte, byte, field_mod _ _ _ _ (by omega)])
  · rfl

section
variable {s : State} {i core cmd tcore win off op n b : Nat}
  (found : s.net[i]? = some (.ramo core cmd s.fabid tcore win off op n b)) (here : core < 65536) (alone : s.arrs = [])
include found here alone

theorem remoteAtomic_cutOff (cut : s.cutOff core tcore = true) :
    remoteAtomicArrival i s = { s with net := s.net.eraseIdx i ++ [.refusal core cmd 0x24 off] } := by
  rw [← arrEnd_alone here alone i (.ramo core cmd s.fabid tcore win off op n b)]
  simp [remoteAtomicArrival, found, arr_alone alone, cut]

variable (way : s.cutOff core tcore = false)
include way

theorem remoteAtomic_unopened (none : (s.core tcore).twin? win = none) :
    remoteAtomicArrival i s = { s with net := s.net.eraseIdx i ++ [.refusal core cmd 0x25 off] } := by
  rw [← arrEnd_alone here alone i (.ramo core cmd s.fabid tcore win off op n b)]
  simp [remoteAtomicArrival, found, arr_alone alone, way, none]

variable {w : TWin} (opened : (s.core tcore).twin? win = some w)
include opened

theorem remoteAtomic_outside (outside : w.len < off + n) :
    remoteAtomicArrival i s = { s with net := s.net.eraseIdx i ++ [.refusal core cmd 0x25 (max off w.len)] } := by
  rw [← arrEnd_alone here alone i (.ramo core cmd s.fabid tcore win off op n b)]
  simp [remoteAtomicArrival, found, arr_alone alone, way, opened, outside]

theorem remoteAtomic_misaligned (inside : off + n ≤ w.len) (odd : off % n ≠ 0 ∨ (w.base + off) % n ≠ 0) :
    remoteAtomicArrival i s = { s with net := s.net.eraseIdx i ++ [.refusal core cmd 0x25 off] } := by
  rw [← arrEnd_alone here alone i (.ramo core cmd s.fabid tcore win off op n b)]
  simp only [remoteAtomicArrival, found, arr_alone alone, way, opened, not_lt.2 inside, odd, ne_eq, not_true_eq_false, Option.isSome_none,
    Bool.false_eq_true, or_self, if_false, if_true]

omit here in
/-- A remote atomic that arrives at its window is performed there, WLAND counts it, and its answer goes back. -/
theorem remoteAtomic_performs {s1 : State} {x : Xl} {pa : Nat} (off_ : off % n = 0) (base : (w.base + off) % n = 0)
    (arrives : Arrives kRmw w tcore off n pa x s s1) :
    ∃ s2, OnlyStored (writeLE s1.mem pa n (amoNew op (8 * n) (readLE s1.mem pa n) b 0 % 2 ^ (8 * n))) s1 s2 ∧ remoteAtomicArrival i s =
      ((s2.sliceCount pa 64).addLand tcore win n).arrEnd i core (.ramo core cmd s.fabid tcore win off op n b)
        (.ramoReply core win cmd (readLE s1.mem pa n) n) := by
  obtain ⟨-, -, within, -, ok, segs, mem⟩ := arrives
  refine ⟨_, onlyStored_arrStore segs mem s1 w tcore ((w.base + off) % 2 ^ 64) _, ?_⟩
  simp only [remoteAtomicArrival, found, arr_alone alone, way, opened, not_lt.2 within, off_, base, ok, segs, rdSegs_single, ne_eq, not_true_eq_false,
    Option.isSome_none, Bool.false_eq_true, or_self, if_false]

end

/-- What a remote atomic leaves at its target: its result, the count, and the answer with the old value (R115, R321). -/
theorem remoteAtomic_leaves {s s1 : State} {i core cmd tcore win off op n b pa : Nat} {w : TWin} {x : Xl}
    (found : s.net[i]? = some (.ramo core cmd s.fabid tcore win off op n b)) (here : core < 65536) (way : s.cutOff core tcore = false)
    (opened : (s.core tcore).twin? win = some w) (off_ : off % n = 0) (base : (w.base + off) % n = 0) (fits : b < 2 ^ (8 * n)) (op_ : op ≤ 8)
    (arrives : Arrives kRmw w tcore off n pa x s s1) :
    let t := remoteAtomicArrival i s
    StoredAt pa n (amoResult op (8 * n) (readLE s1.mem pa n) b 0) s1.mem t.mem ∧
      t.net = s1.net.eraseIdx i ++ [.ramoReply core win cmd (readLE s1.mem pa n) n] ∧
      (t.core tcore).twin? win = some { w with land := w.land + BitVec.ofNat 64 n } := by
  have alone : s.arrs = [] := by obtain ⟨alone, -⟩ := arrives; exact alone
  obtain ⟨s2, stored, ends⟩ := remoteAtomic_performs found alone way opened off_ base arrives
  rw [amoNew_eq_amoResult (op_.trans (by decide)) fits (Nat.two_pow_pos _)] at stored
  rw [arrEnd_eq here] at ends
  have same : (s2.core tcore).twin? win = some w := by rw [stored.core, arrives_core arrives]; exact opened
  rw [ends]
  refine ⟨?_, congrArg (fun l : List Pkt => l.eraseIdx i ++ [.ramoReply core win cmd (readLE s1.mem pa n) n]) stored.net,
    addLand_counts (s := s2.sliceCount pa 64) n same⟩
  have mem : (s2.sliceCount pa 64).mem = writeLE s1.mem pa n (amoResult op (8 * n) (readLE s1.mem pa n) b 0 % 2 ^ (8 * n)) := stored.mem
  exact mem ▸ storedAt_writeLE_mod pa n _ s1.mem

/-! ### Answers at the initiator -/

theorem OnlyEng.iwin? {core e : Nat} {g : Eng} {s t : State} (h : OnlyEng core e g s t) (j n : Nat) : (t.core j).iwin? n = (s.core j).iwin? n :=
  (congrArg (fun c : Core => c.iwin? n) (h.2.1 j) :)
theorem OnlyEng.net {core e : Nat} {g : Eng} {s t : State} (h : OnlyEng core e g s t) : t.net = s.net := (congrArg State.net h.1 :)

section
variable (s : State) (core cmd : Nat)

/-- The first of an initiator's puts of a command that wait to be counted waits no more. -/
theorem onlyEng_clearSent : OnlyEng core 4 { s.eng core 4 with sent := (s.eng core 4).sent.eraseP (fun m => m.idx == cmd) } s (s.clearSent core cmd) := by
  rw [← dropFirst_getD]; exact onlyEng_setEng ..

theorem onlyEng_dropSent : OnlyEng core 4 { s.eng core 4 with sent := (s.eng core 4).sent.filter (fun m => m.idx != cmd) } s (s.dropSent core cmd) :=
  onlyEng_setEng ..

theorem onlyEng_answered (f : Cmd → Cmd) :
    OnlyEng core 4 { s.eng core 4 with cmds := (s.eng core 4).cmds.map fun m => if m.idx = cmd then f m else m } s (s.answered core cmd f) :=
  onlyEng_setEng ..

end

/-- Every command of a number has had its answer. -/
theorem answered_all {l : List Cmd} {cmd : Nat} {f : Cmd → Cmd} {P : Cmd → Prop} (keeps : ∀ m, P (f m)) :
    ∀ m ∈ l.map (fun m => if m.idx = cmd then f m else m), m.idx = cmd → P m := by
  intro m hm own
  obtain ⟨d, -, rfl⟩ := List.mem_map.1 hm
  by_cases his : d.idx = cmd
  · rw [if_pos his]; exact keeps d
  · rw [if_neg his] at own; exact absurd own his

/-- A command that leaves its ring refused has ended there, and a trap of its fault's class waits; no gate is raised (R101, R225, R322). -/
theorem refuseCmd_leaves (s : State) (core e : Nat) (m : Cmd) (f : Flt) (kind done rem : Nat) (hi : Option Nat) :
    let t := s.refuseCmd core e m f kind done rem hi
    t.eng core e = (s.eng core e).without m ∧ t.mem = s.mem ∧ t.net = s.net ∧ (∀ j, (t.core j).gates = (s.core j).gates) ∧
      (t.ctx core m.ctx).traps.map PTrap.cls = (s.ctx core m.ctx).traps.map PTrap.cls ++ [f.cls] := by
  intro t
  obtain ⟨s1, r, cls, left, kept, net, traps⟩ : ∃ s1 r, r.cls = f.cls ∧ t = (s1.pendTrap core m.ctx r).leaveRing core e m ∧ KeepsEngines s s1 ∧
      s1.net = s.net ∧ (s1.ctx core m.ctx).traps = (s.ctx core m.ctx).traps := by
    refine ⟨_, _, ?_, rfl, ?_⟩
    · by_cases check : f.cls = 0x22
      · rw [if_pos check, check]; rfl
      · rw [if_neg check]; rfl
    · cases m.scalarOut with
      | none => exact ⟨⟨rfl, fun _ => ⟨rfl, rfl, rfl⟩⟩, rfl, rfl⟩
      | some d => exact ⟨keepsEngines_modCtx .., rfl, by rw [State.ctx_modCtx, if_pos ⟨rfl, rfl⟩, Ctx.mark_traps]⟩
  have trapped := kept.trans (keepsEngines_pendTrap s1 core m.ctx r)
  rw [left]
  refine ⟨?_, ?_, ?_, fun j => ?_, ?_⟩
  · rw [leaveRing_eng, trapped.eng]
  · rw [leaveRing_mem, trapped.1]
  · obtain ⟨c, h, record⟩ := s1.pendTrap_eq core m.ctx r
    rw [record]; exact net
  · rw [leaveRing_gates, (trapped.2 j).1]
  · rw [leaveRing_traps, pendTrap_traps, traps, cls]

section
variable {s : State} {i core cmd : Nat} {m : Cmd}

/-- An acknowledgement of a put that waits to be counted: WSEEN of the window that it named counts it, and it waits no more (R122). -/
theorem putAckArrival_counts {win n : Nat} {w : IWin} (found : s.net[i]? = some (.putAck core win n cmd))
    (waits : (s.eng core 4).sent.find? (fun m => m.idx == cmd) = some m) (opened : (s.core core).iwin? m.win = some w) :
    let t := putAckArrival i s
    t.net = (s.net.eraseIdx i).eraseP (Pkt.asks core cmd) ∧ t.mem = s.mem ∧
      (t.core core).iwin? m.win = some { w with seen := w.seen + BitVec.ofNat 64 m.val } ∧
      (t.eng core 4).sent = (s.eng core 4).sent.eraseP (fun m => m.idx == cmd) ∧ ∀ j y, t.ctx j y = s.ctx j y := by
  have ends : putAckArrival i s = ((s.takeAnswer i core cmd).addSeen core m.win m.val).clearSent core cmd := by
    simp only [putAckArrival, found, waits]
  rw [ends, takeAnswer_eq]
  generalize (s.net.eraseIdx i).eraseP (Pkt.asks core cmd) = l
  have clear := onlyEng_clearSent (({ s with net := l } : State).addSeen core m.win m.val) core cmd
  refine ⟨clear.net, clear.mem, (clear.iwin? core m.win).trans (addSeen_counts m.val opened), ?_,
    fun j y => (clear.ctx j y).trans (addSeen_ctx _ core m.win m.val j y)⟩
  rw [clear.own, addSeen_eng]; rfl

/-- A get's bytes that find their way back are its command's (R124). -/
theorem getReplyArrival_answers {bs : List (BitVec 8)} (found : s.net[i]? = some (.getReply core cmd bs))
    (way : ∀ m ∈ (s.eng core 4).cmds, m.idx = cmd → s.noWay core m.win = false) :
    let t := getReplyArrival i s
    t.net = (s.net.eraseIdx i).eraseP (Pkt.asks core cmd) ∧ t.mem = s.mem ∧ (∀ j y, t.ctx j y = s.ctx j y) ∧
      ∀ m ∈ (t.eng core 4).cmds, m.idx = cmd → m.ok = true ∧ m.shape = [bytesVal bs] := by
  have routed : ((s.eng core 4).cmds.find? (fun m => m.idx == cmd)).any (fun m => s.noWay core m.win) = false := by
    cases first : (s.eng core 4).cmds.find? (fun m => m.idx == cmd) with
    | none => rfl
    | some m => exact way m (List.mem_of_find?_eq_some first) (by simpa using List.find?_some first)
  have ends : getReplyArrival i s = (s.takeAnswer i core cmd).answered core cmd (fun m => { m with ok := true, shape := [bytesVal bs] }) := by
    simp only [getReplyArrival, found, routed, Bool.false_eq_true, if_false]
  rw [ends, takeAnswer_eq]
  generalize (s.net.eraseIdx i).eraseP (Pkt.asks core cmd) = l
  have answered := onlyEng_answered { s with net := l } core cmd (fun m => { m with ok := true, shape := [bytesVal bs] })
  refine ⟨answered.net, answered.mem, answered.ctx, ?_⟩
  rw [answered.own]
  exact answered_all fun m => ⟨rfl, rfl⟩

/-- The answer of a remote atomic is its command's, and WSEEN of the window that it named counts it (R115, R122). -/
theorem ramoReply_answers {win old n : Nat} {w : IWin} (found : s.net[i]? = some (.ramoReply core win cmd old n))
    (first : (s.eng core 4).cmds.find? (fun m => m.idx == cmd) = some m) (opened : (s.core core).iwin? m.win = some w) :
    let t := remoteAtomicArrival i s
    t.net = (s.net.eraseIdx i).eraseP (Pkt.asks core cmd) ∧ t.mem = s.mem ∧
      (t.core core).iwin? m.win = some { w with seen := w.seen + BitVec.ofNat 64 n } ∧
      ∀ m ∈ (t.eng core 4).cmds, m.idx = cmd → m.ok = true ∧ m.val = old := by
  have ends : remoteAtomicArrival i s =
      ((s.takeAnswer i core cmd).addSeen core m.win n).answered core cmd (fun m => { m with ok := true, val := old }) := by
    simp only [remoteAtomicArrival, found, first]
  rw [ends, takeAnswer_eq]
  generalize (s.net.eraseIdx i).eraseP (Pkt.asks core cmd) = l
  have answered := onlyEng_answered (({ s with net := l } : State).addSeen core m.win n) core cmd (fun m => { m with ok := true, val := old })
  refine ⟨answered.net, answered.mem, (answered.iwin? core m.win).trans (addSeen_counts n opened), ?_⟩
  rw [answered.own]
  exact answered_all fun m => ⟨rfl, rfl⟩

/-- A refusal ends its command with a trap of its class, and raises no gate (R322). -/
theorem fabricRefusal_ends {cls off : Nat} (found : s.net[i]? = some (.refusal core cmd cls off))
    (first : (s.eng core 4).cmds.find? (fun m => m.idx == cmd && !m.ended) = some m) :
    let t := fabricRefusal i s
    t.net = (s.net.eraseIdx i).eraseP (Pkt.asks core cmd) ∧ t.mem = s.mem ∧ (t.core core).gates = (s.core core).gates ∧
      (t.ctx core m.ctx).traps.map PTrap.cls = (s.ctx core m.ctx).traps.map PTrap.cls ++ [cls] ∧
      (∀ c ∈ (t.eng core 4).cmds, c.idx = m.idx → c.ended = true) ∧ ∀ c ∈ (t.eng core 4).sent, c.idx ≠ cmd := by
  have ends : fabricRefusal i s =
      ((s.takeAnswer i core cmd).refuseCmd core 4 m ⟨cls, off, 7⟩ (if m.major = 0x71 then kRmw else kRead) 0 0).dropSent core cmd := by
    simp only [fabricRefusal, found, first]
  rw [ends, takeAnswer_eq]
  generalize (s.net.eraseIdx i).eraseP (Pkt.asks core cmd) = l
  obtain ⟨eng, mem, net, gates, traps⟩ := refuseCmd_leaves { s with net := l } core 4 m ⟨cls, off, 7⟩ (if m.major = 0x71 then kRmw else kRead) 0 0 none
  generalize ({ s with net := l } : State).refuseCmd core 4 m ⟨cls, off, 7⟩ (if m.major = 0x71 then kRmw else kRead) 0 0 = u at *
  have dropped := onlyEng_dropSent u core cmd
  refine ⟨dropped.net.trans net, dropped.mem.trans mem, (dropped.gates core).trans (gates core),
    (congrArg (fun c : Ctx => c.traps.map PTrap.cls) (dropped.ctx core m.ctx)).trans traps, ?_, fun c hc => ?_⟩
  · rw [dropped.own, eng]; exact Eng.without_ended _ m
  · rw [dropped.own] at hc
    simpa using (List.mem_filter.1 hc).2

end

/-! ### O51 -/

/-- Settles O51: each packet by the branch of its arrival that its window and its way choose, and each answer by what it changes of the engine. -/
theorem fabricPackets : Obligations.FabricPackets := by
  refine ⟨fun i id core cmd tcore win off cnt bytes s found here alone => ⟨fun cut => congrArg _ (putArrival_cutOff found alone cut),
      fun way none => congrArg _ (putArrival_unopened found alone way none),
      fun w way opened outside => congrArg _ (putArrival_outside found alone way opened outside),
      fun w pa x s1 way opened arrives short => ⟨_, exec_putArrival i s, putArrival_endsShort found here alone way opened arrives short⟩,
      fun w pa x s1 way opened arrives last => ⟨_, exec_putArrival i s, putArrival_lands found here alone way opened arrives last⟩,
      fun w pa x s1 way opened arrives counted part => ⟨_, exec_putArrival i s, putArrival_waits found alone way opened arrives counted part⟩⟩,
    fun i core win n cmd m w s found waits opened => ⟨_, exec_putAckArrival i s, putAckArrival_counts found waits opened⟩,
    fun i id core cmd tcore win off n s found here alone => ⟨fun cut => congrArg _ (getRequestArrival_cutOff found here alone cut),
      fun way none => congrArg _ (getRequestArrival_unopened found here alone way none),
      fun w way opened outside pos => congrArg _ (getRequestArrival_outside found here alone way opened outside pos), ?_, ?_⟩,
    fun i core cmd bs s found way => ⟨_, exec_getReplyArrival i s, ?_⟩,
    fun i core cmd tcore win off op n b s found here alone => ⟨fun cut => congrArg _ (remoteAtomic_cutOff found here alone cut),
      fun way none => congrArg _ (remoteAtomic_unopened found here alone way none),
      fun w way opened => ⟨fun outside => congrArg _ (remoteAtomic_outside found here alone way opened outside),
        fun inside odd => congrArg _ (remoteAtomic_misaligned found here alone way opened inside odd)⟩⟩,
    fun i core cmd tcore win off op n b w pa x s s1 found here way opened size off_ base fits op_ arrives =>
      ⟨_, exec_remoteAtomicArrival i s, remoteAtomic_leaves found here way opened off_ base fits op_ arrives⟩,
    fun i core win cmd old n m w s found first opened => ⟨_, exec_remoteAtomicArrival i s, ramoReply_answers found first opened⟩,
    fun i core cmd cls off m s found first => ⟨_, exec_fabricRefusal i s, fabricRefusal_ends found first⟩⟩
  · intro w pa x s1 way opened arrives short
    have pos := arrives_pos arrives
    have ends := getRequestArrival_unit found here alone way opened (Nat.min_eq_right (by omega)) arrives
    rw [if_pos (by omega), max_eq_right (by omega)] at ends
    exact ⟨_, (exec_getRequestArrival i s).trans (congrArg _ ends), rfl, rfl⟩
  · intro w pa x s1 way opened arrives
    have within := arrives_within arrives
    have ends := getRequestArrival_unit found here alone way opened (Nat.min_eq_left (by omega)) arrives
    rw [if_neg (by omega)] at ends
    exact (exec_getRequestArrival i s).trans (congrArg _ ends)
  · obtain ⟨net, mem, ctxs, answered⟩ := getReplyArrival_answers found way
    refine ⟨net, mem, ctxs, fun m hm own => ?_⟩
    obtain ⟨ok, shape⟩ := answered m hm own
    exact ⟨ok, bytesVal bs, shape, fun j _ => bytesVal_byte bs j⟩

end Sys2Proof.Machine

/-!
O35: a collective enters the ring of F with its group and its length (R143, R324).
-/
namespace Sys2Proof.Machine
open Sys2Proof.Claims

/-! ### The collectives: their function code holds the element type's code (R324) -/

/-- A collective with the low bits of its function code: its effect, its words and whether it rounds. -/
structure CollCommand (fn : Nat) (o : BitVec 2 → FES → Tail → Instr) : Prop where
  effect : ∀ ty f t s, exec (o ty f t) s = appendColl (fn + 4 * ty.toNat) f t s
  word : ∀ ty f t, encode (o ty f t) = (pack (⟨2, BitVec.ofNat 2 fn⟩ :: ⟨2, ty⟩ :: (esPack 0x74 fn f).tail), encTail t)
  mode : ∀ ty f t, rounds (o ty f t) t = (fn == 0 && ty != 3)
  code : fn < 2 ^ 2

theorem collCmds_commands : ∀ o ∈ collCmds, ∃ fn, CollCommand fn o := by
  simp only [collCmds, List.forall_mem_cons, List.not_mem_nil, false_implies, implies_true, and_true]
  exact ⟨⟨0, fun _ _ _ _ => rfl, fun _ _ _ => rfl, fun _ _ _ => rfl, by decide⟩, ⟨1, fun _ _ _ _ => rfl, fun _ _ _ => rfl, fun _ _ _ => rfl, by decide⟩,
    ⟨2, fun _ _ _ _ => rfl, fun _ _ _ => rfl, fun _ _ _ => rfl, by decide⟩⟩

/-- The group that GR names is one of the pen's, so that its number has 12 bits (R272). -/
theorem groupOk_lt {s : State} {core n : Nat} (ok : s.groupOk core n = true) : n < 2 ^ 12 := by
  unfold State.groupOk at ok
  split at ok
  · cases ok
  · simp only [Bool.and_eq_true, decide_eq_true_eq] at ok
    omega

section
variable {fn : Nat} {o : BitVec 2 → FES → Tail → Instr} (h : CollCommand fn o) (ty : BitVec 2) (f : FES) (t : Tail) {s : State}
include h

/-- The first word of a collective is that of format ES with both codes in its function code. -/
theorem CollCommand.word_es : encode (o ty f t) = (pack (esPack 0x74 (fn + 4 * ty.toNat) f), encTail t) := by
  have code := h.code
  have type := ty.isLt
  refine (h.word ty f t).trans (congrArg (·, encTail t) (pack_join ?_ _))
  simp only [BitVec.toNat_ofNat]
  omega

/-- It takes a rounding mode when it is a sum of floats (R220). -/
theorem CollCommand.takesMode_eq : rounds (o ty f t) t = takesMode 0x74 (fn + 4 * ty.toNat) 0 t.esp.toNat := by
  have code := h.code
  have low : (fn + 4 * ty.toNat) % 4 = fn := by omega
  have high : (fn + 4 * ty.toNat) / 4 = ty.toNat := by omega
  have type : ∀ ty : BitVec 2, (ty != 3) = (ty.toNat != 3) := by decide
  rw [h.mode, type]
  simp [takesMode, low, high]

/-- What a collective needs at issue, and what it comes to. -/
theorem CollCommand.runs : exec (o ty f t) s =
    guard { p := f.p.toNat, words := 2, undef := tailUndef 0x74 (fn + 4 * ty.toNat) 0 t, xim := 2, rep := some (true, true, true, false),
            src := slotReads f true true true ++ [(t.esp.toNat / 32, decide (t.esp.toNat / 16 % 2 = 1))] } s
      (fun s =>
        if 2 ^ 20 ≤ (s.cur.rd f.sc.toNat).toNat ∨ !s.groupOk s.curCore (s.cur.rd (t.esp.toNat / 32)).toNat then trapCur 0x27 s
        else appendCur 4 (esWord 0x74 (fn + 4 * ty.toNat) f) t (slotA s.cur .scalar f.sa) (slotVal s.cur .scalar f.sb)
          ((s.cur.rd f.sc.toNat).toNat + (s.cur.rd (t.esp.toNat / 32)).toNat * 2 ^ 52) none s) := h.effect ty f t s

/-- With its length and its group in range, a collective enters the ring of F. -/
theorem CollCommand.issues (len : (s.cur.rd f.sc.toNat).toNat < 2 ^ 20)
    (ok : s.groupOk s.curCore (s.cur.rd (t.esp.toNat / 32)).toNat = true) :
    CommandIssues 4 (o ty f t)
      { p := f.p.toNat, words := 2, xim := 2, rep := some (true, true, true, false),
        src := slotReads f true true true ++ [(t.esp.toNat / 32, decide (t.esp.toNat / 16 % 2 = 1))] } t
      (slotAVal f true s) (s.cur.rd f.sb.toNat).toNat
      ((s.cur.rd f.sc.toNat).toNat + (s.cur.rd (t.esp.toNat / 32)).toNat * 2 ^ 52) none s := by
  have group := groupOk_lt ok
  have code := h.code
  have type := ty.isLt
  have word := h.word_es ty f t
  have w32 : pack (esPack 0x74 (fn + 4 * ty.toNat) f) < 2 ^ 32 := pack32 rfl
  rw [esWord_eq f (by decide) (by omega)] at word w32
  rw [show slotAVal f true s = slotA s.cur .scalar f.sa from slotAVal_eq f .scalar s]
  exact commandIssues (h.runs ty f t) (tailUndef_iff (h.takesMode_eq ty f t)) (if_neg (by simpa [ok] using len)) word w32 (slotA_lt ..) (BitVec.isLt _)
    (by omega)

/-- A length of 2^20 or more, or a group the pen may not use, traps. -/
theorem CollCommand.refuses (out : 2 ^ 20 ≤ (s.cur.rd f.sc.toNat).toNat ∨ s.groupOk s.curCore (s.cur.rd (t.esp.toNat / 32)).toNat = false)
    (ready : Ready { p := f.p.toNat, words := 2, xim := 2, rep := some (true, true, true, false),
                     src := slotReads f true true true ++ [(t.esp.toNat / 32, decide (t.esp.toNat / 16 % 2 = 1))] } s.cur)
    (good : TailGood (o ty f t) t) : exec (o ty f t) s = .next (trapCur 0x27 s) := by
  rw [command_runs (h.runs ty f t) (tailUndef_iff (h.takesMode_eq ty f t)) ready good, if_pos (by simpa using out)]

end

/-- Settles O35: a collective is a command of format ES whose function code holds its type, and appends where its length and group let it. -/
theorem collectivesIssue : Obligations.CollectivesIssue := by
  intro o ho ty f t s
  obtain ⟨fn, h⟩ := collCmds_commands o ho
  exact ⟨h.issues ty f t, h.refuses ty f t⟩

end Sys2Proof.Machine

/-!
O31 and O45, what they share: a pen's cut controller takes a request (R151, R154, R338, R398).
-/
namespace Sys2Proof.Machine
open Sys2Proof.Claims

/-- The instances that a request finds running in a pen (R154). -/
theorem running_iff {s : State} {pen num : Nat} :
    s.running pen num = true ↔ ∃ i ∈ s.insts, i.pen = pen ∧ i.num = num ∧ i.brkHeld = false := by
  simp [State.running, State.penInsts]

/-- A pen whose controller begins the stop that a request asks for. -/
def Pen.stopping (p : Pen) (value : Nat) (runs : Bool) : Pen :=
  { p with cutreq := BitVec.ofNat 128 value, cutBusy := true, cutDone := false, cutLate := false, cutNoinst := !runs, cutDecided := false,
           cutRestored := false, cutL := {} }

/-- A stop has begun in a pen: its controller holds the request, each of its cores has yet to report, and nothing else has changed. -/
structure Begins (pen value : Nat) (s t : State) : Prop where
  package : { t with cores := [], pens := [] } = { s with cores := [], pens := [] }
  own : t.pen pen = (s.pen pen).stopping value (s.running pen (value / 2 ^ 96))
  others : ∀ j, j ≠ pen → t.pen j = s.pen j
  cores : ∀ j, t.core j = if j ∈ (s.pen pen).cores then { s.core j with cut := {} } else s.core j

namespace Begins
variable {pen value : Nat} {s t : State} (h : Begins pen value s t)
include h

theorem mem : t.mem = s.mem := (congrArg State.mem h.package :)

theorem ctx (j y : Nat) : t.ctx j y = s.ctx j y := by
  rw [State.ctx, h.cores]
  split_ifs <;> rfl

theorem busy : (t.pen pen).cutBusy = true := by rw [h.own]; rfl

theorem cutreq (fits : value < 2 ^ 128) : (t.pen pen).cutreq.toNat = value := by
  rw [h.own]
  exact (BitVec.toNat_ofNat ..).trans (Nat.mod_eq_of_lt fits)

end Begins

/-! ### A request is refused, or its stop begins (R154) -/

theorem cutRequest_refused {s : State} {pen : Nat} (busy : (s.pen pen).cutBusy = true) (value : Nat) : s.cutRequest pen value = (false, s) :=
  if_pos busy

theorem cutRequest_begins {s : State} {pen value : Nat} (idle : (s.pen pen).cutBusy = false) (fits : value < 2 ^ 128) :
    ∃ t, s.cutRequest pen value = (true, t) ∧ Begins pen value s t := by
  have num : value / 2 ^ 96 % 2 ^ 32 = value / 2 ^ 96 := Nat.mod_eq_of_lt (by omega)
  refine ⟨_, if_neg (by simp [idle]), ?_⟩
  rw [num]
  have frame := foldl_modCore_frame (fun k => { k with cut := {} }) (s.pen pen).cores
    (s.setPen pen ((s.pen pen).stopping value (s.running pen (value / 2 ^ 96))))
  have pens (j : Nat) := (congrArg (State.pen · j) frame :)
  refine ⟨congrArg (fun t : State => { t with pens := [] }) frame, (pens pen).trans ?_, fun j away => (pens j).trans ?_, fun j => ?_⟩
  · exact (State.pen_setPen ..).trans (if_pos rfl)
  · exact (State.pen_setPen ..).trans (if_neg away)
  · exact core_foldl_modCore _ (s.pen pen).cores_nodup _ j

/-! ### The host's request, and what CUTACK tells of it (R398) -/

/-- A pen that has acknowledged a request of the host. -/
def Pen.acked (p : Pen) (bad accept : Bool) : Pen :=
  { p with cutackCount := (p.cutackCount + 1) % 2 ^ 32, cutackBad := bad, cutackAccept := accept }

section
variable {s : State} {pen value : Nat}

theorem cutHost_refused (fits : value < 2 ^ 128) (refused : value / 2 ^ 96 = 0 ∨ (s.pen pen).cutBusy = true) :
    s.cutHost pen value = s.setPen pen ((s.pen pen).acked (decide (value / 2 ^ 96 = 0)) false) := by
  have num : value / 2 ^ 96 % 2 ^ 32 = value / 2 ^ 96 := Nat.mod_eq_of_lt (by omega)
  have answer : (if decide (value / 2 ^ 96 = 0) = true then (false, s) else s.cutRequest pen value) = (false, s) := by
    by_cases bad : value / 2 ^ 96 = 0
    · exact if_pos (decide_eq_true bad)
    · exact (if_neg (by simpa using bad)).trans (cutRequest_refused (refused.resolve_left bad) value)
  simp only [State.cutHost, num, answer]
  rfl

theorem cutHost_begins (fits : value < 2 ^ 128) (good : value / 2 ^ 96 ≠ 0) (idle : (s.pen pen).cutBusy = false) :
    ∃ u, Begins pen value s u ∧ s.cutHost pen value = u.setPen pen ((u.pen pen).acked false true) := by
  have num : value / 2 ^ 96 % 2 ^ 32 = value / 2 ^ 96 := Nat.mod_eq_of_lt (by omega)
  obtain ⟨u, answer, begins⟩ := cutRequest_begins idle fits
  refine ⟨u, begins, ?_⟩
  simp only [State.cutHost, num, good, decide_false, Bool.false_eq_true, if_false, answer]
  rfl

end

end Sys2Proof.Machine

/-!
O31: `stop` asks the controller, which answers the context that waits (R151, R154, R338).
-/
namespace Sys2Proof.Machine
open Sys2Proof.Claims

/-! ### The instruction (R338) -/

/-- What `stop` needs at issue: its request is a pair of registers. -/
def stopNeed (f : FStop) : Need :=
  { p := f.p.toNat, undef := decide (f.a.toNat % 2 = 1), src := [(f.a.toNat, f.fa == 1), (f.a.toNat + 1, f.fa == 1)], pdst := [f.pd.toNat] }

/-- The 128 bits of its request. -/
def stopAsked (f : FStop) (s : State) : Nat := (s.cur.rd f.a.toNat).toNat + (s.cur.rd (f.a.toNat + 1)).toNat * 2 ^ 64

theorem exec_stop (f : FStop) (s : State) : exec (.stop f) s = execStop f s := rfl

section
variable {f : FStop} {s : State} (ready : Ready (stopNeed f) s.cur)
include ready

theorem stop_answered {n : Nat} (req : s.cur.req = some (7, n + 1)) :
    exec (.stop f) s = .next (s.setCur ((s.cur.wrP f.pd.toNat (decide (n = 1))).fall 1)) := by
  rw [exec_stop, execStop]
  refine (guard_ready _ ready).trans (congrArg _ ?_)
  simp only [req]
  exact fall_onCur 1 _ s

theorem stop_illegal (req : s.cur.req = none) (illegal : s.curCtx ≠ 3 ∨ stopAsked f s < 2 ^ 96) :
    exec (.stop f) s = .next (trapCur 0x27 s) := by
  rw [exec_stop, execStop]
  refine (guard_ready _ ready).trans (congrArg _ ?_)
  simp only [req]
  cases s.penOf s.curCore with
  | none => rfl
  | some pn => exact if_pos (illegal.imp_right fun low => Nat.div_eq_of_lt low)

variable (req : s.cur.req = none) (c3 : s.curCtx = 3) (named : 2 ^ 96 ≤ stopAsked f s) {pn : Nat} (pen : s.penOf s.curCore = some pn)
include req c3 named pen

/-- In c3, and with an instance named, `stop` waits for what its context has outstanding, and asks then. -/
theorem stop_legal : exec (.stop f) s =
    .next (if s.cur.drained = true then blockCur ((s.cutAsk pn (4 * s.curCore + 4) (stopAsked f s)).onCur (·.ask (.stop f) 7 0)) else blockCur s) := by
  have num : stopAsked f s / 2 ^ 96 ≠ 0 := by omega
  have legal : ¬(s.curCtx ≠ 3 ∨ stopAsked f s / 2 ^ 96 = 0) := not_or.2 ⟨not_not.2 c3, num⟩
  rw [exec_stop, execStop]
  refine (guard_ready _ ready).trans (congrArg _ ?_)
  simp only [req, pen]
  refine (if_neg legal).trans ?_
  cases drained : s.cur.drained with
  | false => rfl
  | true => rw [c3]; rfl

theorem stop_waits (held : s.cur.drained = false) : exec (.stop f) s = .next (blockCur s) := by
  rw [stop_legal ready req c3 named pen, if_neg (by simp [held])]

/-- The request stands at the pen's controller, and the context waits for its answer. -/
theorem stop_asks (drained : s.cur.drained = true) : exec (.stop f) s =
    .next ((s.cutAsk pn (4 * s.curCore + 4) (stopAsked f s)).setCur { s.cur with st := .blocked, req := some (7, 0), asked := some (.stop f) }) := by
  rw [stop_legal ready req c3 named pen, if_pos drained, blockCur, State.cur_onCur, State.onCur, State.setCur_setCur]
  rfl

end

/-! ### The answer (R151, R154) -/

section
variable {s : State} {pn core : Nat} (asked : (s.ctx core 3).req = some (7, 0))
include asked

/-- The context that waits at its `stop` hears what the controller makes of its request. -/
theorem cutAnswer_context {v : Nat} {ok : Bool} {u : State} (answer : s.cutRequest pn v = (ok, u)) (same : u.ctx core 3 = s.ctx core 3) :
    s.cutAnswer pn (4 * core + 4, v) = u.setCtx core 3 { s.ctx core 3 with req := some (7, if ok then 2 else 1) } := by
  have number : (4 * core + 3) / 4 = core := by omega
  have ctx : (4 * core + 3) % 4 = 3 := by omega
  have ends : s.cutAnswer pn (4 * core + 4, v) =
      (s.cutRequest pn v).2.modCtx ((4 * core + 3) / 4) ((4 * core + 3) % 4)
        (fun c => if c.req = some (askStop, 0) then { c with req := some (askStop, if (s.cutRequest pn v).1 then 2 else 1) } else c) := rfl
  rw [ends, answer, number, ctx, State.modCtx, same]
  exact congrArg (u.setCtx core 3) (if_pos asked)

theorem cutAnswer_refuses (busy : (s.pen pn).cutBusy = true) (v : Nat) :
    s.cutAnswer pn (4 * core + 4, v) = s.setCtx core 3 { s.ctx core 3 with req := some (7, 1) } :=
  cutAnswer_context asked (cutRequest_refused busy v) rfl

theorem cutAnswer_begins {v : Nat} (idle : (s.pen pn).cutBusy = false) (fits : v < 2 ^ 128) :
    ∃ u, Begins pn v s u ∧ s.cutAnswer pn (4 * core + 4, v) = u.setCtx core 3 { s.ctx core 3 with req := some (7, 2) } := by
  obtain ⟨u, answer, begins⟩ := cutRequest_begins idle fits
  exact ⟨u, begins, cutAnswer_context asked answer (begins.ctx core 3)⟩

end

/-! ### The requests of one tick (R338, R398) -/

theorem cutServe_hostFirst {s : State} {pn a v w : Nat} {p : Pen} (pens : s.pens = [(pn, p)]) (asks : p.cutAsks = [(a + 1, v), (0, w)]) :
    s.cutServe = ((s.setPen pn { p with cutAsks := [] }).cutHost pn w).cutAnswer pn (a + 1, v) := by
  have own : s.pen pn = p := by simp [State.pen, pens, mget]
  simp [State.cutServe, pens, asks, sortBy, insertBy, own]
  rfl

/-- Settles O31: the instruction by the cases of its request, the answer by `cutAnswer_refuses` and `cutAnswer_begins`, and the requests of one tick
by the order of `cutServe`. -/
theorem stopRequest : Obligations.StopRequest := by
  refine ⟨fun f s ready => ⟨fun n req => ?_, fun req => ⟨fun illegal => ?_, fun c3 named pn pen => ⟨fun held => ?_, fun drained => ?_⟩⟩⟩,
    fun s pn core v named fits asked => ⟨fun busy => ?_, fun idle => ?_⟩, fun s pn core v w p pens asks idle good fits asked => ?_⟩
  · exact ⟨_, stop_answered ready req, onlyCur_setCur s _, State.cur_setCur ..⟩
  · exact stop_illegal ready req illegal
  · exact stop_waits ready req c3 named pen held
  · refine ⟨_, stop_asks ready req c3 named pen drained, ?_, fun _ => rfl, ?_, State.cur_setCur ..⟩
    · exact (onlyCur_setCur (s.cutAsk pn (4 * s.curCore + 4) (stopAsked f s)) _).2.2
    · exact (State.pen_setPen ..).trans (if_pos rfl)
  · rw [cutAnswer_refuses asked busy]
    exact ⟨rfl, by rw [State.ctx_setCtx, if_pos ⟨rfl, rfl⟩]⟩
  · obtain ⟨u, begins, ends⟩ := cutAnswer_begins asked idle fits
    have noinst : (u.pen pn).cutNoinst = !s.running pn (v / 2 ^ 96) := by rw [begins.own]; rfl
    rw [ends]
    refine ⟨by rw [State.ctx_setCtx, if_pos ⟨rfl, rfl⟩], begins.mem, begins.busy, congrArg Pen.cutDone begins.own, begins.cutreq fits, ?_⟩
    rw [← running_iff]
    exact (congrArg (· = false) noinst).to_iff.trans (by simp)
  · have own : (s.setPen pn { p with cutAsks := [] }).pen pn = { p with cutAsks := [] } := (State.pen_setPen ..).trans (if_pos rfl)
    obtain ⟨u, begins, host⟩ := cutHost_begins (s := s.setPen pn { p with cutAsks := [] }) (pen := pn) fits (by omega) (by rw [own]; exact idle)
    have here : (u.setPen pn ((u.pen pn).acked false true)).pen pn = (u.pen pn).acked false true := (State.pen_setPen ..).trans (if_pos rfl)
    have waits : (u.setPen pn ((u.pen pn).acked false true)).ctx core 3 = s.ctx core 3 := begins.ctx core 3
    intro t
    have ends : t = _ := (cutServe_hostFirst pens asks).trans
      ((congrArg (State.cutAnswer · pn (4 * core + 4, v)) host).trans
        (cutAnswer_refuses (by rw [waits]; exact asked) (by rw [here]; exact begins.busy) v))
    have pen : t.pen pn = (u.pen pn).acked false true := by rw [ends]; exact here
    refine ⟨?_, ?_, ?_, ?_⟩
    · rw [pen]; exact begins.cutreq fits
    · rw [pen]; rfl
    · rw [pen, begins.own, own]; rfl
    · rw [ends, State.ctx_setCtx, if_pos ⟨rfl, rfl⟩]

end Sys2Proof.Machine

/-!
O45: the host's request at its register, its arrival at the cores, and the decision of L (R151, R152, R154, R155, R398).
-/
namespace Sys2Proof.Machine
open Sys2Proof.Claims

/-! ### CUTREQ (R398) -/

theorem regListed_cutreq {pen : Nat} (hp : pen < 16) : regListed (10 + pen) 0x90 = true ∧ regListed (10 + pen) 0x98 = true := by
  unfold regListed
  rw [if_neg (by omega), if_neg (by omega), if_pos (by omega), if_neg (by omega), if_neg (by omega), if_pos (by omega)]
  exact ⟨rfl, rfl⟩

/-- Both dwords of CUTREQ show to any master. -/
theorem hidden_cutreq (s : State) (master b : Nat) :
    s.hidden master b 0x90 false = false ∧ s.hidden master b 0x98 false = false := by
  have low : hiddenReg 0x90 = false := by decide
  have high : hiddenReg 0x98 = false := by decide
  simp [State.hidden, low, high]

/-- The low dwords of CUTREQ that stand for others than the host, or for other pens. -/
def State.otherLows (s : State) (pen : Nat) : List (Nat × Nat × Nat) := s.cutLow.filter (fun x => !(x.1 == pen && x.2.1 == 81))

/-- What the host's write of the low dword leaves: it stands until the high one comes. -/
def State.lowWritten (s : State) (pen low : Nat) : State := { s.unstage 81 with cutLow := s.otherLows pen ++ [(pen, 81, low)] }

/-- The low dword that stands for the host is the one written last. -/
theorem lowWritten_find (s : State) (pen low : Nat) :
    (s.lowWritten pen low).cutLow.find? (fun x => x.1 == pen && x.2.1 == 81) = some (pen, 81, low) := by
  have others : (s.otherLows pen).find? (fun x => x.1 == pen && x.2.1 == 81) = none :=
    List.find?_eq_none.2 fun x hx => by simpa only [Bool.not_eq_true, Bool.not_eq_true'] using (List.mem_filter.1 hx).2
  rw [State.lowWritten, List.find?_append, others]
  simp

/-- Whether the host reaches a register is not a matter of what it has written. -/
theorem hostReaches_lowWritten {s : State} {b off : Nat} (h : HostReaches b off s) (pen low : Nat) : HostReaches b off (s.lowWritten pen low) := by
  unfold HostReaches at *
  generalize regAddr b off = pa at *
  exact h

section
variable {s : State} {pen : Nat} (value : Nat) (hp : pen < 16)
include hp

/-- The host's write of the low dword. -/
theorem hostPut_cutreqLow (h : HostReaches (10 + pen) 0x90 s) : s.hostPut (10 + pen) 0x90 value = s.lowWritten pen (value % 2 ^ 64) := by
  rw [hostPut_reached value h (by omega) (by decide) (by decide) (regListed_cutreq hp).1]
  unfold State.blockWrite
  rw [(hidden_cutreq _ _ _).1, if_neg (by decide), if_neg (by omega), if_neg (by omega), if_pos (by omega)]
  dsimp only
  rw [if_neg (by decide), Nat.add_sub_cancel_left]
  rfl

/-- The host's write of the high dword asks for the stop, with the low one that stands. -/
theorem hostPut_cutreqHigh {low : Nat} (stands : s.cutLow.find? (fun x => x.1 == pen && x.2.1 == 81) = some (pen, 81, low))
    (h : HostReaches (10 + pen) 0x98 s) : s.hostPut (10 + pen) 0x98 value =
      ({ s.unstage 81 with cutLow := s.otherLows pen } : State).cutAsk pen 0 (low + value % 2 ^ 64 * 2 ^ 64) := by
  rw [hostPut_reached value h (by omega) (by decide) (by decide) (regListed_cutreq hp).2]
  unfold State.blockWrite
  rw [(hidden_cutreq _ _ _).2, if_neg (by decide), if_neg (by omega), if_neg (by omega), if_pos (by omega)]
  dsimp only
  have here : (s.unstage hostMaster).cutLow.find? (fun x => x.1 == pen && x.2.1 == hostMaster) = some (pen, 81, low) := stands
  rw [if_neg (by decide), Nat.add_sub_cancel_left, here]
  rfl

end

theorem exec_cutreqWrite (pen value : Nat) (s : State) : exec (.cutreqWrite pen value) s = execCutreqWrite pen value s := rfl

/-- The event writes both dwords, and the request stands at the controller. -/
theorem cutreqWrite_reached {s : State} {pen value : Nat} (on : s.powered = true) (hp : pen < 16) (fits : value < 2 ^ 128)
    (low : HostReaches (10 + pen) 0x90 s) (high : HostReaches (10 + pen) 0x98 s) :
    ∃ staged lows, exec (.cutreqWrite pen value) s = .next (({ s with staged := staged, cutLow := lows } : State).cutAsk pen 0 value) := by
  have halves : value % 2 ^ 64 + value / 2 ^ 64 % 2 ^ 64 * 2 ^ 64 = value := by omega
  rw [exec_cutreqWrite, execCutreqWrite, withPower_on on, if_pos hp, hostPut_cutreqLow _ hp low, Nat.mod_mod,
    hostPut_cutreqHigh _ hp (lowWritten_find s pen _) (hostReaches_lowWritten high pen _), halves]
  dsimp only [State.lowWritten, State.unstage]
  exact ⟨_, _, rfl⟩

/-! ### The answer to the host (R154, R398) -/

theorem cutAnswer_host (s : State) (pen value : Nat) : s.cutAnswer pen (0, value) = s.cutHost pen value := rfl

/-! ### The request reaches a core (R152, R155) -/

theorem exec_stopArrival (core : Nat) (s : State) : exec (.stopArrival core) s = .next (stopArrival core s) := rfl

section
variable {s : State} {core pn : Nat} (pen : s.penOf core = some pn)
include pen

theorem stopArrival_stays (stays : (s.pen pn).cutBusy = false ∨ (s.core core).cut.phase ≠ 0) : stopArrival core s = s := by
  simp only [stopArrival, pen]
  exact if_pos (stays.imp_left fun idle => by simp [idle])

/-- The core is bound to the instance that the stop names. -/
def State.runsNamed (s : State) (core pn : Nat) : Bool :=
  !(s.pen pn).cutNoinst && (s.core core).bind.any (fun b => b.inst == (s.pen pn).cutreq.toNat / 2 ^ 96)

/-- A core reports its floor, and what it takes as c; every other one stays as it was. -/
theorem stopArrival_reports (busy : (s.pen pn).cutBusy = true) (first : (s.core core).cut.phase = 0) :
    ∃ sheds, stopArrival core s = { s.setCore core { s.core core with
      cut := { phase := 1, floor := (s.core core).floor, named := s.runsNamed core pn,
               c := if s.runsNamed core pn then some (Coord.ofNat (s.pen pn).cutreq.toNat) else (s.core core).frontier } } with sheds := sheds } := by
  simp only [stopArrival, pen]
  rw [if_neg (by simp [busy, first])]
  exact State.traceShed_eq ..

end

theorem runsNamed_iff {s : State} {core pn : Nat} : s.runsNamed core pn = true ↔
    (s.pen pn).cutNoinst = false ∧ ∃ b, (s.core core).bind = some b ∧ b.inst = (s.pen pn).cutreq.toNat / 2 ^ 96 := by
  simp [State.runsNamed, Option.any_eq_true]

/-! ### The decision of L (R152, R155) -/

/-- The higher of two coordinates is one of them, and neither ranks above it. -/
theorem rank_max (a b : Coord) : a.rank ≤ (a.max b).rank ∧ b.rank ≤ (a.max b).rank ∧ (a.max b = a ∨ a.max b = b) := by
  unfold Coord.max
  split_ifs with less
  · exact ⟨less.le, le_rfl, .inr rfl⟩
  · exact ⟨le_rfl, not_lt.1 less, .inl rfl⟩

/-- The highest of c and the floors of a list is one of them, and none ranks above it. -/
theorem rank_foldl_optMax (l : List (Option Coord)) (c : Coord) :
    c.rank ≤ (l.foldl optMax c).rank ∧ (∀ f, some f ∈ l → f.rank ≤ (l.foldl optMax c).rank) ∧
      (l.foldl optMax c = c ∨ some (l.foldl optMax c) ∈ l) := by
  induction l generalizing c with
  | nil => exact ⟨le_rfl, fun f hf => absurd hf List.not_mem_nil, .inl rfl⟩
  | cons x l ih =>
    obtain ⟨low, floors, own⟩ := ih (optMax c x)
    cases x with
    | none => exact ⟨low, fun f hf => floors f ((List.mem_cons.1 hf).resolve_left nofun), own.imp_right (.tail _)⟩
    | some y =>
      obtain ⟨first, second, either⟩ := rank_max c y
      refine ⟨first.trans low, fun f hf => ?_, ?_⟩
      · rcases List.mem_cons.1 hf with e | hf
        · obtain rfl := Option.some.inj e
          exact second.trans low
        · exact floors f hf
      · rcases own with same | listed
        · rw [List.foldl_cons, same]
          exact either.imp_right fun e : optMax c (some y) = y => by rw [e]; exact .head _
        · exact .inr (.tail _ listed)

/-- Nothing has changed but the bindings of cores. -/
def BindsOnly (s t : State) : Prop :=
  { t with cores := [] } = { s with cores := [] } ∧ ∀ j, { t.core j with bind := none } = { s.core j with bind := none }

/-- The walkers' bounds that a decision sets are in the bindings (R153). -/
theorem cutN_bindsOnly (s : State) (pen : Nat) : BindsOnly s (s.cutN pen) := by
  unfold State.cutN
  extract_lets p open_
  split_ifs with undecided waits
  · exact ⟨rfl, fun _ => rfl⟩
  · exact ⟨rfl, fun _ => rfl⟩
  · refine ⟨rfl, fun j => (congrArg (fun c : Core => { c with bind := none })
      (mget_map_default (d := ({} : Core)) (fun q => ?_) (fun i => ?_) s.cores j)).trans ?_⟩
    all_goals
      dsimp only
      split_ifs <;> rfl

section
variable (s : State) (pen : Nat)

/-- The distributor's floor, where the stop names an instance. -/
def State.distFloor : Option Coord :=
  if (s.pen pen).cutNoinst then none else (s.inst? ((s.pen pen).cutreq.toNat / 2 ^ 96)).bind Inst.floor

/-- The floors that a decision takes: the distributor's, and those of the cores that run the named instance. -/
def State.stopFloors : List (Option Coord) :=
  s.distFloor pen :: ((s.pen pen).cores.filter (fun k => (s.core k).cut.named)).map (fun k => (s.core k).cut.floor)

/-- The bound of a stop. -/
def State.stopBound : Coord := (s.stopFloors pen).foldl optMax (Coord.ofNat (s.pen pen).cutreq.toNat)

variable {s pen}

theorem mem_stopFloors {f : Coord} : some f ∈ s.stopFloors pen ↔
    ((s.pen pen).cutNoinst = false ∧ ∃ i, s.inst? ((s.pen pen).cutreq.toNat / 2 ^ 96) = some i ∧ i.floor = some f) ∨
      ∃ k, k ∈ (s.pen pen).cores ∧ (s.core k).cut.named = true ∧ (s.core k).cut.floor = some f := by
  have dist : some f = s.distFloor pen ↔
      (s.pen pen).cutNoinst = false ∧ ∃ i, s.inst? ((s.pen pen).cutreq.toNat / 2 ^ 96) = some i ∧ i.floor = some f := by
    rw [eq_comm, State.distFloor]
    cases (s.pen pen).cutNoinst <;> simp [Option.bind_eq_some_iff]
  rw [State.stopFloors, List.mem_cons, dist]
  simp [and_assoc]

theorem exec_cutDecision (pen : Nat) (s : State) : exec (.cutDecision pen) s = .next (cutDecision pen s) := rfl

theorem cutDecision_waits (left : ∃ k ∈ (s.pen pen).cores, (s.core k).cut.phase = 0) : cutDecision pen s = s :=
  if_pos (.inr (.inr (by simpa using left)))

/-- What a decision leaves: the pen's controller has L, and each core its own bound. -/
structure Decides (s : State) (pen : Nat) (t : State) : Prop where
  mem : t.mem = s.mem
  pens : t.pen pen = { s.pen pen with cutL := s.stopBound pen, cutDecided := true,
                                      cutLate := decide ((Coord.ofNat (s.pen pen).cutreq.toNat).rank < (s.stopBound pen).rank) }
  ctx : ∀ j y, t.ctx j y = s.ctx j y
  bound : ∀ k ∈ (s.pen pen).cores, (t.core k).cut.phase = 2 ∧ ((s.core k).cut.named = true → (t.core k).cut.l = some (s.stopBound pen))

theorem cutDecision_decides (busy : (s.pen pen).cutBusy = true) (open_ : (s.pen pen).cutDecided = false)
    (all : ∀ k ∈ (s.pen pen).cores, (s.core k).cut.phase ≠ 0) : Decides s pen (cutDecision pen s) := by
  unfold cutDecision
  extract_lets p c floors dist l s1 s2
  have same : l = s.stopBound pen := rfl
  rw [if_neg (by simpa [p, busy, open_] using all)]
  obtain ⟨package, body⟩ := cutN_bindsOnly s2 pen
  have frame : { s2 with cores := [] } = { s1 with cores := [] } := foldl_modCore_frame _ p.cores s1
  have cores (j : Nat) : s2.core j = if j ∈ p.cores then _ else s1.core j := core_foldl_modCore _ p.cores_nodup s1 j
  have cut (j : Nat) : ((s2.cutN pen).core j).cut = (s2.core j).cut := (congrArg Core.cut (body j) :)
  refine ⟨(congrArg State.mem (package.trans frame) :), ?_, fun j y => ?_, fun k hk => ?_⟩
  · exact (congrArg (State.pen · pen) (package.trans frame)).trans ((State.pen_setPen ..).trans (if_pos rfl))
  · refine (congrArg (fun k : Core => k.ctx y) (body j)).trans ((congrArg (fun k : Core => k.ctx y) (cores j)).trans ?_)
    split_ifs <;> rfl
  · rw [cut, cores, if_pos hk]
    exact ⟨rfl, fun named => if_pos named⟩

end

/-- Settles O45: the host's request by `cutreqWrite_reached`, its answer by `cutHost_refused` and `cutHost_begins`, a core's report by
`stopArrival_reports`, and L by `rank_foldl_optMax`. -/
theorem stopDecided : Obligations.StopDecided := by
  refine ⟨fun pen value s on hp fits low high => ?_, fun pen value s fits => ?_, fun core pn s pen => ⟨fun stays => ?_, fun busy first => ?_⟩,
    fun pen s => ⟨fun left => ?_, fun busy undecided all => ?_⟩⟩
  · obtain ⟨staged, lows, asks⟩ := cutreqWrite_reached on hp fits low high
    exact ⟨_, asks, rfl, fun j away => (State.pen_setPen ..).trans (if_neg away), (State.pen_setPen ..).trans (if_pos rfl)⟩
  · intro p num ok
    rw [cutAnswer_host]
    by_cases taken : ok
    · obtain ⟨good, idle⟩ := taken
      obtain ⟨u, begins, ends⟩ := cutHost_begins fits good idle
      have own : (s.cutHost pen value).pen pen = (p.stopping value (s.running pen num)).acked false true := by
        rw [ends, State.pen_setPen, if_pos rfl, begins.own]
      have others (j : Nat) (away : j ≠ pen) : (s.cutHost pen value).pen j = s.pen j := by
        rw [ends, State.pen_setPen, if_neg away, begins.others j away]
      have cut (c : Nat) (hc : c ∈ p.cores) : ((s.cutHost pen value).core c).cut = {} := by
        rw [ends]; exact congrArg Core.cut ((begins.cores c).trans (if_pos hc))
      refine ⟨by rw [ends]; exact begins.mem, fun j y => by rw [ends]; exact begins.ctx j y, others, ?_⟩
      rw [own]
      exact ⟨rfl, rfl, (decide_eq_false good).symm, (decide_eq_true ⟨good, idle⟩).symm, absurd ⟨good, idle⟩, fun _ => ⟨rfl, rfl, rfl, rfl, rfl, cut⟩⟩
    · have refused : num = 0 ∨ p.cutBusy = true := by simpa [ok, or_iff_not_imp_left] using taken
      have own : (s.cutHost pen value).pen pen = p.acked (decide (num = 0)) false := by
        rw [cutHost_refused fits refused, State.pen_setPen, if_pos rfl]
      have others (j : Nat) (away : j ≠ pen) : (s.cutHost pen value).pen j = s.pen j := by
        rw [cutHost_refused fits refused, State.pen_setPen, if_neg away]
      have ends : s.cutHost pen value = s.setPen pen (p.acked (decide (num = 0)) false) := cutHost_refused fits refused
      intro t
      rw [own]
      exact ⟨(congrArg State.mem ends :), fun j y => (congrArg (State.ctx · j y) ends :), others, rfl, rfl, rfl, (decide_eq_false taken).symm,
        fun _ => ⟨rfl, rfl, rfl, (congrArg State.cores ends :)⟩, fun h => absurd h taken⟩
  · rw [exec_stopArrival, stopArrival_stays pen stays]
  · obtain ⟨sheds, ends⟩ := stopArrival_reports pen busy first
    have own : (stopArrival core s).core core = _ := (congrArg (State.core · core) ends).trans ((State.core_setCore ..).trans (if_pos rfl))
    refine ⟨_, exec_stopArrival core s, ?_, fun j away => ?_, ?_, ?_, ?_, fun named => ?_, fun other => ?_⟩
    · rw [ends]; rfl
    · rw [ends]; exact (State.core_setCore ..).trans (if_neg away)
    · rw [own]
    · rw [own]
    · rw [own]
    · rw [own]; exact if_pos (runsNamed_iff.2 named)
    · rw [own]; exact if_neg fun named => other (runsNamed_iff.1 named)
  · rw [exec_cutDecision, cutDecision_waits left]
  · have decides := cutDecision_decides busy undecided all
    obtain ⟨low, floors, own⟩ := rank_foldl_optMax (s.stopFloors pen) (Coord.ofNat (s.pen pen).cutreq.toNat)
    refine ⟨_, exec_cutDecision pen s, decides.mem, decides.ctx, ?_⟩
    rw [decides.pens]
    refine ⟨rfl, low, fun k f floor => floors f (mem_stopFloors.2 (.inr ⟨k, floor⟩)), fun f floor => floors f (mem_stopFloors.2 (.inl floor)), ?_,
      decide_eq_true_iff, decides.bound⟩
    exact own.imp_right fun listed => (mem_stopFloors.1 listed).symm

end Sys2Proof.Machine

/-!
SUPPORT. O12, O52: the operations of a group, and how its generation ends (R176 to R178).
-/
namespace Sys2Proof.Machine
open Sys2Proof.Claims

/-! ### A group (R176 to R178) -/

/-- What a group whose generation ends becomes: the leaves and joins applied, nobody arrived; dissolved when it keeps no member. -/
def Grp.next (g : Grp) : Grp :=
  let ms := g.members.filter (fun x => !g.leaves.contains x) ++ g.joins
  if ms = [] then {} else { gen := (g.gen + 1) % 2 ^ 16, members := ms }

theorem contains_eq_false_iff {l : List Nat} {m : Nat} : l.contains m = false ↔ m ∉ l := by simp

theorem mem_of_isMember {g : Grp} {m : Nat} (h : g.isMember m = true) : m ∈ g.members := List.contains_iff_mem.1 h
theorem not_mem_of_isMember {g : Grp} {m : Nat} (h : g.isMember m = false) : m ∉ g.members := contains_eq_false_iff.1 h

/-- Nobody but m is outstanding: every member has arrived once m has. -/
theorem arrived_of_not_outstanding {g : Grp} {m : Nat} (last : ¬Outstanding g m) {l : List Nat} (kept : g.arrived ⊆ l) (own : m ∈ l) :
    ∀ x ∈ g.members, x ∈ l := by
  intro x member
  by_contra out
  refine last ⟨x, member, fun e => out (e ▸ own), ?_⟩
  exact contains_eq_false_iff.2 fun there => out (kept there)

theorem Grp.complete_stays {g : Grp} (out : ∃ x ∈ g.members, x ∉ g.arrived) : g.complete = g := by
  obtain ⟨x, member, away⟩ := out
  refine if_neg ?_
  simp only [Bool.and_eq_true, List.all_eq_true, List.contains_iff_mem, not_and, not_forall]
  exact fun _ => ⟨x, member, away⟩

theorem Grp.complete_ends {g : Grp} {m : Nat} (member : m ∈ g.members) (all : ∀ x ∈ g.members, x ∈ g.arrived) : g.complete = g.next := by
  have some : g.members.isEmpty = false := by simpa using List.ne_nil_of_mem member
  refine (if_pos (by simpa [some] using all)).trans ?_
  simp only [Grp.next, List.isEmpty_iff]

theorem Grp.norm_of_member {g : Grp} {m : Nat} (member : m ∈ g.members) : g.norm = g := by
  have some : g.members.isEmpty = false := by simpa using List.ne_nil_of_mem member
  exact if_neg (by simp [some])

theorem Grp.norm_next (g : Grp) : g.next.norm = g.next := by
  unfold Grp.next
  dsimp only
  split_ifs with none
  · rfl
  · have some : (g.members.filter (fun x => !g.leaves.contains x) ++ g.joins).isEmpty = false := by simpa [List.isEmpty_iff] using none
    exact if_neg (by rw [some]; exact Bool.false_ne_true)

section
variable {g : Grp} {m : Nat}

theorem subset_adding (l : List Nat) : l ⊆ adding m l := by
  unfold adding; split_ifs <;> simp
theorem mem_adding (l : List Nat) : m ∈ adding m l := by
  unfold adding; split_ifs with h
  · exact List.contains_iff_mem.1 h
  · simp
theorem mem_of_mem_adding {l : List Nat} {x : Nat} (h : x ∈ adding m l) (ne : x ≠ m) : x ∈ l := by
  unfold adding at h; split_ifs at h
  · exact h
  · simpa [ne] using h
theorem adding_new {l : List Nat} (h : l.contains m = false) : adding m l = l ++ [m] := by rw [adding, h]; rfl

/-- Joining a generation in which nobody has arrived, and one in which somebody has. -/
theorem Grp.join_now (none : g.arrived = []) : g.join m = { g with members := g.members ++ [m], joins := g.joins.filter (· != m) } := by
  rw [Grp.join, none]; rfl
theorem Grp.join_later (some : g.arrived ≠ []) : g.join m = { g with joins := adding m g.joins } := by
  rw [Grp.join, if_neg (by simpa using some), adding]; split_ifs <;> rfl

/-- A leave or an arrival while another member is outstanding, and one that is the last. -/
theorem Grp.leave_stays (member : m ∈ g.members) (out : Outstanding g m) :
    g.leave m = { g with leaves := adding m g.leaves, arrived := adding m g.arrived } := by
  obtain ⟨x, mx, ne, away⟩ := out
  let left : Grp := { g with leaves := adding m g.leaves, arrived := adding m g.arrived }
  have open_ : left.complete = left := Grp.complete_stays ⟨x, mx, fun there => contains_eq_false_iff.1 away (mem_of_mem_adding there ne)⟩
  exact (congrArg Grp.norm open_).trans (Grp.norm_of_member member)
theorem Grp.leave_ends (member : m ∈ g.members) (last : ¬Outstanding g m) :
    g.leave m = ({ g with leaves := adding m g.leaves } : Grp).next := by
  let left : Grp := { g with leaves := adding m g.leaves, arrived := adding m g.arrived }
  have ended : left.complete = left.next :=
    Grp.complete_ends member (arrived_of_not_outstanding last (subset_adding _) (mem_adding _))
  exact (congrArg Grp.norm ended).trans (Grp.norm_next _)
theorem Grp.arrive_stays (out : Outstanding g m) : g.arrive m = { g with arrived := g.arrived ++ [m], plain := true } := by
  obtain ⟨x, mx, ne, away⟩ := out
  exact Grp.complete_stays ⟨x, mx, fun there => contains_eq_false_iff.1 away (by simpa [ne] using there)⟩
theorem Grp.arrive_ends (member : m ∈ g.members) (last : ¬Outstanding g m) : g.arrive m = g.next :=
  Grp.complete_ends member (arrived_of_not_outstanding last (List.subset_append_left ..) (by simp))

end

/-! ### Putting a group (R177, R178) -/

/-- What tells of a generation's end leaves: every context; of the package all but other parts of its cores, its packets and what its collectives
have kept. -/
def ToldOnly (s t : State) : Prop :=
  SameCtxs s t ∧ { t with cores := [], net := [], collKept := [] } = { s with cores := [], net := [], collKept := [] }

theorem ToldOnly.refl (s : State) : ToldOnly s s := ⟨fun _ _ => rfl, rfl⟩
theorem ToldOnly.trans {s t u : State} (h : ToldOnly s t) (k : ToldOnly t u) : ToldOnly s u := ⟨h.1.trans k.1, k.2.trans h.2⟩

theorem toldOnly_net (s : State) (net : List Pkt) : ToldOnly s { s with net := net } := ⟨fun _ _ => rfl, rfl⟩
theorem toldOnly_setCore (s : State) (i : Nat) {c : Core} (h : c.ctxs = (s.core i).ctxs) : ToldOnly s (s.setCore i c) :=
  ⟨sameCtxs_setCore s i h, rfl⟩
theorem toldOnly_commit (s : State) (core ctx : Nat) (k : Coord) : ToldOnly s (s.commit core ctx k) := by
  obtain ⟨c, e⟩ := commit_eq s core ctx k
  exact ⟨commit_sameCtxs s core ctx k, by rw [e]⟩

theorem toldOnly_giveColl (s : State) (n m : Nat) (parts : List Nat) : ToldOnly s (s.giveColl n m parts) := by
  unfold State.giveColl
  dsimp only
  split_ifs
  · exact toldOnly_setCore s _ rfl
  · exact ⟨fun _ _ => rfl, rfl⟩

theorem toldOnly_foldl {α : Type} {f : State → α → State} (each : ∀ s a, ToldOnly s (f s a)) (l : List α) (s : State) :
    ToldOnly s (l.foldl f s) := by
  induction l generalizing s with
  | nil => exact .refl s
  | cons a l ih => exact (each s a).trans (ih _)

theorem toldOnly_groupEnded (s : State) (n : Nat) (g g' : Grp) : ToldOnly s (s.groupEnded n g g') := by
  unfold State.groupEnded
  refine .trans (.trans (toldOnly_foldl (fun t m => ?_) g.members s) (toldOnly_foldl (fun t m => toldOnly_commit t _ _ _) _ _)) (toldOnly_net _ _)
  split
  · exact .refl t
  · split_ifs
    · exact toldOnly_net t _
    · exact toldOnly_giveColl t n m _

theorem putGrp_stays {s : State} {n : Nat} {g' : Grp} (gen : g'.gen = (s.grp n).gen) (members : g'.members = (s.grp n).members) :
    s.putGrp n g' = s.setGrp n g' := by
  refine if_neg ?_
  rw [gen, members]
  simp

/-- A group put with joins that nothing holds back: nothing else changes but what tells of it. -/
theorem putGrp_told {s : State} {n : Nat} {g' : Grp} (free : ∀ x ∈ (s.grp n).joins, s.joinBarred x = false) :
    ToldOnly (s.setGrp n g') (s.putGrp n g') := by
  have kept : (s.grp n).joins.filter s.joinBarred = [] := List.filter_eq_nil_iff.2 fun x hx => by simp [free x hx]
  unfold State.putGrp
  dsimp only
  rw [kept]
  split_ifs
  · exact toldOnly_groupEnded ..
  · exact .refl _

end Sys2Proof.Machine

/-!
O12: `join`, `leave`, `arrive` and `wait` (R175 to R178, R272, R367).
-/
namespace Sys2Proof.Machine
open Sys2Proof.Claims

theorem exec_join (f : FJ) (s : State) : exec (.join f) s = execJoin f s := rfl
theorem exec_leave (f : FJ) (s : State) : exec (.leave f) s = execLeave f s := rfl
theorem exec_arrive (f : FU) (s : State) : exec (.arrive f) s = execArrive f s := rfl
theorem exec_wait (f : FAB) (s : State) : exec (.wait f) s = execWait f s := rfl

/-! ### What a group operation changes -/

/-- Groups and packets may differ, and of the cores what holds no context. -/
def BesideGroups (s u : State) : Prop :=
  SameCtxs s u ∧ { u with cores := [], groups := [], net := [], collKept := [] } = { s with cores := [], groups := [], net := [], collKept := [] }

theorem besideGroups_setGrp (s : State) (n : Nat) (g : Grp) : BesideGroups s (s.setGrp n g) := ⟨fun _ _ => rfl, rfl⟩
theorem besideGroups_net (s : State) (net : List Pkt) : BesideGroups s { s with net := net } := ⟨fun _ _ => rfl, rfl⟩

theorem BesideGroups.told {s t u : State} (h : BesideGroups s t) (k : ToldOnly t u) : BesideGroups s u :=
  ⟨h.1.trans k.1, (congrArg (fun v : State => ({ v with groups := [] } : State)) k.2).trans h.2⟩

theorem BesideGroups.commitCur {s t : State} (h : BesideGroups s t) : BesideGroups s t.commitCur := h.told (toldOnly_commit ..)

theorem BesideGroups.cur {s u : State} (h : BesideGroups s u) : u.cur = s.cur := by
  have core : u.curCore = s.curCore := (congrArg State.curCore h.2 :)
  have ctx : u.curCtx = s.curCtx := (congrArg State.curCtx h.2 :)
  rw [State.cur, State.cur, core, ctx, h.1]

/-- The current context put back: what the claims call the frame of a group operation. -/
theorem BesideGroups.frame {s u : State} (h : BesideGroups s u) (c : Ctx) : GroupFrame s (u.setCur c) := by
  have core : u.curCore = s.curCore := (congrArg State.curCore h.2 :)
  have ctx : u.curCtx = s.curCtx := (congrArg State.curCtx h.2 :)
  refine ⟨fun j y away => ?_, fun a => ?_, h.2⟩
  · rw [State.ctx_setCur, core, ctx, if_neg away, h.1]
  · have mem : u.mem = s.mem := (congrArg State.mem h.2 :)
    exact congrArg (byteAt · a) mem

theorem BesideGroups.fall {s u : State} (h : BesideGroups s u) : fall 1 u = u.setCur (s.cur.fall 1) := by rw [fall_eq, h.cur]
theorem BesideGroups.blockCur {s u : State} (h : BesideGroups s u) : blockCur u = u.setCur { s.cur with st := .blocked } := by
  rw [Machine.blockCur, h.cur]
theorem BesideGroups.fall_wr {s u : State} (h : BesideGroups s u) (d : Nat) (x : Dword) :
    Machine.fall 1 (u.onCur (fun c => c.wr d x)) = u.setCur ((s.cur.wr d x).fall 1) := by rw [fall_onCur, h.cur]
theorem BesideGroups.blockCur_ask {s u : State} (h : BesideGroups s u) (i : Instr) (code : Nat) :
    Machine.blockCur (u.onCur (·.ask i code 0)) = u.setCur { s.cur with st := .blocked, req := some (code, 0), asked := some i } := by
  rw [Machine.blockCur, State.cur_onCur, State.onCur, State.setCur_setCur, h.cur]
  rfl

theorem groupIs_of_groups {s t : State} {n : Nat} {g : Grp} (h : t.groups = (s.setGrp n g).groups) : GroupIs n g s t := by
  have at_ (j : Nat) : t.grp j = (s.setGrp n g).grp j := by rw [State.grp, h]; rfl
  exact ⟨by rw [at_, State.grp_setGrp, if_pos rfl], fun j away => by rw [at_, State.grp_setGrp, if_neg away]⟩

@[simp] theorem commitCur_groups (s : State) : s.commitCur.groups = s.groups :=
  (congrArg State.groups (toldOnly_commit s s.curCore s.curCtx s.cur.k).2 :)
@[simp] theorem commit_net (s : State) (core ctx : Nat) (k : Coord) : (s.commit core ctx k).net = s.net := by
  obtain ⟨c, e⟩ := commit_eq s core ctx k
  rw [e]

/-! ### What lets a group operation go (R175, R178, R272) -/

section
variable {s : State} {n : Nat}

theorem groupCur_goes {rel : Bool} (k : State → State) (held : GroupHeld n s) (done : rel = true → s.cur.drained = true) :
    groupCur rel n s k = k s := by
  obtain ⟨ok, free, leaves⟩ := held
  refine (if_neg (by simp [ok])).trans ((heldCur_goes _ free done).trans ?_)
  exact if_neg (by simp [leaves])

/-- An arrival is a release. -/
theorem groupCur_waits (k : State → State) (held : GroupHeld n s) (left : s.cur.drained = false) : groupCur true n s k = blockCur s :=
  (if_neg (by simp [held.1])).trans (heldCur_waits _ held.2.1 left)

theorem giveUp_nothing (new : s.cur.req = none) : giveUp s = s := by
  rw [giveUp, State.withdrawReq]
  rw [State.cur] at new
  rw [new]
  rfl

/-- A group of another package: the home is asked, where it is reached. -/
theorem groupAsk_asks {i : Instr} {what : Nat} (reaches : s.reachable (dieOf s.curCore) (s.groupHome s.curCore n) = true)
    (new : ∀ x, s.cur.req ≠ some (x, 0)) : AsksHome i n what what s (groupAsk i what n s) := by
  let net := s.net ++ [Pkt.groupMsg n (s.member s.curCore s.curCtx) what]
  have beside := besideGroups_net s net
  have ask : groupAsk i what n s = ({ s with net := net } : State).setCur { s.cur with st := .blocked, req := some (what, 0), asked := some i } := by
    refine (if_neg (by simp [reaches])).trans ?_
    split
    · next x asked => exact absurd asked (new x)
    · exact beside.blockCur_ask i what
  rw [ask]
  exact ⟨beside.frame _, fun _ => rfl, rfl, State.cur_setCur ..⟩

theorem groupAsk_unreached {i : Instr} {what : Nat} (away : ¬s.reachable (dieOf s.curCore) (s.groupHome s.curCore n) = true)
    (new : s.cur.req = none) : groupAsk i what n s = trapCur 0x24 s :=
  (if_pos (by simpa using away)).trans (by rw [giveUp_nothing new])

end

/-! ### `join` (R178, R272) -/

theorem exec_join_goes {f : FJ} {s : State} (ready : Ready { p := f.p.toNat, src := [(f.a.toNat, f.fa == 1)] } s.cur)
    (held : GroupHeld (s.cur.rd f.a.toNat).toNat s) : exec (.join f) s = .next (joinCur (.join f) (s.cur.rd f.a.toNat).toNat s) := by
  rw [exec_join, execJoin]
  exact (guard_ready _ ready).trans (congrArg _ (groupCur_goes _ held Bool.noConfusion))

section
variable {s : State} {n m : Nat} {g : Grp} {i : Instr} (at_ : s.grp n = g) (own : s.member s.curCore s.curCtx = m)
include at_ own

/-- A member's `join`, and a ninth membership. -/
theorem joinCur_illegal (new : s.cur.req = none) (h : g.members.contains m = true ∨ 8 ≤ s.memberships m) : joinCur i n s = trapCur 0x27 s := by
  have bad : (g.isMember m || decide (8 ≤ s.memberships m)) = true := by simpa [Grp.isMember] using h
  simp [joinCur, at_, own, new, bad]

section
variable (out : m ∉ g.members)
include out

theorem joinCur_asks (new : s.cur.req = none) (few : s.memberships m < 8) (remote : s.remoteGroup s.curCore n = true) :
    joinCur i n s = groupAsk i 0 n s := by
  simp [joinCur, at_, own, new, out, Nat.not_le.2 few, remote, Grp.isMember]

theorem joinCur_joins (new : s.cur.req = none) (few : s.memberships m < 8) (home : s.remoteGroup s.curCore n = false) (none : g.arrived = []) :
    joinCur i n s = fall 1 (s.setGrp n { g with members := g.members ++ [m], joins := g.joins.filter (· != m) }).commitCur := by
  simp [joinCur, at_, own, new, out, Nat.not_le.2 few, home, Grp.join_now none, Grp.isMember]

theorem joinCur_defers (new : s.cur.req = none) (few : s.memberships m < 8) (home : s.remoteGroup s.curCore n = false) (some : g.arrived ≠ []) :
    joinCur i n s = blockCur ((s.setGrp n { g with joins := adding m g.joins }).onCur (·.ask i 0 0)) := by
  simp [joinCur, at_, own, new, out, Nat.not_le.2 few, home, Grp.join_later some, Grp.isMember]

/-- One that waits finds itself no member yet. -/
theorem joinCur_waits (asked : s.cur.req = some (0, 0)) (home : s.remoteGroup s.curCore n = false) (some : g.arrived ≠ []) :
    joinCur i n s = blockCur (s.setGrp n { g with joins := adding m g.joins }) := by
  simp [joinCur, at_, own, asked, out, home, Grp.join_later some, Grp.isMember]

end

/-- One whose membership has come goes on. -/
theorem joinCur_joined (asked : s.cur.req = some (0, 0)) (home : s.remoteGroup s.curCore n = false) (member : m ∈ g.members) :
    joinCur i n s = fall 1 s := by
  simp [joinCur, at_, own, asked, home, Grp.isMember, member]

end

/-! ### `leave` (R178, R272) -/

/-- The home is not another package that is out of reach. -/
theorem not_astray {s : State} {n : Nat} (way : s.remoteGroup s.curCore n = true → s.reachable (dieOf s.curCore) (s.groupHome s.curCore n) = true) :
    (s.remoteGroup s.curCore n && !s.reachable (dieOf s.curCore) (s.groupHome s.curCore n)) = false := by
  cases remote : s.remoteGroup s.curCore n
  · rfl
  · simp [way remote]

section
variable {f : FJ} {s : State} {n : Nat} (ready : Ready { p := f.p.toNat, src := [(f.a.toNat, f.fa == 1)] } s.cur)
  (at_ : (s.cur.rd f.a.toNat).toNat = n) (held : GroupHeld n s)
include ready at_ held

theorem exec_leave_illegal (out : (s.grp n).members.contains (s.member s.curCore s.curCtx) = false) :
    exec (.leave f) s = .next (trapCur 0x27 s) := by
  rw [exec_leave, execLeave]
  refine (guard_ready _ ready).trans (congrArg _ ?_)
  rw [at_, groupCur_goes _ held Bool.noConfusion, Grp.isMember, out]
  rfl

variable (member : (s.grp n).members.contains (s.member s.curCore s.curCtx) = true)
include member

/-- The group's home is out of reach. -/
theorem exec_leave_unreached (remote : s.remoteGroup s.curCore n = true)
    (away : ¬s.reachable (dieOf s.curCore) (s.groupHome s.curCore n) = true) : exec (.leave f) s = .next (trapCur 0x24 s) := by
  rw [exec_leave, execLeave]
  refine (guard_ready _ ready).trans (congrArg _ ?_)
  rw [at_, groupCur_goes _ held Bool.noConfusion, Grp.isMember, member]
  simp [remote, away]

variable (way : s.remoteGroup s.curCore n = true → s.reachable (dieOf s.curCore) (s.groupHome s.curCore n) = true)
include way

/-- Behind no earlier access it takes effect at once. -/
theorem exec_leave_leaves (drained : s.cur.drained = true) :
    exec (.leave f) s = .next (fall 1 (s.leaveNow s.curCore s.curCtx n s.cur.k)) := by
  have here := not_astray way
  rw [exec_leave, execLeave]
  refine (guard_ready _ ready).trans (congrArg _ ?_)
  rw [at_, groupCur_goes _ held Bool.noConfusion, Grp.isMember, member]
  simp [here, drained]

/-- Behind one it takes its place in the list. -/
theorem exec_leave_issues (left : s.cur.drained = false) :
    ∃ a : Acc, a.op = .leave n ∧ a.rel = some 3 ∧ exec (.leave f) s = .next (s.setCur ((s.cur.issueAcc a).fall 1)) := by
  have here := not_astray way
  refine ⟨{ seq := 0, op := .leave n, rel := some 3, pc := s.cur.group, inst := (s.whoCtx s.curCore s.curCtx s.cur.group.toNat).inst,
            key := s.cur.k }, rfl, rfl, ?_⟩
  rw [exec_leave, execLeave]
  refine (guard_ready _ ready).trans (congrArg _ ?_)
  rw [at_, groupCur_goes _ held Bool.noConfusion, Grp.isMember, member]
  simp only [here, left, Bool.not_true, Bool.false_eq_true, if_false]
  exact fall_onCur 1 _ s

end

theorem leaveNow_remote {s : State} {core n : Nat} (ctx : Nat) (k : Coord) (remote : s.remoteGroup core n = true)
    (reaches : s.reachable (dieOf core) (s.groupHome core n) = true) :
    s.leaveNow core ctx n k = ({ s with net := s.net ++ [.groupMsg n (s.member core ctx) 1] } : State).commit core ctx k := by
  simp [State.leaveNow, remote, reaches]

theorem leaveNow_home {s : State} {core n : Nat} (ctx : Nat) (k : Coord) (home : s.remoteGroup core n = false) :
    s.leaveNow core ctx n k = (s.putGrp n ((s.grp n).leave (s.member core ctx))).commit core ctx k := by
  simp [State.leaveNow, home]

/-! ### `arrive` (R177, R179, R272) -/

theorem exec_arrive_guard {f : FU} {s : State} (ready : Ready { p := f.p.toNat, src := [(f.a.toNat, f.fa == 1)], dst := [f.d.toNat] } s.cur)
    (held : GroupHeld (s.cur.rd f.a.toNat).toNat s) (left : s.cur.drained = false) : exec (.arrive f) s = .next (blockCur s) := by
  rw [exec_arrive, execArrive]
  exact (guard_ready _ ready).trans (congrArg _ (groupCur_waits _ held left))

section
variable {f : FU} {s : State} {n : Nat} (ready : Ready { p := f.p.toNat, src := [(f.a.toNat, f.fa == 1)], dst := [f.d.toNat] } s.cur)
  (at_ : (s.cur.rd f.a.toNat).toNat = n) (held : GroupHeld n s) (drained : s.cur.drained = true)
include ready at_ held drained

theorem exec_arrive_illegal (out : (s.grp n).members.contains (s.member s.curCore s.curCtx) = false) :
    exec (.arrive f) s = .next (trapCur 0x27 (giveUp s)) := by
  rw [exec_arrive, execArrive]
  refine (guard_ready _ ready).trans (congrArg _ ?_)
  rw [at_, groupCur_goes _ held fun _ => drained]
  dsimp only
  rw [Grp.isMember, out]
  rfl

variable (member : (s.grp n).members.contains (s.member s.curCore s.curCtx) = true)
include member

/-- The answer of the group's home is the generation. -/
theorem exec_arrive_answered {x k : Nat} (remote : s.remoteGroup s.curCore n = true) (answer : s.cur.req = some (x, k + 1)) :
    exec (.arrive f) s = .next (fall 1 (s.commitCur.onCur (fun c => c.wr f.d.toNat (BitVec.ofNat 64 k)))) := by
  rw [exec_arrive, execArrive]
  refine (guard_ready _ ready).trans (congrArg _ ?_)
  rw [at_, groupCur_goes _ held fun _ => drained]
  dsimp only
  rw [Grp.isMember, member, remote, answer]
  rfl

theorem exec_arrive_asks (remote : s.remoteGroup s.curCore n = true) (new : s.cur.req = none) :
    exec (.arrive f) s = .next (groupAsk (.arrive f) 2 n s) := by
  rw [exec_arrive, execArrive]
  refine (guard_ready _ ready).trans (congrArg _ ?_)
  rw [at_, groupCur_goes _ held fun _ => drained]
  dsimp only
  rw [Grp.isMember, member, remote, new]
  rfl

variable (home : s.remoteGroup s.curCore n = false)
include home

/-- A second arrival in a generation waits. -/
theorem exec_arrive_again (there : (s.grp n).arrived.contains (s.member s.curCore s.curCtx) = true) : exec (.arrive f) s = .next (blockCur s) := by
  rw [exec_arrive, execArrive]
  refine (guard_ready _ ready).trans (congrArg _ ?_)
  rw [at_, groupCur_goes _ held fun _ => drained]
  dsimp only
  rw [Grp.isMember, member, home, there]
  rfl

theorem exec_arrive_arrives (first : (s.grp n).arrived.contains (s.member s.curCore s.curCtx) = false) :
    exec (.arrive f) s = .next (fall 1 ((s.putGrp n ((s.grp n).arrive (s.member s.curCore s.curCtx))).commitCur.onCur
      (fun c => c.wr f.d.toNat (BitVec.ofNat 64 (s.grp n).gen)))) := by
  rw [exec_arrive, execArrive]
  refine (guard_ready _ ready).trans (congrArg _ ?_)
  rw [at_, groupCur_goes _ held fun _ => drained]
  dsimp only
  rw [Grp.isMember, member, home, first]
  rfl

end

/-! ### `wait` (R177, R272, R367) -/

/-- What `wait` on group n for the end of generation v comes to. -/
def waitCur (i : Instr) (n v : Nat) (s : State) : State :=
  if s.remoteGroup s.curCore n then
    (match s.cur.req with
     | some (_, k + 1) => if k ≠ v then fall 1 s else groupAsk i askGen n s
     | _ => groupAsk i askGen n s)
  else if (s.grp n).gen ≠ v then fall 1 s
  else blockCur s

theorem exec_wait_goes {f : FAB} {s : State} (ready : Ready { p := f.p.toNat, src := [(f.a.toNat, f.fa == 1), (f.b.toNat, f.fb == 1)] } s.cur)
    (ok : s.groupOk s.curCore (s.cur.rd f.a.toNat).toNat = true) (stays : s.cutDrops s.curCore s.curCtx s.cur.k = false) :
    exec (.wait f) s = .next (waitCur (.wait f) (s.cur.rd f.a.toNat).toNat ((s.cur.rd f.b.toNat).toNat % 2 ^ 16) s) := by
  rw [exec_wait, execWait]
  refine (guard_ready _ ready).trans (congrArg _ ?_)
  dsimp only
  rw [ok, stays]
  rfl

section
variable {s : State} {n v : Nat} {i : Instr}

theorem waitCur_home (home : s.remoteGroup s.curCore n = false) : waitCur i n v s = if (s.grp n).gen ≠ v then fall 1 s else blockCur s := by
  rw [waitCur, home]; rfl

variable (remote : s.remoteGroup s.curCore n = true)
include remote

theorem waitCur_answered {x k : Nat} (answer : s.cur.req = some (x, k + 1)) :
    waitCur i n v s = if k ≠ v then fall 1 s else groupAsk i 6 n s := by
  rw [waitCur, remote, answer]; rfl

theorem waitCur_asks (new : s.cur.req = none) : waitCur i n v s = groupAsk i 6 n s := by
  rw [waitCur, remote, new]; rfl

end

/-! ### O12 -/

/-- A group that is put with joins that nothing holds back, when its generation ends: the state that the claims call completed. -/
theorem completed_of_told {s u : State} {n : Nat} {g : Grp} (c : Ctx) (leaves : List Nat)
    (told : ToldOnly (s.setGrp n ({ g with leaves := leaves } : Grp).next) u) : Completed n g leaves s (u.setCur c) :=
  groupIs_of_groups (congrArg State.groups told.2 :)

/-- Settles O12: each instruction by what it finds of its group, its home and its request; a generation that ends by `putGrp_told`. -/
theorem Groups.groups : Obligations.Groups := by
  unfold Obligations.Groups
  refine ⟨fun f s ready => ?_, fun f s ready => ?_, fun f s ready => ?_⟩
  · intro n m g reaches
    have at_ : s.grp n = g := rfl
    have own : s.member s.curCore s.curCtx = m := rfl
    have joins (held : GroupHeld n s) : exec (.join f) s = .next (joinCur (.join f) n s) := exec_join_goes ready held
    refine ⟨fun held new => ⟨fun bad => ?_, fun out few remote => ⟨fun way => ?_, fun away => ?_⟩,
        fun out few home => ⟨fun none => ?_, fun some => ?_⟩⟩,
      fun ⟨held, home⟩ asked => ⟨fun member => ?_, fun out some => ?_⟩,
      fun held => ⟨fun out => exec_leave_illegal ready rfl held out, fun member remote => ⟨fun way drained => ?_, fun away => ?_⟩⟩,
      fun ⟨held, home⟩ member => ?_⟩
    · rw [joins held, joinCur_illegal at_ own new bad]
    · rw [joins held, joinCur_asks at_ own (not_mem_of_isMember out) new few remote]
      exact ⟨_, rfl, groupAsk_asks way (by simp [new])⟩
    · rw [joins held, joinCur_asks at_ own (not_mem_of_isMember out) new few remote, groupAsk_unreached away new]
    · have beside := (besideGroups_setGrp s n { g with members := g.members ++ [m], joins := g.joins.filter (· != m) }).commitCur
      rw [joins held, joinCur_joins at_ own (not_mem_of_isMember out) new few home none, beside.fall]
      exact ⟨_, rfl, beside.frame _, State.cur_setCur .., groupIs_of_groups (commitCur_groups _)⟩
    · have beside := besideGroups_setGrp s n { g with joins := adding m g.joins }
      rw [joins held, joinCur_defers at_ own (not_mem_of_isMember out) new few home some, beside.blockCur_ask]
      exact ⟨_, rfl, beside.frame _, groupIs_of_groups rfl, State.cur_setCur ..⟩
    · rw [joins held, joinCur_joined at_ own asked home (mem_of_isMember member)]
      exact ⟨_, rfl, onlyCur_setCur s _, State.cur_setCur ..⟩
    · have beside := besideGroups_setGrp s n { g with joins := adding m g.joins }
      rw [joins held, joinCur_waits at_ own (not_mem_of_isMember out) asked home some, beside.blockCur]
      exact ⟨_, rfl, beside.frame _, groupIs_of_groups rfl, State.cur_setCur ..⟩
    · have beside := (besideGroups_net s (s.net ++ [.groupMsg n m 1])).told (toldOnly_commit _ s.curCore s.curCtx s.cur.k)
      rw [exec_leave_leaves ready rfl held member (fun _ => way) drained, leaveNow_remote _ _ remote way, beside.fall]
      refine ⟨_, rfl, beside.frame _, State.cur_setCur .., fun j => ?_, commit_net ..⟩
      exact (congrArg (State.grp · j) (toldOnly_commit ({ s with net := s.net ++ [.groupMsg n m 1] }) s.curCore s.curCtx s.cur.k).2 :)
    · exact exec_leave_unreached ready rfl held member remote away
    · have way : s.remoteGroup s.curCore n = true → s.reachable (dieOf s.curCore) (s.groupHome s.curCore n) = true := by simp [home]
      refine ⟨fun left => ?_, fun drained out => ?_, fun drained last free => ?_⟩
      · obtain ⟨a, op, rel, ex⟩ := exec_leave_issues ready rfl held member way left
        exact ⟨_, ex, onlyCur_setCur s _, a, op, rel, State.cur_setCur ..⟩
      · let g' : Grp := { g with leaves := adding m g.leaves, arrived := adding m g.arrived }
        have stays : s.putGrp n g' = s.setGrp n g' := putGrp_stays rfl rfl
        have beside := (besideGroups_setGrp s n g').told (toldOnly_commit _ s.curCore s.curCtx s.cur.k)
        rw [exec_leave_leaves ready rfl held member way drained, leaveNow_home _ _ home, own, at_,
          Grp.leave_stays (mem_of_isMember member) out, stays, beside.fall]
        exact ⟨_, rfl, beside.frame _, State.cur_setCur .., groupIs_of_groups (congrArg State.groups (toldOnly_commit _ _ _ _).2 :)⟩
      · let g' : Grp := ({ g with leaves := adding m g.leaves } : Grp).next
        have told := (putGrp_told (g' := g') free).trans (toldOnly_commit _ s.curCore s.curCtx s.cur.k)
        have beside := (besideGroups_setGrp s n _).told told
        rw [exec_leave_leaves ready rfl held member way drained, leaveNow_home _ _ home, own, at_,
          Grp.leave_ends (mem_of_isMember member) last, beside.fall]
        exact ⟨_, rfl, beside.frame _, State.cur_setCur .., completed_of_told _ _ told⟩
  · intro n m g reaches held
    have own : s.member s.curCore s.curCtx = m := rfl
    have at_ : s.grp n = g := rfl
    refine ⟨exec_arrive_guard ready held, exec_arrive_illegal ready rfl held,
      fun drained member remote => ⟨fun x k answer => ?_, fun new => ⟨fun way => ?_, fun away => ?_⟩⟩,
      fun drained member home => ⟨exec_arrive_again ready rfl held drained member home, fun first free => ?_⟩⟩
    · have beside : BesideGroups s s.commitCur := (besideGroups_net s s.net).commitCur
      rw [exec_arrive_answered ready rfl held drained member remote answer, beside.fall_wr]
      exact ⟨_, rfl, beside.frame _, State.cur_setCur ..⟩
    · rw [exec_arrive_asks ready rfl held drained member remote new]
      exact ⟨_, rfl, groupAsk_asks way (by simp [new])⟩
    · rw [exec_arrive_asks ready rfl held drained member remote new, groupAsk_unreached away new]
    · let u := s.putGrp n (g.arrive m)
      have told : ToldOnly (s.setGrp n (g.arrive m)) u.commitCur := (putGrp_told free).trans (toldOnly_commit u u.curCore u.curCtx u.cur.k)
      have beside := (besideGroups_setGrp s n _).told told
      have ex := (exec_arrive_arrives ready rfl held drained member home first).trans (congrArg _ (beside.fall_wr ..))
      have is : GroupIs n (g.arrive m) s (u.commitCur.setCur ((s.cur.wr f.d.toNat (BitVec.ofNat 64 g.gen)).fall 1)) :=
        groupIs_of_groups (congrArg State.groups told.2 :)
      refine ⟨_, ex, beside.frame _, State.cur_setCur .., fun out => ?_, fun last => ?_⟩
      · rw [← Grp.arrive_stays out]; exact is
      · rw [Grp.arrive_ends (mem_of_isMember member) last] at is; exact is
  · intro n reaches ok stays v
    have waits : exec (.wait f) s = .next (waitCur (.wait f) n v s) := exec_wait_goes ready ok stays
    refine ⟨fun home => ⟨fun ended => ?_, fun open_ => ?_⟩,
      fun remote => ⟨fun x k answer ended => ?_, fun x k answer open_ way => ?_, fun new => ⟨fun way => ?_, fun away => ?_⟩⟩⟩
    · rw [waits, waitCur_home home, if_pos ended]
      exact ⟨_, rfl, onlyCur_setCur s _, State.cur_setCur ..⟩
    · rw [waits, waitCur_home home, if_neg (not_not.2 open_)]
      exact ⟨_, rfl, onlyCur_setCur s _, State.cur_setCur ..⟩
    · rw [waits, waitCur_answered remote answer, if_pos ended]
      exact ⟨_, rfl, onlyCur_setCur s _, State.cur_setCur ..⟩
    · rw [waits, waitCur_answered remote answer, if_neg (not_not.2 open_)]
      exact ⟨_, rfl, groupAsk_asks way (by simp [answer])⟩
    · rw [waits, waitCur_asks remote new]
      exact ⟨_, rfl, groupAsk_asks way (by simp [new])⟩
    · rw [waits, waitCur_asks remote new, groupAsk_unreached away new]

end Sys2Proof.Machine

/-!
O52: a group whose members stand on several packages, at its home and at a member's package (R177, R178, R367).
-/
namespace Sys2Proof.Machine
open Sys2Proof.Claims

theorem exec_spanningGroupMessage (i : Nat) (s : State) : exec (.spanningGroupMessage i) s = .next (spanningGroupMessage i s) := rfl
theorem exec_spanningGroupCompletion (i : Nat) (s : State) : exec (.spanningGroupCompletion i) s = .next (spanningGroupCompletion i s) := rfl

/-! ### At the home -/

section
variable {i n m : Nat} {s : State} (home : s.homeHere n = true)
include home

/-- A member that nobody has joined yet, while nobody has arrived, joins at once and is told. -/
theorem spanningGroupMessage_joins (at_ : s.net[i]? = some (.groupMsg n m 0)) (out : (s.grp n).isMember m = false)
    (new : (s.grp n).joins.contains m = false) (none : (s.grp n).arrived = []) :
    spanningGroupMessage i s =
      ((s.takePkt i).setGrp n { s.grp n with members := (s.grp n).members ++ [m] }).send (.groupDone n (s.grp n).gen m 0) := by
  have others : (s.grp n).joins.filter (· != m) = (s.grp n).joins :=
    List.filter_eq_self.2 fun x hx => bne_iff_ne.2 fun e => contains_eq_false_iff.1 new (e ▸ hx)
  simp [spanningGroupMessage, at_, home, Grp.join_now none, others, Grp.isMember, not_mem_of_isMember out, contains_eq_false_iff.1 new]

/-- A question for the generation. -/
theorem spanningGroupMessage_tells (at_ : s.net[i]? = some (.groupMsg n m askGen)) :
    spanningGroupMessage i s = (s.takePkt i).send (.groupDone n (s.grp n).gen m askGen) := by
  simp [spanningGroupMessage, at_, home, askGen]

/-- An arrival of no member is dropped. -/
theorem spanningGroupMessage_stray (at_ : s.net[i]? = some (.groupMsg n m 2)) (out : (s.grp n).isMember m = false) :
    spanningGroupMessage i s = s.takePkt i := by
  simp [spanningGroupMessage, at_, home, askGen, out]

theorem spanningGroupMessage_arrives (at_ : s.net[i]? = some (.groupMsg n m 2)) (member : (s.grp n).isMember m = true)
    (first : (s.grp n).arrived.contains m = false) :
    spanningGroupMessage i s = ((s.takePkt i).send (.groupDone n (s.grp n).gen m 2)).putGrp n ((s.grp n).arrive m) := by
  simp [spanningGroupMessage, at_, home, askGen, member, contains_eq_false_iff.1 first]

theorem spanningGroupMessage_leaves (at_ : s.net[i]? = some (.groupMsg n m 1)) (member : (s.grp n).isMember m = true) :
    spanningGroupMessage i s = (s.takePkt i).putGrp n ((s.grp n).leave m) := by
  simp [spanningGroupMessage, at_, home, askGen, member]

end

/-! ### At a member's package -/

section
variable {i n gen m what : Nat} {s : State} (at_ : s.net[i]? = some (.groupDone n gen m what)) (here : s.foreign m = false)
include at_ here

/-- A leave has taken effect. -/
theorem spanningGroupCompletion_left (left : what = 1) :
    spanningGroupCompletion i s = (s.takePkt i).setGrp n { s.grp n with members := (s.grp n).members.filter (· != m) } := by
  simp [spanningGroupCompletion, at_, here, left]

/-- The answer to a join makes its context a member; one to another question leaves the group. -/
theorem spanningGroupCompletion_answers (asks : what = 0 ∨ what = 2 ∨ what = askGen)
    (asked : (s.ctx (m % 4096 / 4) (m % 4)).req = some (what, 0)) :
    ∃ g : Grp, (what = 0 → g.isMember m = true) ∧ (what ≠ 0 → g = s.grp n) ∧
      spanningGroupCompletion i s = ((s.takePkt i).setGrp n g).setCtx (m % 4096 / 4) (m % 4)
        { s.ctx (m % 4096 / 4) (m % 4) with req := some (what, gen + 1) } := by
  have told : ¬(what = 1 ∨ what = 3) := by unfold askGen at asks; omega
  have sets (g : Grp) : ((s.takePkt i).setGrp n g).modCtx (m % 4096 / 4) (m % 4)
      (fun c => if c.req = some (what, 0) then { c with req := some (what, gen + 1) } else c) =
        ((s.takePkt i).setGrp n g).setCtx (m % 4096 / 4) (m % 4) { s.ctx (m % 4096 / 4) (m % 4) with req := some (what, gen + 1) } :=
    congrArg _ (if_pos asked)
  refine ⟨{ s.grp n with members := if what = 0 ∧ !(s.grp n).members.contains m then (s.grp n).members ++ [m] else (s.grp n).members },
    fun join => ?_, fun other => ?_, ?_⟩
  · unfold Grp.isMember
    rw [join]
    split_ifs with out
    · simp
    · simpa using out
  · rw [if_neg fun e => other e.1]
  · rw [spanningGroupCompletion, at_]
    dsimp only
    rw [here, if_neg Bool.false_ne_true, if_neg told, if_neg (fun e => told (.inl e)), ← sets]

end

/-- Settles O52: at the home by the message, whose group is put while another member is outstanding (`putGrp_stays`); at a member's package by
what the answer says. -/
theorem spanningGroups : Obligations.SpanningGroups := by
  unfold Obligations.SpanningGroups
  refine ⟨fun i n m s at_ home => ?_, fun i n m s at_ home => ?_, fun i n m s at_ home => ?_, fun i n m s at_ home => ?_,
    fun i n gen m s at_ here => ?_, fun i n gen m what s at_ here asks => ?_⟩
  · refine ⟨fun out => ?_, fun member first out => ?_⟩
    · rw [exec_spanningGroupMessage, spanningGroupMessage_stray home at_ out]; rfl
    · rw [exec_spanningGroupMessage, spanningGroupMessage_arrives home at_ member first, Grp.arrive_stays out, putGrp_stays (by rfl) (by rfl)]
      exact ⟨_, rfl, (State.grp_setGrp ..).trans (if_pos rfl), rfl, rfl, rfl⟩
  · intro g out new none
    rw [exec_spanningGroupMessage, spanningGroupMessage_joins home at_ out new none]
    exact ⟨_, rfl, (State.grp_setGrp ..).trans (if_pos rfl), rfl, rfl, rfl⟩
  · rw [exec_spanningGroupMessage, spanningGroupMessage_tells home at_]; rfl
  · intro g member first new out
    rw [exec_spanningGroupMessage, spanningGroupMessage_leaves home at_ member, Grp.leave_stays (mem_of_isMember member) out, adding_new first,
      adding_new new, putGrp_stays (by rfl) (by rfl)]
    exact ⟨_, rfl, (State.grp_setGrp ..).trans (if_pos rfl), rfl, rfl, rfl⟩
  · rw [exec_spanningGroupCompletion, spanningGroupCompletion_left at_ here rfl]
    exact ⟨_, rfl, rfl, rfl, rfl, (State.grp_setGrp ..).trans (if_pos rfl)⟩
  · intro core ctx asked
    obtain ⟨g, joins, stays, ends⟩ := spanningGroupCompletion_answers at_ here asks asked
    have grp : ((((s.takePkt i).setGrp n g).setCtx core ctx { s.ctx core ctx with req := some (what, gen + 1) }).grp n) = g :=
      (State.grp_setGrp ..).trans (if_pos rfl)
    rw [exec_spanningGroupCompletion, ends]
    refine ⟨_, rfl, rfl, rfl, fun join => ?_, fun other => ?_, ?_, fun j y away => ?_⟩
    · rw [grp]; exact joins join
    · rw [grp]; exact stays other
    · exact (State.ctx_setCtx ..).trans (if_pos ⟨rfl, rfl⟩)
    · exact (State.ctx_setCtx ..).trans (if_neg away)

end Sys2Proof.Machine

/-!
O53: a link that goes out of service (R333, R367, R401, R404).
-/
namespace Sys2Proof.Machine

theorem exec_linkOutOfService {s : State} (n : Nat) (on : s.powered = true) : exec (.linkOutOfService n) s = .next (linkOut n s) := if_pos on

/-- The last fabric port in service is port 0. In its handler, c3 of core 0 waits at an `arrive` for the answer of a group's home at another
package. -/
def handlerAwaitsHome : State :=
  { powered := true, links := (0, {}) :: (List.range 35).map (fun j => (j + 1, { up := false })),
    cores := [(0, { ctxs := [(3, { st := .blocked, sys := true, tstat := 0x400000000000, req := some (2, 0),
                                   asked := some (.arrive { p := 0, d := 1, a := 2, fa := 0 }) })] })],
    net := [.groupMsg 5 3 2] }

/-- With port 0 the answer's way is gone: the `arrive` fails, a double trap of c3, whose record goes to the host with message 3. -/
theorem linkOut_handlerAwaitsHome : (linkOut 0 handlerAwaitsHome).msgs = [(3, 0, 0), (4, 0, 0)] := by decide

/-- Refutes O53: a link that goes out of service sends message 4, but not it alone. The group operations that find no port any more fail as it
goes (R367, R404); where one is that of a handler of c3, its trap is a double trap, and message 3 follows (R333, R401). -/
theorem not_linksAndPens : ¬ Obligations.LinksAndPens := by
  unfold Obligations.LinksAndPens
  intro h
  obtain ⟨-, goesOut, -, -⟩ := h.1 0 handlerAwaitsHome rfl (by decide)
  obtain ⟨t, ex, -, -, msgs, -⟩ := goesOut rfl
  rw [exec_linkOutOfService 0 rfl] at ex
  cases ex
  rw [linkOut_handlerAwaitsHome] at msgs
  exact absurd msgs (by decide)

end Sys2Proof.Machine

/-!
SUPPORT. O44: cores that take their queued steps (R166, R169, R359, R360), and bindings that end (R409).
-/
namespace Sys2Proof.Machine
open Sys2Proof.Claims

/-! ### A role context starts (R166, R169, R360) -/

/-- Registers from s2 on, loaded one after the other. -/
theorem rd_foldl_wr (v : Nat → Dword) (c : Ctx) (n m : Nat) :
    ((List.range n).foldl (fun c j => c.wr (2 + j) (v j)) c).rd m = if 2 ≤ m ∧ m < 2 + n then v (m - 2) else c.rd m := by
  induction n with
  | zero => exact (if_neg (by omega)).symm
  | succ n ih =>
    rw [List.range_succ, List.foldl_append, List.foldl_cons, List.foldl_nil, Ctx.rd_wr, ih]
    by_cases last : m = 2 + n
    · rw [if_pos ⟨last, by omega⟩, if_pos (by omega), last, Nat.add_sub_cancel_left]
    · rw [if_neg (fun e => last e.1)]
      exact if_congr (by omega) rfl rfl

theorem regsOnly_foldl_wr (v : Nat → Dword) (c : Ctx) (n : Nat) : RegsOnly c ((List.range n).foldl (fun c j => c.wr (2 + j) (v j)) c) := by
  induction n with
  | zero => rfl
  | succ n ih =>
    rw [List.range_succ, List.foldl_append]
    exact ih.trans (regsOnly_wr _ _ _)

/-- The argument registers of a body: s1, s2 to s9 and s10 to s12. -/
def Ctx.withArgs (c : Ctx) (r : Nat) : Ctx :=
  ((((List.range 8).foldl (fun c j => c.wr (2 + j) (dw (field r (576 + 64 * j) 64))) (c.wr 1 (dw (field r 1088 64)))).wr 10
    (dw (field r 224 16))).wr 11 (dw (field r 240 16))).wr 12 (dw (field r 256 16))

theorem regsOnly_withArgs (c : Ctx) (r : Nat) : RegsOnly c (c.withArgs r) :=
  ((((regsOnly_wr c 1 _).trans (regsOnly_foldl_wr _ _ 8)).trans (regsOnly_wr _ 10 _)).trans (regsOnly_wr _ 11 _)).trans (regsOnly_wr _ 12 _)

theorem rd_withArgs (c : Ctx) (r m : Nat) : (c.withArgs r).rd m =
    if m = 12 then dw (field r 256 16) else if m = 11 then dw (field r 240 16) else if m = 10 then dw (field r 224 16)
    else if 2 ≤ m ∧ m < 10 then dw (field r (576 + 64 * (m - 2)) 64) else if m = 1 then dw (field r 1088 64) else c.rd m := by
  simp only [Ctx.withArgs, Ctx.rd_wr, rd_foldl_wr (fun j => dw (field r (576 + 64 * j) 64))]
  simp

/-- What a started context holds. -/
structure Started (i : Inst) (x : Nat) (c d : Ctx) : Prop where
  runs : d.st = .running ∧ d.sys = false ∧ d.iter = 0
  entry : d.pc = BitVec.ofNat 64 (field i.record (320 + 64 * x) 64)
  space : d.spaceid = i.spaceid ∧ d.wb0 = i.wb0 ∧ d.wb1 = i.wb1
  home : d.home = field i.record (15 + 3 * x) 3
  stack : d.rd 1 = BitVec.ofNat 64 (field i.record 1088 64)
  args : ∀ j, j < 8 → d.rd (2 + j) = BitVec.ofNat 64 (field i.record (576 + 64 * j) 64)
  extents : ∀ j, j < 3 → d.rd (10 + j) = BitVec.ofNat 64 (field i.record (224 + 16 * j) 16)
  others : ∀ n, 13 ≤ n → d.rd n = c.rd n

theorem started (c : Ctx) (i : Inst) (b : Bind) (x : Nat) (conf : Bool) : Started i x c (c.start i b x conf) := by
  let c1 : Ctx := { c with
    pc := dw (opEntry i.record x), st := .running, why := .none, sys := false, conf := conf, home := opHome i.record x,
    spaceid := i.spaceid, wb0 := i.wb0, wb1 := i.wb1, pfx := {}, finished := false, req := none, wblk := none, landed := none }
  have start : c.start i b x conf = (c1.withArgs i.record).startIter b 0 := rfl
  have kept : RegsOnly c1 (c1.withArgs i.record) := regsOnly_withArgs c1 i.record
  have regs := rd_withArgs c1 i.record
  rw [start]
  generalize c1.withArgs i.record = w at kept regs
  have rd (m : Nat) : (w.startIter b 0).rd m = w.rd m := rfl
  refine ⟨⟨(congrArg Ctx.st kept :), (congrArg Ctx.sys kept :), rfl⟩, (congrArg Ctx.pc kept :),
    ⟨(congrArg Ctx.spaceid kept :), (congrArg Ctx.wb0 kept :), (congrArg Ctx.wb1 kept :)⟩, (congrArg Ctx.home kept :),
    ?_, fun j hj => ?_, fun j hj => ?_, fun n hn => ?_⟩ <;> rw [rd, regs]
  · rfl
  · rw [if_neg (by omega), if_neg (by omega), if_neg (by omega), if_pos (by omega), Nat.add_sub_cancel_left]; rfl
  · interval_cases j <;> rfl
  · rw [if_neg (by omega), if_neg (by omega), if_neg (by omega), if_neg (by omega), if_neg (by omega)]; rfl

/-- An update of each role context of a core, one after the other. -/
theorem ctx_foldl_modCtx (f : Nat → Ctx → Ctx) (s : State) (core y : Nat) :
    ([0, 1, 2].foldl (fun s x => s.modCtx core x (f x)) s).ctx core y = if y < 3 then f y (s.ctx core y) else s.ctx core y := by
  simp only [List.foldl_cons, List.foldl_nil, State.ctx_modCtx, true_and]
  rcases y with - | - | - | y <;> simp

theorem foldl_modCtx_frame (f : Nat → Ctx → Ctx) (s : State) (core : Nat) :
    let t := [0, 1, 2].foldl (fun s x => s.modCtx core x (f x)) s
    { t with cores := [] } = { s with cores := [] } ∧ { t.core core with ctxs := [] } = { s.core core with ctxs := [] } := by
  refine foldl_keeps (f := fun s x => s.modCtx core x (f x)) (P := fun t : State => { t with cores := [] } = { s with cores := [] } ∧
    { t.core core with ctxs := [] } = { s.core core with ctxs := [] }) (fun t x h => ⟨h.1, ?_⟩) [0, 1, 2] ⟨rfl, rfl⟩
  exact (t.core_setCtx_ctxs core x core _).trans h.2

/-! ### What the walker holds of a binding (R168, R345) -/

/-- The plan of a binding: its instance, what came before it, its depth, its steps and which have retired. -/
def Bind.plan (b : Bind) : Nat × Nat × Nat × List (Coord × Bool) := (b.inst, b.base, b.depth, b.steps.map fun x => (x.key, x.retired))

/-- Of a core only which steps have begun and N have changed, and of the package no memory and no pen. -/
structure WalkerOnly (core : Nat) (s t : State) : Prop where
  mem : t.mem = s.mem
  pens : t.pens = s.pens
  ctxs : SameCtxs s t
  stepq : (t.core core).stepq = (s.core core).stepq
  plan : (t.core core).bind.map Bind.plan = (s.core core).bind.map Bind.plan

theorem WalkerOnly.trans {core : Nat} {s t u : State} (h : WalkerOnly core s t) (k : WalkerOnly core t u) : WalkerOnly core s u :=
  ⟨k.mem.trans h.mem, k.pens.trans h.pens, h.ctxs.trans k.ctxs, k.stepq.trans h.stepq, k.plan.trans h.plan⟩

theorem plan_begun (b : Bind) (k : Coord) :
    Bind.plan { b with steps := b.steps.map (fun x => if x.key = k then { x with begun := true } else x) } = b.plan := by
  simp only [Bind.plan, List.map_map]
  congr 3
  refine List.map_congr_left fun x _ => ?_
  dsimp only [Function.comp]
  split_ifs <;> rfl

theorem walkerOnly_beginStep (s : State) (core i : Nat) : WalkerOnly core s (s.beginStep core i) := by
  have same : WalkerOnly core s s := ⟨rfl, rfl, fun _ _ => rfl, rfl, rfl⟩
  unfold State.beginStep
  split
  · exact same
  next b bound =>
    split
    · exact same
    next x _ =>
      split_ifs
      · exact same
      · obtain ⟨sheds, e⟩ := State.traceShed_eq (s.modCore core fun c => { c with bind := some { b with
          steps := b.steps.map (fun y => if y.key = x.key then { y with begun := true } else y) } }) core b.inst x.key 0xFFFF i 1 0
        rw [e]
        refine ⟨rfl, rfl, sameCtxs_setCore s core rfl, ?_, ?_⟩
        · exact (congrArg Core.stepq ((State.core_setCore s core core _).trans (if_pos rfl)) :)
        · refine (congrArg (fun c : Core => c.bind.map Bind.plan) ((State.core_setCore s core core _).trans (if_pos rfl)) :).trans ?_
          rw [bound]
          exact congrArg some (plan_begun b x.key)

theorem walkerOnly_reportN (s : State) (core num : Nat) : WalkerOnly core s (s.reportN num) := by
  have same : WalkerOnly core s s := ⟨rfl, rfl, fun _ _ => rfl, rfl, rfl⟩
  unfold State.reportN
  split
  · exact same
  · split_ifs
    · exact same
    · have at_ (j : Nat) := mget_map_default (g := fun c : Nat × Core => (c.1, { c.2 with bind := c.2.bind.map (fun b =>
        if b.inst = num ∧ b.n.isNone = true then { b with n := some (b.steps.length - b.base) } else b) })) (d := {})
        (fun _ => rfl) (fun _ => rfl) s.cores j
      refine ⟨rfl, rfl, sameCtxs_of_ctxs fun j => (congrArg Core.ctxs (at_ j) :), (congrArg Core.stepq (at_ core) :), ?_⟩
      refine (congrArg (fun c : Core => c.bind.map Bind.plan) (at_ core)).trans ?_
      show Option.map Bind.plan (Option.map _ (s.core core).bind) = _
      rw [Option.map_map]
      refine congrArg (Option.map · _) (funext fun b => ?_)
      dsimp only [Function.comp]
      split_ifs <;> rfl

/-! ### A core takes its queued steps (R166, R359, R363, R409) -/

/-- The steps that a core's queue holds of an instance. -/
def Core.queued (c : Core) (num : Nat) : List Step := (c.stepq.filter (fun q => q.1 == num)).map (fun q => { key := q.2.1, prio := q.2.2 })

/-- Their binding, and a core that has taken them. -/
def Core.binding (c : Core) (i : Inst) (num : Nat) : Bind := { inst := num, steps := c.queued num, depth := opStages i.record + 1 }
def Core.taken (c : Core) (i : Inst) (num : Nat) : Core :=
  { c with bind := some (c.binding i num), stepq := c.stepq.filter (fun q => q.1 != num),
           frInst := 0, frKey := {} }

/-- The package with them taken, and the role contexts started on their instance. -/
def State.takeQueued (s : State) (core : Nat) (i : Inst) (num : Nat) (conf : Bool) : State :=
  [0, 1, 2].foldl (fun t x => t.modCtx core x (fun c => c.start i ((s.core core).binding i num) x conf)) (s.setCore core ((s.core core).taken i num))

section
variable (s : State) (core : Nat) (i : Inst) (num : Nat) (conf : Bool)

theorem takeQueued_frame :
    { s.takeQueued core i num conf with cores := [] } = { s with cores := [] } ∧
      { (s.takeQueued core i num conf).core core with ctxs := [] } = { (s.core core).taken i num with ctxs := [] } := by
  obtain ⟨rest, own⟩ := foldl_modCtx_frame (fun x c => c.start i ((s.core core).binding i num) x conf)
    (s.setCore core ((s.core core).taken i num)) core
  exact ⟨rest, own.trans (congrArg (fun c : Core => ({ c with ctxs := [] } : Core)) ((State.core_setCore ..).trans (if_pos rfl)))⟩

theorem takeQueued_ctx (y : Nat) : (s.takeQueued core i num conf).ctx core y =
    if y < 3 then (s.ctx core y).start i ((s.core core).binding i num) y conf else s.ctx core y := by
  have same : (s.setCore core ((s.core core).taken i num)).ctx core y = s.ctx core y :=
    sameCtxs_setCore s core (c := (s.core core).taken i num) rfl core y
  exact (ctx_foldl_modCtx (fun x c => c.start i ((s.core core).binding i num) x conf) _ core y).trans (by rw [same])

end

/-- A core with nothing bound takes the steps of the instance at the head of its queue, outside any stop and any pre-emption. -/
theorem coreBind_takes {core pn num prio : Nat} {k : Coord} {rest : List (Nat × Coord × Nat)} {i : Inst} {s : State}
    (queue : (s.core core).stepq = (num, k, prio) :: rest) (pen : s.penOf core = some pn) (inst : s.inst? num = some i)
    (free : (s.core core).bind = none) (calm : (s.core core).pre = none) (noStop : (s.core core).cut.phase = 0)
    (idle : ∀ x, x < 3 → (s.ctx core x).st = .idle) (unsaved : ∀ a ∈ (s.pen pn).areas, a.inst ≠ num) (noArea : s.awaitsArea pn core = false)
    (notBusy : (s.pen pn).cutBusy = false) (notDone : (s.pen pn).cutDone = false) (on : s.started = true) :
    coreBind core s = (((s.takeQueued core i num (s.pen pn).conf).beginStep core 0).reportN num).cutN pn := by
  have none (a : Area) (ha : a ∈ (s.pen pn).areas) : (a.inst == num) = false := beq_false_of_ne (unsaved a ha)
  have saved : ((s.pen pn).areas.any fun a => a.inst == num && a.core == core &&
      (!(s.pen pn).cutDecided || a.steps.any (fun k => !beyond (some (s.pen pn).cutL) k))) = false :=
    List.any_eq_false.2 fun a ha => by simp [none a ha]
  have rests : (s.core core).atRest = true := by
    have ctxs (x : Nat) (hx : x < 3) : ((s.core core).ctx x).st = .idle := idle x hx
    simp [Core.atRest, free, calm, ctxs]
  have found : ((s.penOf core).bind fun pn => ((s.core core).stepq.find? (fun q =>
      (!((s.pen pn).areas.any fun a => a.inst == q.1 && a.core == core &&
        (!(s.pen pn).cutDecided || a.steps.any (fun k => !beyond (some (s.pen pn).cutL) k))) || s.leads pn core q.1) &&
      (!(s.pen pn).cutBusy || !(s.pen pn).cutNoinst && decide (q.1 = (s.pen pn).cutreq.toNat / 2 ^ 96)))).map (fun q => (q.1, pn))) =
        some (num, pn) := by
    rw [pen, queue, Option.bind_some, List.find?_cons_of_pos]
    · rfl
    · rw [saved, notBusy]; rfl
  have stays : (s.endBinding core) = s := by simp [State.endBinding, free]
  unfold coreBind
  dsimp only
  rw [found]
  dsimp only
  rw [inst]
  dsimp only
  refine (if_neg ?_).trans ?_
  · rw [saved, on, rests, noArea, notDone, notBusy]
    exact Bool.false_ne_true
  · have outside : ¬(s.core core).cut.phase ≥ 1 := by omega
    rw [free, stays, if_neg outside]
    rfl

/-- What the walker then holds, outside the decision of a stop. -/
theorem walkerOnly_taken {core pn num : Nat} {i : Inst} {s : State} (undecided : (s.pen pn).cutDecided = false) :
    WalkerOnly core (s.takeQueued core i num (s.pen pn).conf)
      ((((s.takeQueued core i num (s.pen pn).conf).beginStep core 0).reportN num).cutN pn) := by
  have walker := (walkerOnly_beginStep (s.takeQueued core i num (s.pen pn).conf) core 0).trans (walkerOnly_reportN _ core num)
  have pens := walker.pens.trans (congrArg State.pens (takeQueued_frame s core i num (s.pen pn).conf).1 :)
  have same (u : State) (h : u.pens = s.pens) : u.cutN pn = u := by
    have kept : u.pen pn = s.pen pn := by rw [State.pen, h]; rfl
    exact if_pos (by rw [kept, undecided]; rfl)
  rw [same _ pens]
  exact walker

/-- A binding with the plan of queued steps. -/
theorem plan_queued {b : Bind} {c : Core} {i : Inst} {num : Nat} (plan : b.plan = (c.binding i num).plan) :
    b.inst = num ∧ b.base = 0 ∧ b.depth = opStages i.record + 1 ∧
      b.steps.map Step.key = (c.stepq.filter (fun q => q.1 == num)).map (fun q => q.2.1) ∧
      b.steps.all (fun x => !x.retired) = true := by
  simp only [Bind.plan, Core.binding, Core.queued, Prod.mk.injEq, List.map_map] at plan
  obtain ⟨inst, base, depth, steps⟩ := plan
  have keys := congrArg (List.map Prod.fst) steps
  have retired := congrArg (List.map Prod.snd) steps
  simp only [List.map_map] at keys retired
  refine ⟨inst, base, depth, keys, List.all_eq_true.2 fun x hx => ?_⟩
  have listed : x.retired ∈ b.steps.map Step.retired := List.mem_map_of_mem hx
  rw [show b.steps.map Step.retired = _ from retired] at listed
  obtain ⟨q, -, e⟩ := List.mem_map.1 listed
  rw [← e]; rfl

end Sys2Proof.Machine

/-!
O44: from the bind of a core to the end of its instance (R166 to R171, R357 to R362, R407, R409).
-/
namespace Sys2Proof.Machine
open Sys2Proof.Claims

theorem exec_coreBind (core : Nat) (s : State) : exec (.coreBind core) s = .next (coreBind core s) := rfl
theorem exec_stepRetire (core : Nat) (s : State) : exec (.stepRetire core) s = .next (stepRetire core s) := rfl
theorem exec_instanceComplete (pen num : Nat) (s : State) : exec (.instanceComplete pen num) s = .next (instanceComplete pen num s) := rfl
theorem exec_priorityAgeing (pen num : Nat) (s : State) : exec (.priorityAgeing pen num) s = .next (priorityAgeing pen num s) := rfl

/-! ### A step retires (R148, R171) -/

/-- A binding with a step retired. -/
def Bind.retire (b : Bind) (k : Coord) : Bind := { b with steps := b.steps.map (fun y => if y.key = k then { y with retired := true } else y) }

section
variable {core : Nat} {b : Bind} {x : Step} {s : State} (bound : (s.core core).bind = some b) (oldest : b.oldest = some x)
include bound oldest

theorem stepRetire_unbegun (left : x.begun = false) : stepRetire core s = s := by
  unfold stepRetire
  dsimp only
  rw [bound]
  dsimp only
  rw [oldest]
  exact if_pos (by rw [left]; rfl)

/-- A step that every role context is past, and that no access and no command serves, is done. -/
theorem stepRetire_retires (noStop : (s.core core).cut.phase = 0) (begun : x.begun = true)
    (past : ∀ y, y < 3 → (s.ctx core y).past ((b.steps.filter Step.retired).length - b.base + b.depth - 1) = true ∧
      (s.ctx core y).serves b.inst x.key = false) (served : (s.core core).engHolds b.inst x.key = false) :
    ∃ (c : Core) (sheds : SMap Shed), c.ctxs = (s.core core).ctxs ∧ c.bind = some (freedPast (s.core core).rewind (b.retire x.key)) ∧
      stepRetire core s = { (s.setCore core c).modInst b.inst (fun i => { i with retired := i.retired + 1 }) with sheds := sheds } := by
  let b1 := b.retire x.key
  let c1 : Core := { s.core core with
    bind := some b1, frInst := if b1.frontier.isSome then b.inst else (s.core core).frInst, frKey := b1.frontier.getD (s.core core).frKey }
  have done : ((List.range 3).all fun y => ((s.core core).ctx y).past ((b.steps.filter Step.retired).length - b.base + b.depth - 1) &&
      !((s.core core).ctx y).serves b.inst x.key) = true :=
    List.all_eq_true.2 fun y hy => by
      obtain ⟨p, v⟩ := past y (List.mem_range.1 hy)
      rw [State.ctx] at p v
      rw [p, v]; rfl
  have retires : stepRetire core s =
      ((s.setCore core c1.rewindFree).modInst b.inst (fun i => { i with retired := i.retired + 1 })).traceShed core b.inst x.key 0xFFFF 0 2 0 := by
    unfold stepRetire
    dsimp only
    rw [bound]
    dsimp only
    rw [oldest]
    dsimp only
    rw [done, begun, served, noStop]
    rfl
  obtain ⟨sheds, e⟩ := State.traceShed_eq ((s.setCore core c1.rewindFree).modInst b.inst (fun i => { i with retired := i.retired + 1 }))
    core b.inst x.key 0xFFFF 0 2 0
  have frees := rewindFree_bound (c := c1) (b := b1) rfl
  exact ⟨c1.rewindFree, sheds, by rw [frees], by rw [frees], retires.trans e⟩

end

/-! ### Bindings end (R357, R409) -/

/-- Of the package only cores, and of those no context, and instances have changed. -/
def EndsOnly (s t : State) : Prop := { t with cores := [], insts := [] } = { s with cores := [], insts := [] } ∧ SameCtxs s t

/-- No binding of a core is one of the instance. -/
def Unbound (num core : Nat) (s : State) : Prop := ∀ b, (s.core core).bind = some b → b.inst ≠ num

/-- A binding that ends leaves its core with none, and the others theirs. -/
theorem endBinding_leaves (s : State) (core : Nat) :
    EndsOnly s (s.endBinding core) ∧ ∀ j, ((s.endBinding core).core j).bind = if j = core then none else (s.core j).bind := by
  unfold State.endBinding
  dsimp only
  split
  next free => exact ⟨⟨rfl, fun _ _ => rfl⟩, fun j => by split_ifs with own <;> [rw [own, free]; rfl]⟩
  next b bound =>
    let c : Core := { s.core core with bind := none, shadow := (s.core core).shadow.filter (fun e => e.inst != b.inst) }
    have ctxs : SameCtxs s (s.setCore core c) := sameCtxs_setCore s core rfl
    have own (j : Nat) : ((s.setCore core c).core j).bind = if j = core then none else (s.core j).bind := by
      rw [State.core_setCore]; split_ifs <;> rfl
    split
    · exact ⟨⟨rfl, ctxs⟩, own⟩
    · exact ⟨⟨rfl, ctxs⟩, own⟩

theorem EndsOnly.trans {s t u : State} (h : EndsOnly s t) (k : EndsOnly t u) : EndsOnly s u := ⟨k.1.trans h.1, h.2.trans k.2⟩

/-- One core's turn as an instance ends: its binding of the instance, and the steps that it has queued. -/
def State.unbindAt (num : Nat) (s : State) (core : Nat) : State :=
  let t := if (s.core core).bind.any (fun b => b.inst == num) then s.endBinding core else s
  t.modCore core (fun k => { k with stepq := k.stepq.filter (fun q => q.1 != num) })

theorem unbindAll_eq (s : State) (num : Nat) : s.unbindAll num = (s.cores.map Prod.fst).foldl (State.unbindAt num) s := by
  rw [List.foldl_map]; rfl

theorem unbindAt_leaves (num : Nat) (s : State) (core : Nat) :
    EndsOnly s (s.unbindAt num core) ∧ Unbound num core (s.unbindAt num core) ∧
      ∀ j, Unbound num j s → Unbound num j (s.unbindAt num core) := by
  let t := if (s.core core).bind.any (fun b => b.inst == num) then s.endBinding core else s
  have kept (j : Nat) : ((s.unbindAt num core).core j).bind = (t.core j).bind := by
    show ((t.modCore core _).core j).bind = _
    rw [State.modCore, State.core_setCore]; split_ifs with own <;> [rw [own]; rfl]
  have queue : EndsOnly t (s.unbindAt num core) := ⟨rfl, sameCtxs_setCore t core rfl⟩
  obtain ⟨ends, others⟩ := endBinding_leaves s core
  by_cases bound : (s.core core).bind.any (fun b => b.inst == num) = true
  · have here : t = s.endBinding core := if_pos bound
    rw [here] at queue kept
    refine ⟨ends.trans queue, fun b e => ?_, fun j free b e => ?_⟩
    · rw [kept, others, if_pos rfl] at e; cases e
    · rw [kept, others] at e
      split_ifs at e
      exact free b e
  · have here : t = s := if_neg bound
    rw [here] at queue kept
    refine ⟨queue, fun b e => ?_, fun j free b e => free b ((kept j).symm.trans e)⟩
    rw [kept] at e
    simpa [e] using bound

/-- Once every core has had its turn, none is bound to the instance. -/
theorem foldl_unbindAt (num : Nat) (l : List Nat) (s : State) :
    EndsOnly s (l.foldl (State.unbindAt num) s) ∧ (∀ j, j ∈ l ∨ Unbound num j s → Unbound num j (l.foldl (State.unbindAt num) s)) := by
  induction l generalizing s with
  | nil => exact ⟨⟨rfl, fun _ _ => rfl⟩, fun j h => h.resolve_left List.not_mem_nil⟩
  | cons core l ih =>
    obtain ⟨here, own, others⟩ := unbindAt_leaves num s core
    obtain ⟨rest, free⟩ := ih (s.unbindAt num core)
    refine ⟨here.trans rest, fun j h => free j ?_⟩
    rcases h with listed | before
    · rcases List.mem_cons.1 listed with rfl | later
      · exact .inr own
      · exact .inl later
    · exact .inr (others j before)

/-! ### An instance completes (R357) -/

section
variable {pen : Nat} {i : Inst} {s : State} (inst : s.inst? i.num = some i)
include inst

theorem instanceComplete_waits (h : i.pen ≠ pen ∨ i.wblk.isSome = true) : instanceComplete pen i.num s = s := by
  unfold instanceComplete
  rw [inst]
  exact if_pos h

theorem instanceComplete_runs (formed : i.entering = false) (unserved : i.serving = none) (open_ : i.ending = none)
    (left : i.retired ≠ i.total ∨ i.brkHeld = true) : instanceComplete pen i.num s = s := by
  unfold instanceComplete
  rw [inst]
  dsimp only
  rw [formed, unserved, open_, if_neg Bool.false_ne_true, ite_eq_left_iff]
  refine fun _ => if_neg fun done => ?_
  obtain ⟨all, free, -⟩ := done
  rcases left with short | held
  · exact short all
  · rw [held] at free; exact absurd free (by decide)

/-- With no descriptor and no completion record, an instance whose steps have all retired ends with its message. -/
theorem instanceComplete_ends (here : i.pen = pen) (way : i.wblk = none) (formed : i.entering = false) (unserved : i.serving = none)
    (open_ : i.ending = none) (all : i.retired = i.total) (free : i.brkHeld = false) (stands : s.undoes i.num = false) (impure : i.pure = false)
    (unrecorded : i.doneaddr = 0) : instanceComplete pen i.num s = ((s.intr pen i.intr i.num).unbindAll i.num).dropInst i.num := by
  have entry : s.makeEntry i = .ok () s := if_pos (by rw [impure]; rfl)
  have record (u : State) : u.writeDone i.pen (i.space (s.pen i.pen).conf) i.doneaddr i.intr statusDone i.num = .ok (u.intr pen i.intr i.num) := by
    rw [← here]; exact if_pos (.inl unrecorded)
  have ends : s.finish i statusDone = ((s.intr pen i.intr i.num).unbindAll i.num).dropInst i.num := by
    unfold State.finish
    rw [if_pos ⟨rfl, by rw [open_]; rfl⟩, entry]
    dsimp only
    rw [record]
  rw [← ends]
  unfold instanceComplete
  rw [inst]
  dsimp only
  rw [formed, unserved, open_, if_neg Bool.false_ne_true, if_neg (by simp [here, way])]
  exact if_pos ⟨all, by rw [free]; decide, by rw [stands]; decide⟩

end

/-! ### Priorities (R361, R362) -/

theorem inst?_num {s : State} {num : Nat} {i : Inst} (inst : s.inst? num = some i) : i.num = num := by
  simpa using List.find?_some inst

theorem find_modInst {s : State} {num : Nat} {i : Inst} (f : Inst → Inst) (keeps : ∀ i, (f i).num = i.num) (inst : s.inst? num = some i) :
    (s.modInst num f).inst? num = some (f i) := by
  have same : (fun j : Inst => (if j.num = num then f j else j).num == num) = fun j => j.num == num :=
    funext fun j => by split_ifs <;> simp [keeps]
  rw [State.inst?, State.modInst]
  dsimp only
  rw [List.find?_map]
  show Option.map _ (s.insts.find? (fun j : Inst => (if j.num = num then f j else j).num == num)) = _
  rw [same, show s.insts.find? (fun j => j.num == num) = some i from inst]
  exact congrArg some (if_pos (inst?_num inst))

theorem regListed_prioset {pen : Nat} (hp : pen < 16) : regListed (10 + pen) 0x80 = true := by
  unfold regListed
  rw [if_neg (by omega), if_neg (by omega), if_pos (by omega)]
  rfl

/-- The host's write that reaches PRIOSET, whose fields lie in its low 64 bits. -/
theorem exec_priosetWrite {s : State} {pen value : Nat} (on : s.powered = true) (hp : pen < 16) (h : HostReaches (10 + pen) 0x80 s) :
    exec (.priosetWrite pen value) s = .next (priosetWrite pen value (s.unstage 81)) := by
  have put : exec (.priosetWrite pen value) s = .next (s.hostPut (10 + pen) 0x80 value) := (if_pos on).trans (congrArg _ (if_pos hp))
  have low : priosetWrite pen (value % 2 ^ 64) (s.unstage 81) = priosetWrite pen value (s.unstage 81) := by
    simp only [priosetWrite, field_mod value 32 3 64 (by decide), Nat.mod_mod_of_dvd value (by decide : 2 ^ 32 ∣ 2 ^ 64)]
  have shown : (s.unstage hostMaster).hidden hostMaster (10 + pen) 0x80 false = false := by
    have reg : hiddenReg 0x80 = false := by decide
    simp [State.hidden, reg]
  rw [put, hostPut_reached value h (by omega) (by decide) (by decide) (regListed_prioset hp), ← low]
  unfold State.blockWrite
  rw [shown, if_neg (by decide), if_neg (by omega), if_neg (by omega), if_pos (by omega)]
  dsimp only
  rw [if_neg (by decide), Nat.add_sub_cancel_left]
  rfl

/-- Settles O44: a bind by the plan of the binding, which the walker keeps, and by `started`; a retirement by what `stepRetire` makes of the core; a
completion by the turn that each core has as the instance ends; priorities by what is found of the instance after its update. -/
theorem instancesRun : Obligations.InstancesRun := by
  unfold Obligations.InstancesRun
  refine ⟨?_, fun core b x s bound oldest noStop => ⟨fun left => ?_, fun begun past served => ?_⟩,
    fun pen i s inst => ⟨fun h => ?_, fun formed unserved open_ left => ?_, ?_⟩,
    fun pen num value i s inst here => ?_, fun pen value s on hp reached none => ?_⟩
  · intro core pn num prio k rest i s queue pen inst free calm noStop idle unsaved noArea notBusy notDone undecided on
    obtain ⟨frame, own⟩ := takeQueued_frame s core i num (s.pen pn).conf
    have walker := walkerOnly_taken (core := core) (num := num) (i := i) undecided
    rw [exec_coreBind, coreBind_takes queue pen inst free calm noStop idle unsaved noArea notBusy notDone on]
    generalize ((((s.takeQueued core i num (s.pen pn).conf).beginStep core 0).reportN num).cutN pn) = t at walker
    have plan : (t.core core).bind.map Bind.plan = some ((s.core core).binding i num).plan := by
      rw [walker.plan, (congrArg Core.bind own :)]; rfl
    obtain ⟨b, bound, plan⟩ := Option.map_eq_some_iff.1 plan
    obtain ⟨same, base, depth, keys, fresh⟩ := plan_queued plan
    have ctx (y : Nat) : t.ctx core y = _ := (walker.ctxs core y).trans (takeQueued_ctx s core i num (s.pen pn).conf y)
    refine ⟨t, b, rfl, walker.mem.trans (congrArg State.mem frame :), bound, same, base, depth, ?_, fresh, ?_,
      (ctx 3).trans (if_neg (by decide)), fun y hy => ?_⟩
    · rw [keys, queue]; simp
    · rw [walker.stepq, (congrArg Core.stepq own :)]
      show (s.core core).stepq.filter _ = _
      rw [queue]; simp
    · rw [ctx y, if_pos hy]
      obtain ⟨⟨st, sys, iter⟩, entry, ⟨spaceid, wb0, wb1⟩, home, stack, args, extents, others⟩ :=
        started (s.ctx core y) i ((s.core core).binding i num) y (s.pen pn).conf
      exact ⟨st, sys, iter, entry, spaceid, wb0, wb1, home, stack, args, extents, others⟩
  · rw [exec_stepRetire, stepRetire_unbegun bound oldest left]
  · obtain ⟨c, sheds, ctxs, bind, retires⟩ := stepRetire_retires bound oldest noStop begun past served
    rw [exec_stepRetire, retires]
    refine ⟨_, rfl, rfl, sameCtxs_setCore s core ctxs, ?_, rfl⟩
    exact (congrArg Core.bind ((State.core_setCore s core core c).trans (if_pos rfl)) :).trans bind
  · rw [exec_instanceComplete, instanceComplete_waits inst h]
  · rw [exec_instanceComplete, instanceComplete_runs inst formed unserved open_ left]
  · intro here way formed unserved open_ all free stands impure unrecorded
    obtain ⟨ends, unbound⟩ := foldl_unbindAt i.num (s.cores.map Prod.fst) (s.intr pen i.intr i.num)
    have message := intr_eq s pen i.intr i.num
    have ex : exec (.instanceComplete pen i.num) s =
        .next (((s.cores.map Prod.fst).foldl (State.unbindAt i.num) (s.intr pen i.intr i.num)).dropInst i.num) := by
      rw [exec_instanceComplete, instanceComplete_ends inst here way formed unserved open_ all free stands impure unrecorded, unbindAll_eq, message]
    rw [message] at ex ends unbound
    refine ⟨_, ex, (congrArg State.mem ends.1 :), ?_, (congrArg State.msgs ends.1 :), ends.2,
      fun c b listed bound => unbound c (.inl listed) b bound⟩
    exact List.find?_eq_none.2 fun j hj => by simpa using (List.mem_filter.1 hj).2
  · intro age
    rw [exec_priorityAgeing, priorityAgeing, inst]
    refine ⟨fun h => congrArg _ (if_pos ?_),
      fun on head free old => ⟨_, congrArg _ (if_neg ?_), rfl, find_modInst _ (fun _ => rfl) inst⟩,
      fun on hp reached is => ?_⟩
    · exact .inr (by simpa [age] using h)
    · have wait : ¬s.tick < i.since + 2 ^ (age + 10) := Nat.not_lt.2 old
      simp [here, on, free, wait, age, Option.isSome_iff_ne_none.1 head]
    · have staged : (s.unstage 81).inst? (value % 2 ^ 32) = some i := is ▸ inst
      have takes : priosetWrite pen value (s.unstage 81) = (s.unstage 81).modInst (value % 2 ^ 32) (fun i => { i with prio := field value 32 3 }) :=
        if_pos (by rw [staged]; simp [here])
      rw [exec_priosetWrite on hp reached, takes]
      exact ⟨_, rfl, rfl, is ▸ find_modInst _ (fun _ => rfl) staged⟩
  · have staged : (s.unstage 81).inst? (value % 2 ^ 32) = Option.none := none
    rw [exec_priosetWrite on hp reached]
    exact congrArg _ (if_neg (by rw [staged]; simp))

end Sys2Proof.Machine
